-- ==== Sys2Proof/Word.lean ====
section
/-! DEFINITION. The words of the Parvon GW8: bytes, 32-bit and 64-bit words, and the closed sets of
names that the manual numbers (formats of R44, rounding modes of R57). -/

namespace Sys2Proof

/-- One byte of memory or of a message. -/
abbrev Byte := BitVec 8

/-- A 32-bit register word (R438). -/
abbrev Word := BitVec 32

/-- A 64-bit word: scalar registers, page table entries, `SEQ` (R201, R273, R292). -/
abbrev DWord := BitVec 64

/-- One 64-byte unit of a command or one descriptor slot of a ring (R281, R269), byte 0 first. -/
abbrev Unit64 := List Byte

/-- The element formats of R44, codes 0x01 to 0x0A in this order. -/
inductive Fmt where
  | bf16 | fp32 | e4m3 | e5m2 | int8 | int4g32 | int32 | uint8 | fp16 | bool8
  deriving DecidableEq, Repr

/-- The rounding modes of R57 (3 is reserved). -/
inductive Rnd where
  | rne | rtz | sr
  deriving DecidableEq, Repr

end Sys2Proof
end

