-- ==== Sys2Proof/Syntax.lean ====
section
/-! DEFINITION. The commands of the Parvon GW8: one constructor per row of spec/opcode_table.json,
with what the outside gives the block at that step as its operands. -/

namespace Sys2Proof

/-- Where an `ABORT`, `FLUSH`, `QUERY` or `QUERY_PLAN` comes from: a context opened by the ring
(R275) or a SEND on a control QP, with its descriptors (R267). -/
inductive ReqSrc where
  | ctx (n : Nat)
  | send (conn : Nat) (descs : List Unit64)
  deriving DecidableEq, Repr

/-- A CM REQ on a front-end port (R263, R264, R374): `supported` is false when the peer asks for a feature outside R262
or a smaller MTU; `port` and `addr` are the port and the front-end address that it comes to; `dataOf` is the connection that a
data QP's REQ names; `priv` is the private data of a control QP's. -/
structure CmReq where
  supported : Bool
  port : Nat
  addr : Nat
  dataOf : Option Nat
  priv : List Byte
  deriving DecidableEq, Repr

/-- Source of an MMP message (R411): UDP (address and port as one number) or MCTP (endpoint id). -/
inductive MmpSrc where
  | udp (addrPort : Nat)
  | mctp (eid : Nat)
  deriving DecidableEq, Repr

/-- A power island or gate of R33. -/
inductive Island where
  | aon
  | hub
  | service (tile : Nat)
  | compute (tile : Nat)
  | site (s : Nat)
  | stack (tile : Nat)
  | capMem
  deriving DecidableEq, Repr

/-- A control-plane message (R380): the page that sends it, and its place in the sender's order. -/
structure MsgId where
  sender : Nat
  seq : Nat
  deriving DecidableEq, Repr

/-- A line of a partition whose error symbols were corrected (R195): its address, and for each die that erred the number of
bad symbols. -/
structure LineErr where
  line : Nat
  dies : List (Nat × Nat)
  deriving DecidableEq, Repr

/-- What the far end of a fabric link reports at training (R341): lanes that came up, coordinates
and extents. -/
structure FarEnd where
  lanes : Nat
  coord : Nat × Nat × Nat
  extents : Nat × Nat × Nat
  deriving DecidableEq, Repr

/-- What the boot steps find (R431 to R434): which slots verify, how often each step fails, sites that
fail self-test, whether the twin answers, its serial and the one that its record names, ms to READY. -/
structure BootReport where
  slotAVerifies : Bool
  slotBVerifies : Bool
  stepFailures : List Nat
  failedSites : List Nat
  twinAnswers : Bool
  twinSerial : DWord
  twinNames : DWord
  twinRole : Nat
  twinMode : Nat
  twinMirrorMin : Nat
  twinMirrorMax : Nat
  twinWasRunning : Bool
  readyMs : Nat
  deriving DecidableEq, Repr

/-- What the twin says of itself when the link returns (R360, R370, R375, R432): its serial, the serial that its record names,
its role and mode, its mirror epoch, whether a resync read of its own is under way, whether it returns from a reset or repair
with nothing (R376), and its image's range of mirror protocols. -/
structure TwinHello where
  serial : DWord
  names : DWord
  role : Nat
  mode : Nat
  epoch : Nat
  reading : Bool
  returned : Bool
  mirrorMin : Nat
  mirrorMax : Nat
  deriving DecidableEq, Repr

/-- One tick's measurements for the tide governor (R402): mean power in tenths of a watt, junction temperature per tile and
of the hub in tenths of a degree. -/
structure PowerSample where
  powerDw : Nat
  tjDc : List Nat
  hubTjDc : Nat
  deriving DecidableEq, Repr

/-- The geometry of a coded picture (R318, R322, R324): the largest size its sequence codes, its own coded size, the window
it is cropped to, its samples, `sps_max_dec_pic_buffering` and the size of its coding tree units. -/
structure PicGeom where
  seqW : Nat
  seqH : Nat
  codedW : Nat
  codedH : Nat
  cropX : Nat
  cropY : Nat
  width : Nat
  height : Nat
  tenBit : Bool
  fullRange : Bool
  dpb : Nat
  ctuLog2 : Nat
  deriving DecidableEq, Repr

/-- What engine and firmware find in one coded picture (R318 to R330): the outside standards H.265 and AV1
fix it, so the command brings it (log 11). Samples are those of the coded picture before cropping, rows first;
`concealed` lists the coding tree units in error, in raster order. The decoded picture buffer holds pictures by key: their
`PicOrderCntVal` in HEVC, the reference slots 0 to 7 in AV1. `refs` are the keys of the picture's references, `keep` those that
its HEVC reference picture set keeps, `store` those that the picture enters under, `existing` that of the frame which an AV1
`show_existing_frame` names (R324), `displayIdx` its place in display order: `PicOrderCntVal`, or the AV1 order hint. -/
structure Picture where
  headerOk : Bool
  inLimits : Bool
  keyed : Bool
  newSequence : Bool
  shown : Bool
  existing : Option Int
  geom : PicGeom
  luma : List Nat
  cb : List Nat
  cr : List Nat
  concealed : List Nat
  refs : List Int
  keep : List Int
  store : List Int
  grain : Bool
  displayIdx : Int
  bytesUsed : Nat
  boundsHits : Nat
  runUs : Nat
  deriving DecidableEq, Repr

/-- The bitstreams of one composited frame, which the outside standards fix (log 11): its bytes by the QP of every coding
unit (R335, R336), and the frame QP that the rate control of CBR and VBR asks for. -/
structure Coded where
  codings : List (List Nat × List Byte)
  frameQp : Nat
  deriving DecidableEq, Repr

/-- One open orbit (R295): passes, counter, unit offset of its body. -/
structure Orbit where
  n : Nat
  c : Nat
  body : Nat
  deriving DecidableEq, Repr

/-- A call (R299): where to return to, and the orbits open then. -/
structure Frame where
  graph : Nat
  ver : Nat
  unit : Nat
  depth : Nat
  deriving DecidableEq, Repr

/-- Event counts (R289): issued commands that signal the event, and those that have completed. -/
structure EvCount where
  ev : Nat
  issued : Nat
  completed : Nat
  deriving DecidableEq, Repr

/-- The control snapshot of a checkpoint (R365), with the information codes noted so far (R236). -/
structure Snapshot where
  graph : Nat
  ver : Nat
  unit : Nat
  calls : List Frame
  orbits : List Orbit
  sregs : List DWord
  preds : List Bool
  events : List EvCount
  info : BitVec 8
  deriving DecidableEq, Repr

/-- A request context table entry as mirrored (R363). -/
structure MirCtx where
  num : Nat
  conn : Nat
  reqId : Nat
  typ : Nat
  notify : Bool
  mirror : Bool
  state : Nat
  descs : List Unit64
  graph : Nat
  ver : Nat
  inst : Nat
  sregs : List DWord
  preds : List Bool
  orbits : List Orbit
  deriving DecidableEq, Repr

namespace Machine

/-- A declared range (R207 to R209, R272): kind 0 WEIGHT, 1 WORK, 2 SEQ, 3 CAPACITY. -/
structure Range where
  base : Nat
  len : Nat
  kind : Nat
  deriving DecidableEq, Repr

/-- A WEIGHT tensor of a manifest (R212, R213, R272). -/
structure Tensor where
  va : Nat
  bytes : Nat
  srcOff : Nat
  hint : Nat
  spilled : Bool
  crc : Word
  deriving DecidableEq, Repr

/-- A resident model (R212, R272); `planOpen` from a load that spilled until the operator acknowledges ATTN `PLAN`. -/
structure Model where
  id : Nat
  ranges : List Range
  tensors : List Tensor
  spilledBytes : Nat
  workReserved : Nat
  planOpen : Bool
  deriving DecidableEq, Repr

/-- A parameter slot of a graph (R309, R312). -/
structure Slot where
  va : Nat
  bytes : Nat
  dir : Nat
  deriving DecidableEq, Repr

/-- One live version of a graph (R308, R309, R313): its number (below 2^32, above it the count of earlier
graphs deleted under the id), its segments and the version that brought each segment's page. -/
structure Version where
  num : Nat
  segs : List (List Unit64)
  origin : List Nat
  slots : List Slot
  instances : Nat
  instReg : Nat
  instStride : Nat
  deriving DecidableEq, Repr

/-- A stored graph (R308, R311 to R316): live versions and the current one. -/
structure Graph where
  id : Nat
  model : Nat
  deleted : Bool
  cur : Nat
  versions : List Version
  deriving DecidableEq, Repr

end Machine

/-- A mirrored update as it crosses the twin link (R363); of a full copy (R375, R376) a model with its weight image, a graph
with its versions, and the ids of all models and graphs that the copy holds. -/
inductive Mirror where
  | context (c : MirCtx)
  | contextClosed (num : Nat)
  | ring (conn head expected sqTail cqHead nextSeq : Nat)
  | ringClosed (conn : Nat)
  | record (conn seq : Nat) (notify : Bool) (bytes : List Byte)
  | input (num va : Nat) (bytes : List Byte)
  | image (num va : Nat) (bytes : List Byte)
  | snapshot (num : Nat) (snap : Snapshot)
  | model (op modelId : Nat) (manifest weights : List Byte)
  | graph (graphId modelId : Nat) (image : List Byte)
  | patch (graphId : Nat) (image : List Byte)
  | modelCopy (m : Machine.Model) (weights : List Byte)
  | graphCopy (g : Machine.Graph)
  | copyEnd (models graphs : List Nat)
  deriving DecidableEq, Repr

/-- One wear prediction of a unit (R400): kind and index as `WEAR_UNIT`, lower and upper bound in days,
history in days. -/
structure WearUnit where
  kind : Nat
  index : Nat
  lo : Nat
  hi : Nat
  historyDays : Nat
  deriving DecidableEq, Repr

/-- The commands, in the table's order. `go` brings, for each rank in order, the bytes that rank sends this
member (its packed input; its block or rows for an all-to-all), and the chunks in which an adder's residue
check fails, once for each failure (R350). -/
inductive Instr where
  | matmul (cmd : Nat)
  | conv (cmd : Nat)
  | pool (cmd : Nat)
  | attnFwd (cmd : Nat)
  | attnBwd (cmd : Nat)
  | norm (cmd : Nat)
  | softmax (cmd : Nat)
  | vecChain (cmd : Nat)
  | sampleStep (cmd : Nat)
  | rngFill (cmd : Nat)
  | sampleTokens (cmd : Nat)
  | boxDecode (cmd : Nat)
  | nms (cmd : Nat)
  | kvScatter (cmd : Nat)
  | fork (cmd : Nat)
  | release (cmd : Nat)
  | copy (cmd : Nat)
  | gatherRows (cmd : Nat)
  | allReduce (cmd : Nat)
  | reduceScatter (cmd : Nat)
  | allGather (cmd : Nat)
  | allToAll (cmd : Nat)
  | broadcast (cmd : Nat)
  | barrier (cmd : Nat)
  | codecDec (cmd : Nat) (pic : Picture)
  | codecEnc (cmd : Nat) (coded : Coded)
  | nop (ctx : Nat)
  | orbitBegin (ctx : Nat)
  | orbitEnd (ctx : Nat)
  | setPred (ctx : Nat)
  | jumpIf (ctx : Nat)
  | waitEvent (ctx : Nat)
  | signalEvent (ctx : Nat)
  | callGraph (ctx : Nat)
  | ret (ctx : Nat)
  | prefetch (ctx : Nat)
  | fence (ctx : Nat)
  | scalarOp (ctx : Nat)
  | timestamp (ctx : Nat)
  | commandIssue (ctx : Nat)
  | partCommit (cmd cluster : Nat)
  | tileDispatch (site : Nat)
  | tileComplete (site valid starve block : Nat)
  | partComplete (cmd cluster : Nat)
  | commandComplete (cmd : Nat)
  | checkpointCommit (ctx : Nat)
  | runGraph (ctx : Nat)
  | inputsPlaced (ctx : Nat) (data : List (List Byte))
  | graphEnd (ctx : Nat)
  | outputsAcknowledged (ctx : Nat)
  | instanceAcquire (ctx : Nat)
  | loadModel (ctx : Nat) (manifest weights : List Byte)
  | unloadModel (ctx : Nat)
  | storeGraph (ctx : Nat) (image : List Byte)
  | patchGraph (ctx : Nat) (image : List Byte)
  | abort (src : ReqSrc)
  | flush (src : ReqSrc)
  | queryPlan (src : ReqSrc)
  | query (src : ReqSrc)
  | doorbell (conn : Nat) (slots : List (Nat × Unit64)) (sqTail cqHead : Option Nat)
  | itemConsume (conn : Nat)
  | connectionSetup (req : CmReq)
  | resume (req : CmReq)
  | connectionClose (conn : Nat)
  | unattachedConnectionExpiry (conn : Nat)
  | copyComplete (cmd va : Nat)
  | workPageMapped (cmd va : Nat)
  | walkComplete (tlb va : Nat) (write : Bool)
  | stagingCopyComplete (cmd : Nat)
  | poolPageZeroFill (page : Nat)
  | scrub (partition : Nat) (corrected : List LineErr) (uncorrectable : List Nat) (marginPct : Nat)
  | dieMarkedFailed (partition die : Nat)
  | reductionSlotGrant (cmd : Nat)
  | codecEngineStart (encode : Bool)
  | ctuBudgetExpiry (engine : Nat)
  | frameBudgetExpiry (engine : Nat)
  | frameBoundary (cmd : Nat)
  | holdDeadline (cmd layer : Nat)
  | digest (group tag rank : Nat) (value : DWord)
  | go (group tag : Nat) (inputs : List (List Byte)) (residue : List Nat)
  | mismatch (group tag : Nat)
  | abandon (group tag : Nat)
  | handshakeTimeout (group tag : Nat)
  | dataTimeout (group tag : Nat)
  | collectiveAbort (group tag code : Nat)
  | frameCrcError (link frame : Nat)
  | linkTraining (link : Nat) (far : FarEnd)
  | aliasAnnouncement (failed survivor : Nat)
  | heartbeat
  | linkLoss
  | sidebandLoss
  | restoreComplete (ctx : Nat)
  | addressConflict (addr : Nat)
  | yieldMsg
  | linkReturn (twin : TwinHello)
  | resyncReadRetry
  | addressHandBack (addr : Nat)
  | immediateEclipse (site type : Nat)
  | eclipseWritesDelivered (site : Nat)
  | tileTimeLimit (site : Nat)
  | lsmErrorLimit (site : Nat)
  | gracefulEclipse (site : Nat)
  | fatalError (island : Island) (type : Nat)
  | messageParityError (page : Nat) (sender : MsgId)
  | islandReturn (island : Island) (selfTestOk : Bool)
  | quiesceComplete (page : Nat)
  | quiesceTimeout (site : Nat)
  | wakeComplete (island : Island) (ok : Bool)
  | park (tile : Nat)
  | pllLockLoss (bit : Nat)
  | tideGovernorTick (sample : PowerSample)
  | avsCurrentRead (rail : Nat) (ok : Bool) (currentMa : Nat)
  | thermtrip
  | telemetryThreshold (k : Nat)
  | shadowRefresh (silent : List Nat)
  | sealCheck (closed : Bool)
  | presenceWindowOpen
  | presenceWindowExpiry
  | labJmpChange (fitted : Bool)
  | logEntryClose (domain : Nat)
  | ringOscillatorMeasure (site ppm : Nat)
  | eyeMarginMeasure (lane height width : Nat)
  | wearPrediction (units : List WearUnit)
  | hourCounterSave
  | readReg (src : MmpSrc) (msg : List Byte)
  | writeReg (src : MmpSrc) (msg : List Byte)
  | readTelemetry (src : MmpSrc) (msg : List Byte)
  | readLog (src : MmpSrc) (msg : List Byte)
  | ackAttn (src : MmpSrc) (msg : List Byte)
  | resetIsland (src : MmpSrc) (msg : List Byte)
  | forceTakeover (src : MmpSrc) (msg : List Byte)
  | stageData (src : MmpSrc) (msg : List Byte)
  | stageFinish (src : MmpSrc) (msg : List Byte)
  | discardStaged (src : MmpSrc) (msg : List Byte)
  | stageFirmware (src : MmpSrc) (msg : List Byte)
  | eraseComplete
  | verificationComplete (signatureOk : Bool)
  | commitFirmware (src : MmpSrc) (msg : List Byte)
  | pairTwin (src : MmpSrc) (msg : List Byte)
  | unpair (src : MmpSrc) (msg : List Byte)
  | programFuses (src : MmpSrc) (msg : List Byte)
  | freezeCapture (src : MmpSrc) (msg : List Byte)
  | captureWritten
  | clearPresenceRecord (src : MmpSrc) (msg : List Byte)
  | coreArrCtrClear (site : Nat)
  | coreArrCtrFreeze (site : Nat) (value : Bool)
  | pgCtrlEnable (page : Nat) (value : Bool)
  | quiesceReq (page : Nat) (value : Bool)
  | softReset (page : Nat)
  | eclipse (page : Nat)
  | pgEventClear (page : Nat) (value : Word)
  | atuPoolCfgWrite (value : Word)
  | freTorusCfgWrite (value : Word)
  | lowWordRead (requester page offset : Nat)
  | registerWrite (page offset : Nat) (value : Word)
  | coldBoot (report : BootReport)
  | twinHandshakeTimeout
  | porstN
  | warmrstN (lowNs : Nat)
  | mirrorUpdate (seq : Nat) (update : Mirror)
  | mirrorAcknowledgement (seq : Nat)
  | sidebandReturn
  | laneLoss (link lanesLost : Nat)
  | aliasRemoval (failed : Nat)
  | mmpMalformed (src : MmpSrc) (msg : List Byte)
  | managementPortFrame (kind : Nat)
  | presenceBtnRelease
  | replyCacheExpiry (src : MmpSrc) (tag : Nat)
  | wearHourCount (tjDc : List Nat)
  | warmBootStart (report : BootReport)
  | remoteAccessNak (conn reason : Nat)
  | cnpReceived (conn qp : Nat)
  deriving DecidableEq, Repr

end Sys2Proof
end

