-- ==== Sys2Proof/Decode.lean ====
section
/-! DEFINITION. Words that spell a command. The table gives no row any bits: commands reach this block as
messages, packets, pins and internal events, not as words. So no word spells one. -/

namespace Sys2Proof

/-- The command that the low `nbits` bits of `w` spell by the table's bits: none, since no row has bits. -/
def decodeTableWord (_nbits _w : Nat) : Option Instr := none

end Sys2Proof
end

