-- ==== Sys2Proof/Config.lean ====
section
/-! DEFINITION. What the manual leaves open: opaque constants with no body. Nothing in Lean can
evaluate them, so a statement holds whatever they are. Each is named in the assumption log. -/

namespace Sys2Proof

/-- A 16-bit rounding-class draw (R58, R250, R251: not published). Indexed by the free counter. Log 8. -/
opaque Config.srDraw : Nat → Nat

/-- A fresh free number for any other open value; reduced by its user to the width it needs. Log 8. -/
opaque Config.free : Nat → Nat

/-- The table part of tanh on |x| (R151, R152): fp32 bits from fp32 bits. Log 9. -/
opaque Config.tanhTable : Nat → Nat
/-- The table part of the logistic function (R151, R152). Log 9. -/
opaque Config.logisticTable : Nat → Nat
/-- exp2 of the RSU (R154). Log 9. -/
opaque Config.exp2Table : Nat → Nat
/-- log2 of the RSU (R154). Log 9. -/
opaque Config.log2Table : Nat → Nat
/-- recip of the RSU (R154). Log 9. -/
opaque Config.recipTable : Nat → Nat
/-- rsqrt of the RSU (R154). Log 9. -/
opaque Config.rsqrtTable : Nat → Nat

/-- Coefficients c0, c1, c2 of the normal (0), Gumbel lower (1) and Gumbel upper (2) tables, as fp32
bits: table, segment, coefficient (R246 to R248, R260). Log 10. -/
opaque Config.coef : Nat → Nat → Nat → Word

/-- Where the table lies that an entry points to (R200, R204: not published), by level and index. Log 13. -/
opaque Config.tableAt : Nat → Nat → Nat

/-- Bits [30:0] of the fused rounding polynomial of a site (R103, R249); bit 31 is always 1. Log 8. -/
opaque Config.polyLow : Nat → BitVec 31

/-- `PLAN_KEY` (R126: equal keys denote identical plans; its derivation is not given), a function of what
makes the plan: the record's other bytes, the enabled cores and the frozen cells. Log 16. -/
opaque Config.planKey : List (BitVec 8) → List Nat → List Nat → BitVec 64

end Sys2Proof
end

