-- ==== Sys2Proof/Machine/State.lean ====
section
/-! DEFINITION. The state of the Parvon GW8: plain data, everything the manual gives the block, and
the queue of waiting commands. INVENTORY.md lists each piece with its rule. Tables of many like
things (sites, partitions, pages, clusters) are lists keyed by number; a number that is not listed
holds the reset record. -/

namespace Sys2Proof.Machine

/-- No command stops this block: every error it can meet is a RESULT, an ATTN condition, a log entry or
an island reset (R278, R279, R378). So there is no fault. -/
inductive Fault where
  deriving DecidableEq, Repr

/-- Refusals of a step. -/
inductive Refusal where
  /-- Raised by an arm of `exec` for a command without a meaning; none is left (safe). -/
  | notModelled (mnemonic : String)
  deriving DecidableEq, Repr

/-- RESULT codes (R279, R302 of 15, R316, R381, R419). `Res.code` gives the numbers. -/
inductive Res where
  | ok | okEmptyResult | okSpilledPlan | okDroppedOverflow | okEarlyExit | okSettled | okReplayed
  | badDescriptor | badShape | unsupportedFormat | noResources | modelTooLarge | graphVersionLimit
  | ringResync | queueFlushed | aborted | pinnedWrite | versionConflict
  | collectiveMismatch | reduceCheck | fabricTimeout
  | twinLostNotMirrored | domainOff | mirrorAreaFull | twinPrimaryUnreachable
  | memoryUncorrected | replayFailed | badAddress | translationFault | writeProtected | islandReset
  | codecConcealed | codecFrameAborted
  | presenceRequired | sealedLocked | writeDenied | imageRejected | mmpMalformed | busy | notPaired
  | stageState
  deriving DecidableEq, Repr

/-- `PG_STATE.STATE` (R446). -/
inductive PState where
  | off | quiescing | on | retention | eclipsed | test
  deriving DecidableEq, Repr

/-- State of an island: power state and epoch (R386, R446). -/
structure Isl where
  state : PState
  epoch : BitVec 16
  deriving DecidableEq, Repr

/-- A 48-bit counter with its sticky SAT bit (R102, R395). -/
structure Ctr48 where
  count : Nat
  sat : Bool
  deriving DecidableEq, Repr

/-- Context states (R302). -/
inductive CtxState where
  | queued | input | running | output | closing
  deriving DecidableEq, Repr

/-- The context's active settle map (R233): its address and the latent it measures. -/
structure SettleRef where
  va : Nat
  h : Nat
  w : Nat
  patchLog2 : Nat
  deriving DecidableEq, Repr

/-- A request context (R268, R292, R302); `inFull` from a restore to the end of its first resumed orbit, `fullStep` once that orbit's step
has completed (R237), `resent` once its state has crossed in a new mirror epoch (R367), `kept` the copies of R224 by partition and line, `toRead` the READs not yet issued (data QP, rkey, address, bytes) and `reads` the data
QPs of those outstanding (R277). -/
structure Ctx where
  num : Nat
  conn : Nat
  reqId : Nat
  typ : Nat
  state : CtxState
  notify : Bool
  mirror : Bool
  descs : List Unit64
  graph : Nat
  ver : Nat
  inst : Nat
  sregs : List DWord
  preds : List Bool
  orbits : List Orbit
  calls : List Frame
  pins : List (Nat × Nat)
  pcGraph : Nat
  pcVer : Nat
  pc : Nat
  events : List EvCount
  lateSignals : List (Nat × List Nat)
  progress : Nat × Nat
  info : BitVec 8
  failure : Option Res
  detail : DWord
  issuing : Bool
  settle : Option SettleRef
  inFull : Bool
  fullStep : Bool
  kept : List (Nat × Nat)
  planKeys : List DWord
  toRead : List (Nat × Nat × Nat × Nat)
  reads : List Nat
  reading : Bool
  taken : Bool
  ckptCmd : Option Nat
  ckptImages : List (Nat × Nat)
  sentImages : List (Nat × Nat)
  ckptPending : Option Snapshot
  ckptDone : Option Snapshot
  stale : Bool
  resent : Bool
  asTwin : Bool
  consumedNs : Nat
  startNs : Nat
  outNs : Nat
  deriving DecidableEq, Repr

/-- Where a part of a command stands (R304 to R307): sent, accepted by its CSQ, dispatching, collected. -/
inductive PartPhase where
  | sent | accepted | started | collected
  deriving DecidableEq, Repr

/-- One part of an operator command (R304), under the epoch of the HUB that sent it (R387). -/
structure Part where
  cluster : Nat
  epoch : BitVec 16
  phase : PartPhase
  deriving DecidableEq, Repr

/-- A stretch of the unit order of one logical core (R122): the next unit and the end. -/
structure Run where
  lcore : Nat
  next : Nat
  stop : Nat
  deriving DecidableEq, Repr

/-- Where a collective stands (R351). -/
inductive CollPhase where
  | waitingKey | handshake | wantSlots | moving | finished
  deriving DecidableEq, Repr

/-- The handshake and slots of a collective command (R343 to R351). -/
structure Coll where
  group : Nat
  tag : Nat
  rank : Nat
  p : Nat
  digest : DWord
  localCheck : Option Res
  phase : CollPhase
  slots : Nat
  asTwin : Bool
  inputs : List (List Byte)
  residue : List Nat
  deriving DecidableEq, Repr

/-- The codec side of a command (R328, R333, R338): engine, guard that fired, layers late at the boundary,
those of them still held and those that became ready under HOLD. -/
structure CodecRun where
  engine : Option Nat
  abortReason : Nat
  sampled : Bool
  late : List Nat
  holding : List Nat
  ready : List Nat
  boundaryNs : Nat
  holdEndNs : Nat
  deriving DecidableEq, Repr

/-- A unit of a plan (R122): its place, what the cost rules need of it, and its chunks of slots per row. -/
structure WorkUnit where
  b : Nat
  r : Nat
  c : Nat
  cn : Nat
  part : Nat
  tiles : Nat
  rows : Nat
  cycles : Nat
  block : Nat × Nat
  pru : Nat
  deriving DecidableEq, Repr

/-- An issued command in flight (R288 to R290, R304): `cores` are the enabled cores and `work` the units its plan was
made of (R122, R124), `outs` the output bytes its tiles write, by place (R73), and `replays` what they write when they run
again with other rounding draws (R59), `was` the bytes that its writes replaced (R70), `stagedData` its staging buffer by address (R213). -/
structure Cmd where
  id : Nat
  ctx : Nat
  graph : Nat
  unit : Nat
  units : List Unit64
  mask : List Nat
  cores : Option (List Nat)
  sregs : List DWord
  orbitCtrs : List Nat
  signal : Nat
  frozen : List Nat
  settleRef : Option SettleRef
  inFull : Bool
  settleOut : Option SettleRef
  images : List (Nat × Nat)
  result : Option Res
  replayed : Bool
  parts : List Part
  runs : List Run
  redo : List (Nat × Nat)
  work : List WorkUnit
  outs : List ((Nat × Nat × Nat) × List (Nat × Byte))
  replays : List (List ((Nat × Nat × Nat) × List (Nat × Byte)))
  was : List (Nat × Byte)
  faults : List (Nat × Nat)
  predCycles : Nat
  coll : Option Coll
  codec : Option CodecRun
  needsStaging : Bool
  staged : Bool
  stagedData : List (Nat × Byte)
  issuedNs : Nat
  deriving DecidableEq, Repr

/-- A write held by a fault to the TCC or a control core: first write to a WORK page (R210) or a
copy-on-write fault (R188) of the physical page `lock`; `newPa` is the page taken for the copy, 0 while another fault has the
page's lock (R189). -/
structure Held where
  cmd : Nat
  page : Nat
  cow : Bool
  lock : Nat
  newPa : Nat
  writes : List (Nat × Byte)
  deriving DecidableEq, Repr

/-- A slot of the matrix array (R75); `data` numbers the free values that its 128 bytes of data are (log 9). -/
structure ASlot where
  valid : Bool
  row : Nat
  bank : Nat
  slice : Nat
  first : Bool
  last : Bool
  pair : Bool
  lanes : Nat
  data : Nat
  deriving DecidableEq, Repr

/-- A full set of weight slices: command, batch entry, column tile, K part, chunk (R78). -/
abbrev SliceSet := Nat × Nat × Nat × Nat × Nat

/-- An accumulator bank (R79): its state, and the number of the free values that its 256 × 32 entries hold (log 9). -/
structure Bank where
  state : Nat
  acc : Nat
  deriving DecidableEq, Repr

/-- A weight-slice buffer of the columns (R78): the complete set it holds, if any, and the number of the free values that
its 32 slices hold (log 9). -/
structure SliceBuf where
  set : Option SliceSet
  data : Nat
  deriving DecidableEq, Repr

/-- The matrix array of a core (R75 to R80, R100): the two banks, the two slice buffers, the bank and buffer its tile
begins with, slots of the assigned unit issued and in all, and the slot that entered last. -/
structure Arr where
  banks : List Bank
  slices : List SliceBuf
  bank : Nat
  buf : Nat
  issued : Nat
  total : Nat
  slot : Option ASlot
  deriving DecidableEq, Repr

/-- A page table entry, leaf or pointer (R200 to R202): table level, index VA >> 39, 30, 21 or 16, and the word. -/
structure Pte where
  level : Nat
  idx : Nat
  word : DWord
  deriving DecidableEq, Repr

/-- The column "Reachable from" of R37: a core or its CDMA, an NBU, a hub block, a control core. -/
inductive Issuer where
  | core | nbu | hub | control
  deriving DecidableEq, Repr

/-- The access in progress: who issues it (R37), the TLBs it looks up (R203), the bytes it reads in place of memory's on a
first and on a later read (a staging buffer's, R213; those that its command's own writes race for, R70), the generators
its stochastic rounding draws from (sites, or 256 above a partition; R250), and what cores write of a near-bank command
(R228). -/
structure View where
  issuer : Issuer
  tlbs : List Nat
  race : List (Nat × Byte)
  again : List (Nat × Byte)
  gens : List Nat
  byCores : List (Nat × Nat)
  deriving DecidableEq, Repr

/-- A core site (R15, R80, R97 to R103, R250, R382 to R385, R401). -/
structure Site where
  isl : Isl
  lcore : Option Nat
  tile : Option (Nat × Nat)
  fenced : Bool
  abandoned : Option (Nat × Nat)
  resetting : Bool
  valid : Ctr48
  starve : Ctr48
  block : Ctr48
  freeze : Bool
  cfg : Word
  arr : Arr
  lfsr : Word
  graceful : Bool
  ringPpm : Nat
  poweredHours : BitVec 32
  hotHours : BitVec 32
  savedHours : BitVec 32 × BitVec 32
  deriving DecidableEq, Repr

/-- A stacked-memory partition (R195, R196, R249, R399, R459); `dieLines` are the lines on which each die produced
corrected errors, with their times. -/
structure Partition where
  lfsr : Word
  dieLines : List (Nat × Nat × Nat)
  dieFailed : BitVec 10
  scrubPercent : Nat
  lastPassH : Nat
  marginPct : Nat
  deriving DecidableEq, Repr

/-- A cluster sequencer (R304 to R307, R457, R458); `csc` are the 128 B lines its cache holds, the newest first (R194). -/
structure Cluster where
  map : List Nat
  present : List Bool
  moonFree : Bool
  credits : Nat
  queue : List Nat
  collector : List Nat
  csc : List Nat
  deriving DecidableEq, Repr

/-- The common header of a page (R442 to R450), `PG_IDENT`, `PG_CAPS` and `PG_STATE` apart, which
follow from the page and its island; `recent` are the times of its structure's corrected errors of the last 24 h (R399). -/
structure PageHdr where
  enable : Bool
  quiesce : Bool
  softReset : Bool
  eclipse : Bool
  event : BitVec 13
  evmask : BitVec 13
  attn : Word
  corrected : BitVec 16
  recent : List Nat
  uncorrected : BitVec 16
  first : DWord
  last : DWord
  locked : Bool
  deriving DecidableEq, Repr

/-- An error log entry (R391). -/
structure LogEntry where
  firstNs : Nat
  lastNs : Nat
  source : Nat
  cls : Nat
  typ : Nat
  rep : Nat
  result : Nat
  detail : Nat
  deriving DecidableEq, Repr

/-- The log of one domain (R391 to R393): its slots, the dropped count and the open slots. -/
structure Log where
  slots : List LogEntry
  dropped : Nat
  opened : List Nat
  deriving DecidableEq, Repr

/-- A hold of `PATCH_GRAPH` (R316): the patching context, graph, and the model when it has writes. -/
structure Hold where
  ctx : Nat
  graph : Nat
  wholeModel : Option Nat
  deriving DecidableEq, Repr

/-- A completion record that waits for the twin (R364) or is held for a lost connection (R372, R374), whether
a notification follows it, and the context it closes. -/
structure HeldRec where
  seq : Nat
  bytes : List Byte
  notify : Bool
  ctx : Option Nat
  deriving DecidableEq, Repr

/-- A completion that waits for room in the completion ring (R268, R302): `res`, `info`, times in µs and
`detail` of its record (R273). -/
structure OutRec where
  ctx : Option Nat
  reqId : Nat
  typ : Nat
  notify : Bool
  res : Res
  info : BitVec 8
  queueUs : Nat
  runUs : Nat
  detail : DWord
  deriving DecidableEq, Repr

/-- A connection (R263 to R268, R275, R374): `addr` is the front-end address that it uses, `joined` counts its data QPs that have joined, `sends` are the SENDs in its
receive buffers (R267). -/
structure Conn where
  id : Nat
  port : Nat
  addr : Nat
  joined : Nat
  sqVa : Nat
  dbVa : Nat
  sqRkey : Nat
  sqSlots : Nat
  dataQps : Nat
  cqRecords : Nat
  cqVa : Nat
  cqRkey : Nat
  ring : List (Nat × Unit64)
  sqTail : Nat
  head : Nat
  cqHead : Nat
  nextSeq : Nat
  expected : Nat
  ignoredTail : Nat
  ignoredHead : Nat
  attached : Bool
  mirroredPeer : Bool
  outq : List OutRec
  held : List HeldRec
  sends : List (List Unit64)
  rateLimited : List Nat
  deriving DecidableEq, Repr

/-- A fabric link and its lanes that work (R340, R341, R358); entry 6 of the list is the twin link, of which only the replays
are kept. -/
structure Link where
  lanes : Nat
  state : Nat
  bad : Bool
  replays : Nat
  lastFrame : Nat
  deriving DecidableEq, Repr

/-- A digest at rank 0 (R351). -/
structure DigestRec where
  group : Nat
  tag : Nat
  rank : Nat
  value : DWord
  deriving DecidableEq, Repr

/-- The fabric router and reduction engine (R340 to R358). -/
structure Fre where
  links : List Link
  coordValid : Bool
  torusFlash : Option Word
  torus : Word
  timeout : Word
  residue : Ctr48
  mismatch : Ctr48
  aliases : List (Nat × Nat)
  digests : List DigestRec
  deriving DecidableEq, Repr

/-- The pairing record (R359). -/
structure PairRec where
  role : Nat
  mode : Nat
  ownSerial : DWord
  twinSerial : DWord
  ownCoord : BitVec 15
  twinCoord : BitVec 15
  deriving DecidableEq, Repr

/-- A context of the twin as mirrored here (R363, R365, R372), and the local context that restores it. -/
structure TwinCtx where
  ctx : MirCtx
  inputs : List (Nat × List Byte)
  images : List (Nat × List Byte)
  snap : Option Snapshot
  restoring : Option Nat
  deriving DecidableEq, Repr

/-- A connection of the twin as mirrored here (R363). -/
structure MirConn where
  conn : Nat
  head : Nat
  expected : Nat
  sqTail : Nat
  cqHead : Nat
  nextSeq : Nat
  records : List HeldRec
  deriving DecidableEq, Repr

/-- A local action that waits for the twin's acknowledgement (R364): a row of the table, the writing of a
record, the completion of a model or graph change, or the primary's answer to a forwarded one (R362). A row that opens a
context has its number promised. -/
inductive Await where
  | row (i : Instr) (num : Option Nat)
  | record (conn seq : Nat)
  | finish (ctx : Nat)
  | forward (ctx : Nat) (u : Mirror)
  deriving DecidableEq, Repr

/-- The twin link controller (R359 to R377, R432). `recFlash` is the 64-byte record in boot flash, none when erased. `tstate` is `TLC_PAIR_STATUS.STATE`; `ownAddrs` and `twinAddrs` are the
front-end addresses of both twins; `away` while a returned
twin serves only the addresses handed back to it (R376); `peerEpoch` is the twin's epoch and `promised` the number that a waiting row has for the context it opens; `protocol` is none where the twins' ranges do not overlap. -/
structure Tlc where
  recFlash : Option (List Byte)
  pair : Option PairRec
  tstate : Nat
  linkUp : Bool
  aliveIn : Bool
  epoch : BitVec 32
  hbLate : Ctr48
  ckpt : Ctr48
  lastHbNs : Nat
  stale : Bool
  sendSeq : Nat
  applied : Nat
  awaiting : List (Nat × Await)
  mctxs : List TwinCtx
  mconns : List MirConn
  resyncBusy : Bool
  resyncRefused : Bool
  served : List Nat
  ownAddrs : List Nat
  twinAddrs : List Nat
  handedBack : List Nat
  peerEpoch : Nat
  promised : Option Nat
  protocol : Option Nat
  away : Bool
  aliveOut : Bool
  deriving DecidableEq, Repr

/-- A picture of the decoded picture buffer (R328): its place in display order, geometry, planes before cropping, and whether
it was concealed. -/
structure RefPic where
  display : Int
  geom : PicGeom
  planes : List (List Nat)
  concealed : Bool
  deriving DecidableEq, Repr

/-- What a state buffer holds of a session after one of its frames (R321): `header` is the word in the buffer that stands
for it, `geom` the sequence in force, `pics` the decoded picture buffer by key, `copies` the last layers, `frame` the frame
composited last. -/
structure Session where
  codec : Nat
  encode : Bool
  header : DWord
  frames : Nat
  sinceKey : Nat
  iraps : Nat
  shown : Nat
  t0 : Nat
  geom : PicGeom
  pics : List (Int × RefPic)
  copies : List (Nat × List (List Nat))
  frame : List (List Nat)
  forceKey : Bool
  deriving DecidableEq, Repr

/-- A codec engine and its page's counters (R317, R339). -/
structure Engine where
  busy : Bool
  holding : Bool
  codec : Nat
  cmd : Option Nat
  frames : Ctr48
  conceal : Ctr48
  abort : Ctr48
  boundsHits : Nat
  deriving DecidableEq, Repr

/-- The video codec complex (13). -/
structure Vcc where
  engines : List Engine
  decQueue : List Nat
  encQueue : List Nat
  sessions : List Session
  deriving DecidableEq, Repr

/-- The tide governor and the PWR page (R390, R402 to R405, R468). Frequencies are steps of 50 MHz
above 0.6 GHz; a `cap` is a step of 50 MHz above 0.5 GHz, as low as R402 can put it; `vcur` is each rail's voltage and `vrun` the one for its frequency, from which a parked rail differs (R34); `slowMs` tells for each of the last ticks which tiles ran below their maximum, `idleMs` how long
each tile has had no tile of work; `vcurve` is the part's fused voltage curve in mV, at each step of 50 MHz above 0.6 GHz. -/
structure Pwr where
  limitW : Nat
  throttleC : Nat
  park10 : Nat
  fcur : List Nat
  cap : List Nat
  vcurve : List Nat
  vcur : List Nat
  vrun : List Nat
  tjDc : List Nat
  hubTjDc : Nat
  powerDw : Nat
  tjMaxDc : Nat
  alert : Bool
  throttle : Ctr48
  stale : Ctr48
  avsCurrentMa : List Nat
  avsFails : List Nat
  avsHold : Bool
  avsGood : List Bool
  avsTicks : Nat
  slowMs : List (List Bool)
  idleMs : List Nat
  deriving DecidableEq, Repr

/-- One measured margin of a unit (R399, R400): kind and index as `WEAR_UNIT`, the part's powered time then, and its value. -/
structure Margin where
  kind : Nat
  index : Nat
  ns : Nat
  value : Nat
  deriving DecidableEq, Repr

/-- A prediction and its unit, and the margin histories, which boot flash keeps (R399, R400, R406, R416, R428); `pastNs` is the
powered time of earlier boots. -/
structure Wear where
  devLo : Nat
  devHi : Nat
  limitIndex : Nat
  limitKind : Nat
  units : List WearUnit
  history : List Margin
  pastNs : Nat
  eye : List (Nat × Nat × Nat)
  deriving DecidableEq, Repr

/-- A firmware slot of the boot flash (R428, R429). -/
structure FwSlot where
  verifies : Bool
  secEpoch : Nat
  fwVersion : Nat
  mirrorMin : Nat
  mirrorMax : Nat
  failedBoots : Nat
  deriving DecidableEq, Repr

/-- An entry of the presence record (R422, R426). -/
structure PresEntry where
  ns : Nat
  op : Nat
  transport : Nat
  kind : Nat
  result : Nat
  deriving DecidableEq, Repr

/-- What the return capture holds (R404): logs, predictions and margin histories, hours of each site, eclipses, fuses, boot counter and the
two images. -/
structure Capture where
  logs : List Log
  units : List WearUnit
  history : List Margin
  hours : List (Nat × BitVec 32 × BitVec 32)
  eclipses : List Nat
  sealBroken : Bool
  assetTag : DWord
  rollback : DWord
  bootCount : BitVec 32
  imageA : FwSlot
  imageB : FwSlot
  deriving DecidableEq, Repr

/-- A cached reply (R411). -/
structure Cached where
  src : MmpSrc
  tag : Nat
  req : List Byte
  reply : List Byte
  ns : Nat
  deriving DecidableEq, Repr

/-- A telemetry threshold and the truth of its last comparison (R421, R435). -/
structure Threshold where
  item : Word
  value : Word
  last : Bool
  deriving DecidableEq, Repr

/-- The management core: boot, presence, staging, replies (17). `capture` is not valid while `captureBusy`. -/
structure Mgc where
  step : Nat
  image : Nat
  fallback : Bool
  halted : Bool
  recovery : Bool
  readyMs : Nat
  fwVersion : Word
  slotA : FwSlot
  slotB : FwSlot
  preferred : Nat
  stage : Nat
  stageBytes : Nat
  received : List Byte
  erasing : Bool
  stagedSlot : Option FwSlot
  windowOpen : Bool
  windowNs : Nat
  btnArmed : Bool
  labJmp : Bool
  sealClosed : Bool
  sealOpenRun : Nat
  presence : List PresEntry
  admitted : Nat
  cache : List Cached
  thresholds : List Threshold
  captureBusy : Bool
  capture : Option Capture
  deriving DecidableEq, Repr

/-- ATTN (R278, R420, R436). Bit n of each word stands for code n; `cause` is the levels' causes. -/
structure Attn where
  pending : BitVec 16
  masked : BitVec 16
  cause : BitVec 16
  counts : List Word
  deriving DecidableEq, Repr

/-- Fuses, straps, identity and time (R425, R427, R454 to R456, R472). -/
structure Dev where
  timeNs : Nat
  revMinor : Nat
  revMajor : Nat
  capMem : Nat
  stkSize : Nat
  grade : Nat
  serial : DWord
  bootCount : BitVec 32
  strapPins : BitVec 15
  straps : BitVec 15
  sealBroken : Bool
  assetTag : DWord
  rollback : DWord
  eclipsedFlash : List Nat
  poolFlash : Option Word
  porstLow : Bool
  warmLow : Bool
  thermtrip : Bool
  clkLock : BitVec 14
  ready : Bool
  deriving DecidableEq, Repr

/-- Memory and translation (08): bytes (of an LSM through which a tile has moved its data they are free values, numbered by
site in `lsm`, but for the bytes written since, in `lsmKept`; R73, log 7), lines found uncorrectable, table entries, TLBs by number (16 is
the hub TLB), the walk cache, firmware's master copies of the tables (R204), pool and capacity pages in use, pages not yet zero-filled, held writes, `REFCNT` of the
graph store's pages by graph, version that brought them and segment (R201, R308), and the access in progress. -/
structure MemSys where
  mem : List Host.Cell
  badLines : List Nat
  ptes : List Pte
  tlbs : List (Nat × List Pte)
  walkCache : List Pte
  masters : List Pte
  usedPages : List Nat
  capUsed : List (Nat × Nat)
  zeroing : List Nat
  modelReserved : Nat
  scratchGib : Nat
  fcGib : Nat
  scratchHeld : List (Nat × Nat)
  held : List Held
  releasing : List (Nat × List Nat)
  stagingNext : Nat
  lsm : List (Nat × Nat)
  lsmKept : List Nat
  storeRefs : List ((Nat × Nat × Nat) × Nat)
  view : View
  deriving DecidableEq, Repr

/-- The way of a fabric message (R342, R355): the device that its member's traffic goes to, and the hops there: axis,
direction (0 positive) and number. Its first hop names the link it leaves by. -/
structure Way where
  dest : Nat
  hops : List (Nat × Nat × Nat)
  deriving DecidableEq, Repr

/-- What leaves the block (log 5). `fabricData` is what a member sends another of a collective (R348, R353): phase 0 the
partial sums of a segment, 1 results, rows or blocks as they are; then the segment or the rank they are of. -/
inductive Egress where
  | cmRep (connId : Nat) (priv : List Byte)
  | receiverNotReady (conn : Nat)
  | cmReject
  | rdmaRead (conn dqp rkey va len : Nat)
  | rdmaWrite (conn dqp rkey va : Nat) (bytes : List Byte)
  | record (conn va : Nat) (bytes : List Byte)
  | notify (conn imm : Nat)
  | nak (conn reason : Nat)
  | closed (conn : Nat)
  | mmpReply (src : MmpSrc) (bytes : List Byte)
  | mgmtReply (kind : Nat)
  | digest (way : Way) (group tag rank : Nat) (value : DWord)
  | go (way : Way) (group tag rank : Nat)
  | mismatch (way : Way) (group tag rank : Nat)
  | abandon (way : Way) (group tag rank : Nat)
  | collAbort (way : Way) (group tag rank code : Nat)
  | fabricData (way : Way) (group tag phase part : Nat) (bytes : List Byte)
  | frameReplay (link frame : Nat)
  | retrain (link : Nat)
  | aliasFlood (failed survivor : Nat)
  | announce (port addr : Nat) (v6 : Bool)
  | heartbeat
  | mirror (seq : Nat) (u : Mirror)
  | mirrorAck (seq : Nat)
  | yieldMsg
  | retryNotice
  | resyncRead
  | handBack (addr : Nat)
  | messageReplay (page : Nat) (m : MsgId)
  | rateLimit (conn qp : Nat)
  | cnp (conn qp : Nat)
  deriving DecidableEq, Repr

/-- The 64-bit read latches (R439): requester, page, offset of the high word, latched value. -/
abbrev Latch := Nat × Nat × Nat × Word

/-- The whole block; `retryPending` are the control-plane messages that failed once, by receiver (R380), `cmdCache` the
segments of graph versions in the command cache of the GFE (R300, R303), `turns` is where each GFE core's round-robin goes on (R303), `collNext` where the collector's does
(R307). -/
structure State where
  pending : List Instr
  freeCtr : Nat
  egress : List Egress
  dev : Dev
  ms : MemSys
  hub : Isl
  svc : List Isl
  comp : List Isl
  stk : List Isl
  capMem : Isl
  aonEpoch : BitVec 16
  sites : List (Nat × Site)
  parts : List (Nat × Partition)
  clusters : List (Nat × Cluster)
  hdrs : List (Nat × PageHdr)
  shadow : List (Nat × List Word)
  latches : List Latch
  conns : List Conn
  nextConn : Nat
  ctxs : List Ctx
  cmds : List Cmd
  nextCmd : Nat
  models : List Model
  graphs : List Graph
  holds : List Hold
  fre : Fre
  tlc : Tlc
  vcc : Vcc
  pwr : Pwr
  wear : Wear
  mgc : Mgc
  attn : Attn
  logs : List Log
  jmpAddr : Word
  jmpJumps : Ctr48
  retryPending : List (Nat × MsgId)
  cmdCache : List (Nat × Nat × Nat)
  turns : List Nat
  collNext : Nat
  deriving DecidableEq, Repr

/-! Reset records. -/

def Ctr48.zero : Ctr48 := ⟨0, false⟩
def Isl.reset : Isl := ⟨.off, 0⟩

/-- An array that holds nothing: both banks FREE, no slice set (R100). -/
def Arr.reset : Arr := ⟨[⟨0, 0⟩, ⟨0, 0⟩], [⟨none, 0⟩, ⟨none, 0⟩], 0, 0, 0, 0, none⟩

/-- Site `s` as at shipment (R19): site 15 of each cluster is the moon; its registers at reset. -/
def Site.reset (s : Nat) : Site :=
  { isl := Isl.reset, lcore := if s % 16 = 15 then none else some (s / 16 * 15 + s % 16),
    tile := none, fenced := false, abandoned := none, resetting := false,
    valid := Ctr48.zero, starve := Ctr48.zero, block := Ctr48.zero, freeze := false,
    cfg := 0, arr := Arr.reset, lfsr := 1, graceful := false, ringPpm := 0,
    poweredHours := 0, hotHours := 0, savedHours := (0, 0) }

def Partition.reset : Partition :=
  { lfsr := 1, dieLines := [], dieFailed := 0, scrubPercent := 0, lastPassH := 0xFFFF, marginPct := 0 }

def Cluster.reset : Cluster :=
  { map := [0, 1, 2, 3, 4, 5, 6, 7, 8, 9, 10, 11, 12, 13, 14],
    present := List.replicate 15 true, moonFree := true, credits := 512, queue := [], collector := [],
    csc := [] }

def PageHdr.reset : PageHdr :=
  { enable := true, quiesce := false, softReset := false, eclipse := false, event := 0, evmask := 0x1FFF,
    attn := 0, corrected := 0, recent := [], uncorrected := 0, first := 0, last := 0, locked := false }

def Log.empty : Log := ⟨[], 0, []⟩
def Link.reset : Link := ⟨0, 0, false, 0, 0⟩
def CodecRun.fresh : CodecRun := ⟨none, 0, false, [], [], [], 0, 0⟩
def Engine.reset : Engine := ⟨false, false, 0, none, Ctr48.zero, Ctr48.zero, Ctr48.zero, 0⟩
def FwSlot.reset : FwSlot := ⟨true, 0, 0, 0, 0, 0⟩
def Threshold.reset : Threshold := ⟨0, 0, false⟩

def Dev.reset : Dev :=
  { timeNs := 0, revMinor := 0, revMajor := 1, capMem := 2, stkSize := 1, grade := 4, serial := 0,
    bootCount := 0, strapPins := 0, straps := 0, sealBroken := false, assetTag := 0, rollback := 0,
    eclipsedFlash := [], poolFlash := none, porstLow := true, warmLow := false, thermtrip := false,
    clkLock := 0, ready := false }

def View.reset : View := ⟨.hub, [16], [], [], [], []⟩

def MemSys.reset : MemSys :=
  { mem := [], badLines := [], ptes := [], tlbs := [], walkCache := [], masters := [], usedPages := [], capUsed := [], zeroing := [],
    modelReserved := 0, scratchGib := 4, fcGib := 8, scratchHeld := [], held := [], releasing := [], stagingNext := 0,
    lsm := [], lsmKept := [],
    storeRefs := [], view := View.reset }

def Fre.reset : Fre :=
  { links := List.replicate 7 Link.reset, coordValid := false, torusFlash := none, torus := 0,
    timeout := 0x000A03E8, residue := Ctr48.zero, mismatch := Ctr48.zero, aliases := [], digests := [] }

def Tlc.reset : Tlc :=
  { recFlash := none, pair := none, tstate := 0, linkUp := false, aliveIn := false, epoch := 0,
    hbLate := Ctr48.zero, ckpt := Ctr48.zero, lastHbNs := 0, stale := false, sendSeq := 0, applied := 0,
    awaiting := [], mctxs := [], mconns := [], resyncBusy := false, resyncRefused := false, served := [],
    ownAddrs := [], twinAddrs := [], handedBack := [], peerEpoch := 0, promised := none, protocol := none, away := false, aliveOut := false }

def Vcc.reset : Vcc := ⟨List.replicate 6 Engine.reset, [], [], []⟩

def Pwr.reset : Pwr :=
  { limitW := 350, throttleC := 100, park10 := 0, fcur := [0, 0, 0, 0], cap := [18, 18, 18, 18],
    vcurve := List.replicate 17 750, vcur := [750, 750, 750, 750], vrun := [750, 750, 750, 750], tjDc := [0, 0, 0, 0], hubTjDc := 0, powerDw := 0, tjMaxDc := 0,
    alert := false, throttle := Ctr48.zero, stale := Ctr48.zero, avsCurrentMa := [0, 0, 0, 0],
    avsFails := [0, 0, 0, 0], avsHold := false, avsGood := [false, false, false, false], avsTicks := 0,
    slowMs := [], idleMs := [0, 0, 0, 0] }

def Wear.reset : Wear := ⟨0xFFFF, 0xFFFF, 0, 0, [], [], 0, []⟩

def Mgc.reset : Mgc :=
  { step := 0, image := 0, fallback := false, halted := false, recovery := false, readyMs := 0,
    fwVersion := 0, slotA := FwSlot.reset, slotB := FwSlot.reset, preferred := 0, stage := 0,
    stageBytes := 0, received := [], erasing := false, stagedSlot := none, windowOpen := false,
    windowNs := 0, btnArmed := true, labJmp := false, sealClosed := false, sealOpenRun := 0, presence := [],
    admitted := 0, cache := [], thresholds := List.replicate 8 Threshold.reset, captureBusy := false,
    capture := none }

def Attn.reset : Attn := ⟨0, 0, 0, List.replicate 11 0⟩

/-- The block while `PORST_N` holds it in power-on reset: every register at its Reset value (R11,
R446, R471), nothing in memory, no command waiting. `COLD_BOOT` takes it to READY. -/
def State.reset : State :=
  { pending := [], freeCtr := 0, egress := [], dev := Dev.reset, ms := MemSys.reset, hub := Isl.reset,
    svc := List.replicate 4 Isl.reset, comp := List.replicate 4 Isl.reset,
    stk := List.replicate 4 Isl.reset, capMem := Isl.reset, aonEpoch := 0, sites := [], parts := [],
    clusters := [], hdrs := [], shadow := [], latches := [], conns := [], nextConn := 1, ctxs := [],
    cmds := [], nextCmd := 1, models := [], graphs := [], holds := [], fre := Fre.reset, tlc := Tlc.reset,
    vcc := Vcc.reset, pwr := Pwr.reset, wear := Wear.reset, mgc := Mgc.reset, attn := Attn.reset,
    logs := List.replicate 6 Log.empty, jmpAddr := 0, jmpJumps := Ctr48.zero, retryPending := [], cmdCache := [],
    turns := [0, 0, 0, 0], collNext := 0 }

end Sys2Proof.Machine
end

