-- ==== Sys2Proof/Machine/Bits.lean ====
section
/-! DEFINITION. Bytes, little-endian fields (R8), checksums (R213, R352) and keyed tables. -/

namespace Sys2Proof.Machine

/-- Byte `i` of a structure as a number; bytes past its end read 0. -/
def byteAt (b : List Byte) (i : Nat) : Nat := (b.getD i 0).toNat

/-- The little-endian number of `n` bytes at `off` (R8). -/
def leAt (b : List Byte) (off : Nat) : Nat → Nat
  | 0 => 0
  | n + 1 => byteAt b off + 256 * leAt b (off + 1) n

/-- The field of `w` bits from bit `lo` of the word at `byte` (R7, R8). -/
def fld (b : List Byte) (byte lo w : Nat) : Nat := (leAt b byte 8 >>> lo) % 2 ^ w

/-- `n` bytes of a number, little-endian (R8). -/
def toLE : Nat → Nat → List Byte
  | 0, _ => []
  | n + 1, x => BitVec.ofNat 8 x :: toLE n (x / 256)

/-- Bytes `[off, off + n)`, zeros past the end. -/
def slice (b : List Byte) (off n : Nat) : List Byte :=
  let t := (b.drop off).take n
  t ++ List.replicate (n - t.length) 0

/-- Whether `n` bytes from `off` are all 0. -/
def allZero (b : List Byte) (off n : Nat) : Bool := ((b.drop off).take n).all (· == 0)

/-- One bit of the reflected CRC-32C (Castagnoli). -/
def crc32cBits : Nat → Nat → Nat
  | 0, c => c
  | n + 1, c => crc32cBits n (if c % 2 == 1 then (c / 2) ^^^ 0x82F63B78 else c / 2)

/-- CRC-32C of a byte string (R213, R309, R315, R359). -/
def crc32c (b : List Byte) : Nat :=
  (b.foldl (fun c x => crc32cBits 8 (c ^^^ x.toNat)) 0xFFFFFFFF) ^^^ 0xFFFFFFFF

/-- One bit of CRC-64/ECMA-182, not reflected. -/
def crc64Bits : Nat → Nat → Nat
  | 0, c => c
  | n + 1, c =>
      crc64Bits n
        (if c ≥ 2 ^ 63 then ((2 * c) % 2 ^ 64) ^^^ 0x42F0E1EBA9EA3693 else 2 * c)

/-- CRC-64/ECMA-182 with initial value 0 and no final XOR (R128, R352). -/
def crc64 (b : List Byte) : Nat :=
  b.foldl (fun c x => crc64Bits 8 (c ^^^ (x.toNat * 2 ^ 56))) 0

/-- The entry of a keyed table. -/
def alFind {α : Type} (k : Nat) : List (Nat × α) → Option α
  | [] => none
  | (x, v) :: t => if x = k then some v else alFind k t

/-- A keyed table with the entry of `k` set, keys rising. -/
def alSet {α : Type} (k : Nat) (v : α) : List (Nat × α) → List (Nat × α)
  | [] => [(k, v)]
  | (x, y) :: t =>
      if k < x then (k, v) :: (x, y) :: t
      else if x = k then (k, v) :: t
      else (x, y) :: alSet k v t

/-- Updates position `i` of a list. -/
def updAt {α : Type} (l : List α) (i : Nat) (f : α → α) : List α :=
  match l, i with
  | [], _ => []
  | x :: t, 0 => f x :: t
  | x :: t, n + 1 => x :: updAt t n f

/-- Ceiling division. -/
def cdiv (a b : Nat) : Nat := (a + b - 1) / b

/-- A 48-bit counter raised by `k`: at its limit it holds all-ones and sets SAT (R80, R395). -/
def Ctr48.bump (c : Ctr48) (k : Nat) : Ctr48 :=
  if k = 0 then c
  else if c.count + k ≥ 2 ^ 48 - 1 then ⟨2 ^ 48 - 1, true⟩ else ⟨c.count + k, c.sat⟩

/-- Low and high register words of a 48-bit counter (R102). -/
def Ctr48.lo (c : Ctr48) : Word := BitVec.ofNat 32 c.count
def Ctr48.hi (c : Ctr48) : Word :=
  BitVec.ofNat 32 (c.count / 2 ^ 32 % 2 ^ 16 + (if c.sat then 2 ^ 31 else 0))

/-- A saturating 16-bit increment (R395). -/
def satInc16 (x : BitVec 16) : BitVec 16 := if x = 0xFFFF then x else x + 1
/-- A saturating 32-bit increment (R395). -/
def satInc32 (x : BitVec 32) : BitVec 32 := if x = 0xFFFFFFFF then x else x + 1

/-- A linear map over GF(2) as the images of the bits, bit 0 first. -/
def gfApply : List Nat → Nat → Nat
  | [], _ => 0
  | c :: cs, v => (if v % 2 = 1 then c else 0) ^^^ gfApply cs (v / 2)

/-- The image of `v` under the `d`-th power of a map: square and multiply over at most `n` bits of `d`. -/
def gfPower : Nat → List Nat → Nat → Nat → Nat
  | 0, _, _, v => v
  | n + 1, m, d, v =>
      if d = 0 then v
      else gfPower n (m.map (gfApply m)) (d / 2) (if d % 2 = 1 then gfApply m v else v)

end Sys2Proof.Machine
end

