-- ==== Sys2Proof/Machine/Flags.lean ====
section
/-! DEFINITION. Status: RESULT codes (R279, R302, R316, R381, R419), the STATUS word (R278), the ranking
of R280, ATTN conditions (R420), event causes (R447), page captures (R449) and the error logs (R391 to
R394, R481). -/

namespace Sys2Proof.Machine

/-- The 12-bit code of a RESULT. -/
def Res.code : Res → Nat
  | .ok => 0x000
  | .okEmptyResult => 0x001
  | .okSpilledPlan => 0x002
  | .okDroppedOverflow => 0x003
  | .okEarlyExit => 0x004
  | .okSettled => 0x005
  | .okReplayed => 0x006
  | .badDescriptor => 0x100
  | .badShape => 0x101
  | .unsupportedFormat => 0x102
  | .noResources => 0x103
  | .modelTooLarge => 0x104
  | .graphVersionLimit => 0x105
  | .ringResync => 0x106
  | .queueFlushed => 0x107
  | .aborted => 0x108
  | .pinnedWrite => 0x109
  | .versionConflict => 0x10A
  | .collectiveMismatch => 0x200
  | .reduceCheck => 0x201
  | .fabricTimeout => 0x202
  | .twinLostNotMirrored => 0x300
  | .domainOff => 0x301
  | .mirrorAreaFull => 0x302
  | .twinPrimaryUnreachable => 0x303
  | .memoryUncorrected => 0x400
  | .replayFailed => 0x401
  | .badAddress => 0x402
  | .translationFault => 0x403
  | .writeProtected => 0x404
  | .islandReset => 0x405
  | .codecConcealed => 0x500
  | .codecFrameAborted => 0x501
  | .presenceRequired => 0x600
  | .sealedLocked => 0x601
  | .writeDenied => 0x602
  | .imageRejected => 0x603
  | .mmpMalformed => 0x604
  | .busy => 0x605
  | .notPaired => 0x606
  | .stageState => 0x607

/-- Codes of range 0x000 to 0x0FF are success (R279). -/
def Res.isOk (r : Res) : Bool := decide (r.code < 0x100)

/-- The INFO bit of an information code (R273): bit k − 1 for 0x00k. -/
def Res.infoBit (r : Res) : BitVec 8 :=
  if 1 ≤ r.code ∧ r.code ≤ 6 then BitVec.ofNat 8 (2 ^ (r.code - 1)) else 0

/-- The highest-ranked information code of R280. -/
def rankInfo (info : BitVec 8) : Res :=
  if info.getLsbD 4 then .okSettled
  else if info.getLsbD 2 then .okDroppedOverflow
  else if info.getLsbD 1 then .okSpilledPlan
  else if info.getLsbD 3 then .okEarlyExit
  else if info.getLsbD 5 then .okReplayed
  else if info.getLsbD 0 then .okEmptyResult
  else .ok

/-- The one RESULT of a request (R280): its first failure, else the highest-ranked information code. -/
def Ctx.finalResult (c : Ctx) : Res :=
  match c.failure with
  | some r => r
  | none => rankInfo c.info

/-- The ATTN field of the STATUS word (R278): 0 none, the code when one is pending, 0xF for more. -/
def attnFieldOf (pending : BitVec 16) : Nat :=
  let codes := (List.range 11).filter (fun n => pending.getLsbD n)
  match codes with
  | [] => 0
  | [n] => n
  | _ :: _ :: _ => 0xF

def Attn.field (a : Attn) : Nat := attnFieldOf a.pending

/-- The 16-bit STATUS word (R278). -/
def State.status (s : State) (r : Res) : Nat := s.attn.field * 4096 + r.code

/-- An onset of an event condition: pending and counted (R420). -/
def Attn.event (a : Attn) (n : Nat) : Attn :=
  { a with pending := a.pending ||| BitVec.ofNat 16 (2 ^ n), counts := updAt a.counts n (· + 1) }

/-- The cause of a level begins: counted at the onset, pending (R420). -/
def Attn.levelOn (a : Attn) (n : Nat) : Attn :=
  if a.cause.getLsbD n then a
  else
    { a with
      pending := a.pending ||| BitVec.ofNat 16 (2 ^ n)
      cause := a.cause ||| BitVec.ofNat 16 (2 ^ n)
      counts := updAt a.counts n (· + 1) }

/-- The cause of a level ends: it clears of itself and its mask is removed (R420). -/
def Attn.levelOff (a : Attn) (n : Nat) : Attn :=
  let m : BitVec 16 := ~~~(BitVec.ofNat 16 (2 ^ n))
  { a with pending := a.pending &&& m, cause := a.cause &&& m, masked := a.masked &&& m }

/-- Clears an event condition (R212 for PLAN, R420). -/
def Attn.clearEvent (a : Attn) (n : Nat) : Attn :=
  { a with pending := a.pending &&& ~~~(BitVec.ofNat 16 (2 ^ n)) }

def State.attnEvent (s : State) (n : Nat) : State := { s with attn := s.attn.event n }
def State.attnOn (s : State) (n : Nat) : State := { s with attn := s.attn.levelOn n }
def State.attnOff (s : State) (n : Nat) : State := { s with attn := s.attn.levelOff n }

/-! The codes of R278. -/
def attnTELEMETRY : Nat := 1
def attnERRLOG : Nat := 2
def attnECLIPSE : Nat := 3
def attnWEAR : Nat := 4
def attnTHERMAL : Nat := 5
def attnTWIN : Nat := 6
def attnTAKEOVER : Nat := 7
def attnSEAL : Nat := 8
def attnFIRMWARE : Nat := 9
def attnPLAN : Nat := 10

/-! Pages (R437, R452). -/

/-- The island that holds a page's registers; none for a page that does not exist (R452). -/
def pageIsland (p : Nat) : Option Island :=
  let cls := p / 256
  let i := p % 256
  if p ≥ 0x1400 then none
  else match cls with
    | 0x00 | 0x01 | 0x0F | 0x10 | 0x11 | 0x12 | 0x13 => if i = 0 then some .aon else none
    | 0x02 | 0x09 | 0x0A | 0x0B | 0x0C | 0x0E => if i = 0 then some .hub else none
    | 0x03 => if i < 4 then some (.service i) else none
    | 0x04 => if i < 16 then some (.service (i / 4)) else none
    | 0x05 => some (.site i)
    | 0x06 => some (.stack (i / 64))
    | 0x08 => if i < 16 then some (.service (i / 4)) else if i = 16 then some .hub else none
    | 0x0D => if i < 7 then some .hub else none
    | _ => none

/-- Log domain of a page (R391): 0 AON, 1 HUB, 2 to 5 the tiles. -/
def pageDomain (p : Nat) : Nat :=
  match pageIsland p with
  | some (.service n) | some (.stack n) | some (.compute n) => 2 + n
  | some (.site n) => 2 + n / 64
  | some .hub | some .capMem => 1
  | some .aon | none => 0

def State.hdr (s : State) (p : Nat) : PageHdr := (alFind p s.hdrs).getD PageHdr.reset
def State.setHdr (s : State) (p : Nat) (h : PageHdr) : State := { s with hdrs := alSet p h s.hdrs }

/-- The ATTN code raised by an unmasked cause (R447): the page map for causes 0 to 7, ERRLOG for 8 to
12; codes 0 and 0xB to 0xF raise nothing. Causes 9 and 10 are raised by R394 with the error itself. -/
def causeCode (h : PageHdr) (k : Nat) : Nat :=
  if k < 8 then
    let c := (h.attn.toNat >>> (4 * k)) % 16
    if 1 ≤ c ∧ c ≤ 10 then c else 0
  else if k = 9 ∨ k = 10 then 0 else attnERRLOG

/-- A cause bit of `PG_EVENT` becomes 1 (R447). -/
def State.setEvent (s : State) (p k : Nat) : State :=
  let h := s.hdr p
  let s' := s.setHdr p { h with event := h.event ||| BitVec.ofNat 13 (2 ^ k) }
  if h.event.getLsbD k || h.evmask.getLsbD k then s'
  else
    let c := causeCode h k
    if c = 0 then s'
    else if c = attnWEAR ∨ c = attnTHERMAL ∨ c = attnTWIN ∨ c = attnFIRMWARE then s'.attnOn c
    else s'.attnEvent c

/-! Error logs. -/

/-- Whether an open entry takes a repeat: same source and type, within 1 ms of its first (R392). -/
def foldsInto (now source typ : Nat) (e : LogEntry) : Bool :=
  e.source == source && e.typ == typ && decide (now ≤ e.firstNs + 1000000)

/-- The open slot of `l` that takes the error. -/
def Log.foldSlot (l : Log) (now source typ : Nat) : Option Nat :=
  l.opened.find? (fun i =>
    match l.slots[i]? with
    | some e => foldsInto now source typ e
    | none => false)

/-- Closes the open entry with the earliest first time, the lower slot on a tie (R392). -/
def closeEarliest (l : Log) : List Nat :=
  match l.opened with
  | [] => []
  | i :: is =>
      let t (k : Nat) : Nat := ((l.slots[k]?).map LogEntry.firstNs).getD 0
      let k := is.foldl (fun b j => if t j < t b ∨ (t j = t b ∧ j < b) then j else b) i
      l.opened.filter (· != k)

/-- Adds an error to a log (R392, R393): a repeat of an open entry, or a new entry in the next slot;
when all 1,024 are used the last slot is replaced and the replaced entry counted as dropped. -/
def Log.add (l : Log) (e : LogEntry) : Log :=
  match l.foldSlot e.firstNs e.source e.typ with
  | some i =>
      { l with slots := updAt l.slots i (fun o =>
          { o with rep := min 65535 (o.rep + 1), lastNs := e.firstNs }) }
  | none =>
      let op := if l.opened.length ≥ 16 then closeEarliest l else l.opened
      if l.slots.length < 1024 then
        { l with slots := l.slots ++ [e], opened := op ++ [l.slots.length] }
      else
        { slots := l.slots.take 1023 ++ [e], dropped := min (2 ^ 32 - 1) (l.dropped + 1),
          opened := op.filter (· != 1023) ++ [1023] }

/-- The 64-bit error capture of R449. -/
def captureWord (cls typ detail : Nat) : DWord :=
  BitVec.ofNat 64 (detail % 2 ^ 48 + typ * 2 ^ 48 + cls * 2 ^ 56 + 2 ^ 63)

/-- 24 hours in ns. -/
def dayNs : Nat := 86400000000000

/-- Counts and captures an error on its page, and its time for the rate of corrected errors (R399, R448, R449). -/
def PageHdr.noteError (h : PageHdr) (now cls typ detail : Nat) : PageHdr :=
  let w := captureWord cls typ detail
  { h with
    corrected := if cls = 0 then satInc16 h.corrected else h.corrected
    recent := if cls = 0 then now :: h.recent.filter (fun t => decide (now < t + dayNs)) else h.recent
    uncorrected := if cls = 0 then h.uncorrected else satInc16 h.uncorrected
    first := if h.first.getLsbD 63 then h.first else w
    last := w }

/-- Records an error (R378, R391 to R394, R448, R449): its page's count, capture and cause, an entry of
its domain's log (a refused entry counts as dropped while the capture is written, R404), and one onset
of ERRLOG for classes UNCORRECTED_CONTAINED and FATAL. -/
def State.logError (s : State) (page cls typ result detail : Nat) : State :=
  let s1 := s.setHdr page ((s.hdr page).noteError s.dev.timeNs cls typ detail)
  let e : LogEntry := ⟨s.dev.timeNs, s.dev.timeNs, page, cls, typ, 1, result, detail % 2 ^ 64⟩
  let s2 := { s1 with logs := updAt s1.logs (pageDomain page) (fun l =>
    if s.mgc.captureBusy then { l with dropped := min (2 ^ 32 - 1) (l.dropped + 1) } else l.add e) }
  let s3 := s2.setEvent page (8 + cls)
  if cls = 0 then s3 else s3.attnEvent attnERRLOG

/-- A log entry that is not counted as an error of its page but still logged (seal, eclipse). -/
def State.logNote (s : State) (page typ detail : Nat) : State :=
  let e : LogEntry := ⟨s.dev.timeNs, s.dev.timeNs, page, 0, typ, 1, 0, detail % 2 ^ 64⟩
  { s with logs := updAt s.logs (pageDomain page) (fun l =>
    if s.mgc.captureBusy then { l with dropped := min (2 ^ 32 - 1) (l.dropped + 1) } else l.add e) }

/-- A measured margin joins its unit's history (R399, R400). -/
def State.addMargin (s : State) (kind index value : Nat) : State :=
  { s with wear := { s.wear with history := ⟨kind, index, s.wear.pastNs + s.dev.timeNs, value⟩ :: s.wear.history } }

/-- Appends to what leaves the block (log 5). -/
def State.emit (s : State) (e : Egress) : State := { s with egress := s.egress ++ [e] }
def State.emits (s : State) (es : List Egress) : State := { s with egress := s.egress ++ es }

/-- Takes one free number (log 8). -/
def State.takeFree (s : State) : Nat × State :=
  (Config.free s.freeCtr, { s with freeCtr := s.freeCtr + 1 })

end Sys2Proof.Machine
end

