-- ==== Sys2Proof/Machine/Clock.lean ====
section
/-! DEFINITION. Time (R27, R456). -/

namespace Sys2Proof.Machine

/-- One ACLK cycle: `DEV_TIME` advances by 40 ns before the doubler locks and by 20 ns after (R456); in
power-on reset it stands. -/
def idleTick (s : State) : State :=
  if s.dev.porstLow then s
  else { s with dev := { s.dev with timeNs := s.dev.timeNs + (if s.dev.clkLock.getLsbD 13 then 20 else 40) } }

/-- An event that comes when a time is reached: `DEV_TIME` has come to it (log 21). -/
def timeReaches (s : State) (ns : Nat) : State :=
  { s with dev := { s.dev with timeNs := max s.dev.timeNs ns } }

end Sys2Proof.Machine
end

