-- ==== Sys2Proof/Machine/Num.lean ====
section
/-! DEFINITION. Number formats, exact values, rounding and conversion (02, R44 to R70). A value is
held exactly (a signed integer times a power of two); rounding happens only where a rule says so. -/

namespace Sys2Proof

/-- The code of a format (R44). -/
def Fmt.code : Fmt → Nat
  | .bf16 => 1
  | .fp32 => 2
  | .e4m3 => 3
  | .e5m2 => 4
  | .int8 => 5
  | .int4g32 => 6
  | .int32 => 7
  | .uint8 => 8
  | .fp16 => 9
  | .bool8 => 10

/-- Element size in bytes (R44, R287); INT4_G32 is handled as nibbles by the operand forms. -/
def Fmt.bytes : Fmt → Nat
  | .bf16 | .fp16 => 2
  | .fp32 | .int32 => 4
  | .e4m3 | .e5m2 | .int8 | .uint8 | .bool8 | .int4g32 => 1

/-- Integer formats for the chain tests of R62 and R113: BOOL8 counts as integer. -/
def Fmt.isInt : Fmt → Bool
  | .int8 | .int32 | .uint8 | .bool8 | .int4g32 => true
  | .bf16 | .fp32 | .e4m3 | .e5m2 | .fp16 => false

end Sys2Proof

namespace Sys2Proof.Machine

/-- An exact value: NaN, an infinity, or (-1)^neg · m · 2^e (m = 0 is a signed zero). -/
inductive Val where
  | nan
  | inf (neg : Bool)
  | fin (neg : Bool) (m : Nat) (e : Int)
  deriving DecidableEq, Repr

/-- The layout of a floating format (R44): exponent width, mantissa width, and whether it is
FP8_E4M3 (no infinity, one NaN pattern per sign, R45). -/
structure FloatLayout where
  ew : Nat
  mw : Nat
  e4m3 : Bool
  deriving DecidableEq, Repr

def bf16L : FloatLayout := ⟨8, 7, false⟩
def fp32L : FloatLayout := ⟨8, 23, false⟩
def fp16L : FloatLayout := ⟨5, 10, false⟩
def e5m2L : FloatLayout := ⟨5, 2, false⟩
def e4m3L : FloatLayout := ⟨4, 3, true⟩

/-- The floating layout of a format, none for the integer formats. -/
def floatLayout : Fmt → Option FloatLayout
  | .bf16 => some bf16L
  | .fp32 => some fp32L
  | .e4m3 => some e4m3L
  | .e5m2 => some e5m2L
  | .fp16 => some fp16L
  | .int8 | .int4g32 | .int32 | .uint8 | .bool8 => none

/-- The format of a code of R44; none for the codes of R46. -/
def fmtOfCode : Nat → Option Fmt
  | 1 => some .bf16
  | 2 => some .fp32
  | 3 => some .e4m3
  | 4 => some .e5m2
  | 5 => some .int8
  | 6 => some .int4g32
  | 7 => some .int32
  | 8 => some .uint8
  | 9 => some .fp16
  | 10 => some .bool8
  | _ => none

/-- The rounding mode of a field (R57); none for the reserved value 3. -/
def rndOfCode : Nat → Option Rnd
  | 0 => some .rne
  | 1 => some .rtz
  | 2 => some .sr
  | _ => none

def FloatLayout.bias (L : FloatLayout) : Int := 2 ^ (L.ew - 1) - 1

/-- The exact value of a floating bit pattern (R44, R45, R64: subnormals are honoured). -/
def decodeFloat (L : FloatLayout) (bits : Nat) : Val :=
  let neg := (bits >>> (L.ew + L.mw)) % 2 == 1
  let ex := (bits >>> L.mw) % 2 ^ L.ew
  let mm := bits % 2 ^ L.mw
  let top := 2 ^ L.ew - 1
  if ex == top && L.e4m3 && mm == 2 ^ L.mw - 1 then .nan
  else if ex == top && !L.e4m3 then (if mm == 0 then .inf neg else .nan)
  else if ex == 0 then .fin neg mm (1 - L.bias - L.mw)
  else .fin neg (2 ^ L.mw + mm) (ex - L.bias - L.mw)

/-- Pattern of the canonical NaN (R44, R65). -/
def canonNaN (L : FloatLayout) : Nat :=
  let top := (2 ^ L.ew - 1) * 2 ^ L.mw
  if L.e4m3 then top + (2 ^ L.mw - 1) else top + 2 ^ (L.mw - 1)

/-- Pattern of the largest finite magnitude (R44). -/
def maxFinite (L : FloatLayout) : Nat :=
  let top := (2 ^ L.ew - 1) * 2 ^ L.mw
  if L.e4m3 then top + (2 ^ L.mw - 2) else top - 1

/-- Whether the discarded part `rem` of `2^sh` rounds the kept magnitude `q` up (R57, R58). `u` is
the 16-bit draw of stochastic rounding. -/
def roundsUp (mode : Rnd) (u : Nat) (q rem sh : Nat) : Bool :=
  match mode with
  | .rne => 2 * rem > 2 ^ sh || (2 * rem == 2 ^ sh && q % 2 == 1)
  | .rtz => false
  | .sr => rem != 0 && (65536 * rem) / 2 ^ sh + u % 65536 ≥ 65536

/-- The magnitude `m · 2^e` brought to the quantum `2^q`, rounded (R57, R58). -/
def toQuantum (mode : Rnd) (u : Nat) (m : Nat) (e q : Int) : Nat :=
  if e ≥ q then m * 2 ^ (e - q).toNat
  else
    let sh := (q - e).toNat
    let k := m / 2 ^ sh
    let r := m % 2 ^ sh
    if roundsUp mode u k r sh then k + 1 else k

/-- Magnitude pattern of an overflow (R60): infinity under RNE and SR and the largest finite under
RTZ; FP8 formats always saturate. -/
def overflowBits (L : FloatLayout) (mode : Rnd) : Nat :=
  if L.e4m3 || L == e5m2L then maxFinite L
  else match mode with
    | .rtz => maxFinite L
    | .rne | .sr => (2 ^ L.ew - 1) * 2 ^ L.mw

/-- One rounding of an exact value into a floating format (R57, R58, R60, R64, R65). -/
def roundFloat (L : FloatLayout) (mode : Rnd) (u : Nat) : Val → Nat
  | .nan => canonNaN L
  | .inf neg =>
      let s := if neg then 2 ^ (L.ew + L.mw) else 0
      s + (if L.e4m3 then maxFinite L else (2 ^ L.ew - 1) * 2 ^ L.mw)
  | .fin neg m e =>
      let s := if neg then 2 ^ (L.ew + L.mw) else 0
      if m == 0 then s
      else
        let emin : Int := 1 - L.bias
        let top : Int := (Nat.log2 m : Int) + e
        let q : Int := max top emin - L.mw
        let k := toQuantum mode u m e q
        let bits := (q + L.mw + L.bias - 1).toNat * 2 ^ L.mw + k
        s + (if bits > maxFinite L then overflowBits L mode else bits)

/-- An exact value rounded to an integer by the mode (R60); NaN gives 0, infinities are answered
by the saturation of the caller. -/
def roundInt (mode : Rnd) (u : Nat) (m : Nat) (e : Int) : Nat := toQuantum mode u m e 0

/-- Saturation to [lo, hi]. -/
def clampInt (lo hi x : Int) : Int := if x < lo then lo else if x > hi then hi else x

/-- A value as a saturated integer (R60): NaN → 0, ±∞ → the limits. -/
def satInt (lo hi : Int) (mode : Rnd) (u : Nat) : Val → Int
  | .nan => 0
  | .inf neg => if neg then lo else hi
  | .fin neg m e =>
      let k : Int := roundInt mode u m e
      clampInt lo hi (if neg then -k else k)

/-- Two's complement pattern of `x` in `w` bits. -/
def toBits (w : Nat) (x : Int) : Nat := (x % (2 ^ w : Int)).toNat

/-- The signed value of a `w`-bit pattern. -/
def ofBits (w : Nat) (b : Nat) : Int :=
  let b := b % 2 ^ w
  if b ≥ 2 ^ (w - 1) then (b : Int) - 2 ^ w else b

/-- Whether a value counts as nonzero (R60 to BOOL8, R69 Select): NaN and ∞ do. -/
def Val.nonzero : Val → Bool
  | .fin _ m _ => m != 0
  | .nan | .inf _ => true

/-- An integer as an exact value. -/
def Val.ofInt (x : Int) : Val := .fin (decide (x < 0)) x.natAbs 0

/-- +0, 1.0 and 0.5. -/
def Val.zero : Val := .fin false 0 0
def Val.one : Val := .fin false 1 0
def Val.half : Val := .fin false 1 (-1)

/-- The conversion table of R60, from an exact value to the pattern of a format. INT4_G32 is never
a destination (R48); its arm gives 0. -/
def convert (f : Fmt) (mode : Rnd) (u : Nat) (v : Val) : Nat :=
  match f with
  | .bf16 => roundFloat bf16L mode u v
  | .fp32 => roundFloat fp32L mode u v
  | .e4m3 => roundFloat e4m3L mode u v
  | .e5m2 => roundFloat e5m2L mode u v
  | .fp16 => roundFloat fp16L mode u v
  | .int8 => toBits 8 (satInt (-128) 127 mode u v)
  | .uint8 => toBits 8 (satInt 0 255 mode u v)
  | .int32 => toBits 32 (satInt (-2147483648) 2147483647 mode u v)
  | .bool8 => if v.nonzero then 1 else 0
  | .int4g32 => 0

/-- The exact value of an element pattern (R44; BOOL8 by R60). INT4_G32 codes are expanded by R53
before they have a value; here the code itself. -/
def decodeElem (f : Fmt) (bits : Nat) : Val :=
  match f with
  | .bf16 => decodeFloat bf16L bits
  | .fp32 => decodeFloat fp32L bits
  | .e4m3 => decodeFloat e4m3L bits
  | .e5m2 => decodeFloat e5m2L bits
  | .fp16 => decodeFloat fp16L bits
  | .int8 => Val.ofInt (ofBits 8 bits)
  | .uint8 => Val.ofInt (bits % 256 : Nat)
  | .int32 => Val.ofInt (ofBits 32 bits)
  | .bool8 => if bits % 256 == 0 then Val.zero else Val.one
  | .int4g32 => Val.ofInt (bits % 16 : Nat)

/-- The value of fp32 bits. -/
def f32 (bits : Nat) : Val := decodeFloat fp32L bits

/-- The fp32 pattern of a value by RNE. -/
def toF32 (v : Val) : Nat := roundFloat fp32L .rne 0 v

/-- One fp32 rounding by RNE (R61, R82). -/
def rne32 (v : Val) : Val := f32 (toF32 v)

/-! Exact arithmetic with the special values of R65 to R67. -/

def Val.isNaN : Val → Bool
  | .nan => true
  | .inf _ | .fin _ _ _ => false

def Val.isInf : Val → Bool
  | .inf _ => true
  | .nan | .fin _ _ _ => false

def Val.isZero : Val → Bool
  | .fin _ m _ => m == 0
  | .nan | .inf _ => false

def Val.sign : Val → Bool
  | .nan => false
  | .inf n => n
  | .fin n _ _ => n

/-- −A: acts on the sign bit of non-NaN values (R65). -/
def Val.neg : Val → Val
  | .nan => .nan
  | .inf n => .inf (!n)
  | .fin n m e => .fin (!n) m e

/-- |A| (R65). -/
def Val.abs : Val → Val
  | .nan => .nan
  | .inf _ => .inf false
  | .fin _ m e => .fin false m e

/-- The signed mantissa of a finite magnitude brought to exponent `e0 ≤ e`. -/
def alignTo (neg : Bool) (m : Nat) (e e0 : Int) : Int :=
  let k : Int := m * 2 ^ (e - e0).toNat
  if neg then -k else k

/-- Exact addition with the rows of R66. -/
def Val.add : Val → Val → Val
  | .nan, _ => .nan
  | _, .nan => .nan
  | .inf a, .inf b => if a == b then .inf a else .nan
  | .inf a, .fin _ _ _ => .inf a
  | .fin _ _ _, .inf b => .inf b
  | .fin na ma ea, .fin nb mb eb =>
      let e0 := min ea eb
      let n := alignTo na ma ea e0 + alignTo nb mb eb e0
      if n == 0 then .fin (ma == 0 && mb == 0 && na && nb) 0 0
      else .fin (decide (n < 0)) n.natAbs e0

def Val.sub (a b : Val) : Val := a.add b.neg

/-- Exact multiplication with the rows of R66. -/
def Val.mul : Val → Val → Val
  | .nan, _ => .nan
  | _, .nan => .nan
  | .inf a, .inf b => .inf (a != b)
  | .inf a, .fin nb mb _ => if mb == 0 then .nan else .inf (a != nb)
  | .fin na ma _, .inf b => if ma == 0 then .nan else .inf (na != b)
  | .fin na ma ea, .fin nb mb eb => .fin (na != nb) (ma * mb) (ea + eb)

/-- Exact order of two finite or infinite values: −1, 0, 1; −0 and +0 are equal. -/
def Val.cmp : Val → Val → Int
  | .inf a, .inf b => if a == b then 0 else if a then -1 else 1
  | .inf a, .fin _ _ _ => if a then -1 else 1
  | .fin _ _ _, .inf b => if b then 1 else -1
  | .fin na ma ea, .fin nb mb eb =>
      let e0 := min ea eb
      let x := alignTo na ma ea e0
      let y := alignTo nb mb eb e0
      if x < y then -1 else if x > y then 1 else 0
  | .nan, _ => 0
  | _, .nan => 0

/-- The comparisons of R69: false with a NaN operand, except "not equal". -/
def Val.eq (a b : Val) : Bool := !a.isNaN && !b.isNaN && a.cmp b == 0
def Val.lt (a b : Val) : Bool := !a.isNaN && !b.isNaN && decide (a.cmp b < 0)
def Val.le (a b : Val) : Bool := !a.isNaN && !b.isNaN && decide (a.cmp b ≤ 0)

/-- The predicate codes of R111 and R293: EQ NE LT LE GT GE. -/
def Val.test (pred : Nat) (a b : Val) : Bool :=
  match pred with
  | 0 => a.eq b
  | 1 => !(a.eq b)
  | 2 => a.lt b
  | 3 => a.le b
  | 4 => b.lt a
  | _ => b.le a

/-- Whether `a` ranks strictly below `b` when −0 ranks below +0 (R67, R68); neither is NaN. -/
def Val.below (a b : Val) : Bool :=
  decide (a.cmp b < 0) || (a.cmp b == 0 && a.isZero && b.isZero && a.sign && !b.sign)

/-- NaN-propagating maximum and minimum (R67). -/
def Val.max (a b : Val) : Val :=
  if a.isNaN || b.isNaN then .nan else if a.below b then b else a
def Val.min (a b : Val) : Val :=
  if a.isNaN || b.isNaN then .nan else if b.below a then b else a

/-- maximumNumber and minimumNumber (R67, R68). -/
def Val.maxNum (a b : Val) : Val :=
  if a.isNaN then b else if b.isNaN then a else if a.below b then b else a
def Val.minNum (a b : Val) : Val :=
  if a.isNaN then b else if b.isNaN then a else if b.below a then b else a

/-- The fp32 primitives of R61: each rounds once. -/
def fadd (a b : Val) : Val := rne32 (a.add b)
def fsub (a b : Val) : Val := rne32 (a.sub b)
def fmul (a b : Val) : Val := rne32 (a.mul b)
def fma (a b c : Val) : Val := rne32 ((a.mul b).add c)

/-- The quotient of two finite magnitudes with a sticky low bit: enough bits for any fp32 rounding. -/
def quotMag (ma : Nat) (ea : Int) (mb : Nat) (eb : Int) : Nat × Int :=
  let k := (96 + (Nat.log2 mb : Int) - (Nat.log2 ma : Int)).toNat
  let n := ma * 2 ^ k
  (2 * (n / mb) + (if n % mb == 0 then 0 else 1), ea - eb - k - 1)

/-- The quotient as a value whose single fp32 rounding is the correctly rounded division of R144,
R154 and R231. -/
def Val.div : Val → Val → Val
  | .nan, _ => .nan
  | _, .nan => .nan
  | .inf _, .inf _ => .nan
  | .inf a, .fin nb _ _ => .inf (a != nb)
  | .fin na _ _, .inf b => .fin (na != b) 0 0
  | .fin na ma ea, .fin nb mb eb =>
      if mb == 0 then (if ma == 0 then .nan else .inf (na != nb))
      else if ma == 0 then .fin (na != nb) 0 0
      else
        let q := quotMag ma ea mb eb
        .fin (na != nb) q.1 q.2

/-- `rnd(a / b)`: one correctly rounded fp32 division (R154). -/
def rdiv (a b : Val) : Val := rne32 (a.div b)

/-- A finite magnitude rounded to a quantum towards zero or away from it. -/
def toQuantumDir (away : Bool) (m : Nat) (e q : Int) : Nat :=
  if e ≥ q then m * 2 ^ (e - q).toNat
  else
    let sh := (q - e).toNat
    m / 2 ^ sh + (if away && m % 2 ^ sh != 0 then 1 else 0)

/-- A clip bound in a format (R56): rounded up or down, limited to the finite range; an infinite bound
becomes the format's extreme value, ±∞ where the format has one (log 15). -/
def clipBound (f : Fmt) (up : Bool) (v : Val) : Val :=
  match floatLayout f, v with
  | _, .nan => .nan
  | some L, .inf neg => decodeFloat L (roundFloat L .rne 0 (.inf neg))
  | some L, .fin neg m e =>
      if m == 0 then v
      else
        let q : Int := max ((Nat.log2 m : Int) + e) (1 - L.bias) - L.mw
        let k := toQuantumDir (up != neg) m e q
        let bits := (q + L.mw + L.bias - 1).toNat * 2 ^ L.mw + k
        decodeFloat L (min bits (maxFinite L) + (if neg then 2 ^ (L.ew + L.mw) else 0))
  | none, .inf neg => decodeElem f (convert f .rtz 0 (.inf neg))
  | none, .fin neg m e =>
      let k : Int := toQuantumDir (up != neg) m e 0
      decodeElem f (convert f .rtz 0 (Val.ofInt (if neg then -k else k)))

/-! Integer chains (R62): int32, wrapping. -/

/-- Wraps modulo 2^32 into the int32 range (R50, R62). -/
def wrap32 (x : Int) : Int := ofBits 32 (toBits 32 x)

end Sys2Proof.Machine
end

