-- ==== Sys2Proof/Machine/Functions.lean ====
section
/-! DEFINITION. The special function unit and the internal functions of the RSU (06, R151 to R155).
The tables are fixed in silicon and not published, so each result is a free value (Config) kept
inside the accuracy bound the manual gives: the free pattern is taken when it lies within the bound
around the exact result, the rounded exact result otherwise (log 9). The exact result is enclosed
by integer arithmetic with 64 fraction bits. -/

namespace Sys2Proof.Machine

/-! floor(2^64 · 2^(2^-i)) for i = 1 to 48. -/
def exp2Consts0 : List Nat :=
  [26087635650665564424, 21936999301089678046, 20116317054877281741, 19263451207323153961,
   18850675170876015534, 18647615946650685158, 18546908069882975960, 18496758270674070881,
   18471734244850835105, 18459234930309000272, 18452988445124272033, 18449865995240371898]
def exp2Consts1 : List Nat :=
  [18448304968436414829, 18447524504564044945, 18447134285009651015, 18446939178327825412,
   18446841625760745902, 18446792849670663276, 18446768461673986097, 18446756267687738521,
   18446750170697637485, 18446747122203342655, 18446745597956384161, 18446744835832952145]
def exp2Consts2 : List Nat :=
  [18446744454771247944, 18446744264240398796, 18446744168974974960, 18446744121342263226,
   18446744097525907405, 18446744085617729507, 18446744079663640560, 18446744076686596088,
   18446744075198073851, 18446744074453812733, 18446744074081682174, 18446744073895616895]
def exp2Consts3 : List Nat :=
  [18446744073802584255, 18446744073756067935, 18446744073732809775, 18446744073721180695,
   18446744073715366155, 18446744073712458885, 18446744073711005250, 18446744073710278433,
   18446744073709915024, 18446744073709733320, 18446744073709642468, 18446744073709597042]
def exp2Consts : List Nat := exp2Consts0 ++ exp2Consts1 ++ exp2Consts2 ++ exp2Consts3

/-- 2^f · 2^64 for f = frac / 2^48 in [0, 1): the product of the constants of the set bits. -/
def exp2Frac (frac : Nat) : List Nat → Nat → Nat → Nat
  | [], _, acc => acc
  | c :: cs, i, acc =>
      exp2Frac frac cs (i + 1)
        (if (frac >>> (47 - i)) % 2 == 1 then acc * c / 2 ^ 64 else acc)

/-- 2^y as an exact-looking value, y finite, with relative error below 2^-40. -/
def exp2Val (neg : Bool) (m : Nat) (e : Int) : Val :=
  -- y in units of 2^-48, rounded towards minus infinity
  let x : Int := if neg then -(m : Int) else m
  let y : Int := if e ≥ -48 then x * 2 ^ (e + 48).toNat else x / 2 ^ (-48 - e).toNat
  let i : Int := y / 2 ^ 48
  let f : Nat := (y % 2 ^ 48).toNat
  -- a positive y below 2^-48 keeps its result above 1: 1 + y · 11/16, where ln 2 is 0.693
  if y == 0 && m != 0 then Val.one.add ((Val.fin false m e).mul (.fin false 11 (-4)))
  else .fin false (exp2Frac f exp2Consts 0 (2 ^ 64)) (i - 64)

/-- The unit in the last place at a finite nonzero value, for a mantissa of `mw` bits and least
quantum exponent `qmin`. -/
def ulpAt (mw : Nat) (qmin : Int) : Val → Val
  | .fin _ m e => .fin false 1 (max ((Nat.log2 m : Int) + e - mw) qmin)
  | .nan | .inf _ => .zero

/-- Whether a value has the sign bit set. -/
def Val.signed : Val → Bool
  | .fin neg _ _ => neg
  | .inf neg => neg
  | .nan => false

/-- The free fp32 pattern when it has the sign of the exact value and lies within `ulp` of it, else the exact value
rounded by RNE (log 9). -/
def clampFree (exact ulp : Val) (free : Nat) : Val :=
  let v := f32 (free % 2 ^ 32)
  if v.signed == exact.signed && (exact.sub ulp).le v && v.le (exact.add ulp) then v else rne32 exact

/-- The free fp32 pattern when it lies within one BF16 ulp of the exact value both as it is and after RNE rounding to
BF16 (R152), else the exact value rounded by RNE (log 9). -/
def clampSfu (exact : Val) (free : Nat) : Val :=
  let u := ulpAt 7 (-133) exact
  let near (v : Val) : Bool := (exact.sub u).le v && v.le (exact.add u)
  let v := f32 (free % 2 ^ 32)
  if near v && near (decodeFloat bf16L (roundFloat bf16L .rne 0 v)) then v else rne32 exact

/-- exp2 of R154: at most 1 fp32 ulp. Of the values that the bound leaves at ±0 it takes 1.0 (DESIGN CHOICE: log 9). -/
def exp2 (y : Val) : Val :=
  match y with
  | .nan => .nan
  | .inf neg => if neg then .zero else .inf false
  | .fin neg m e =>
      if (Val.fin false 128 0).le y then .inf false
      else if y.lt (.fin true 150 0) then .zero
      else if m == 0 then .one
      else
        let x := exp2Val neg m e
        clampFree x (ulpAt 23 (-149) x) (Config.exp2Table (toF32 y))

/-- log2 of a significand in [1, 2), as a 64-bit fraction: one squaring per bit. -/
def log2Frac : Nat → Nat → Nat → Nat
  | 0, _, acc => acc
  | n + 1, x, acc =>
      let s := x * x / 2 ^ 80
      if s ≥ 2 ^ 81 then log2Frac n (s / 2) (2 * acc + 1) else log2Frac n s (2 * acc)

/-- log2 of R154: at most 1 fp32 ulp. Of the values that the bound leaves at 1.0 it takes +0 (DESIGN CHOICE: log 9). -/
def log2 (l : Val) : Val :=
  match l with
  | .nan => .nan
  | .inf neg => if neg then .nan else .inf false
  | .fin neg m e =>
      if m == 0 then .inf true
      else if neg then .nan
      else
        let k := Nat.log2 m
        let frac := log2Frac 64 (m * 2 ^ 80 / 2 ^ k) 0
        let n : Int := ((k : Int) + e) * 2 ^ 64 + frac
        let x := Val.fin (decide (n < 0)) n.natAbs (-64)
        if n == 0 then .zero
        else clampFree x (ulpAt 23 (-149) x) (Config.log2Table (toF32 l))

/-- recip of R154: at most 1 fp32 ulp. The reciprocal of 1.0 is 1.0, as R167 and R170 have it: a row whose sum is 1.0
gives p = 1.0 (log 9). -/
def recip (l : Val) : Val :=
  match l with
  | .nan => .nan
  | .inf neg => .fin neg 0 0
  | .fin neg m _ =>
      if m == 0 then .inf neg
      else if l.eq .one then .one
      else
        let x := Val.one.div l
        clampFree x (ulpAt 23 (-149) x) (Config.recipTable (toF32 l))

/-- The integer square root, bit by bit from `2^n`. -/
def isqrtLoop (x : Nat) : Nat → Nat → Nat
  | 0, r => if (r + 1) * (r + 1) ≤ x then r + 1 else r
  | n + 1, r =>
      let r' := r + 2 ^ (n + 1)
      isqrtLoop x n (if r' * r' ≤ x then r' else r)

/-- The square root of a positive value, rounded down with a sticky bit. -/
def sqrtVal (m : Nat) (e : Int) : Val :=
  let e' : Int := if e % 2 == 0 then e else e - 1
  let m' := if e % 2 == 0 then m else 2 * m
  let n := m' * 2 ^ 128
  let r := isqrtLoop n (Nat.log2 n / 2 + 1) 0
  .fin false (2 * r + (if r * r == n then 0 else 1)) (e' / 2 - 65)

/-- rsqrt of R154: at most 1 fp32 ulp. -/
def rsqrt (v : Val) : Val :=
  match v with
  | .nan => .nan
  | .inf neg => if neg then .nan else .zero
  | .fin neg m e =>
      if m == 0 then .inf false
      else if neg then .nan
      else
        let x := Val.one.div (sqrtVal m e)
        clampFree x (ulpAt 23 (-149) x) (Config.rsqrtTable (toF32 v))

/-- L, the fp32 value of log2 e, and N, the fp32 value of ln 2 (R155). -/
def constL : Val := f32 0x3FB8AA3B
def constN : Val := f32 0x3F317218

/-- exp(x) := exp2(rne32(x × L)) (R155). -/
def expR (x : Val) : Val := exp2 (fmul x constL)

/-- e(v) of R166. -/
def eFun (v : Val) : Val := if v == .inf true then .zero else expR v

/-- q = e^-|2x| or e^-x as an enclosure, for the SFU's exact results. -/
def expNeg (x : Val) : Val :=
  -- 2^64 · log2 e
  let log2e := Val.fin false 26613026195688644983 (-64)
  match (x.mul log2e).neg with
  | .fin neg m e => exp2Val neg m e
  | .inf neg => if neg then .zero else .inf false
  | .nan => .nan

/-- tanh of the SFU (R151 to R153): x itself below 2^-12, ±1 from 9 on, the table within one BF16
ulp between, with the sign restored exactly. -/
def sfuTanh (x : Val) : Val :=
  match x with
  | .nan => .nan
  | .inf neg => .fin neg 1 0
  | .fin neg m e =>
      let a := Val.fin false m e
      if a.lt (.fin false 1 (-12)) then x
      else if (Val.fin false 9 0).le a then .fin neg 1 0
      else
        let q := expNeg (a.add a)
        let t := (Val.one.sub q).div (Val.one.add q)
        let r := clampSfu t (Config.tanhTable (toF32 a))
        if neg then r.neg else r

/-- logistic of the SFU (R151 to R153). -/
def sfuLogistic (x : Val) : Val :=
  match x with
  | .nan => .nan
  | .inf neg => if neg then .zero else .one
  | .fin _ m _ =>
      if m == 0 then .half
      else if (x.abs).lt (.fin false 1 (-126)) then .half
      else if x.lt (.fin true 104 0) then .zero
      else if (Val.fin false 18 0).le x then .one
      else
        -- near zero 1/2 + x/4 lies within x³/48 of the function
        let t := if (x.abs).lt (.fin false 1 (-20)) then Val.half.add (x.mul (.fin false 1 (-2)))
          else Val.one.div (Val.one.add (expNeg x))
        clampSfu t (Config.logisticTable (toF32 x))

/-- The SFU function of an `SFU_FN` field: 1 tanh, 2 logistic, otherwise none (R104, R109). -/
def sfuFn (fn : Nat) (x : Val) : Val :=
  if fn == 1 then sfuTanh x else if fn == 2 then sfuLogistic x else x

end Sys2Proof.Machine
end

