-- ==== Sys2Proof/Machine/Ops.lean ====
section
/-! DEFINITION. Named operations over memory and translation (01 R37 to R40, 08), the memory pools, and
the tables of sites, clusters, contexts and commands. -/

namespace Sys2Proof.Machine

/-! Bytes of physical memory. An unlisted address reads 0 (log 1). -/

/-- The byte at a physical address. -/
def memGet : List Host.Cell → Nat → Byte
  | [], _ => 0
  | (x, b) :: t, a => if x = a then b else memGet t a

/-- Writes a byte, keeping the canonical form: addresses strictly rising, no listed byte 0. -/
def memSet : List Host.Cell → Nat → Byte → List Host.Cell
  | [], a, b => if b = 0 then [] else [(a, b)]
  | (x, y) :: t, a, b =>
      if a < x then (if b = 0 then (x, y) :: t else (a, b) :: (x, y) :: t)
      else if x = a then (if b = 0 then t else (a, b) :: t)
      else (x, y) :: memSet t a b

/-- Writes consecutive bytes. -/
def memPut (m : List Host.Cell) (a : Nat) : List Byte → List Host.Cell
  | [] => m
  | b :: bs => memPut (memSet m a b) (a + 1) bs

/-- Zero-fills `[a, a + n)`. -/
def memClear (m : List Host.Cell) (a n : Nat) : List Host.Cell :=
  m.filter (fun c => decide (c.1 < a ∨ a + n ≤ c.1))

/-- Copies the listed bytes of `[src, src + n)` over a zeroed `[dst, dst + n)`. -/
def memCopyZeroed (m : List Host.Cell) (src dst n : Nat) : List Host.Cell :=
  (m.filter (fun c => decide (src ≤ c.1 ∧ c.1 < src + n))).foldl
    (fun acc c => memSet acc (dst + (c.1 - src)) c.2) (memClear m dst n)

/-- The canonical form of a memory: addresses strictly rising from `lo`, no listed byte 0. -/
def memWfFrom : Nat → List Host.Cell → Bool
  | _, [] => true
  | lo, (a, b) :: t => decide (lo ≤ a) && b != 0 && memWfFrom (a + 1) t

def Memory.wf (m : List Host.Cell) : Bool := memWfFrom 0 m

/-! The physical memory map (R37, R40, R199). -/

/-- End of fitted capacity memory (R3, R455). -/
def capEnd (capMem : Nat) : Nat :=
  if capMem = 2 then 0x404000000000 else if capMem = 1 then 0x402000000000 else 0x400000000000

/-- Whether a translated access may reach a physical address (R37, R40): stacked DRAM for all, LSM for cores' CDMAs
and control cores, HSR and fitted capacity memory for all but NBUs; boot flash and registers for none. -/
def paReachable (capMem : Nat) (by' : Issuer) (pa : Nat) : Bool :=
  decide (pa < 0x1000000000) ||
  ((by' == .core || by' == .control) && decide (0x010000000000 ≤ pa ∧ pa < 0x010040000000)) ||
  (by' != .nbu && decide (0x020000000000 ≤ pa ∧ pa < 0x020004000000)) ||
  (by' != .nbu && decide (0x400000000000 ≤ pa ∧ pa < capEnd capMem))

/-- Who makes the reads of an access: a line outside an NBU's partition is copied to it by a core's CDMA (R193, R224; log
48). -/
def View.reader (v : View) : Issuer := if v.issuer = .nbu then .core else v.issuer

/-- Who writes an address: what the vector engines of cores write of a near-bank command is a core's (R228); a line of
another partition than the NBU's is carried there by a core's CDMA (R193; log 48). -/
def View.writer (v : View) (va : Nat) : Issuer :=
  if v.issuer = .nbu && v.byCores.any (fun x => decide (x.1 ≤ va ∧ va < x.1 + x.2)) then .core else v.issuer

/-- The capacity channel of a physical address (R198). -/
def capChannel (pa : Nat) : Nat := (pa / 256 % 32) ^^^ (pa / 0x2000 % 32)

/-- The partition of a stacked-DRAM address (R38). -/
def paPartition (pa : Nat) : Nat := pa / 0x10000000

/-- The site whose LSM holds a physical address (R37). -/
def lsmSite (pa : Nat) : Option Nat :=
  if 0x010000000000 ≤ pa ∧ pa < 0x010040000000 then some ((pa - 0x010000000000) / 0x400000) else none

/-- The byte at a physical address: of an LSM that a tile has used, and where nothing was written since, a free value
(R73; log 7). -/
def MemSys.byteAt (ms : MemSys) (pa : Nat) : Byte :=
  match (lsmSite pa).bind (fun n => alFind n ms.lsm) with
  | some k => if ms.lsmKept.contains pa then memGet ms.mem pa else BitVec.ofNat 8 (Config.free (k + pa))
  | none => memGet ms.mem pa

/-- Stores one byte. -/
def MemSys.putByte (ms : MemSys) (pa : Nat) (b : Byte) : MemSys :=
  { ms with mem := memSet ms.mem pa b
            lsmKept := if (lsmSite pa).isSome && !ms.lsmKept.contains pa then pa :: ms.lsmKept else ms.lsmKept }

/-! Page table entries (R200 to R202). -/

/-- Address shift of a table level. -/
def levelShift (level : Nat) : Nat :=
  if level = 0 then 39 else if level = 1 then 30 else if level = 2 then 21 else 16

def pteV (w : DWord) : Bool := w.getLsbD 0
def pteLeaf (w : DWord) : Bool := w.getLsbD 1
def pteW (w : DWord) : Bool := w.getLsbD 2
def pteCow (w : DWord) : Bool := w.getLsbD 3
def ptePin (w : DWord) : Bool := w.getLsbD 4
def pteKind (w : DWord) : Nat := (w.toNat >>> 6) % 4
def pteHome (w : DWord) : Nat := (w.toNat >>> 8) % 256
def ptePa (w : DWord) : Nat := (w.toNat >>> 16) % 2 ^ 32 * 65536
def pteRef (w : DWord) : Nat := w.toNat >>> 48

/-- A leaf entry of R201. -/
def mkPte (w cow pin : Bool) (kind home pa ref : Nat) : DWord :=
  BitVec.ofNat 64 (3 + (if w then 4 else 0) + (if cow then 8 else 0) + (if pin then 16 else 0)
    + kind % 4 * 64 + home % 256 * 256 + pa / 65536 % 2 ^ 32 * 65536 + ref % 65536 * 2 ^ 48)

/-- HOME of WEIGHT and SEQ pages, and of first writes by hub blocks (R211). -/
def homeOfVa (va : Nat) : Nat := (va >>> 21) % 256

/-- An entry with `V` = 0: its `HOME` is the partition the page would be taken from (R201, R211). -/
def emptyEntry (va : Nat) : DWord := BitVec.ofNat 64 (homeOfVa va * 256)

/-- The table that the entry of level `level` at index `idx` points to: its physical address, free within what R200
and R204 fix: level 1 tables in HSR, level 2 and 3 tables in a partition's firmware reserve, 4 KiB- or 256-byte aligned
(log 13). -/
def tableAddr (level idx : Nat) : Nat :=
  let x := Config.tableAt level idx
  match level with
  | 0 => 0x020000000000 + x % 0x4000 * 0x1000
  | 1 => x / 0x600 % 256 * 0x10000000 + 0xFA00000 + x % 0x600 * 0x1000
  | _ => x / 0x6000 % 256 * 0x10000000 + 0xFA00000 + x % 0x6000 * 0x100

/-- A pointer entry of R202. -/
def mkPtr (level idx : Nat) : DWord := BitVec.ofNat 64 (1 + tableAddr level idx)

/-- A valid entry that breaks R200, R201 or R202. -/
def pteMalformed (p : Pte) : Bool :=
  if pteLeaf p.word then
    p.word.getLsbD 5 || p.level == 0 || decide (3 < p.level) ||
    (p.level == 2 && ptePa p.word % 0x200000 != 0) || (p.level == 1 && ptePa p.word % 0x40000000 != 0)
  else decide (3 ≤ p.level) || (p.word.toNat >>> 2) % 64 != 0 || pteRef p.word != 0 ||
    (p.level != 2 && (p.word.toNat >>> 8) % 16 != 0)

def pteAt (ptes : List Pte) (level idx : Nat) : Option Pte :=
  ptes.find? (fun p => p.level == level && p.idx == idx)

/-- The valid entry that a descent through the levels ends on: a leaf, or one that is malformed; none at an entry with
`V` = 0 (R200 to R202). -/
def walkFrom (ptes : List Pte) (va : Nat) : List Nat → Option Pte
  | [] => none
  | l :: ls =>
      match pteAt ptes l (va >>> levelShift l) with
      | none => none
      | some p =>
          if !pteV p.word then none
          else if pteLeaf p.word || pteMalformed p then some p
          else walkFrom ptes va ls

/-- The walk over the four levels: the entry that covers a virtual address, whatever its page size. -/
def leafOf (ptes : List Pte) (va : Nat) : Option Pte := walkFrom ptes va [0, 1, 2, 3]

/-- The entry word of a level for an address, mapped or not. -/
def MemSys.entry (ms : MemSys) (level va : Nat) : DWord :=
  ((pteAt ms.ptes level (va >>> levelShift level)).map Pte.word).getD (emptyEntry va)

/-- The valid leaf entries. -/
def MemSys.leaves (ms : MemSys) : List Pte := ms.ptes.filter (fun p => pteV p.word && pteLeaf p.word)

/-- Replaces the entry of the same level and index, or adds it. -/
def pteSet (ptes : List Pte) (p : Pte) : List Pte :=
  p :: ptes.filter (fun q => !(q.level == p.level && q.idx == p.idx))

/-- Adds the pointer entry of a level on the way to an address, where none stands. -/
def addPtr (va : Nat) (ptes : List Pte) (level : Nat) : List Pte :=
  match pteAt ptes level (va >>> levelShift level) with
  | some _ => ptes
  | none => ⟨level, va >>> levelShift level, mkPtr level (va >>> levelShift level)⟩ :: ptes

/-- Drops an entry from every TLB: the invalidation that follows each change of an entry (R205). -/
def tlbDrop (tlbs : List (Nat × List Pte)) (level idx : Nat) : List (Nat × List Pte) :=
  tlbs.map (fun t => (t.1, t.2.filter (fun q => !(q.level == level && q.idx == idx))))

def pteDel (ptes : List Pte) (level idx : Nat) : List Pte :=
  ptes.filter (fun q => !(q.level == level && q.idx == idx))

/-- Firmware changes an entry, in the tables and its master copy (R204), and broadcasts the invalidation to the TLBs and the walk cache (R205); tables that were
missing on the way are linked in (R202). -/
def MemSys.setPte (ms : MemSys) (p : Pte) : MemSys :=
  { ms with
    ptes := (List.range p.level).foldl (addPtr (p.idx <<< levelShift p.level)) (pteSet ms.ptes p)
    masters := (List.range p.level).foldl (addPtr (p.idx <<< levelShift p.level)) (pteSet ms.masters p)
    tlbs := tlbDrop ms.tlbs p.level p.idx, walkCache := pteDel ms.walkCache p.level p.idx }
def MemSys.delPte (ms : MemSys) (level idx : Nat) : MemSys :=
  { ms with ptes := pteDel ms.ptes level idx, masters := pteDel ms.masters level idx, tlbs := tlbDrop ms.tlbs level idx
            walkCache := pteDel ms.walkCache level idx }

/-- An entry with another reference count. -/
def Pte.withRef (p : Pte) (f : Nat → Nat) : Pte :=
  let w := p.word
  { p with word := mkPte (pteW w) (pteCow w) (ptePin w) (pteKind w) (pteHome w) (ptePa w) (f (pteRef w)) }

/-- Sets the reference count of every entry that maps a physical page (R187, R201), each with its invalidation. -/
def MemSys.setRef (ms : MemSys) (pa : Nat) (f : Nat → Nat) : MemSys :=
  (ms.leaves.filter (fun p => ptePa p.word == pa && pteKind p.word == 2)).foldl (fun ms p => ms.setPte (p.withRef f)) ms

/-- The physical address of `va` under its leaf. -/
def leafPa (p : Pte) (va : Nat) : Nat := ptePa p.word + va % 2 ^ levelShift p.level

/-- A hit in the TLBs of the access in progress (R203). -/
def tlbHit (ms : MemSys) (va : Nat) : Option Pte :=
  ms.view.tlbs.findSome? (fun n =>
    ((alFind n ms.tlbs).getD []).find? (fun p => p.idx == va >>> levelShift p.level))

/-- Translation: a TLB hit, else the walk (R203, R204). -/
def MemSys.translate (ms : MemSys) (va : Nat) : Option Pte :=
  match tlbHit ms va with
  | some p => some p
  | none => leafOf ms.ptes va

/-- The declared range that holds an address (R207), with its model. -/
def rangeOf (models : List Model) (va : Nat) : Option (Model × Range) :=
  models.findSome? (fun m =>
    (m.ranges.find? (fun r => decide (r.base ≤ va ∧ va < r.base + r.len))).map (fun r => (m, r)))

def inSeq (models : List Model) (va : Nat) : Bool :=
  match rangeOf models va with
  | some (_, r) => r.kind == 2
  | none => false

/-! Accesses by virtual address. -/

/-- A failure and the address it is captured with (R206, R449): virtual for translation and protection, physical
for memory and region errors, 0 otherwise. -/
abbrev Err := Res × Nat

/-- One byte read (R206, R210): an unmapped WORK page reads zeros, any other unmapped address faults;
a physical address outside the map is refused (R40); a line found uncorrectable delivers no data
(R196); a byte that races with its command's own writes reads as the race has it (R70). -/
def readByte (s : State) (va : Nat) : Except Err Byte :=
  match s.ms.translate va with
  | some p =>
      if pteMalformed p then .error (.translationFault, va)
      else
        let pa := leafPa p va
        if !paReachable s.dev.capMem s.ms.view.reader pa then .error (.badAddress, pa)
        else if s.ms.badLines.contains (pa / 64 * 64) then .error (.memoryUncorrected, pa)
        else .ok ((alFind va s.ms.view.race).getD (s.ms.byteAt pa))
  | none =>
      match rangeOf s.models va with
      | some (_, r) => if r.kind = 1 then .ok 0 else .error (.translationFault, va)
      | none => .error (.translationFault, va)

/-- `n` bytes from `va`. -/
def readBytes (s : State) (va : Nat) : Nat → Except Err (List Byte)
  | 0 => .ok []
  | n + 1 =>
      match readByte s va with
      | .error r => .error r
      | .ok b =>
        match readBytes s (va + 1) n with
        | .error r => .error r
        | .ok bs => .ok (b :: bs)

/-- A little-endian number of `n` bytes at `va`. -/
def readLE (s : State) (va n : Nat) : Except Err Nat :=
  match readBytes s va n with
  | .ok b => .ok (leAt b 0 n)
  | .error r => .error r

/-! The pools (R197, R211). Inside a partition scratch pages lie lowest, then frame cache, then model
(log 12). -/

inductive Pool where
  | scratch | frameCache | model
  deriving DecidableEq, Repr

/-- First page and end of a pool within each partition's 125 pool pages. -/
def poolSpan (ms : MemSys) : Pool → Nat × Nat
  | .scratch => (0, 2 * ms.scratchGib)
  | .frameCache => (2 * ms.scratchGib, 2 * ms.scratchGib + 2 * ms.fcGib)
  | .model => (2 * ms.scratchGib + 2 * ms.fcGib, 125)

/-- Physical 2 MiB page number of page `i` of a partition. -/
def poolPage (partition i : Nat) : Nat := partition * 128 + i

/-- A page that is not in use is free: one whose background zero-fill is still to come gets it when taken. -/
def pageFree (ms : MemSys) (p : Nat) : Bool := !ms.usedPages.contains p

/-- The lowest free page of a pool in one partition. -/
def freeIn (ms : MemSys) (k : Pool) (partition : Nat) : Option Nat :=
  let sp := poolSpan ms k
  ((List.range (sp.2 - sp.1)).map (fun i => poolPage partition (sp.1 + i))).find? (pageFree ms)

/-- A page of a pool from its home partition, or the next partition that has one (R211). -/
def findPage (ms : MemSys) (k : Pool) (home : Nat) : Option Nat :=
  (List.range 256).findSome? (fun i => freeIn ms k ((home + i) % 256))

/-- Fills whole lines with zeros: whole-line writes, which also end uncorrectable errors (R183, R196). -/
def zeroFill (ms : MemSys) (a n : Nat) : MemSys :=
  { ms with mem := memClear ms.mem a n, badLines := ms.badLines.filter (fun l => decide (l < a ∨ a + n ≤ l)) }

/-- Takes page `p`; it is full of zeros (R183, R197). -/
def takeThis (ms : MemSys) (p : Nat) : MemSys :=
  let ms := zeroFill ms (p * 0x200000) 0x200000
  { ms with usedPages := p :: ms.usedPages, zeroing := ms.zeroing.filter (· != p) }

/-- Takes a page of a pool. -/
def takePage (ms : MemSys) (k : Pool) (home : Nat) : Option (Nat × MemSys) :=
  (findPage ms k home).map (fun p => (p, takeThis ms p))

/-- Releases a page: it waits for its background zero-fill (R183). -/
def dropPage (ms : MemSys) (p : Nat) : MemSys :=
  if ms.usedPages.contains p then
    { ms with usedPages := ms.usedPages.filter (· != p), zeroing := ms.zeroing ++ [p] }
  else ms

/-- Pages of a pool in use. -/
def poolUsed (ms : MemSys) (k : Pool) : Nat :=
  let sp := poolSpan ms k
  (ms.usedPages.filter (fun p => decide (sp.1 ≤ p % 128 ∧ p % 128 < sp.2))).length

def poolTotal (ms : MemSys) (k : Pool) : Nat := let sp := poolSpan ms k; 256 * (sp.2 - sp.1)

/-- Free pages as the pool registers report them (R215). -/
def modelFree (ms : MemSys) : Nat := poolTotal ms .model - poolUsed ms .model - ms.modelReserved
def fcFree (ms : MemSys) : Nat := poolTotal ms .frameCache - poolUsed ms .frameCache
def scratchFree (ms : MemSys) : Nat := poolTotal ms .scratch - poolUsed ms .scratch

/-! Range pages (R209). -/

/-- The pages of a range from `va` on: the largest permitted size to which the address is aligned and
that the remaining length holds. Each page is (level, address). -/
def pagesFrom (kind : Nat) : Nat → Nat → Nat → List (Nat × Nat)
  | 0, _, _ => []
  | fuel + 1, va, len =>
      if len = 0 then []
      else if kind = 3 ∧ va % 0x40000000 = 0 ∧ 0x40000000 ≤ len then
        (1, va) :: pagesFrom kind fuel (va + 0x40000000) (len - 0x40000000)
      else if va % 0x200000 = 0 ∧ 0x200000 ≤ len then
        (2, va) :: pagesFrom kind fuel (va + 0x200000) (len - 0x200000)
      else (3, va) :: pagesFrom kind fuel (va + 0x10000) (len - 0x10000)

def Range.pages (r : Range) : List (Nat × Nat) := pagesFrom r.kind (r.len / 0x10000) r.base r.len

/-- The page of a range that holds an address: (level, base). -/
def Range.pageOf (r : Range) (va : Nat) : Option (Nat × Nat) :=
  r.pages.find? (fun p => decide (p.2 ≤ va ∧ va < p.2 + 2 ^ levelShift p.1))

/-- The 64 KiB pages of a model's WEIGHT and WORK ranges in ascending address: 32 share a pool page
(R212). -/
def Model.smallPages (m : Model) : List Nat :=
  let l := (m.ranges.filter (fun r => decide (r.kind ≤ 1))).flatMap
    (fun r => (r.pages.filter (fun p => p.1 == 3)).map (fun p => p.2))
  l.foldl (fun acc a => insertNat a acc) []
where
  /-- Inserts a number into an ascending list. -/
  insertNat (a : Nat) : List Nat → List Nat
    | [] => [a]
    | b :: t => if a ≤ b then a :: b :: t else b :: insertNat a t

/-- Physical address for one model page: a 2 MiB pool page, or the 64 KiB piece of the pool page that
its group of 32 shares (R212), taken when its first piece is mapped. -/
def placeModelPage (ms : MemSys) (m : Model) (level va home : Nat) : Option (Nat × MemSys) :=
  if level = 2 then (takePage ms .model home).map (fun q => (q.1 * 0x200000, q.2))
  else
    let small := m.smallPages
    let n := small.findIdx (· == va)
    let group := (small.drop (n / 32 * 32)).take 32
    let k := n % 32
    match group.findSome? (fun v => pteAt ms.ptes 3 (v >>> 16)) with
    | some p => some (ptePa p.word / 0x200000 * 0x200000 + k * 0x10000, ms)
    | none => (takePage ms .model home).map (fun q => (q.1 * 0x200000 + k * 0x10000, q.2))

/-- Maps the WORK page that holds `va` (R209 to R211): taken from the pages reserved at load. -/
def mapWork (s : State) (va home : Nat) : State :=
  match rangeOf s.models va with
  | none => s
  | some (m, r) =>
    match r.pageOf va with
    | none => s
    | some (level, base) =>
      match leafOf s.ms.ptes va with
      | some _ => s
      | none =>
        match placeModelPage s.ms m level base home with
        | none => s
        | some (pa, ms) =>
            let fresh := ms.usedPages.length - s.ms.usedPages.length
            let p : Pte := ⟨level, va >>> levelShift level, mkPte true false false 0 home pa 1⟩
            { s with ms := { ms.setPte p with modelReserved := ms.modelReserved - fresh } }

/-! Writes by virtual address. -/

/-- What a write to an address meets. -/
inductive WriteTo where
  | pa (a : Nat)
  | unmappedWork
  | cow (p : Pte)
  | fault (r : Err)
  deriving DecidableEq, Repr

/-- R40, R187, R206, R209, R210. -/
def writeTarget (s : State) (va : Nat) : WriteTo :=
  match s.ms.translate va with
  | some p =>
      if pteMalformed p then .fault (.translationFault, va)
      else if !pteW p.word then .fault (.writeProtected, va)
      else if pteCow p.word then .cow p
      else
        let pa := leafPa p va
        if paReachable s.dev.capMem (s.ms.view.writer va) pa then .pa pa else .fault (.badAddress, pa)
  | none =>
      match rangeOf s.models va with
      | some (_, r) => if r.kind = 1 then .unmappedWork else .fault (.translationFault, va)
      | none => .fault (.translationFault, va)

/-- The write list covers the whole aligned 64-byte line of `va` (R196). -/
def coversLine (ws : List (Nat × Byte)) (va : Nat) : Bool :=
  (List.range 64).all (fun i => ws.any (fun w => w.1 == va / 64 * 64 + i))

/-- Adds a byte to the write that a command holds on a page, or opens the hold. -/
def addHeld (held : List Held) (cmd page : Nat) (cow : Bool) (lock newPa va : Nat) (b : Byte) : List Held :=
  if held.any (fun h => h.cmd == cmd && h.page == page) then
    held.map (fun h => if h.cmd == cmd && h.page == page then { h with writes := h.writes ++ [(va, b)] } else h)
  else held ++ [⟨cmd, page, cow, lock, newPa, [(va, b)]⟩]

/-- The base address of the page that holds `va`: of its leaf, or of its range's page. -/
def pageBase (s : State) (va : Nat) : Nat :=
  match leafOf s.ms.ptes va with
  | some p => p.idx <<< levelShift p.level
  | none =>
    match rangeOf s.models va with
    | some (_, r) => ((r.pageOf va).map Prod.snd).getD va
    | none => va

/-- Stores a byte at `pa`, the place of `va`, as part of the write list `ws` (R196): into an uncorrectable line only
with the whole line, whose error it ends. -/
def storeByte (s : State) (ws : List (Nat × Byte)) (pa va : Nat) (b : Byte) : Except Err State :=
  if s.ms.badLines.contains (pa / 64 * 64) then
    if coversLine ws va then
      .ok { s with ms := { s.ms.putByte pa b with badLines := s.ms.badLines.filter (· != pa / 64 * 64) } }
    else .error (.memoryUncorrected, pa)
  else .ok { s with ms := s.ms.putByte pa b }

/-- Whether a fault of another command holds the lock of the physical page that an entry maps (R188, R189). -/
def pageLocked (s : State) (cmd base : Nat) (p : Pte) : Bool :=
  s.ms.held.any (fun h => h.cow && !(h.cmd == cmd && h.page == base) && h.lock == ptePa p.word)

/-- One byte write as part of the write list `ws`. Hub blocks map a WORK page in the same step; a core's
or an NBU's first write is held for `WORK_PAGE_MAPPED`, a write to a shared copy-on-write page for
`COPY_COMPLETE` (R188, R210; log 14): it takes the page for its copy unless another fault has the page's lock (R189). -/
def writeByte (s : State) (cmd : Nat) (hub : Bool) (ws : List (Nat × Byte)) (va : Nat) (b : Byte) :
    Except Err State :=
  match writeTarget s va with
  | .fault r => .error r
  | .pa pa => storeByte s ws pa va b
  | .unmappedWork =>
      if hub then
        let s' := mapWork s va (homeOfVa va)
        match writeTarget s' va with
        | .pa pa => storeByte s' ws pa va b
        | .fault r => .error r
        | .unmappedWork | .cow _ => .error (.noResources, 0)
      else .ok { s with ms := { s.ms with held := addHeld s.ms.held cmd (pageBase s va) false 0 0 va b } }
  | .cow p =>
      let base := p.idx <<< levelShift p.level
      if pteRef p.word = 1 then
        let q : Pte := { p with word := p.word &&& ~~~(8 : DWord) }
        storeByte { s with ms := s.ms.setPte q } ws (leafPa q va) va b
      else if s.ms.held.any (fun h => h.cmd == cmd && h.page == base) || pageLocked s cmd base p then
        .ok { s with ms := { s.ms with held := addHeld s.ms.held cmd base true (ptePa p.word) 0 va b } }
      else
        match takePage s.ms .frameCache (homeOfVa base) with
        | none => .error (.noResources, 0)
        | some (pg, ms) =>
            .ok { s with ms := { ms with held := addHeld ms.held cmd base true (ptePa p.word) (pg * 0x200000) va b } }

/-- Applies a write list in order; bytes written before a fault stay written (R206). -/
def writeAll (cmd : Nat) (hub : Bool) (ws : List (Nat × Byte)) :
    List (Nat × Byte) → State → State × Option Err
  | [], s => (s, none)
  | (va, b) :: t, s =>
      match writeByte s cmd hub ws va b with
      | .error r => (s, some r)
      | .ok s' => writeAll cmd hub ws t s'

/-- The writes of consecutive bytes. -/
def spread (va : Nat) : List Byte → List (Nat × Byte)
  | [] => []
  | b :: bs => (va, b) :: spread (va + 1) bs

/-! Sites, partitions, clusters (R18 to R20). -/

def State.site (s : State) (n : Nat) : Site := (alFind n s.sites).getD (Site.reset n)
def State.setSite (s : State) (n : Nat) (x : Site) : State := { s with sites := alSet n x s.sites }
def State.part (s : State) (n : Nat) : Partition := (alFind n s.parts).getD Partition.reset
def State.setPart (s : State) (n : Nat) (x : Partition) : State := { s with parts := alSet n x s.parts }
def State.cluster (s : State) (n : Nat) : Cluster := (alFind n s.clusters).getD Cluster.reset
def State.setCluster (s : State) (n : Nat) (x : Cluster) : State :=
  { s with clusters := alSet n x s.clusters }

def State.svcIsl (s : State) (t : Nat) : Isl := s.svc.getD t Isl.reset
def State.compIsl (s : State) (t : Nat) : Isl := s.comp.getD t Isl.reset
def State.stkIsl (s : State) (t : Nat) : Isl := s.stk.getD t Isl.reset

/-- State and epoch of an island (R446). -/
def State.isl (s : State) : Island → Isl
  | .aon => ⟨.on, s.aonEpoch⟩
  | .hub => s.hub
  | .service t => s.svcIsl t
  | .compute t => s.compIsl t
  | .stack t => s.stkIsl t
  | .capMem => s.capMem
  | .site n => (s.site n).isl

/-- Sets the state and epoch of an island. -/
def State.setIsl (s : State) (i : Island) (x : Isl) : State :=
  match i with
  | .aon => { s with aonEpoch := x.epoch }
  | .hub => { s with hub := x }
  | .service t => { s with svc := updAt s.svc t (fun _ => x) }
  | .compute t => { s with comp := updAt s.comp t (fun _ => x) }
  | .stack t => { s with stk := updAt s.stk t (fun _ => x) }
  | .capMem => { s with capMem := x }
  | .site n => s.setSite n { s.site n with isl := x }

/-- The site that carries logical index `k` of a cluster, when present (R19, R458). -/
def State.siteOfIndex (s : State) (cl k : Nat) : Option Nat :=
  let c := s.cluster cl
  if c.present.getD k false then some (cl * 16 + c.map.getD k 0) else none

/-- The site of a logical core (R18, R20). -/
def State.siteOfLcore (s : State) (l : Nat) : Option Nat := s.siteOfIndex (l / 15) (l % 15)

/-- Whether a cluster's cores may take work: their islands are not reset or failed (R381). -/
def State.clusterUp (s : State) (cl : Nat) : Bool :=
  (s.svcIsl (cl / 4)).state == .on && (s.compIsl (cl / 4)).state != .off

/-- Enabled logical cores of a cluster, ascending (R20, R381, R384). -/
def State.enabledIn (s : State) (cl : Nat) : List Nat :=
  if s.clusterUp cl then
    ((List.range 15).filter (fun k =>
      match s.siteOfIndex cl k with
      | some n => !(s.site n).resetting && (s.site n).isl.state != .off && (s.site n).isl.state != .test
      | none => false)).map (fun k => cl * 15 + k)
  else []

/-- Enabled logical cores of a cluster mask, ascending. -/
def State.enabledCores (s : State) (mask : List Nat) : List Nat := mask.flatMap s.enabledIn

/-- The enabled-core count and the free moons of `DEV_CORES` (R456). -/
def State.coreCount (s : State) : Nat :=
  ((List.range 16).map (fun c => ((s.cluster c).present.filter id).length)).sum
def State.moonsFree (s : State) : Nat :=
  ((List.range 16).filter (fun c => (s.cluster c).moonFree)).length

/-! Contexts and commands. -/

def State.ctx? (s : State) (n : Nat) : Option Ctx := s.ctxs.find? (fun c => c.num == n)
def State.setCtx (s : State) (c : Ctx) : State :=
  { s with ctxs := s.ctxs.map (fun d => if d.num == c.num then c else d) }
def State.dropCtx (s : State) (n : Nat) : State := { s with ctxs := s.ctxs.filter (fun c => c.num != n) }
def State.updCtx (s : State) (n : Nat) (f : Ctx → Ctx) : State :=
  { s with ctxs := s.ctxs.map (fun d => if d.num == n then f d else d) }

def State.cmd? (s : State) (n : Nat) : Option Cmd := s.cmds.find? (fun c => c.id == n)
def State.updCmd (s : State) (n : Nat) (f : Cmd → Cmd) : State :=
  { s with cmds := s.cmds.map (fun d => if d.id == n then f d else d) }
def State.dropCmd (s : State) (n : Nat) : State := { s with cmds := s.cmds.filter (fun c => c.id != n) }

def State.conn? (s : State) (n : Nat) : Option Conn := s.conns.find? (fun c => c.id == n)
def State.updConn (s : State) (n : Nat) (f : Conn → Conn) : State :=
  { s with conns := s.conns.map (fun d => if d.id == n then f d else d) }

def State.model? (s : State) (n : Nat) : Option Model := s.models.find? (fun m => m.id == n)
def State.graph? (s : State) (n : Nat) : Option Graph := s.graphs.find? (fun g => g.id == n)
def State.updGraph (s : State) (n : Nat) (f : Graph → Graph) : State :=
  { s with graphs := s.graphs.map (fun g => if g.id == n then f g else g) }
def Graph.version? (g : Graph) (v : Nat) : Option Version := g.versions.find? (fun x => x.num == v)

/-- The first failure of a request stops its issue (R280, R291). -/
def Ctx.fail (c : Ctx) (r : Res) : Ctx :=
  { c with failure := some (c.failure.getD r), issuing := false }

def Ctx.note (c : Ctx) (r : Res) : Ctx := { c with info := c.info ||| r.infoBit }

/-- A scalar register (R292, R297). -/
def Ctx.sreg (c : Ctx) (n : Nat) : DWord := c.sregs.getD n 0
def Ctx.setSreg (c : Ctx) (n : Nat) (v : DWord) : Ctx := { c with sregs := updAt c.sregs n (fun _ => v) }
def Ctx.pred (c : Ctx) (n : Nat) : Bool := c.preds.getD n false
def Ctx.setPred (c : Ctx) (n : Nat) (v : Bool) : Ctx := { c with preds := updAt c.preds n (fun _ => v) }

/-- Whether an event is satisfied (R289): every issued command that signals it has completed. -/
def Ctx.satisfied (x : Ctx) (ev : Nat) : Bool :=
  ev == 0 || x.events.all (fun e => e.ev != ev || e.issued == e.completed)

/-- Raises the counts of an event. -/
def Ctx.bumpEvent (x : Ctx) (ev issued completed : Nat) : Ctx :=
  if ev = 0 then x
  else if x.events.any (fun e => e.ev == ev) then
    { x with events := x.events.map (fun e =>
        if e.ev = ev then ⟨ev, e.issued + issued, e.completed + completed⟩ else e) }
  else { x with events := x.events ++ [⟨ev, issued, completed⟩] }

/-- Writes a scalar register of a command's context. -/
def State.setSregOf (s : State) (ctx n : Nat) (v : DWord) : State := s.updCtx ctx (fun c => c.setSreg n v)

end Sys2Proof.Machine
end

