-- ==== Sys2Proof/Machine/Operands.lean ====
section
/-! DEFINITION. Operand forms of the commands: header and events words (R282, R283), tensor descriptors
(R286, R287), INT4_G32 side tables (R51 to R53), the conversion block (R54 to R56), prologue and
epilogue blocks (R104 to R114), channel vectors, and the shape of an operator's outcome. -/

namespace Sys2Proof.Machine

/-- Fails with `r` unless `c` holds: one check of a command's check order. -/
def require (c : Bool) (r : Res) : Except Err Unit := if c then .ok () else .error (r, 0)

/-! Header and events words (R282, R283). -/

def hdrOpcode (u : Unit64) : Nat := byteAt u 0
def hdrUnits (u : Unit64) : Nat := fld u 1 0 4 + 1
def hdrRepro (u : Unit64) : Bool := fld u 1 4 1 == 1
def hdrMirror (u : Unit64) : Bool := fld u 1 5 1 == 1
def hdrSettle (u : Unit64) : Bool := fld u 1 6 1 == 1
def hdrNotify (u : Unit64) : Bool := fld u 1 7 1 == 1
def hdrMask (u : Unit64) : Nat := leAt u 2 2
def hdrWait (u : Unit64) : Nat := leAt u 4 2
def hdrSignal (u : Unit64) : Nat := leAt u 6 2

/-- The clusters of a mask; 0 selects all 16 (R282). -/
def maskClusters (m : Nat) : List Nat :=
  (List.range 16).filter (fun k => m == 0 || (m >>> k) % 2 == 1)

/-! Tensor descriptors. -/

/-- A tensor descriptor with its base resolved (R286, R287). -/
structure Desc where
  base : Nat
  rawBase : Nat
  code : Nat
  rank : Nat
  dims : List Nat
  strides : List Int
  scaleVa : Nat
  regEn : Bool
  structOk : Bool
  deriving DecidableEq, Repr

/-- Element size in bits; 8 for a code without a format (R46). -/
def codeBits (code : Nat) : Nat :=
  match fmtOfCode code with
  | some .int4g32 => 4
  | some f => 8 * f.bytes
  | none => 8

/-- Reads a descriptor; `sregs` are the scalar registers at issue. -/
def parseDesc (sregs : List DWord) (u : Unit64) : Desc :=
  let rank := fld u 7 0 3
  let dimAt (k : Nat) : Nat := leAt u (8 + 4 * k) 4
  let strAt (k : Nat) : Int := ofBits 32 (leAt u (32 + 4 * k) 4)
  let regEn := fld u 7 3 1 == 1
  let raw := leAt u 0 6
  let base := if regEn then (raw + (sregs.getD (fld u 62 0 6) 0).toNat) % 2 ^ 64 else raw
  let rest := (List.range 6).filter (fun k => decide (rank ≤ k))
  { base := base, rawBase := raw, code := byteAt u 6, rank := rank,
    dims := (List.range rank).map (fun k => dimAt k % 2 ^ 25)
    strides := (List.range rank).map strAt
    scaleVa := leAt u 56 6, regEn := regEn,
    structOk :=
      fld u 7 4 4 == 0 && fld u 62 6 2 == 0 && byteAt u 63 == 0 &&
      (List.range 6).all (fun k => decide (dimAt k < 2 ^ 25)) &&
      rest.all (fun k => dimAt k == 0 && leAt u (32 + 4 * k) 4 == 0) &&
      decide (1 ≤ rank ∧ rank ≤ 6) }

def Desc.fmt? (d : Desc) : Option Fmt := fmtOfCode d.code
/-- The format of a checked descriptor. -/
def Desc.fmt (d : Desc) : Fmt := (fmtOfCode d.code).getD .bool8
def Desc.count (d : Desc) : Nat := d.dims.foldl (· * ·) 1
def Desc.lastDim (d : Desc) : Nat := d.dims.getLastD 0
def Desc.bytesPer (d : Desc) : Nat := codeBits d.code / 8

/-- Packed row-major strides (R51). -/
def packedStrides : List Nat → List Int
  | [] => []
  | _ :: t => (t.foldl (· * ·) 1 : Nat) :: packedStrides t

/-- The `BAD_DESCRIPTOR` causes of R287, R51 and R52's zero pointer. -/
def Desc.good (d : Desc) : Bool :=
  d.structOk && decide (d.base < 2 ^ 48) && d.base % (max (codeBits d.code / 8) 1) == 0 &&
  (if d.fmt? == some .int4g32 then
    d.strides == packedStrides d.dims && d.lastDim % 32 == 0 && d.scaleVa != 0
   else true)

/-- Sum of the products of index and stride. -/
def dot : List Nat → List Int → Int
  | i :: is, s :: ss => i * s + dot is ss
  | _, _ => 0

/-- Lowest and highest element offsets of a non-empty shape, in elements. -/
def Desc.extent (d : Desc) : Int × Int :=
  (d.dims.zip d.strides).foldl (fun (acc : Int × Int) p =>
    let x : Int := ((p.1 : Int) - 1) * p.2
    if x < 0 then (acc.1 + x, acc.2) else (acc.1, acc.2 + x)) (0, 0)

/-- Byte address of an element offset, as an integer. -/
def Desc.at' (d : Desc) (off : Int) : Int :=
  if codeBits d.code == 4 then (d.base : Int) + off / 2 else (d.base : Int) + off * (codeBits d.code / 8 : Nat)

/-- The `BAD_SHAPE` causes of R287 and the extent limit of R286. -/
def Desc.inRange (d : Desc) : Bool :=
  d.dims.all (fun n => decide (n ≤ 16777216)) &&
  (d.dims.any (· == 0) ||
    (decide (0 ≤ d.at' d.extent.1) && decide (d.at' d.extent.2 < 2 ^ 48)))

/-- The index tuple of flattened position `k`. -/
def unflat (k : Nat) : List Nat → List Nat
  | [] => []
  | _ :: t => let p := t.foldl (· * ·) 1; (k / max p 1) :: unflat (k % max p 1) t

/-- Bytes spanned by a descriptor: first address and length. -/
def Desc.span (d : Desc) : Nat × Nat :=
  let lo := (d.at' d.extent.1).toNat
  let hi := (d.at' d.extent.2).toNat
  (lo, hi - lo + max (codeBits d.code / 8) 1)

/-- Whether two spans of bytes meet. -/
def spansMeet (a b : Nat × Nat) : Bool := decide (a.1 < b.1 + b.2) && decide (b.1 < a.1 + a.2)

/-- The addresses of a descriptor's elements. -/
def Desc.addrs (d : Desc) : List Nat := (List.range d.count).map (fun k => (d.at' (dot (unflat k d.dims) d.strides)).toNat)

/-- Whether some element of a descriptor has a byte in a span. -/
def Desc.touches (d : Desc) (x : Nat × Nat) : Bool :=
  spansMeet d.span x && d.addrs.any (fun a => spansMeet (a, max (codeBits d.code / 8) 1) x)

/-- The pattern of element `idx`. -/
def readElem (s : State) (d : Desc) (idx : List Nat) : Except Err Nat :=
  let off := dot idx d.strides
  let a := (d.at' off).toNat
  if codeBits d.code == 4 then
    match readByte s a with
    | .ok b => .ok (if off % 2 == 0 then b.toNat % 16 else b.toNat / 16)
    | .error r => .error r
  else readLE s a (codeBits d.code / 8)

/-- The exact value of element `idx`. -/
def readVal (s : State) (d : Desc) (idx : List Nat) : Except Err Val :=
  match readElem s d idx with
  | .ok b => .ok (decodeElem d.fmt b)
  | .error r => .error r

/-- The bytes of a pattern written to element `idx`. -/
def elemWrite (d : Desc) (idx : List Nat) (bits : Nat) : List (Nat × Byte) :=
  spread (d.at' (dot idx d.strides)).toNat (toLE (codeBits d.code / 8) bits)

/-- `n` values of a vector in format `f`. -/
def readVec (s : State) (va : Nat) (f : Fmt) : Nat → Except Err (List Val)
  | 0 => .ok []
  | n + 1 => do
      let b ← readLE s va f.bytes
      let t ← readVec s (va + f.bytes) f n
      .ok (decodeElem f b :: t)

/-- The exact alias of R116: same address, shape, strides and format. -/
def Desc.same (a b : Desc) : Bool :=
  a.base == b.base && a.dims == b.dims && a.strides == b.strides && a.code == b.code

/-! Formats by role (R48). -/

def isArrayA (f : Fmt) : Bool := f == .bf16 || f == .e4m3 || f == .e5m2 || f == .int8
def isArrayB (f : Fmt) : Bool := isArrayA f || f == .int4g32
def isDrain (f : Fmt) : Bool :=
  f == .bf16 || f == .fp32 || f == .e4m3 || f == .e5m2 || f == .int8 || f == .int32 || f == .uint8
def isChain (f : Fmt) : Bool := isDrain f || f == .bool8
def isFp8 (f : Fmt) : Bool := f == .e4m3 || f == .e5m2
def codeIs (p : Fmt → Bool) (code : Nat) : Bool := ((fmtOfCode code).map p).getD false

/-! INT4_G32 (R51 to R53). -/

/-- A side-table header (R52). -/
structure Int4 where
  va : Nat
  target : Nat
  shift : Nat
  reserved : Nat
  groups : Nat
  tables : Nat
  scales : Nat
  deriving DecidableEq, Repr

/-- Reads the header of an INT4_G32 descriptor; other descriptors have none. -/
def readInt4 (s : State) (d : Desc) : Except Err (Option Int4) :=
  if d.fmt? == some .int4g32 then do
    let b ← readBytes s d.scaleVa 16
    .ok (some ⟨d.scaleVa, byteAt b 0, byteAt b 1, leAt b 2 2, leAt b 4 4, leAt b 8 4, leAt b 12 4⟩)
  else .ok none

/-- The `BAD_DESCRIPTOR` causes of a header. -/
def Int4.good (h : Int4) (d : Desc) : Bool :=
  decide (h.shift ≤ 12) && h.reserved == 0 && h.groups * 32 == d.count && h.tables % 16 == 0 &&
  h.scales % 2 == 0
def Int4.targetOk (h : Int4) : Bool := h.target == 5 || h.target == 3

/-- The format the array sees: the expansion target of INT4_G32, else the stored format. -/
def Desc.arrayFmt (d : Desc) (h : Option Int4) : Fmt :=
  match h with
  | some t => if t.target == 5 then .int8 else .e4m3
  | none => d.fmt

/-- The expansion of one code (R53). -/
def expand4 (target : Fmt) (entry scale : Nat) : Val :=
  decodeElem target (convert target .rne 0 ((decodeFloat bf16L scale).mul (decodeElem target entry)))

/-- An operand element as the array or `CONVERT` sees it. -/
def readOperand (s : State) (d : Desc) (h : Option Int4) (idx : List Nat) : Except Err Val :=
  match h with
  | none => readVal s d idx
  | some t => do
      let code ← readElem s d idx
      let g := (dot idx d.strides).toNat / 32
      let e ← readLE s (t.va + t.tables + 16 * (g >>> t.shift) + code) 1
      let c ← readLE s (t.va + t.scales + 2 * g) 2
      .ok (expand4 (if t.target == 5 then .int8 else .e4m3) e c)

/-! The conversion block. -/

/-- A conversion block (R54). -/
structure Conv where
  outCode : Nat
  rnd : Nat
  scaleMode : Nat
  biasEn : Bool
  clipEn : Bool
  reserved : Nat
  scale : Val
  lo : Val
  hi : Val
  deriving DecidableEq, Repr

def parseConv (b : List Byte) (o : Nat) : Conv :=
  { outCode := byteAt b o, rnd := fld b o 8 2, scaleMode := fld b o 10 2, biasEn := fld b o 12 1 == 1,
    clipEn := fld b o 13 1 == 1, reserved := fld b o 14 18, scale := f32 (leAt b (o + 4) 4),
    lo := f32 (leAt b (o + 8) 4), hi := f32 (leAt b (o + 12) 4) }

def Conv.out (c : Conv) : Fmt := (fmtOfCode c.outCode).getD .bool8
def Conv.mode (c : Conv) : Rnd := (rndOfCode c.rnd).getD .rne
def Conv.loBound (c : Conv) : Val := clipBound c.out true c.lo
def Conv.hiBound (c : Conv) : Val := clipBound c.out false c.hi

/-- The `BAD_DESCRIPTOR` causes of R55. -/
def Conv.good (c : Conv) (outScaleVa : Nat) : Bool :=
  c.rnd != 3 && c.scaleMode != 3 && c.reserved == 0 && !(c.scaleMode == 2 && outScaleVa == 0) &&
  (!c.clipEn || (!c.lo.isNaN && !c.hi.isNaN &&
    (!codeIs isDrain c.outCode || !(c.hiBound.lt c.loBound))))

def Conv.fmtOk (c : Conv) : Bool := codeIs isDrain c.outCode

/-- One drained element (R56): the value in the output format. -/
def Conv.drain (c : Conv) (scale : Val) (bias : Option Val) (u : Nat) (acc : Val) : Val :=
  let t := scale.mul acc
  let t := match bias with
    | some b => t.add b
    | none => t
  let y := decodeElem c.out (convert c.out c.mode u t)
  if c.clipEn then (y.max c.loBound).min c.hiBound else y

/-- The pattern of a value already in its format. -/
def encode (f : Fmt) (v : Val) : Nat := convert f .rne 0 v

/-- The scale and bias of output channel `n`. -/
def Conv.scaleOf (c : Conv) (scales : List Val) (n : Nat) : Val :=
  if c.scaleMode == 1 then c.scale else if c.scaleMode == 2 then scales.getD n .one else .one
def Conv.biasOf (c : Conv) (biases : List Val) (n : Nat) : Option Val :=
  if c.biasEn then some (biases.getD n .zero) else none

/-! The prologue. -/

/-- A prologue block (R104). -/
structure Pro where
  tag : Nat
  norm : Nat
  sfu : Nat
  gammaEn : Bool
  betaEn : Bool
  groups : Nat
  stats : Nat
  gammaVa : Nat
  gammaFmt : Nat
  betaVa : Nat
  betaFmt : Nat
  reservedOk : Bool
  deriving DecidableEq, Repr

def parsePro (u : Unit64) : Pro :=
  { tag := byteAt u 0, norm := fld u 1 0 2, sfu := fld u 1 2 2, gammaEn := fld u 1 4 1 == 1,
    betaEn := fld u 1 5 1 == 1, groups := byteAt u 2, stats := fld u 3 0 4, gammaVa := leAt u 8 6,
    gammaFmt := byteAt u 16, betaVa := leAt u 24 6, betaFmt := byteAt u 17,
    reservedOk := fld u 1 6 2 == 0 && fld u 3 4 4 == 0 && allZero u 4 4 && allZero u 14 2 &&
      allZero u 18 6 && allZero u 30 34 }

/-- The `BAD_DESCRIPTOR` causes of R104, the statistics unit's place aside. -/
def Pro.good (p : Pro) : Bool :=
  p.tag == 1 && p.reservedOk && p.norm != 3 && p.sfu != 3 && !(p.norm != 0 && p.stats == 0) &&
  !(p.gammaEn && p.gammaVa == 0) && !(p.betaEn && p.betaVa == 0)

def floatVecCode (c : Nat) : Bool := c == 1 || c == 2
def Pro.fmtOk (p : Pro) : Bool :=
  (!p.gammaEn || floatVecCode p.gammaFmt) && (!p.betaEn || floatVecCode p.betaFmt)

/-- One element through the prologue (R106), from mean, reciprocal deviation (or reciprocal RMS), γ, β. -/
def Pro.apply (p : Pro) (mu rs gamma beta : Val) (a : Val) : Val :=
  let x := a
  let x := if p.norm == 1 then fmul (fsub x mu) rs else if p.norm == 2 then fmul x rs else x
  let x := if p.gammaEn then fma x gamma (if p.betaEn then beta else .zero)
    else if p.betaEn then fadd x beta else x
  sfuFn p.sfu x

/-! The epilogue chain. -/

/-- One step word (R110). -/
structure Step where
  op : Nat
  a : Nat
  b : Nat
  c : Nat
  dst : Nat
  arg : Nat
  reserved : Nat
  deriving DecidableEq, Repr

/-- An epilogue block (R109). -/
structure Epi where
  tag : Nat
  x : List Nat
  steps : List Step
  nsteps : Nat
  sfu : Nat
  pos : Nat
  c0Va : Nat
  c0Fmt : Nat
  c1Va : Nat
  c1Fmt : Nat
  i0 : Nat
  i1 : Nat
  reservedOk : Bool
  deriving DecidableEq, Repr

def parseStep (w : Nat) : Step :=
  { op := w % 16, a := w / 16 % 16, b := w / 256 % 16, c := w / 4096 % 16, dst := w / 65536 % 4,
    arg := w / 2 ^ 18 % 1024, reserved := w / 2 ^ 28 % 16 }

def parseEpi (u : Unit64) : Epi :=
  let n := fld u 3 0 3
  { tag := byteAt u 0, x := [fld u 1 0 4, fld u 1 4 4, fld u 2 0 4, fld u 2 4 4],
    steps := (List.range (min n 6)).map (fun k => parseStep (leAt u (32 + 4 * k) 4)), nsteps := n,
    sfu := fld u 3 3 2, pos := fld u 3 5 3, c0Va := leAt u 8 6, c0Fmt := byteAt u 14,
    c1Va := leAt u 16 6, c1Fmt := byteAt u 22, i0 := leAt u 24 4, i1 := leAt u 28 4,
    reservedOk := allZero u 4 4 && byteAt u 15 == 0 && byteAt u 23 == 0 && allZero u 56 8 &&
      allZero u (32 + 4 * min n 6) (24 - 4 * min n 6) }

/-- Number of operands of a primitive (R111). -/
def opArity (op : Nat) : Nat :=
  match op with
  | 2 | 6 | 9 => 3
  | 7 | 8 | 10 => 1
  | _ => 2

def Step.sources (t : Step) : List Nat := [t.a, t.b, t.c].take (opArity t.op)

/-- Whether a step word is legal (R110 to R112). -/
def Step.good (t : Step) : Bool :=
  decide (t.op ≤ 10) && t.reserved == 0 && t.dst != 3 && t.sources.all (fun x => decide (x ≤ 11)) &&
  (decide (2 ≤ opArity t.op) || t.b == 0) && (decide (3 ≤ opArity t.op) || t.c == 0) &&
  (if t.op == 5 then decide (t.arg < 6)
   else if t.op == 10 then t.arg / 256 != 3
   else t.arg == 0)

/-- Temporaries are written before they are read (R114). -/
def tempsOk : List Step → Bool → Bool → Bool
  | [], _, _ => true
  | t :: ts, w0, w1 =>
      (!t.sources.contains 1 || w0) && (!t.sources.contains 2 || w1) &&
      tempsOk ts (w0 || t.dst == 1) (w1 || t.dst == 2)

/-- All sources named by the steps. -/
def Epi.named (e : Epi) : List Nat := e.steps.flatMap Step.sources
/-- The streams named by the steps, ascending (X0 to X3 as 0 to 3). -/
def Epi.streams (e : Epi) : List Nat := (List.range 4).filter (fun k => e.named.contains (3 + k))

/-- The `BAD_DESCRIPTOR` causes of R109 to R112 and R114; `lastUnit` is the command's last unit, `taken`
the units of its other blocks. -/
def Epi.good (e : Epi) (lastUnit : Nat) (taken : List Nat) : Bool :=
  e.tag == 2 && e.reservedOk && decide (e.nsteps ≤ 6) && e.sfu != 3 && decide (e.pos ≤ e.nsteps) &&
  e.steps.all Step.good && tempsOk e.steps false false &&
  e.streams.all (fun k => e.x.getD k 0 != 0) &&
  e.x.all (fun u => u == 0 || (decide (u ≤ lastUnit) && !taken.contains u)) &&
  (!e.named.contains 7 || e.c0Va != 0) && (!e.named.contains 8 || e.c1Va != 0)

/-- The first step that references a third distinct stream (R119). Streams are the sources X0 to X3: two of them whose
fields name one unit are two (DESIGN CHOICE; log 23). -/
def thirdStream : List Step → List Nat → Nat → Option Nat
  | [], _, _ => none
  | t :: ts, seen, i =>
      let new := (t.sources.filter (fun x => decide (3 ≤ x ∧ x ≤ 6))).eraseDups
      let seen' := (seen ++ new).eraseDups
      if seen'.length ≥ 3 then some i else thirdStream ts seen' (i + 1)

/-- The cut of a fused epilogue with three or four streams, and its legality (R119, R120). -/
def Epi.cut (e : Epi) : Option Nat := thirdStream e.steps [] 0
def Epi.cutGood (e : Epi) : Bool :=
  match e.cut with
  | none => true
  | some c =>
      (e.steps.drop c).all (fun t => t.sources.all (fun x => x != 1 && x != 2 && x != 11)) &&
      (decide (e.pos < c) || (e.steps.take c).all (fun t => t.dst == 0))

/-- Running values of a chain. -/
structure Chain where
  v : Val
  t0 : Val
  t1 : Val
  deriving DecidableEq, Repr

/-- What a chain reads at one position: PRE, streams, channel entries, immediates. -/
structure ChainIn where
  pre : Val
  xs : List Val
  c0 : Val
  c1 : Val
  i0 : Val
  i1 : Val
  deriving DecidableEq, Repr

def Chain.src (k : Chain) (c : ChainIn) (n : Nat) : Val :=
  match n with
  | 0 => k.v
  | 1 => k.t0
  | 2 => k.t1
  | 7 => c.c0
  | 8 => c.c1
  | 9 => c.i0
  | 10 => c.i1
  | 11 => c.pre
  | n => c.xs.getD (n - 3) .zero

/-- Widening on entry (R61): exact but for INT32, which rounds by RNE. -/
def widen (v : Val) : Val := rne32 v

def boolVal (b : Bool) : Val := if b then .one else .zero

/-- One primitive in fp32 (R61, R69, R111). -/
def primF (t : Step) (u : Nat) (a b c : Val) : Val :=
  match t.op with
  | 0 => fadd a b
  | 1 => fmul a b
  | 2 => fma a b c
  | 3 => a.min b
  | 4 => a.max b
  | 5 => boolVal (Val.test (t.arg % 8) a b)
  | 6 => if a.nonzero then b else c
  | 7 => a.abs
  | 8 => a.neg
  | 9 => (a.max b).min c
  | _ =>
      let f := (fmtOfCode (t.arg % 256)).getD .fp32
      widen (decodeElem f (convert f ((rndOfCode (t.arg / 256)).getD .rne) u a))

/-- A value of an integer chain as an integer. -/
def asInt (v : Val) : Int := satInt (-2147483648) 2147483647 .rtz 0 v

/-- One primitive in int32 (R62). -/
def primI (t : Step) (u : Nat) (a b c : Int) : Int :=
  match t.op with
  | 0 => wrap32 (a + b)
  | 1 => wrap32 (a * b)
  | 2 => wrap32 (a * b + c)
  | 3 => min a b
  | 4 => max a b
  | 5 => if Val.test (t.arg % 8) (Val.ofInt a) (Val.ofInt b) then 1 else 0
  | 6 => if a = 0 then c else b
  | 7 => wrap32 a.natAbs
  | 8 => wrap32 (-a)
  | 9 => min (max a b) c
  | _ =>
      let f := (fmtOfCode (t.arg % 256)).getD .int32
      asInt (decodeElem f (convert f ((rndOfCode (t.arg / 256)).getD .rne) u (Val.ofInt a)))

/-- The steps of a chain from index `i`, with the SFU function at its position (R113). -/
def runSteps (e : Epi) (int : Bool) (u : Nat → Nat) (c : ChainIn) : List Step → Nat → Chain → Chain
  | [], i, k => if i == e.pos then { k with v := sfuFn e.sfu k.v } else k
  | t :: ts, i, k =>
      let k := if i == e.pos then { k with v := sfuFn e.sfu k.v } else k
      let a := k.src c t.a
      let b := k.src c t.b
      let d := k.src c t.c
      let r := if int then Val.ofInt (primI t (u i) (asInt a) (asInt b) (asInt d)) else primF t (u i) a b d
      let k := if t.dst == 0 then { k with v := r } else if t.dst == 1 then { k with t0 := r }
        else { k with t1 := r }
      runSteps e int u c ts (i + 1) k

/-- The chain of R113 on one element: the pattern in `out`. Draw `i` serves step i, draw 7 the result. -/
def runChain (e : Epi) (int : Bool) (mode : Rnd) (u : Nat → Nat) (out : Fmt) (c : ChainIn) : Nat :=
  let k := runSteps e int u c e.steps 0 ⟨c.pre, .zero, .zero⟩
  convert out mode (u 7) k.v

/-- Whether a chain is integer (R62, R113). -/
def Epi.isInt (e : Epi) (y out : Fmt) (streamFmt : Nat → Nat) : Bool :=
  y.isInt && out.isInt &&
  e.streams.all (fun k => codeIs Fmt.isInt (streamFmt k)) &&
  (!e.named.contains 7 || codeIs Fmt.isInt e.c0Fmt) && (!e.named.contains 8 || codeIs Fmt.isInt e.c1Fmt)

/-- The `UNSUPPORTED_FORMAT` causes of a chain (R48, R62, R113, R114). -/
def Epi.fmtOk (e : Epi) (int : Bool) (streamFmt : Nat → Nat) : Bool :=
  e.streams.all (fun k => codeIs isChain (streamFmt k)) &&
  (!e.named.contains 7 || codeIs isChain e.c0Fmt) && (!e.named.contains 8 || codeIs isChain e.c1Fmt) &&
  !(int && e.sfu != 0) &&
  e.steps.all (fun t => t.op != 10 ||
    codeIs (fun f => isChain f || (!int && f == .fp16)) (t.arg % 256))

/-- The immediates of a chain (R109, R113). -/
def immVal (int : Bool) (w : Nat) : Val := if int then Val.ofInt (ofBits 32 w) else f32 w

/-- A chain's inputs on one element; `y` is the chain's input value. -/
def chainIn (e : Epi) (int : Bool) (y : Val) (xs : List Val) (c0 c1 : Val) : ChainIn :=
  let w (v : Val) : Val := if int then v else widen v
  { pre := w y, xs := xs.map w, c0 := w c0, c1 := w c1, i0 := immVal int e.i0, i1 := immVal int e.i1 }

/-- The stream elements at one output position (0 for a stream no step names). A stream of lower rank is
shared by every batch entry (R114). -/
def readStreams (s : State) (e : Epi) (ds : List Desc) (idx : List Nat) : List Nat → Except Err (List Val)
  | [] => .ok []
  | k :: ks => do
      let rest ← readStreams s e ds idx ks
      if e.streams.contains k then
        let d := ds.getD k ⟨0, 0, 0, 0, [], [], 0, false, false⟩
        let v ← readVal s d (idx.drop (idx.length - d.rank))
        .ok (v :: rest)
      else .ok (.zero :: rest)

/-- A channel vector of `n` entries, empty when no step names it. -/
def readChannel (s : State) (named : Bool) (va code n : Nat) : Except Err (List Val) :=
  if named then readVec s va ((fmtOfCode code).getD .fp32) n else .ok []

/-! Outcome of an operator. -/

/-- Where a write stands in the plan: batch entry, row tile (or block, row, segment, image) and column tile of the unit
that makes it (R73, R122). -/
abbrev Place := Nat × Nat × Nat

/-- The place of a write that no dealt unit makes and no rule gives to a core: by an NBU, the hub or firmware, or of
statistics (R164). -/
def noPlace : Place := (2 ^ 33, 0, 0)

/-- The place of what a later pass writes: block `k` of 4,096 elements, row or cell of a band, which its cores divide as
units (R118, R121, R174, R228). -/
def laterPlace (band k : Nat) : Place := (2 ^ 32 + band, k, 0)

/-- Whether a later pass writes at a place. -/
def Place.isLater (p : Nat × Nat × Nat) : Bool := decide (2 ^ 32 ≤ p.1 ∧ p.1 < 2 ^ 33)

/-- What an operator's computation asks for: its writes in order by place, scalar registers, free values consumed, the
RESULT, and the read fault that ends it after these writes (R206). -/
structure OpOut where
  res : Res
  tiles : List (Place × List (Nat × Byte))
  sregs : List (Nat × DWord)
  draws : Nat
  err : Option Err
  deriving DecidableEq, Repr

def OpOut.writes (o : OpOut) : List (Nat × Byte) := o.tiles.flatMap Prod.snd
def OpOut.just (r : Res) : OpOut := ⟨r, [], [], 0, none⟩
def OpOut.wrote (ws : List (Nat × Byte)) (draws : Nat) : OpOut := ⟨.ok, [(noPlace, ws)], [], draws, none⟩

/-- Writes computed piece by piece, or the fault that a piece's read meets. -/
abbrev Item := Place × Except Err (List (Nat × Byte))

def Item.good (i : Item) : Option (Place × List (Nat × Byte)) :=
  match i.2 with
  | .ok w => some (i.1, w)
  | .error _ => none

def Item.fault (i : Item) : Option Err :=
  match i.2 with
  | .ok _ => none
  | .error e => some e

/-- The outcome of an operator's pieces: all of them, or on a read fault whole tiles: those that had finished or were in
flight, a free choice among the tiles that read no faulting byte. Of several faults any may be the one met first (R206;
log 26). -/
def OpOut.ofItems (s : State) (items : List Item) (draws : Nat) : OpOut :=
  let faults := items.filterMap (fun i => i.fault.map (fun e => (i.1, e)))
  match faults with
  | [] => ⟨.ok, items.filterMap Item.good, [], draws, none⟩
  | f :: _ =>
      let places := (items.map Prod.fst).eraseDups
      let free (k : Nat) : Nat := Config.free (s.freeCtr + draws + k)
      let done := (places.zipIdx.filter (fun p =>
        free (p.2 + 1) % 2 == 1 && !(faults.any (fun q => q.1 == p.1)))).map Prod.fst
      ⟨.ok, (items.filter (fun i => done.contains i.1)).filterMap Item.good, [], draws + places.length + 1,
        some (faults.getD (free 0 % faults.length) f).2⟩

/-- Collects the results of a function over a list, stopping at the first failure. -/
def mapE {α β : Type} (f : α → Except Err β) : List α → Except Err (List β)
  | [] => .ok []
  | a :: as =>
      match f a with
      | .error r => .error r
      | .ok b =>
        match mapE f as with
        | .error r => .error r
        | .ok bs => .ok (b :: bs)

/-- Unit `k` of a command. -/
def Cmd.unitAt (c : Cmd) (k : Nat) : Unit64 := c.units.getD k []
def Cmd.desc (c : Cmd) (k : Nat) : Desc := parseDesc c.sregs (c.unitAt k)
def Cmd.u0 (c : Cmd) : Unit64 := c.unitAt 0
def Cmd.lastUnit (c : Cmd) : Nat := c.units.length - 1

end Sys2Proof.Machine
end

