-- ==== Sys2Proof/Machine/Plan.lean ====
section
/-! DEFINITION. The planner (04, R122 to R127): units, Hilbert order, bands, division among cores, the
frozen set (R234), predicted cycles (R125) and the plan record. -/

namespace Sys2Proof.Machine

/-- A pass entry of a plan record (R127). -/
structure PassRec where
  kind : Nat
  reason : Nat
  firstStep : Nat
  streams : Nat
  scratchMib : Nat
  work : Nat
  cycles : Nat
  deriving DecidableEq, Repr

/-- A plan: the units of each group that is dealt to the cores in its own right (bands, passes) in order, the number of
bands, the undo pages of each core (its place among the cores; R117), and the fields of its record (R126). -/
structure Plan where
  opcode : Nat
  e : Nat
  tr : Bool
  repro : Bool
  whole : Bool
  frozen : Bool
  mt : Nat
  ks : Nat
  rt : Nat
  ct : Nat
  h : Nat
  total : Nat
  maxTiles : Nat
  coresUsed : Nat
  nBands : Nat
  bands : List (List WorkUnit)
  predCycles : Nat
  predNs : Nat
  passes : List PassRec
  scratchPages : Nat
  undo : List (Nat × Nat)
  deriving DecidableEq, Repr

/-- All undo pages of a plan. -/
def Plan.undoPages (p : Plan) : Nat := (p.undo.map Prod.snd).sum

/-! Hilbert order (R123). -/

/-- The loop of `d2xy`, one level per step. -/
def d2xyLoop : Nat → Nat → Nat → Nat → Nat → Nat × Nat
  | 0, _, _, x, y => (x, y)
  | h + 1, s, t, x, y =>
      let rx := t / 2 % 2
      let ry := (t ^^^ rx) % 2
      let p := if ry = 0 then (if rx = 1 then (s - 1 - y, s - 1 - x) else (y, x)) else (x, y)
      d2xyLoop h (2 * s) (t / 4) (p.1 + s * rx) (p.2 + s * ry)

/-- Column tile and row tile at position `d` of the curve over a 2^h square. -/
def d2xy (h d : Nat) : Nat × Nat := d2xyLoop h 1 d 0 0

/-- The order h of the least square that holds the grid. -/
def hilbertH (rt ct : Nat) : Nat :=
  let m := max rt ct
  if m ≤ 1 then 0 else Nat.log2 (m - 1) + 1

/-- The cells (row tile, column tile) of a grid in Hilbert order. -/
def hilbertOrder (rt ct : Nat) : List (Nat × Nat) :=
  let h := hilbertH rt ct
  (List.range (4 ^ h)).filterMap (fun d =>
    let p := d2xy h d
    if p.1 < ct ∧ p.2 < rt then some (p.2, p.1) else none)

/-! Division among cores and its cost (R93, R122, R125). -/

/-- Start of core `j`'s share of `u` units on `e` cores. -/
def shareAt (e u j : Nat) : Nat := j * u / e

def shares (e : Nat) (us : List WorkUnit) : List (List WorkUnit) :=
  (List.range e).map (fun j =>
    (us.drop (shareAt e us.length j)).take (shareAt e us.length (j + 1) - shareAt e us.length j))

/-- Cycles of one core's units after the first; a row-block change waits for what the transform takes beyond the tile
before it, the last of its unit (R107, R125). -/
def laterCycles : WorkUnit → List WorkUnit → Nat
  | p, [] => 6 + p.rows
  | p, q :: t =>
      q.cycles + (if q.block = p.block then 0 else q.pru - p.cycles / max p.tiles 1) + laterCycles q t

def coreCycles : List WorkUnit → Nat
  | [] => 0
  | p :: t => p.pru + p.cycles + laterCycles p t

def bandCycles (e : Nat) (us : List WorkUnit) : Nat := ((shares e us).map coreCycles).foldl max 0

/-- Busiest core's tiles over the bands, and cores with at least one unit. -/
def tilesOn (e : Nat) (bands : List (List WorkUnit)) : Nat × Nat :=
  let per := (List.range e).map (fun j =>
    (bands.map (fun us => (((shares e us).getD j []).map WorkUnit.tiles).sum)).sum)
  (per.foldl max 0, (per.filter (fun n => decide (0 < n))).length)

/-- Element ranges of the cores for `n` elements in blocks of 4,096 (R118). -/
def blockRanges (e n : Nat) : List (Nat × Nat) :=
  let u := cdiv n 4096
  (List.range e).map (fun j => (4096 * shareAt e u j, min n (4096 * shareAt e u (j + 1))))

/-- Distinct elements that positions `[a, b)` of a shape address under its strides (R125). -/
def distinct : List (Nat × Int) → Nat → Nat → Nat
  | [], a, b => if a < b then 1 else 0
  | (_, st) :: t, a, b =>
      if b ≤ a then 0
      else
        let p := t.foldl (fun acc x => acc * x.1) 1
        let i := a / p
        let j := (b - 1) / p
        if i = j then distinct t (a - i * p) (b - i * p)
        else if st ≠ 0 then
          distinct t (a - i * p) p + distinct t 0 (b - j * p) + (j - i - 1) * distinct t 0 p
        else if j > i + 1 ∨ b - a ≥ p then distinct t 0 p
        else min (distinct t 0 p) (distinct t (a - i * p) p + distinct t 0 (b - j * p))

/-- Bytes that positions `[a, b)` of a tensor address; `dims` is the shape iterated over. -/
def streamBytes (dims : List Nat) (d : Desc) (a b : Nat) : Nat :=
  let pad := dims.length - d.rank
  let st := List.replicate pad (0 : Int) ++ d.strides
  distinct (dims.zip st) a b * codeBits d.code / 8

/-- A vector pass over elements `[off, off + n)` of a shape: busiest core by cycles (R125): element rate,
constant bytes per element, and the tensors read or written. -/
def vectorCycles (e off n rate perElem : Nat) (dims : List Nat) (ds : List Desc) : Nat :=
  ((blockRanges e n).map (fun r =>
    let el := r.2 - r.1
    let bytes := el * perElem + (ds.map (fun d => streamBytes dims d (off + r.1) (off + r.2))).sum
    max (cdiv el rate) (cdiv (bytes * 14) 1280))).foldl max 0

/-- The element rate of the vector engine (R63, R118). -/
def vectorRate (allBf16 sfu : Bool) : Nat := if sfu then 32 else if allBf16 then 128 else 64

def pagesOf (bytes : Nat) : Nat := cdiv bytes 0x200000
def nsOf (cycles : Nat) : Nat := cdiv (cycles * 10) 14

/-! Bands (R121). -/

/-- Packs row runs (batch, index, rows) into bands whose scratch is at most 256 MiB; never less than one
run. -/
def packBands (rowBytes : Nat) : List (Nat × Nat × Nat) → List (Nat × Nat × Nat) → Nat →
    List (List (Nat × Nat × Nat))
  | [], [], _ => []
  | [], cur, _ => [cur.reverse]
  | x :: t, [], _ => packBands rowBytes t [x] x.2.2
  | x :: t, cur, rows =>
      if (rows + x.2.2) * rowBytes > 0x10000000 then cur.reverse :: packBands rowBytes t [x] x.2.2
      else packBands rowBytes t (x :: cur) (rows + x.2.2)

/-- Scratch pages of the band buffers (R121). -/
def bandPages (rowBytes : Nat) (bands : List (List (Nat × Nat × Nat))) : Nat :=
  let big := (bands.map (fun b => (b.map (fun x => x.2.2)).sum * rowBytes)).foldl max 0
  pagesOf big * (if bands.length > 1 then 2 else 1)

/-! The frozen set (R233, R234). -/

/-- Number of the cell of a latent pixel (R228). -/
def cellOf (r : SettleRef) (y x : Nat) : Nat := y / 16 * cdiv r.w 16 + x / 16

/-- Whether a token row maps to a frozen cell. -/
def rowFrozen (r : SettleRef) (frozen : List Nat) (m : Nat) : Bool :=
  let p := 2 ^ r.patchLog2
  let wt := cdiv r.w p
  let j := m % (cdiv r.h p * wt)
  frozen.contains (cellOf r (j / wt * p) (j % wt * p))

/-- Whether a row count matches the token grid. -/
def gridMatches (r : SettleRef) (m : Nat) : Bool :=
  let g := cdiv r.h (2 ^ r.patchLog2) * cdiv r.w (2 ^ r.patchLog2)
  g != 0 && m % g == 0

/-- Whether all rows `[a, b)` of a command are frozen; false where the flag has no effect. -/
def rowsFrozen (settle : Bool) (ref : Option SettleRef) (frozen : List Nat) (rows a b : Nat) : Bool :=
  match ref with
  | some r => settle && gridMatches r rows && !frozen.isEmpty &&
      (List.range (b - a)).all (fun i => rowFrozen r frozen (a + i))
  | none => false

/-- Whether a frozen set applies to a token command. -/
def frozenApplies (settle : Bool) (ref : Option SettleRef) (frozen : List Nat) (rows : Nat) : Bool :=
  match ref with
  | some r => settle && gridMatches r rows && !frozen.isEmpty
  | none => false

/-! The record (R126, R127). -/

def PassRec.bytes (p : PassRec) : List Byte :=
  toLE 1 p.kind ++ toLE 1 p.reason ++ toLE 1 p.firstStep ++ toLE 1 p.streams ++ toLE 4 p.scratchMib ++
  toLE 8 p.work ++ toLE 8 p.cycles ++ toLE 8 0

/-- The record without its key. -/
def Plan.body (p : Plan) (mask : Nat) : List Byte :=
  toLE 2 1 ++ toLE 1 p.passes.length ++
  toLE 1 ((if p.tr then 1 else 0) + (if p.repro then 2 else 0) + (if p.whole then 4 else 0)
    + (if p.frozen then 8 else 0)) ++
  toLE 2 p.e ++ toLE 2 p.coresUsed ++ toLE 2 p.mt ++ toLE 2 p.ks ++ toLE 2 p.nBands ++ toLE 1 p.h ++
  toLE 1 p.opcode ++ toLE 4 p.rt ++ toLE 4 p.ct ++ toLE 8 p.total ++ toLE 4 p.maxTiles ++
  toLE 2 (if mask = 0 then 0xFFFF else mask) ++ toLE 2 0 ++ toLE 8 p.predCycles ++ toLE 8 p.predNs

/-- `PLAN_KEY` (R126; log 16). -/
def Plan.key (p : Plan) (mask : Nat) (cores frozen : List Nat) : DWord :=
  Config.planKey (p.body mask ++ p.passes.flatMap PassRec.bytes ++ p.bands.flatMap (fun b => toLE 4 b.length)) cores frozen

def Plan.bytes (p : Plan) (mask : Nat) (cores frozen : List Nat) : List Byte :=
  p.body mask ++ toLE 8 (p.key mask cores frozen).toNat ++ p.passes.flatMap PassRec.bytes

/-! Shapes of passes that only cut elements or rows. -/

/-- The last pass, which writes the output, also holds the undo copies (R117, R127). -/
def holdUndo (pages : Nat) : List PassRec → List PassRec
  | [] => []
  | [p] => [{ p with scratchMib := p.scratchMib + 2 * pages }]
  | p :: t => p :: holdUndo pages t

/-- Units that are blocks of 4,096 elements, rows, segments or images: `n` of them in order, in pass `g`. -/
def plainIn (g n : Nat) : List WorkUnit :=
  (List.range n).map (fun k => ⟨0, k, g, 1, 0, 1, 0, 0, (0, k), 0⟩)
def plainUnits (n : Nat) : List WorkUnit := plainIn 0 n

/-- Whether a unit makes the writes of a place (R73). -/
def WorkUnit.covers (u : WorkUnit) (p : Place) : Bool :=
  u.b == p.1 && u.r == p.2.1 && decide (u.c ≤ p.2.2 ∧ p.2.2 < u.c + u.cn)

/-- Undo copies (R117): each core with a unit of some group reserves the whole pages of the largest copy among its own
units. -/
def undoFor (e : Nat) (bands : List (List WorkUnit)) (bytes : WorkUnit → Nat) : List (Nat × Nat) :=
  ((List.range e).map (fun j =>
    (j, (bands.flatMap (fun us => ((shares e us).getD j []).map (fun u => pagesOf (bytes u)))).foldl max 0))).filter
      (fun p => p.2 != 0)

/-- Undo copies of units that each read at most 2 MiB: one page per core with a unit. -/
def undoEach (aliased : Bool) (e n : Nat) : List (Nat × Nat) :=
  if aliased then undoFor e [plainUnits n] (fun _ => 1) else []

/-- Each core reserves the larger of two undo copies (R117). -/
def undoMax (a b : List (Nat × Nat)) : List (Nat × Nat) :=
  a.map (fun p => (p.1, max p.2 ((alFind p.1 b).getD 0))) ++ b.filter (fun p => (alFind p.1 a).isNone)

/-- Undo copies of a later pass whose blocks of 4,096 elements read the tensor that the output aliases, for bands of these
many elements: one page per core with a block (R117, R119, R121). -/
def undoLater (aliased : Bool) (e : Nat) (bands : List Nat) : List (Nat × Nat) :=
  if aliased then
    ((List.range e).filter (fun j => bands.any (fun n =>
      decide (shareAt e (cdiv n 4096) j < shareAt e (cdiv n 4096) (j + 1))))).map (fun j => (j, 1))
  else []

def undoTotal (l : List (Nat × Nat)) : Nat := (l.map Prod.snd).sum

/-- A plan of one vector pass over `n` elements in blocks of 4,096 (R118). Only a grid of tiles is ordered by R123, so
`HILBERT_ORDER` is 0 here (log 22). -/
def vectorPlan (opcode e n cycles streams : Nat) (undo : List (Nat × Nat)) : Plan :=
  let u := cdiv n 4096
  { opcode := opcode, e := e, tr := false, repro := false, whole := false, frozen := false, mt := 0,
    ks := 1, rt := u, ct := 1, h := 0, total := u, maxTiles := cdiv u (max e 1),
    coresUsed := min u e, nBands := 1, bands := [plainUnits u], predCycles := cycles, predNs := nsOf cycles,
    passes := holdUndo (undoTotal undo) [⟨2, 0, 0xFF, streams, 0, n, cycles⟩], scratchPages := 0, undo := undo }

/-- A plan of one near-bank, codec or fabric pass (R227, R255, R259, R338, R357): `ns` predicted nanoseconds; no core
holds a tile (R126). -/
def nbuPlan (opcode e blocks parts ns : Nat) (passes : List PassRec) : Plan :=
  { opcode := opcode, e := e, tr := false, repro := false, whole := false, frozen := false, mt := 0,
    ks := 1, rt := blocks, ct := 1, h := 0, total := blocks,
    maxTiles := 0, coresUsed := parts, nBands := 1, bands := [plainUnits blocks],
    predCycles := cdiv (ns * 14) 10, predNs := nsOf (cdiv (ns * 14) 10), passes := passes, scratchPages := 0, undo := [] }

end Sys2Proof.Machine
end

