-- ==== Sys2Proof/Machine/ArrayUnit.lean ====
section
/-! DEFINITION. The matrix array (03, R81 to R92) and the drain that `MATMUL` and `CONV` share: terms, the
four-to-one tree, accumulation, argument drains, prologue and epilogue over whole outputs. -/

namespace Sys2Proof.Machine

/-- The reductions of R81 to R83. -/
inductive Red where
  | addF | addI | maxN | minN
  deriving DecidableEq, Repr

def sumExact (x : Val) (xs : List Val) : Val := xs.foldl Val.add x

/-- op4 and op2 over present inputs (R82 to R84); an empty input is absent. -/
def Red.op (k : Red) : List Val → Option Val
  | [] => none
  | x :: xs =>
      some (match k with
        | .addF => rne32 (sumExact x xs)
        | .addI => Val.ofInt (wrap32 (asIntWide (sumExact x xs)))
        | .maxN => xs.foldl Val.maxNum x
        | .minN => xs.foldl Val.minNum x)
where
  /-- An exact integer value. -/
  asIntWide : Val → Int
    | .fin n m e => let k : Int := m * 2 ^ e.toNat; if n then -k else k
    | .nan | .inf _ => 0

/-- One level of the four-to-one tree (R82, R84). -/
def treeLevel (k : Red) : List (Option Val) → List (Option Val)
  | a :: b :: c :: d :: t => k.op ([a, b, c, d].filterMap id) :: treeLevel k t
  | [] => []
  | [a] => [k.op ([a].filterMap id)]
  | [a, b] => [k.op ([a, b].filterMap id)]
  | [a, b, c] => [k.op ([a, b, c].filterMap id)]

/-- The tree over up to 64 lanes. -/
def tree (k : Red) (lanes : List (Option Val)) : Option Val :=
  ((treeLevel k (treeLevel k (treeLevel k lanes))).head?).join

/-- The accumulate stage (R82, R85): store into an empty entry, else combine. -/
def accum (k : Red) (acc c : Option Val) : Option Val :=
  match acc, c with
  | none, c => c
  | some a, none => some a
  | some a, some b => k.op [a, b]

/-- A product of int8 operands. -/
def intTerm (f : Int → Int → Int) (a b : Val) : Val := Val.ofInt (f (asInt a) (asInt b))

/-- The term of one lane (R81 to R83). -/
def arrTerm (mode : Nat) (int : Bool) (a b : Val) : Val :=
  if int then
    match mode with
    | 0 => intTerm (fun x y => x * y) a b
    | 1 => intTerm (fun x y => (x - y) * (x - y)) a b
    | 2 => intTerm (fun x y => ((x - y).natAbs : Int)) a b
    | _ => intTerm (fun x y => x + y) a b
  else
    match mode with
    | 0 => a.mul b
    | 1 => let d := fsub a b; fmul d d
    | 2 => (fsub a b).abs
    | _ => fadd a b

def redOf (mode : Nat) (int : Bool) : Red :=
  if mode = 3 then .maxN else if mode = 4 then .minN else if int then .addI else .addF

/-- Splits a list into chunks of `n + 1`. -/
def chunksOf {α : Type} (n : Nat) : List α → Nat → List α → List (List α)
  | [], _, acc => if acc.isEmpty then [] else [acc.reverse]
  | x :: t, 0, acc => (x :: acc).reverse :: chunksOf n t n []
  | x :: t, k + 1, acc => chunksOf n t k (x :: acc)

def chunks64 {α : Type} (l : List α) : List (List α) := chunksOf 63 l 63 []

/-- One accumulator entry over chunks of 64 lanes in ascending order (R82, R89); none when empty. -/
def reduceChunks (k : Red) (cs : List (List (Option Val))) : Option Val :=
  cs.foldl (fun acc c => accum k acc (tree k c)) none

/-- A floating dot product in chunks of 64 (R82 MAC), +0 when empty. -/
def dotF (a b : List Val) : Val :=
  (reduceChunks .addF (chunks64 ((a.zip b).map (fun p => some (p.1.mul p.2))))).getD .zero

/-- Takes the elements of a list in an order chosen by a free number (R120, R174: completion order). -/
def permBy {α : Type} : Nat → Nat → List α → List α
  | 0, _, l => l
  | fuel + 1, n, l =>
      match l with
      | [] => []
      | x :: t =>
          let i := n % l.length
          (l.getD i x) :: permBy fuel (n / l.length)
            (if i = 0 then t else l.eraseIdx i)

/-- An entry whose K range is divided into parts that complete in a free order (R119, R120). -/
def reduceParts (k : Red) (free : Nat) (parts : List (List (List (Option Val)))) : Option Val :=
  (permBy parts.length free (parts.map (reduceChunks k))).foldl (accum k) none

/-! Argument drains (R87). -/

/-- Lowest index of the least (`least`) or greatest key, NaN ignored unless all are NaN. -/
def argBest (least : Bool) : List Val → Nat → Option (Nat × Val) → Nat × Val
  | [], _, best => best.getD (0, .nan)
  | x :: t, i, best =>
      argBest least t (i + 1)
        (if x.isNaN then best
         else match best with
          | none => some (i, x)
          | some (j, y) => if (if least then x.below y else y.below x) then some (i, x) else some (j, y))

def argOf (least : Bool) (l : List Val) : Nat × Val := argBest least l 0 none

/-! Prologue and epilogue as the array commands embed them. -/

/-- Prologue with its checks made: block, statistics descriptor. -/
structure ProUse where
  p : Pro
  stats : Option Desc
  deriving DecidableEq, Repr

/-- A unit field names a unit from 4 to the last. -/
def unitField (u last : Nat) : Bool := u == 0 || (decide (4 ≤ u) && decide (u ≤ last))

/-- The prologue of a command: `none` for no prologue. -/
def proUse (c : Cmd) (u : Nat) : Option ProUse :=
  if u = 0 then none
  else
    let p := parsePro (c.unitAt u)
    some ⟨p, if p.norm = 0 then none else some (c.desc p.stats)⟩

/-- `BAD_DESCRIPTOR` causes of a prologue, with the statistics unit inside the command and not another
block's (R104, R114). -/
def proGood (c : Cmd) (u epi : Nat) : Option ProUse → Bool
  | none => true
  | some x =>
      x.p.good &&
      (x.p.norm == 0 || (decide (4 ≤ x.p.stats) && decide (x.p.stats ≤ c.lastUnit) && x.p.stats != u &&
        x.p.stats != epi && (c.desc x.p.stats).good))

/-- `UNSUPPORTED_FORMAT` causes (R104 to R106). -/
def proFmt (a : Desc) : Option ProUse → Bool
  | none => true
  | some x => x.p.fmtOk && codeIs (fun f => f == .bf16 || isFp8 f) a.code &&
      (match x.stats with
       | some d => d.fmt? == some .fp32
       | none => true)

/-- `BAD_SHAPE` causes (R104, R105, R108, R132): `rows` is M, or 1 for `CONV`. -/
def proShape (rows batch k size : Nat) (lsm : Bool) : Option ProUse → Bool
  | none => true
  | some x =>
      decide (1 ≤ x.p.groups ∧ x.p.groups ≤ 32) && k % (max x.p.groups 1) == 0 &&
      (!lsm || decide (16 * k * size ≤ 1572864)) &&
      (match x.stats with
       | some d =>
          let w := if x.p.norm = 1 then 2 else 1
          d.inRange && (d.dims == [rows, x.p.groups, w] || d.dims == [batch, rows, x.p.groups, w])
       | none => true)

/-- γ and β vectors of a prologue. -/
def proVectors (s : State) (x : Option ProUse) (k : Nat) : Except Err (List Val × List Val) :=
  match x with
  | none => .ok ([], [])
  | some x => do
      let g ← readChannel s x.p.gammaEn x.p.gammaVa x.p.gammaFmt k
      let b ← readChannel s x.p.betaEn x.p.betaVa x.p.betaFmt k
      .ok (g, b)

/-- One element of A through the prologue, rounded back to A's format (R106). -/
def proElem (s : State) (x : Option ProUse) (gb : List Val × List Val) (aFmt : Fmt) (b row k kTot : Nat)
    (a : Val) : Except Err Val :=
  match x with
  | none => .ok a
  | some x => do
      let g := k * x.p.groups / kTot
      let st (j : Nat) : Except Err Val :=
        match x.stats with
        | some d => readVal s d (if d.rank = 4 then [b, row, g, j] else [row, g, j])
        | none => .ok .zero
      let mu ← if x.p.norm = 1 then st 0 else .ok Val.zero
      let rs ← if x.p.norm = 1 then st 1 else if x.p.norm = 2 then st 0 else .ok Val.zero
      let y := x.p.apply mu rs (gb.1.getD k .one) (gb.2.getD k .zero) a
      .ok (decodeElem aFmt (convert aFmt .rne 0 y))

/-- Epilogue of a command: `none` for none. -/
def epiUse (c : Cmd) (u : Nat) : Option Epi := if u = 0 then none else some (parseEpi (c.unitAt u))

def streamDesc (c : Cmd) (e : Epi) (k : Nat) : Desc := c.desc (e.x.getD k 0)
def streamCode (c : Cmd) (e : Epi) (k : Nat) : Nat := (streamDesc c e k).code

/-- `BAD_DESCRIPTOR` causes of an epilogue (R109 to R114, R120), or of its absence (R113). The conditions of R120 hold for a
chain of three or four streams whatever splits the command, `SPLIT_K` too, where the whole chain runs in one pass
(DESIGN CHOICE; log 23). -/
def epiGood (c : Cmd) (taken : List Nat) (conv : Conv) (out : Desc) : Option Epi → Bool
  | none => out.code == conv.outCode
  | some e => e.good c.lastUnit taken && e.cutGood &&
      e.streams.all (fun k => (streamDesc c e k).good)

/-- `UNSUPPORTED_FORMAT` causes. -/
def epiFmt (c : Cmd) (y : Nat) (out : Desc) : Option Epi → Bool
  | none => true
  | some e => codeIs isChain out.code &&
      e.fmtOk (codeIs Fmt.isInt y && e.isInt ((fmtOfCode y).getD .fp32) out.fmt (streamCode c e)) (streamCode c e)

/-- `BAD_SHAPE` causes: each stream has C's logical shape, or the shape shared by every batch entry. -/
def epiShape (c : Cmd) (out : Desc) (shared : List Nat) : Option Epi → Bool
  | none => true
  | some e => e.streams.all (fun k =>
      let d := streamDesc c e k
      d.inRange && (d.dims == out.dims || d.dims == shared))

/-- Drains one accumulator at output index `idx`, channel `n`: conversion, then the chain (R56, R86, R113).
`u` gives the draws of this element. -/
def drainElem (s : State) (c : Cmd) (conv : Conv) (out : Desc) (epi : Option Epi) (scales biases c0 c1 : List Val)
    (u : Nat → Nat) (idx : List Nat) (n : Nat) (acc : Val) : Except Err (List (Nat × Byte)) := do
  let y := conv.drain (conv.scaleOf scales n) (conv.biasOf biases n) (u 6) acc
  match epi with
  | none => .ok (elemWrite out idx (encode conv.out y))
  | some e =>
      let int := e.isInt conv.out out.fmt (streamCode c e)
      let xs ← readStreams s e ((List.range 4).map (streamDesc c e)) idx [0, 1, 2, 3]
      .ok (elemWrite out idx (runChain e int conv.mode u out.fmt
        (chainIn e int y xs (c0.getD n .zero) (c1.getD n .zero))))

/-! The rounding class (R249 to R251). -/

/-- One LFSR step (R249). -/
def lfsrStep (poly r : Nat) : Nat := (r / 2) ^^^ (if r % 2 = 1 then poly else 0)

/-- The state `n` steps on. -/
def lfsrJump (poly n r : Nat) : Nat := gfPower 64 ((List.range 32).map (fun k => lfsrStep poly (2 ^ k))) n r

/-- Whether a polynomial is primitive of degree 32: the state 1 returns after 2^32 − 1 steps and not after that number
divided by one of its prime factors. -/
def lfsrPrimitive (poly : Nat) : Bool :=
  lfsrJump poly (2 ^ 32 - 1) 1 == 1 && [3, 5, 17, 257, 65537].all (fun p => lfsrJump poly ((2 ^ 32 - 1) / p) 1 != 1)

/-- The free polynomial of a site with bit 31 set. -/
def freePoly (n : Nat) : Nat := 2 ^ 31 + (Config.polyLow n).toNat

/-- `POLY` of a site (R103, R249): the free polynomials where they are 256 distinct primitive ones, as R251 binds them,
else the primitive ones in ascending order (log 8). -/
def polyOf (n : Nat) : Nat :=
  let all := (List.range 256).map freePoly
  if all.all lfsrPrimitive && all.eraseDups.length == 256 then freePoly n
  else (((List.range 0x4000).map (2 ^ 31 + ·)).filter lfsrPrimitive).getD n (2 ^ 31)

/-- The draw of a lane of a group: bits [15:0] of the state rotated right by 9 lanes' worth (R250). -/
def laneBits (r lane : Nat) : Nat :=
  let k := 9 * lane % 32
  (r / 2 ^ k + r % 2 ^ k * 2 ^ (32 - k)) % 65536

/-- A free nonzero LFSR state (R249 to R251; log 8). -/
def freeLfsr (n : Nat) : Nat := Config.srDraw n % (2 ^ 32 - 1) + 1

/-- A generator of the rounding class: polynomial and state of a site's LFSR, or from 256 on of a partition's (R249). -/
def generator (s : State) (n : Nat) : Nat × Nat :=
  if n < 256 then (polyOf n, (s.site n).lfsr.toNat) else (polyOf (n - 256), (s.part (n - 256)).lfsr.toNat)

/-- The group that a generator delivers `k` groups on, 32 steps each (R250). -/
def groupAt (s : State) (gen k : Nat) : Nat := lfsrJump (generator s gen).1 (32 * k) (generator s gen).2

/-- The draws of an element in lane `lane` of a row of the EPU that begins at element `k`: each from a group of one of the
command's cores, whose place in the generator's sequence is free, as the order in which groups are consumed is (R250; log 8). -/
def drawsAt (s : State) (k lane : Nat) : Nat → Nat := fun j =>
  let g := s.ms.view.gens
  let f := Config.srDraw (s.freeCtr + 16 * k + j)
  laneBits (groupAt s (g.getD (f % max g.length 1) 0) (f / max g.length 1)) lane

/-- The draws of element `k` of a vector pass: a VXE's lanes 0 to 31 and 32 to 63 take two consecutive groups; an NBU takes
groups of the LFSR of its partition, lane by lane (R250). -/
def drawsVec (s : State) (k : Nat) : Nat → Nat := fun j =>
  let g := s.ms.view.gens
  if s.ms.view.issuer = .nbu then
    laneBits (groupAt s (g.getD (k / 4096) 256) (Config.srDraw (s.freeCtr + 16 * (k - k % 32) + j))) (k % 32)
  else
    let f := Config.srDraw (s.freeCtr + 16 * (k - k % 64) + j)
    laneBits (groupAt s (g.getD (f % max g.length 1) 0) (f / max g.length 1 + k % 64 / 32)) (k % 32)

/-- Enabled logical cores of a command's mask (R122): of an issued command those its plan was made for (R124). -/
def coresOf (s : State) (c : Cmd) : List Nat := c.cores.getD (s.enabledCores c.mask)

/-- Plans an array command over a grid of row runs and column tiles, and predicts it (R121 to R125).
`mk b r c cn part` makes one unit. -/
structure Grid where
  e : Nat
  batch : Nat
  rt : Nat
  ct : Nat
  runs : Nat
  ks : Nat
  tr : Bool
  deriving DecidableEq, Repr

/-- Units of one band (R122, R123): per batch entry its own Hilbert grid. `rowRuns` lists the band's row
runs of each batch entry (row tiles; column tiles when transposed). The K parts of a tile follow one another in the
order, ascending (DESIGN CHOICE: R122 orders tiles only; log 22). -/
def bandUnits (g : Grid) (mk : Nat → Nat → Nat → Nat → Nat → WorkUnit) (skip : WorkUnit → Bool)
    (rowRuns : List (Nat × Nat × Nat)) : List WorkUnit :=
  ((List.range g.batch).flatMap (fun b =>
    let own := (rowRuns.filter (fun x => x.1 == b)).map (fun x => x.2.1)
    if own.isEmpty then []
    else
      let base := own.headD 0
      let cells := if g.tr then hilbertOrder g.rt own.length else hilbertOrder own.length g.runs
      cells.flatMap (fun p =>
        let r := if g.tr then p.1 else base + p.1
        let c := if g.tr then base + p.2 else p.2
        let c0 := if g.tr then c else c * g.ct / g.runs
        let c1 := if g.tr then c + 1 else (c + 1) * g.ct / g.runs
        (List.range g.ks).map (fun part => mk b r c0 (c1 - c0) part)))).filter (fun u => !skip u)

end Sys2Proof.Machine
end

