-- ==== Sys2Proof/Machine/Vector.lean ====
section
/-! DEFINITION. Commands of the vector engines and the CDMA: `VEC_CHAIN` (R118), `COPY` and `GATHER_ROWS`
(R301), `POOL` (R142 to R144, R480), `BOX_DECODE` (R145, R146) and `NMS` (R147 to R150). -/

namespace Sys2Proof.Machine

/-- Every index tuple of a shape, in flattened order. -/
def allIdx (dims : List Nat) : List (List Nat) :=
  (List.range (dims.foldl (· * ·) 1)).map (fun k => unflat k dims)

/-- Results of an element-wise command over a shape, in blocks of 4,096 elements (R118). -/
def eachElem (s : State) (dims : List Nat) (f : Nat → List Nat → Except Err (List (Nat × Byte))) : OpOut :=
  let n := dims.foldl (· * ·) 1
  OpOut.ofItems s ((List.range n).map (fun k => ((0, k / 4096, 0), f k (unflat k dims)))) (16 * n)

/-- Cores, scratch for undo copies: the resource step that follows a command's checks. -/
def needCores (s : State) (c : Cmd) (undo : List (Nat × Nat)) : Except Err Unit := do
  require (!(coresOf s c).isEmpty) .noResources
  require (decide (undoTotal undo ≤ scratchFree s.ms)) .noResources

/-- Undo pages of a block-wise command: one page per core with a block (R117, R118). -/
def blockUndo (s : State) (c : Cmd) (aliased : Bool) (n : Nat) : List (Nat × Nat) :=
  undoEach aliased (coresOf s c).length (cdiv n 4096)

/-! `VEC_CHAIN`. -/

def vcSrc (c : Cmd) : Nat := fld c.u0 8 0 4
def vcDst (c : Cmd) : Nat := fld c.u0 8 4 4
def vcChain (c : Cmd) : Nat := fld c.u0 8 8 4
def vcRnd (c : Cmd) : Nat := fld c.u0 8 12 2
def vcEpi (c : Cmd) : Epi := parseEpi (c.unitAt (vcChain c))

/-- Whether the chain is integer: its input format is the source's. -/
def vcInt (c : Cmd) : Bool :=
  (vcEpi c).isInt (c.desc (vcSrc c)).fmt (c.desc (vcDst c)).fmt (streamCode c (vcEpi c))

/-- The checks of R118 and R114, first failure first. A descriptor that another field of the command already names
counts as a block of its own: `SRC_UNIT` equal to `DST_UNIT`, or a stream that names either, gives `BAD_DESCRIPTOR`
(DESIGN CHOICE, as in `MATMUL` and `CONV` for units 0 to 3; log 23). -/
def vcCheck (c : Cmd) : Except Err Unit := do
  let src := c.desc (vcSrc c)
  let dst := c.desc (vcDst c)
  let e := vcEpi c
  let inside (u : Nat) : Bool := decide (1 ≤ u) && decide (u ≤ c.lastUnit)
  require (decide (4 ≤ c.units.length) && fld c.u0 8 14 18 == 0 && allZero c.u0 12 52 && vcRnd c != 3 &&
    inside (vcSrc c) && inside (vcDst c) && inside (vcChain c) && vcChain c != vcSrc c &&
    vcChain c != vcDst c && vcSrc c != vcDst c && src.good && dst.good &&
    e.good c.lastUnit [0, vcSrc c, vcDst c, vcChain c] && e.streams.all (fun k => (streamDesc c e k).good))
    .badDescriptor
  require (codeIs isChain src.code && codeIs isChain dst.code &&
    e.fmtOk (codeIs Fmt.isInt src.code && vcInt c) (streamCode c e)) .unsupportedFormat
  require (src.inRange && dst.inRange && src.dims == dst.dims &&
    (dst.dims.zip dst.strides).all (fun p => decide (p.1 ≤ 1) || p.2 != 0) &&
    e.streams.all (fun k => (streamDesc c e k).inRange && (streamDesc c e k).dims == src.dims)) .badShape

def vcAliased (c : Cmd) : Bool :=
  let dst := c.desc (vcDst c)
  dst.same (c.desc (vcSrc c)) || (vcEpi c).streams.any (fun k => dst.same (streamDesc c (vcEpi c) k))

/-- `VEC_CHAIN` (R118). -/
def vcBody (s : State) (c : Cmd) : Except Err OpOut := do
  vcCheck c
  let src := c.desc (vcSrc c)
  let dst := c.desc (vcDst c)
  let e := vcEpi c
  let n := dst.count
  if n = 0 then .ok (OpOut.just .okEmptyResult)
  else do
    needCores s c (blockUndo s c (vcAliased c) n)
    let ch := dst.lastDim
    let c0 ← readChannel s (e.named.contains 7) e.c0Va e.c0Fmt ch
    let c1 ← readChannel s (e.named.contains 8) e.c1Va e.c1Fmt ch
    let int := vcInt c
    .ok (eachElem s dst.dims fun k idx => do
      let y ← readVal s src idx
      let xs ← readStreams s e ((List.range 4).map (streamDesc c e)) idx [0, 1, 2, 3]
      let j := idx.getLastD 0
      .ok (elemWrite dst idx (runChain e int ((rndOfCode (vcRnd c)).getD .rne) (drawsVec s k) dst.fmt
        (chainIn e int y xs (c0.getD j .zero) (c1.getD j .zero)))))

def vcPlan (s : State) (c : Cmd) : Plan :=
  let src := c.desc (vcSrc c)
  let dst := c.desc (vcDst c)
  let e := vcEpi c
  let cores := (coresOf s c).length
  let bf (code : Nat) : Bool := code == 1
  let all := bf src.code && bf dst.code && e.streams.all (fun k => bf (streamCode c e k)) &&
    (!e.named.contains 7 || bf e.c0Fmt) && (!e.named.contains 8 || bf e.c1Fmt)
  let cyc := vectorCycles cores 0 dst.count (vectorRate all (e.sfu != 0)) 0 dst.dims
    ([src, dst] ++ e.streams.map (streamDesc c e) ++ (if vcAliased c then [dst, dst] else []))
  let p := vectorPlan 8 cores dst.count cyc e.streams.length (blockUndo s c (vcAliased c) dst.count)
  { p with passes := p.passes.map (fun q => { q with firstStep := if e.steps.isEmpty then 0xFF else 0 }) }

/-! `COPY` and `GATHER_ROWS` (R301). -/

def convSource (f : Fmt) : Bool := isChain f || f == .fp16
def copyPair (a b : Fmt) : Bool :=
  if a == .int4g32 then b == .bf16 || b == .fp32 else convSource a && convSource b

def copyCheck (s : State) (c : Cmd) : Except Err (Option Int4) := do
  let a := c.desc 1
  let b := c.desc 2
  require (c.units.length == 3 && fld c.u0 8 0 2 != 3 && a.good && b.good) .badDescriptor
  let h ← readInt4 s a
  require ((h.map (fun t => t.good a)).getD true) .badDescriptor
  require ((match a.fmt?, b.fmt? with
    | some f, some g => copyPair f g
    | _, _ => false) && (h.map Int4.targetOk).getD true) .unsupportedFormat
  require (a.inRange && b.inRange && a.dims == b.dims) .badShape
  .ok h

/-- `COPY`. -/
def copyBody (s : State) (c : Cmd) : Except Err OpOut := do
  let h ← copyCheck s c
  let a := c.desc 1
  let b := c.desc 2
  if b.count = 0 then .ok (OpOut.just .okEmptyResult)
  else do
    needCores s c (blockUndo s c (a.same b) b.count)
    .ok (eachElem s b.dims fun k idx =>
      if a.code = b.code then do
        let v ← readElem s a idx
        .ok (elemWrite b idx v)
      else do
        let v ← readOperand s a h idx
        .ok (elemWrite b idx (convert b.fmt ((rndOfCode (fld c.u0 8 0 2)).getD .rne) (drawsVec s k 7) v)))

/-- The prediction of `COPY`: bytes read and written at the 128 GB/s that R193 gives every prediction. -/
def copyPlan (s : State) (c : Cmd) : Plan :=
  let a := c.desc 1
  let b := c.desc 2
  let cores := (coresOf s c).length
  let cyc := ((blockRanges cores b.count).map (fun r =>
    cdiv ((streamBytes b.dims a r.1 r.2 + (if a.same b then 3 else 1) * streamBytes b.dims b r.1 r.2) * 14) 1280)).foldl max 0
  vectorPlan 0x0E cores b.count cyc 0 (blockUndo s c (a.same b) b.count)

/-- The checks of R301. No rule lists the table's formats: the model takes those of a `CONVERT` source but INT4_G32, FP16
among them (DESIGN CHOICE; log 23). -/
def gatherCheck (c : Cmd) : Except Err Unit := do
  let t := c.desc 1
  let i := c.desc 2
  let o := c.desc 3
  require (c.units.length == 4 && t.good && i.good && o.good) .badDescriptor
  require (codeIs convSource t.code && i.fmt? == some .int32 && o.code == t.code) .unsupportedFormat
  require (t.inRange && i.inRange && o.inRange && t.rank == 2 && (i.rank == 1 || i.rank == 2) &&
    o.dims == i.dims ++ [t.lastDim]) .badShape

/-- `GATHER_ROWS`. -/
def gatherBody (s : State) (c : Cmd) : Except Err OpOut := do
  gatherCheck c
  let t := c.desc 1
  let i := c.desc 2
  let o := c.desc 3
  if o.count = 0 then .ok (OpOut.just .okEmptyResult)
  else do
    needCores s c []
    .ok (eachElem s o.dims fun _ idx => do
      let r ← readElem s i idx.dropLast
      let r := ofBits 32 r
      if 0 ≤ r ∧ r < (t.dims.headD 0 : Nat) then do
        let v ← readElem s t [r.toNat, idx.getLastD 0]
        .ok (elemWrite o idx v)
      else .ok (elemWrite o idx 0))

/-- The prediction of `GATHER_ROWS`: rows and indices read, rows written (R193). -/
def gatherPlan (s : State) (c : Cmd) : Plan :=
  let o := c.desc 3
  let cores := (coresOf s c).length
  let cyc := ((blockRanges cores o.count).map (fun r =>
    cdiv ((2 * streamBytes o.dims o r.1 r.2 + (if r.1 < r.2 then
      4 * ((r.2 - 1) / max o.lastDim 1 - r.1 / max o.lastDim 1 + 1) else 0)) * 14) 1280)).foldl max 0
  vectorPlan 0x14 cores o.count cyc 0 []

/-! `POOL`. -/

/-- The body of unit 0 (R142). -/
structure Pl where
  op : Nat
  incPad : Bool
  idxEn : Bool
  rnd : Nat
  wy : Nat
  wx : Nat
  sy : Nat
  sx : Nat
  pt : Nat
  pb : Nat
  pl : Nat
  pr : Nat
  idxVa : Nat
  deriving DecidableEq, Repr

def parsePl (u : Unit64) : Pl :=
  { op := fld u 8 0 2, incPad := fld u 8 2 1 == 1, idxEn := fld u 8 3 1 == 1, rnd := fld u 8 4 2,
    wy := byteAt u 12, wx := byteAt u 13, sy := byteAt u 14, sx := byteAt u 15, pt := byteAt u 16,
    pb := byteAt u 17, pl := byteAt u 18, pr := byteAt u 19, idxVa := leAt u 24 8 }

/-- Output extent of a window (R130 with dilation 1, R143). -/
def poolExtent (x : Pl) (i lo hi win stride : Nat) : Int :=
  if x.op = 2 then (i * win : Nat) else outE i lo hi win stride
where
  outE (i lo hi win stride : Nat) : Int :=
    ((i : Int) + lo + hi - win) / (max stride 1 : Nat) + 1

/-- (batch, H, W, C, Ho, Wo). -/
def poolDims (x : Pl) (i : Desc) : Nat × Nat × Nat × Nat × Int × Int :=
  let d := if i.rank = 4 then i.dims.drop 1 else i.dims
  let h := d.getD 0 0
  let w := d.getD 1 0
  (if i.rank = 4 then i.dims.getD 0 0 else 1, h, w, d.getD 2 0,
    poolExtent x h x.pt x.pb x.wy x.sy, poolExtent x w x.pl x.pr x.wx x.sx)

def poolCheck (c : Cmd) : Except Err Unit := do
  let x := parsePl c.u0
  let i := c.desc 1
  let o := c.desc 2
  require (c.units.length == 3 && fld c.u0 8 6 26 == 0 && allZero c.u0 20 4 && allZero c.u0 32 32 &&
    x.op != 3 && x.rnd != 3 && decide (1 ≤ x.wy ∧ x.wy ≤ 16) && decide (1 ≤ x.wx ∧ x.wx ≤ 16) &&
    x.sy != 0 && x.sx != 0 &&
    (x.op != 2 || (x.sy == 1 && x.sx == 1 && x.pt + x.pb + x.pl + x.pr == 0)) &&
    (!(x.op == 0 && x.idxEn) || (x.idxVa != 0 && x.idxVa % 4 == 0 && decide (x.idxVa < 2 ^ 48))) &&
    i.good && o.good) .badDescriptor
  require (codeIs isChain i.code && codeIs isChain o.code) .unsupportedFormat
  let d := poolDims x i
  let od := [d.2.2.2.2.1.toNat, d.2.2.2.2.2.toNat, d.2.2.2.1]
  require (i.inRange && o.inRange && i.rank == o.rank && (i.rank == 3 || i.rank == 4) &&
    o.dims == (if i.rank = 4 then d.1 :: od else od) &&
    (x.op == 2 || (decide (x.pt < x.wy) && decide (x.pb < x.wy) && decide (x.pl < x.wx) &&
      decide (x.pr < x.wx)))) .badShape

/-- Cells of one window in row-major order: the plane index and value of a real cell, none for padding. -/
def poolCells (s : State) (x : Pl) (i : Desc) (b oy ox ch h w : Nat) :
    Except Err (List (Option (Nat × Val))) :=
  mapE (fun k => do
    let iy : Int := (oy * x.sy + k / x.wx : Nat) - (x.pt : Int)
    let ix : Int := (ox * x.sx + k % x.wx : Nat) - (x.pl : Int)
    if 0 ≤ iy ∧ iy < h ∧ 0 ≤ ix ∧ ix < w then do
      let idx := [iy.toNat, ix.toNat, ch]
      let v ← readVal s i (if i.rank = 4 then b :: idx else idx)
      .ok (some (iy.toNat * w + ix.toNat, v))
    else .ok none) (List.range (x.wy * x.wx))

/-- Average of the present cells (R144). -/
def poolAvg (incPad : Bool) (cells : List (Option (Nat × Val))) : Val :=
  let vs := if incPad then cells.map (fun c => match c with
      | some p => widen p.2
      | none => Val.zero)
    else cells.filterMap (fun c => c.map (fun p => widen p.2))
  match vs with
  | [] => .zero
  | v :: t => rdiv (t.foldl fadd v) (Val.ofInt vs.length)

/-- `POOL`. -/
def poolBody (s : State) (c : Cmd) : Except Err OpOut := do
  poolCheck c
  let x := parsePl c.u0
  let i := c.desc 1
  let o := c.desc 2
  let d := poolDims x i
  if i.count = 0 ∨ d.2.2.2.2.1 ≤ 0 ∨ d.2.2.2.2.2 ≤ 0 then .ok (OpOut.just .okEmptyResult)
  else do
    needCores s c []
    .ok (eachElem s o.dims fun k idx => do
      let b := if i.rank = 4 then idx.headD 0 else 0
      let j := idx.drop (idx.length - 3)
      let oy := j.getD 0 0
      let ox := j.getD 1 0
      let ch := j.getD 2 0
      let out (v : Val) : List (Nat × Byte) :=
        elemWrite o idx (convert o.fmt ((rndOfCode x.rnd).getD .rne) (drawsVec s k 7) v)
      if x.op = 2 then do
        let q := [oy / x.wy, ox / x.wx, ch]
        let v ← readVal s i (if i.rank = 4 then b :: q else q)
        .ok (out v)
      else do
        let cells ← poolCells s x i b oy ox ch d.2.1 d.2.2.1
        if x.op = 1 then .ok (out (poolAvg x.incPad cells))
        else
          let real := cells.filterMap id
          let best := argOf false (real.map Prod.snd)
          let index := (real.map Prod.fst).getD best.1 0
          .ok (out best.2 ++ (if x.idxEn then spread (x.idxVa + 4 * k) (toLE 4 index) else [])))

/-- The prediction of `POOL`: the rate of R144 alone, without the byte bound of R125 (DESIGN CHOICE; log 24). -/
def poolPlan (s : State) (c : Cmd) : Plan :=
  let x := parsePl c.u0
  let i := c.desc 1
  let o := c.desc 2
  let cores := (coresOf s c).length
  let win := if x.op = 2 then 1 else x.wy * x.wx
  let rate := vectorRate (i.code == 1 && o.code == 1) false
  let cyc := ((blockRanges cores o.count).map (fun r => cdiv ((r.2 - r.1) * win) rate)).foldl max 0
  vectorPlan 3 cores o.count cyc 0 []

/-! `BOX_DECODE`. -/

def boxDims (c : Cmd) : Nat × Nat :=
  let o := c.desc 1
  (if o.rank = 3 then o.dims.getD 0 0 else 1, o.dims.getD (o.rank - 2) 0)

def boxAnchor (c : Cmd) : Bool := fld c.u0 8 0 1 == 0

def boxCheck (c : Cmd) : Except Err Unit := do
  let o := c.desc 1
  let r := c.desc 2
  let a := c.desc 3
  let an := boxAnchor c
  let sc := f32 (leAt c.u0 28 4)
  require (c.units.length == (if an then 4 else 3) && fld c.u0 8 2 30 == 0 && allZero c.u0 40 24 &&
    !sc.isNaN && !(f32 (leAt c.u0 32 4)).isNaN && !(f32 (leAt c.u0 36 4)).isNaN &&
    o.good && r.good && (!an || a.good)) .badDescriptor
  let vec (f : Fmt) : Bool := f == .bf16 || f == .fp32
  require (codeIs vec o.code && codeIs (fun f => vec f || isFp8 f) r.code && (!an || codeIs vec a.code))
    .unsupportedFormat
  let d := boxDims c
  require (o.inRange && r.inRange && (o.rank == 2 || o.rank == 3) && o.lastDim == 4 && r.dims == o.dims &&
    decide (d.2 ≤ 65536) && (!an || (a.inRange && (a.dims == [d.2, 4] || a.dims == o.dims)))) .badShape

/-- One candidate (R146): corners before the output rounding. -/
def boxCorners (c : Cmd) (i : List Val) (a : List Val) : List Val :=
  let p (k : Nat) : Val := f32 (leAt c.u0 (12 + 4 * k) 4)
  let v (k : Nat) : Val := i.getD k .zero
  let an (k : Nat) : Val := a.getD k .zero
  let clip := f32 (leAt c.u0 28 4)
  let anchor := boxAnchor c
  let cx := if anchor then fma (fmul (v 0) (p 0)) (an 2) (an 0) else fmul (v 0) (p 0)
  let cy := if anchor then fma (fmul (v 1) (p 1)) (an 3) (an 1) else fmul (v 1) (p 1)
  let w := if anchor then fmul (an 2) (expR ((fmul (v 2) (p 2)).min clip)) else fmul (v 2) (p 2)
  let h := if anchor then fmul (an 3) (expR ((fmul (v 3) (p 3)).min clip)) else fmul (v 3) (p 3)
  let hw := fmul w .half
  let hh := fmul h .half
  let lim (x hi : Val) : Val := if fld c.u0 8 1 1 = 1 then (x.max .zero).min hi else x
  let iw := f32 (leAt c.u0 32 4)
  let ih := f32 (leAt c.u0 36 4)
  [lim (fsub cx hw) iw, lim (fsub cy hh) ih, lim (fadd cx hw) iw, lim (fadd cy hh) ih]

/-- `BOX_DECODE`. -/
def boxBody (s : State) (c : Cmd) : Except Err OpOut := do
  boxCheck c
  let o := c.desc 1
  let r := c.desc 2
  let a := c.desc 3
  let d := boxDims c
  if d.1 = 0 ∨ d.2 = 0 then .ok (OpOut.just .okEmptyResult)
  else do
    needCores s c []
    let items : List Item := (List.range (d.1 * d.2)).map (fun k => ((0, k / 1024, 0), do
      let b := k / d.2
      let n := k % d.2
      let at4 (q : Desc) (own : Bool) : Except Err (List Val) :=
        mapE (fun j => readVal s q (if own && q.rank == 3 then [b, n, j] else [n, j])) (List.range 4)
      let iv ← at4 r true
      let av ← if boxAnchor c then at4 a true else .ok []
      let cs := boxCorners c iv av
      .ok ((List.range 4).flatMap (fun j =>
        elemWrite o (if o.rank = 3 then [b, n, j] else [n, j]) (convert o.fmt .rne 0 (cs.getD j .zero))))))
    .ok (OpOut.ofItems s items 0)

def boxPlan (s : State) (c : Cmd) : Plan :=
  let o := c.desc 1
  let cores := (coresOf s c).length
  let cyc := vectorCycles cores 0 o.count 64 0 o.dims
    ([o, c.desc 2] ++ (if boxAnchor c then [c.desc 3] else []))
  vectorPlan 0x0B cores o.count cyc 0 []

/-! `NMS`. -/

/-- The body of unit 0 (R147). -/
structure Nm where
  agnostic : Bool
  maxKeep : Nat
  iou : Val
  score : Val
  idxVa : Nat
  clsVa : Nat
  repVa : Nat
  deriving DecidableEq, Repr

def parseNm (u : Unit64) : Nm :=
  { agnostic := fld u 8 0 1 == 1, maxKeep := fld u 12 0 13, iou := f32 (leAt u 16 4),
    score := f32 (leAt u 20 4), idxVa := leAt u 24 8, clsVa := leAt u 32 8, repVa := leAt u 40 8 }

/-- (batch, N, C). -/
def nmsDims (c : Cmd) : Nat × Nat × Nat :=
  let sc := c.desc 2
  (if sc.rank = 3 then sc.dims.getD 0 0 else 1, sc.dims.getD (sc.rank - 2) 0, sc.lastDim)

def nmsCheck (c : Cmd) : Except Err Unit := do
  let x := parseNm c.u0
  let bx := c.desc 1
  let sc := c.desc 2
  let ks := c.desc 3
  let kb := c.desc 4
  let addr (a : Nat) : Bool := a % 4 == 0 && decide (a < 2 ^ 48)
  require (c.units.length == 5 && fld c.u0 8 1 31 == 0 && fld c.u0 12 13 19 == 0 && allZero c.u0 48 16 &&
    decide (1 ≤ x.maxKeep ∧ x.maxKeep ≤ 4096) && Val.zero.le x.iou && x.iou.le .one && !x.score.isNaN &&
    addr x.idxVa && addr x.clsVa && addr x.repVa && x.idxVa != 0 && x.repVa != 0 && bx.good && sc.good &&
    (ks.base == 0 || ks.good) && (kb.base == 0 || kb.good)) .badDescriptor
  let vec (f : Fmt) : Bool := f == .bf16 || f == .fp32
  require (codeIs vec bx.code && codeIs (fun f => vec f || isFp8 f) sc.code &&
    (ks.base == 0 || codeIs vec ks.code) && (kb.base == 0 || codeIs vec kb.code)) .unsupportedFormat
  let d := nmsDims c
  let pre := if sc.rank = 3 then [d.1] else []
  require (bx.inRange && sc.inRange && (sc.rank == 2 || sc.rank == 3) && bx.dims == pre ++ [d.2.1, 4] &&
    (ks.base == 0 || (ks.inRange && ks.dims == pre ++ [x.maxKeep])) &&
    (kb.base == 0 || (kb.inRange && kb.dims == pre ++ [x.maxKeep, 4])) &&
    decide (1 ≤ d.2.1 ∧ d.2.1 ≤ 65536) && decide (1 ≤ d.2.2 ∧ d.2.2 ≤ 256) &&
    (x.agnostic || decide (d.2.1 * d.2.2 ≤ 1048576))) .badShape

/-- An entry of the selection: score, candidate, class, box. -/
structure NmsEntry where
  score : Val
  i : Nat
  cls : Nat
  box : List Val
  deriving DecidableEq, Repr

/-- Sorting order of R148: score descending, then candidate, then class. -/
def NmsEntry.before (a b : NmsEntry) : Bool :=
  b.score.below a.score ||
  (!a.score.below b.score && (decide (a.i < b.i) || (a.i == b.i && decide (a.cls < b.cls))))

/-- Inserts an entry in order. -/
def nmsInsert (x : NmsEntry) : List NmsEntry → List NmsEntry
  | [] => [x]
  | y :: t => if x.before y then x :: y :: t else y :: nmsInsert x t

def boxArea (b : List Val) : Val :=
  let v (k : Nat) : Val := b.getD k .zero
  fmul (Val.zero.max (fsub (v 2) (v 0))) (Val.zero.max (fsub (v 3) (v 1)))

/-- suppresses(k, x) of R149. -/
def suppresses (iou : Val) (k x : List Val) : Bool :=
  let v (b : List Val) (n : Nat) : Val := b.getD n .zero
  let iw := Val.zero.max (fsub ((v k 2).min (v x 2)) ((v k 0).max (v x 0)))
  let ih := Val.zero.max (fsub ((v k 3).min (v x 3)) ((v k 1).max (v x 1)))
  let inter := fmul iw ih
  let union := fsub (fadd (boxArea k) (boxArea x)) inter
  (fmul iou union).lt inter

/-- The selection of R148: kept entries in order and the truncation flag. -/
def nmsSelect (x : Nm) : List NmsEntry → List NmsEntry → List NmsEntry × Bool
  | [], kept => (kept, false)
  | e :: t, kept =>
      if kept.any (fun k => (x.agnostic || k.cls == e.cls) && suppresses x.iou k.box e.box) then
        nmsSelect x t kept
      else if kept.length = x.maxKeep then (kept, true)
      else nmsSelect x t (kept ++ [e])

/-- The entries of one image, and those excluded for NaN (R148, R150). -/
def nmsEntries (x : Nm) (boxes scores : List (List Val)) : List NmsEntry × Nat :=
  let rows := (boxes.zip scores).zip (List.range boxes.length)
  let all := rows.flatMap (fun p =>
    let b := p.1.1
    let sc := p.1.2
    if x.agnostic then
      let best := argOf false sc
      [NmsEntry.mk best.2 p.2 best.1 b]
    else (sc.zip (List.range sc.length)).map (fun q => NmsEntry.mk q.1 p.2 q.2 b))
  let bad (e : NmsEntry) : Bool := e.score.isNaN || e.box.any Val.isNaN
  let ok := all.filter (fun e => !bad e && x.score.le e.score)
  (ok.foldl (fun acc e => nmsInsert e acc) [], (all.filter bad).length)

/-- `NMS`. -/
def nmsBody (s : State) (c : Cmd) : Except Err OpOut := do
  nmsCheck c
  let x := parseNm c.u0
  let bx := c.desc 1
  let sc := c.desc 2
  let ks := c.desc 3
  let kb := c.desc 4
  let d := nmsDims c
  if d.1 = 0 then .ok (OpOut.just .okEmptyResult)
  else do
  needCores s c []
  let items : List Item := (List.range d.1).map (fun b => ((0, b, 0), do
    let pre := if sc.rank = 3 then [b] else []
    let boxes ← mapE (fun n => mapE (fun j => readVal s bx (pre ++ [n, j])) (List.range 4)) (List.range d.2.1)
    let scores ← mapE (fun n => mapE (fun j => readVal s sc (pre ++ [n, j])) (List.range d.2.2)) (List.range d.2.1)
    let en := nmsEntries x boxes scores
    let sel := nmsSelect x en.1 []
    let neg := toLE 4 0xFFFFFFFF
    let slots := (List.range x.maxKeep).flatMap (fun k =>
      let e := sel.1[k]?
      let at4 (va : Nat) : Nat := va + 4 * (b * x.maxKeep + k)
      spread (at4 x.idxVa) (match e with
        | some q => toLE 4 q.i
        | none => neg) ++
      (if x.clsVa = 0 then [] else spread (at4 x.clsVa) (match e with
        | some q => toLE 4 q.cls
        | none => neg)) ++
      (if ks.base = 0 then [] else
        elemWrite ks (pre ++ [k]) (convert ks.fmt .rne 0 ((e.map NmsEntry.score).getD .zero))) ++
      (if kb.base = 0 then [] else (List.range 4).flatMap (fun j =>
        elemWrite kb (pre ++ [k, j]) (convert kb.fmt .rne 0 (((e.map NmsEntry.box).getD []).getD j .zero)))))
    let rep := toLE 4 sel.1.length ++ toLE 4 en.1.length ++ toLE 4 en.2 ++ toLE 4 (if sel.2 then 1 else 0)
    .ok (slots ++ spread (x.repVa + 16 * b) rep)))
  .ok (OpOut.ofItems s items 0)

/-- Each image runs on one cluster, round-robin over the mask (R150); the manual gives no cycle formula
for `NMS`, so the record predicts its reads at the rates of R125 (log 18). -/
def nmsPlan (s : State) (c : Cmd) : Plan :=
  let d := nmsDims c
  let cl := (c.mask.filter (fun k => !(s.enabledIn k).isEmpty)).length
  let bytes := d.2.1 * d.2.2 * (c.desc 2).bytesPer + d.2.1 * 4 * (c.desc 1).bytesPer
  let cyc := cdiv d.1 (max cl 1) * cdiv (bytes * 14) 1280
  { vectorPlan 0x0C (coresOf s c).length (d.1 * 4096) cyc 0 [] with
    passes := [⟨2, 0, 0xFF, 0, 0, d.1 * d.2.1 * d.2.2, cyc⟩] }

end Sys2Proof.Machine
end

