-- ==== Sys2Proof/Machine/Rows.lean ====
section
/-! DEFINITION. Row statistics: `NORM` (R156 to R165) and `SOFTMAX` (R166 to R170). -/

namespace Sys2Proof.Machine

/-! Statistics of a group (R156 to R159). -/

/-- A count, a mean and a sum of squared deviations (R157). -/
structure Moments where
  n : Nat
  mu : Val
  m2 : Val
  deriving DecidableEq, Repr

def Moments.none : Moments := ⟨0, .zero, .zero⟩

/-- The merge of R157. -/
def Moments.merge (a b : Moments) : Moments :=
  if a.n = 0 then b
  else if b.n = 0 then a
  else
    let n := a.n + b.n
    let d := fsub b.mu a.mu
    let f := rdiv (Val.ofInt b.n) (Val.ofInt n)
    let g := rdiv (Val.ofInt (a.n * b.n : Nat)) (Val.ofInt n)
    { n := n, mu := fma d f a.mu
      m2 := fadd (fadd a.m2 b.m2) (fmul (fmul d d) g) }

/-- Lane 2i merges with lane 2i + 1. -/
def pairMerge : List Moments → List Moments
  | a :: b :: t => a.merge b :: pairMerge t
  | l => l

/-- One chunk: six levels of pairs. -/
def chunkMoments (xs : List Val) : Moments :=
  let l := xs.map (fun x => Moments.mk 1 x .zero)
  (pairMerge (pairMerge (pairMerge (pairMerge (pairMerge (pairMerge l)))))).headD Moments.none

/-- The segments of a group: 65,536 elements each (R156). -/
def segments (xs : List Val) : List (List Val) := chunksOf 65535 xs 65535 []

def groupMoments (xs : List Val) : Moments :=
  ((segments xs).map (fun sg => ((chunks64 sg).map chunkMoments).foldl Moments.merge Moments.none)).foldl
    Moments.merge Moments.none

/-- The running sum of squares of RMS (R158), none over an empty group. -/
def groupSquares (xs : List Val) : Val :=
  let seg (sg : List Val) : Option Val :=
    (chunks64 sg).foldl (fun acc ch => accum .addF acc (tree .addF (ch.map (fun x => some (fmul x x))))) none
  (((segments xs).map seg).foldl (accum .addF) none).getD .zero

/-- Finished statistics: mean (unused in RMS), rs or rr, and whether the sum overflowed while every element
is finite (R158, R159). -/
def groupStats (rms : Bool) (eps : Val) (xs : List Val) : Val × Val × Bool :=
  let n := xs.length
  if xs.any Val.isNaN || (xs.any Val.isInf && decide (1 < n)) then (.nan, .nan, false)
  else if rms then
    let ms := rdiv (groupSquares xs) (Val.ofInt n)
    (.zero, rsqrt (fadd ms eps), false)
  else
    let m := groupMoments xs
    if !xs.any Val.isInf && (m.m2.isInf || m.m2.isNaN) then (m.mu, .zero, true)
    else (m.mu, rsqrt (fadd (rdiv m.m2 (Val.ofInt n)) eps), false)

/-! `NORM`. -/

/-- The body of unit 0 (R161). -/
structure Nr where
  mode : Nat
  sfu : Nat
  gammaEn : Bool
  betaEn : Bool
  statsOnly : Bool
  rnd : Nat
  groups : Nat
  eps : Val
  gammaFmt : Nat
  betaFmt : Nat
  gammaVa : Nat
  betaVa : Nat
  reservedOk : Bool
  deriving DecidableEq, Repr

def parseNr (u : Unit64) : Nr :=
  { mode := fld u 8 0 2, sfu := fld u 8 2 2, gammaEn := fld u 8 4 1 == 1, betaEn := fld u 8 5 1 == 1,
    statsOnly := fld u 8 6 1 == 1, rnd := fld u 8 8 2, groups := byteAt u 12, eps := f32 (leAt u 16 4),
    gammaFmt := byteAt u 20, betaFmt := byteAt u 21, gammaVa := leAt u 24 6, betaVa := leAt u 32 6,
    reservedOk := fld u 8 7 1 == 0 && fld u 8 10 22 == 0 && allZero u 13 3 && allZero u 22 2 &&
      allZero u 30 2 && allZero u 38 2 && allZero u 40 24 }

/-- Batch, rows (1 in GROUP mode), pixels per group row, channels. -/
def nrDims (x : Nr) (i : Desc) : Nat × Nat × Nat × Nat :=
  if x.mode = 1 then
    let d := if i.rank = 4 then i.dims.drop 1 else i.dims
    (if i.rank = 4 then i.dims.getD 0 0 else 1, 1, d.getD 0 0 * d.getD 1 0, d.getD 2 0)
  else
    let d := if i.rank = 3 then i.dims.drop 1 else i.dims
    (if i.rank = 3 then i.dims.getD 0 0 else 1, d.getD 0 0, 1, d.getD 1 0)

def nrBatched (x : Nr) (i : Desc) : Bool := if x.mode = 1 then i.rank == 4 else i.rank == 3

def isFloatArr (f : Fmt) : Bool := f == .bf16 || f == .fp32 || isFp8 f

def nrCheck (c : Cmd) : Except Err Unit := do
  let x := parseNr c.u0
  let i := c.desc 1
  let o := c.desc 2
  let st := c.desc 3
  let noSt := st.base == 0
  require (c.units.length == 4 && x.reservedOk && x.mode != 3 && x.sfu != 3 && x.rnd != 3 &&
    Val.zero.le x.eps && !x.eps.isInf && !(x.statsOnly && noSt) && !(x.gammaEn && x.gammaVa == 0) &&
    !(x.betaEn && x.betaVa == 0) && i.good && (x.statsOnly || o.good) && (noSt || st.good)) .badDescriptor
  require (codeIs isFloatArr i.code && (x.statsOnly || codeIs isFloatArr o.code) &&
    (noSt || st.fmt? == some .fp32) && (!x.gammaEn || floatVecCode x.gammaFmt) &&
    (!x.betaEn || floatVecCode x.betaFmt)) .unsupportedFormat
  let d := nrDims x i
  let w := if x.mode = 2 then 1 else 2
  let sd := [d.2.1, x.groups, w]
  require (i.inRange && (if x.mode = 1 then i.rank == 3 || i.rank == 4 else i.rank == 2 || i.rank == 3) &&
    (x.statsOnly || (o.inRange && o.dims == i.dims)) &&
    (noSt || (st.inRange && st.dims == (if nrBatched x i then d.1 :: sd else sd))) &&
    decide (1 ≤ x.groups ∧ x.groups ≤ 32) && d.2.2.2 % max x.groups 1 == 0) .badShape

/-- Index tuple of batch `b`, row `r`, pixel `p`, channel `c`. -/
def nrIdx (x : Nr) (i : Desc) (b r p c : Nat) : List Nat :=
  let d := if i.rank = 4 then i.dims.drop 1 else i.dims
  let w := max (d.getD 1 1) 1
  let t := if x.mode = 1 then [p / w, p % w, c] else [r, c]
  if nrBatched x i then b :: t else t

/-- The elements of a group in order: pixel and channel (R156). -/
def nrPlaces (x : Nr) (i : Desc) (q : Nat) : List (Nat × Nat) :=
  let d := nrDims x i
  let per := d.2.2.2 / max x.groups 1
  (List.range d.2.2.1).flatMap (fun p => (List.range per).map (fun k => (p, q * per + k)))

/-- The statistics pass of one group: its statistics and what it writes of them (R164). -/
def nrStats (s : State) (x : Nr) (i st : Desc) (b r q : Nat) :
    Except Err ((Val × Val × Bool) × List (Nat × Byte)) := do
  let vs ← mapE (fun pc => readVal s i (nrIdx x i b r pc.1 pc.2)) (nrPlaces x i q)
  let g := groupStats (x.mode == 2) x.eps vs
  let sidx (j : Nat) : List Nat := if nrBatched x i then [b, r, q, j] else [r, q, j]
  .ok (g, if st.base = 0 then []
    else if x.mode = 2 then elemWrite st (sidx 0) (toF32 g.2.1)
    else elemWrite st (sidx 0) (toF32 g.1) ++ elemWrite st (sidx 1) (toF32 g.2.1))

/-- The normalisation pass of one group: its elements by their block (R160, R164). Where the squares overflow a normalised
value is a zero whatever the mean is, as R159 says, though the prologue of R106 would give NaN for a mean that overflows
itself (DESIGN CHOICE: R160's equal bits do not hold there; log 25). -/
def nrGroup (s : State) (x : Nr) (i o : Desc) (gamma beta : List Val) (g : Val × Val × Bool) (b r q : Nat) : List Item :=
  let d := nrDims x i
  let p : Pro := ⟨1, if x.mode = 2 then 2 else 1, x.sfu, x.gammaEn, x.betaEn, x.groups, 0, 0, 0, 0, 0, true⟩
  (nrPlaces x i q).map (fun pc =>
    let ch := pc.2
    let k := ((b * d.2.1 + r) * d.2.2.1 + pc.1) * d.2.2.2 + ch
    ((0, k / 4096, 1), do
      let v ← readVal s i (nrIdx x i b r pc.1 ch)
      let y := if g.2.2 then
          let neg := if g.1.isNaN || g.1.isInf then Config.free (s.freeCtr + 16 * k) % 2 == 1 else (v.sub g.1).sign
          ({ p with norm := 0 } : Pro).apply .zero .zero (gamma.getD ch .one) (beta.getD ch .zero) (.fin neg 0 0)
        else p.apply g.1 g.2.1 (gamma.getD ch .one) (beta.getD ch .zero) v
      .ok (elemWrite o (nrIdx x i b r pc.1 ch) (convert o.fmt ((rndOfCode x.rnd).getD .rne) (drawsVec s k 7) y))))

/-- The statistics pass reads what the normalisation pass writes as it was: it ends before any of that is written (R164,
R165). -/
def State.beforeOutput (s : State) (o st : Desc) : State :=
  { s with ms := { s.ms with view := { s.ms.view with
      race := s.ms.view.race.filter (fun r => !o.touches (r.1, 1) || (st.base != 0 && st.touches (r.1, 1))) } } }

/-- The normalisation pass reads the statistics' bytes as written (R164, R165). -/
def State.afterStats (s : State) (ws : List (Nat × Byte)) : State :=
  { s with ms := { s.ms with view := { s.ms.view with race := ws ++ s.ms.view.race } } }

/-- `NORM`: the statistics of every group, then the normalised blocks; a fault of the first pass leaves none of the
second's, one of the second leaves all of the first's (R164, R206). -/
def nrBody (s : State) (c : Cmd) : Except Err OpOut := do
  nrCheck c
  let x := parseNr c.u0
  let i := c.desc 1
  let o := c.desc 2
  let st := c.desc 3
  let d := nrDims x i
  if i.count = 0 then .ok (OpOut.just .okEmptyResult)
  else do
    needCores s c (blockUndo s c (!x.statsOnly && o.same i) i.count)
    let at' (k : Nat) : Nat × Nat × Nat := (k / x.groups / d.2.1, k / x.groups % d.2.1, k % x.groups)
    let n := d.1 * d.2.1 * x.groups
    let first := (List.range n).map (fun k =>
      nrStats (s.beforeOutput o st) x i st (at' k).1 (at' k).2.1 (at' k).2.2)
    let stats := OpOut.ofItems s (first.zipIdx.map (fun g => ((noPlace.1, g.2, 0), g.1.map Prod.snd))) (16 * i.count)
    if x.statsOnly || stats.err.isSome then .ok stats
    else
      let s2 := s.afterStats stats.writes
      let vectors : Except Err (List Val × List Val) := do
        let gamma ← readChannel s2 x.gammaEn x.gammaVa x.gammaFmt d.2.2.2
        let beta ← readChannel s2 x.betaEn x.betaVa x.betaFmt d.2.2.2
        .ok (gamma, beta)
      match vectors with
      | .error e => .ok { stats with err := some e }
      | .ok v =>
          let second := OpOut.ofItems s (first.zipIdx.flatMap (fun g =>
            match g.1 with
            | .ok w => nrGroup s2 x i o v.1 v.2 w.1 (at' g.2).1 (at' g.2).2.1 (at' g.2).2.2
            | .error _ => [])) (16 * i.count)
          .ok { second with tiles := stats.tiles ++ second.tiles }

/-- Elements of the segments `[k0, k1)` that a core reads, of those that a zero stride repeats one (R125, R164). -/
def nrSegEls (x : Nr) (i : Desc) (segs k0 k1 : Nat) : Nat :=
  let d := nrDims x i
  let per := d.2.2.1 * (d.2.2.2 / max x.groups 1)
  let els (k : Nat) : Nat := min 65536 (per - k % max segs 1 * 65536)
  let ks := (List.range (k1 - k0)).map (k0 + ·)
  if (i.dims.zip i.strides).all (fun p => decide (p.1 ≤ 1) || p.2 != 0) then (ks.map els).sum
  else ((ks.flatMap (fun k =>
    let g := k / max segs 1
    ((nrPlaces x i (g % x.groups)).drop (k % max segs 1 * 65536)).take (els k) |>.map (fun pc =>
      dot (nrIdx x i (g / x.groups / max d.2.1 1) (g / x.groups % max d.2.1 1) pc.1 pc.2) i.strides))).eraseDups).length

/-- The plan of `NORM` (R164). No rule says how many pages of scratch the segments' results take: the model holds none and
reports none (DESIGN CHOICE; log 24). -/
def nrPlan (s : State) (c : Cmd) : Plan :=
  let x := parseNr c.u0
  let i := c.desc 1
  let o := c.desc 2
  let d := nrDims x i
  let e := (coresOf s c).length
  let per := d.2.2.1 * (d.2.2.2 / max x.groups 1)
  let segs := cdiv per 65536
  let u := d.1 * d.2.1 * x.groups * segs
  let segEl (k : Nat) : Nat := min 65536 (per - k % max segs 1 * 65536)
  let stat := ((List.range e).map (fun j =>
    let el := ((List.range (shareAt e u (j + 1) - shareAt e u j)).map (fun t => segEl (shareAt e u j + t))).sum
    let bytes := nrSegEls x i segs (shareAt e u j) (shareAt e u (j + 1)) * i.bytesPer
    max (cdiv el 64) (cdiv (bytes * 14) 1280))).foldl max 0 + 8 * (segs - 1)
  let np := if x.statsOnly then 0
    else vectorCycles e 0 i.count (vectorRate (i.code == 1 && o.code == 1 && (!x.gammaEn || x.gammaFmt == 1) &&
      (!x.betaEn || x.betaFmt == 1)) (x.sfu != 0)) 0 i.dims ([i, o] ++ if o.same i then [o, o] else [])
  let undo := blockUndo s c (!x.statsOnly && o.same i) i.count
  let base := vectorPlan 6 e i.count (stat + np) 0 undo
  { base with
    rt := u, total := u, maxTiles := cdiv u (max e 1), coresUsed := min u e, h := 0
    bands := plainUnits u :: (if x.statsOnly then [] else [plainIn 1 (cdiv i.count 4096)])
    passes := [⟨2, 0, 0xFF, 0, 0, i.count, stat⟩] ++
      (if x.statsOnly then [] else [⟨2, 0, 0xFF, 0, undoTotal undo * 2, i.count, np⟩]) }

/-! `SOFTMAX`. -/

def smScale (c : Cmd) : Val := f32 (leAt c.u0 12 4)

def smDims (c : Cmd) : Nat × Nat × Nat :=
  let i := c.desc 1
  (if i.rank = 3 then i.dims.getD 0 0 else 1, i.dims.getD (i.rank - 2) 0, i.lastDim)

def smCheck (c : Cmd) : Except Err Unit := do
  let i := c.desc 1
  let o := c.desc 2
  let st := c.desc 3
  let noSt := st.base == 0
  let sc := smScale c
  require (c.units.length == 4 && fld c.u0 8 2 30 == 0 && allZero c.u0 16 48 && fld c.u0 8 0 2 != 3 &&
    sc.nonzero && !sc.isInf && !sc.isNaN && i.good && o.good && (noSt || st.good)) .badDescriptor
  require (codeIs isFloatArr i.code && codeIs isFloatArr o.code && (noSt || st.fmt? == some .fp32))
    .unsupportedFormat
  let d := smDims c
  require (i.inRange && o.inRange && (i.rank == 2 || i.rank == 3) && o.dims == i.dims &&
    (noSt || (st.inRange && st.dims == (if i.rank = 3 then [d.1, d.2.1, 2] else [d.2.1, 2])))) .badShape

/-- One chunk of the running maximum and sum (R166). An element of −∞ adds +0 (R167; log 19). -/
def smChunk (acc : Val × Val) (xs : List Val) : Val × Val :=
  let m := acc.1
  let cm := match xs with
    | [] => m
    | x :: t => t.foldl Val.max x
  let mn := m.max cm
  let a := if m.eq mn then Val.one else eFun (fsub m mn)
  let cs := (tree .addF (xs.map (fun x =>
    some (if x == .inf true then Val.zero else eFun (fsub x mn))))).getD .zero
  (mn, fadd (fmul acc.2 a) cs)

/-- m and s of a scaled row. -/
def smStats (xs : List Val) : Val × Val := (chunks64 xs).foldl smChunk (.inf true, .zero)

/-- lse of R166. -/
def lseOf (m sum : Val) : Val := fadd m (fmul (log2 sum) constN)

/-- One row: probabilities before the output rounding, m and lse, from its elements as the first pass reads them and as the
second does. -/
def smRow (xs ys : List Val) : List Val × Val × Val :=
  let ms := smStats xs
  if ms.1 == .inf true then (ys.map (fun _ => Val.zero), .inf true, .inf true)
  else
    let r := recip ms.2
    (ys.map (fun x => fmul (eFun (fsub x ms.1)) r), ms.1, lseOf ms.1 ms.2)

/-- Undo copies of whole rows (R117, R170). -/
def smUndo (s : State) (c : Cmd) : List (Nat × Nat) :=
  let d := smDims c
  if (c.desc 2).same (c.desc 1) then
    undoFor (coresOf s c).length [plainUnits (d.1 * d.2.1)] (fun _ => d.2.2 * (c.desc 1).bytesPer)
  else []

/-- A row that does not stay in the LSM between the passes is read again (R170). -/
def State.readingAgain (s : State) : State :=
  { s with ms := { s.ms with view := { s.ms.view with race := s.ms.view.again } } }

/-- `SOFTMAX`. -/
def smBody (s : State) (c : Cmd) : Except Err OpOut := do
  smCheck c
  let i := c.desc 1
  let o := c.desc 2
  let st := c.desc 3
  let d := smDims c
  if i.count = 0 then .ok (OpOut.just .okEmptyResult)
  else do
    needCores s c (smUndo s c)
    let items : List Item := (List.range (d.1 * d.2.1)).map (fun k => ((0, k, 0), do
      let b := k / d.2.1
      let r := k % d.2.1
      let pre := if i.rank = 3 then [b, r] else [r]
      let raw ← mapE (fun j => readVal s i (pre ++ [j])) (List.range d.2.2)
      let second ← if 1048576 < d.2.2 * i.bytesPer then
        mapE (fun j => readVal s.readingAgain i (pre ++ [j])) (List.range d.2.2) else .ok raw
      let row := smRow (raw.map (fun x => fmul x (smScale c))) (second.map (fun x => fmul x (smScale c)))
      let outs := (List.range d.2.2).flatMap (fun j =>
        elemWrite o (pre ++ [j]) (convert o.fmt ((rndOfCode (fld c.u0 8 0 2)).getD .rne)
          (drawsVec s (k * d.2.2 + j) 7) (row.1.getD j .zero)))
      let sts := if st.base = 0 then []
        else elemWrite st (pre ++ [0]) (toF32 row.2.1) ++ elemWrite st (pre ++ [1]) (toF32 row.2.2)
      .ok (outs ++ sts)))
    .ok (OpOut.ofItems s items (16 * i.count))

/-- The plan of `SOFTMAX`: two passes of ceil(C / 64) cycles a row (R170), without the byte bound of R125 or the undo copy's
read and write (DESIGN CHOICE; log 24). -/
def smPlan (s : State) (c : Cmd) : Plan :=
  let i := c.desc 1
  let d := smDims c
  let e := (coresOf s c).length
  let u := d.1 * d.2.1
  let cyc := cdiv u (max e 1) * 2 * cdiv d.2.2 64
  let undo := smUndo s c
  { vectorPlan 7 e i.count cyc 0 undo with
    rt := u, total := u, maxTiles := cdiv u (max e 1), coresUsed := min u e, h := 0, bands := [plainUnits u]
    passes := [⟨2, 0, 0xFF, 0, undoTotal undo * 2, i.count, cyc⟩] }

end Sys2Proof.Machine
end

