-- ==== Sys2Proof/Machine/Attention.lean ====
section
/-! DEFINITION. `ATTN_FWD` and `ATTN_BWD` (07, R171 to R180). -/

namespace Sys2Proof.Machine

/-- The fields of unit 0 (R176, R180). -/
structure At where
  cache : Bool
  causal : Bool
  rnd : Nat
  bias : Nat
  mask : Nat
  stats : Nat
  d : Nat
  scale : Val
  offset : Int
  seqVa : Nat
  kvLen : Nat
  layer : Nat
  pmax : Nat
  kvFmt : Nat
  kvHeads : Nat
  deriving DecidableEq, Repr

def parseAt (u : Unit64) : At :=
  { cache := fld u 8 0 1 == 1, causal := fld u 8 1 1 == 1, rnd := fld u 8 2 2, bias := fld u 8 4 4,
    mask := fld u 8 8 4, stats := fld u 8 12 4, d := fld u 12 0 9, scale := f32 (leAt u 16 4),
    offset := ofBits 32 (leAt u 20 4), seqVa := leAt u 24 8, kvLen := leAt u 32 3, layer := leAt u 36 2,
    pmax := leAt u 38 2, kvFmt := byteAt u 40, kvHeads := byteAt u 41 }

def scaleGood (v : Val) : Bool := v.nonzero && !v.isInf && !v.isNaN

/-- The page of a position (R182) and an element's address in it (R181). -/
def cachePage (seqVa layer pmax j : Nat) : Nat := seqVa + (layer * pmax + j) * 0x200000
def cacheAddr (seqVa layer pmax heads d es kv h pos c : Nat) : Nat :=
  cachePage seqVa layer pmax (pos / 256) + kv * (256 * heads * d * es) + (h * 256 + pos % 256) * d * es + c * es

/-- Extents: (B, Hq, Lq, HK, Lk). -/
def atDims (c : Cmd) (x : At) : Nat × Nat × Nat × Nat × Nat :=
  let q := c.desc 1
  let k := c.desc 2
  let d := if q.rank = 4 then q.dims.drop 1 else q.dims
  let kd := if k.rank = 4 then k.dims.drop 1 else k.dims
  (if q.rank = 4 then q.dims.getD 0 0 else 1, d.getD 0 0, d.getD 1 0,
    if x.cache then x.kvHeads else kd.getD 0 0, if x.cache then x.kvLen else kd.getD 1 0)

def isAttn (f : Fmt) : Bool := f == .bf16 || isFp8 f
def sameClass (a b : Nat) : Bool :=
  (a == 1 && b == 1) || (codeIs isFp8 a && codeIs isFp8 b)

def optUnit (u lo hi last : Nat) : Bool := u == 0 || (decide (lo ≤ u ∧ u ≤ hi) && decide (u ≤ last))

/-- Bias and mask descriptors checked (R171). One of rank 3 beside operands of rank 4 is shared by every batch entry, as a
stream is (R114; DESIGN CHOICE: log 25). -/
def atExtra (c : Cmd) (u : Nat) (ok : Fmt → Bool) (dims : List Nat) : Bool × Bool × Bool :=
  if u = 0 then (true, true, true)
  else
    let d := c.desc u
    (d.good, codeIs ok d.code, d.inRange && (d.dims == dims || d.dims == dims.drop (dims.length - 3)))

/-- The checks of R177 for `ATTN_FWD`. -/
def atCheck (s : State) (c : Cmd) : Except Err Unit := do
  let x := parseAt c.u0
  let q := c.desc 1
  let k := c.desc 2
  let v := c.desc 3
  let o := c.desc 4
  let es := max (codeBits x.kvFmt / 8) 1
  let dm := atDims c x
  let full := if q.rank = 4 then [dm.1, dm.2.1, dm.2.2.1, dm.2.2.2.2] else [dm.2.1, dm.2.2.1, dm.2.2.2.2]
  let bi := atExtra c x.bias (fun f => f == .bf16 || f == .fp32) full
  let ma := atExtra c x.mask (fun f => f == .bool8) full
  let st := atExtra c x.stats (fun f => f == .fp32) (full.dropLast ++ [2])
  let used := [x.bias, x.mask, x.stats].filter (fun u => u != 0)
  require (decide (5 ≤ c.units.length ∧ c.units.length ≤ 8) && fld c.u0 8 16 16 == 0 && fld c.u0 12 9 23 == 0 &&
    leAt c.u0 30 2 == 0 && byteAt c.u0 35 == 0 && allZero c.u0 42 22 && x.rnd != 3 && scaleGood x.scale &&
    optUnit x.bias 5 7 c.lastUnit && optUnit x.mask 5 7 c.lastUnit && optUnit x.stats 5 7 c.lastUnit &&
    decide used.Nodup && q.good && o.good && bi.1 && ma.1 && st.1 &&
    (if x.cache then
      x.seqVa != 0 && x.seqVa % 0x200000 == 0 &&
      decide (x.kvHeads * x.d * es ≤ 4096) &&
      (List.range (cdiv x.kvLen 256)).all (fun j => (leafOf s.ms.ptes (cachePage x.seqVa x.layer x.pmax j)).isSome)
     else k.good && v.good)) .badDescriptor
  require (codeIs isAttn q.code && codeIs isFloatArr o.code && bi.2.1 && ma.2.1 && st.2.1 &&
    (if x.cache then sameClass q.code x.kvFmt else sameClass q.code k.code && sameClass q.code v.code))
    .unsupportedFormat
  let kd := [dm.2.2.2.1, dm.2.2.2.2, x.d]
  let b4 (l : List Nat) : List Nat := if q.rank = 4 then dm.1 :: l else l
  require (q.inRange && o.inRange && (q.rank == 3 || q.rank == 4) && q.lastDim == x.d && o.dims == q.dims &&
    decide (1 ≤ x.d ∧ x.d ≤ 256) && bi.2.2 && ma.2.2 && st.2.2 &&
    (x.stats == 0 || (c.desc x.stats).rank == q.rank) &&
    (if dm.2.2.2.1 = 0 then dm.2.1 == 0 && !x.cache else dm.2.1 % dm.2.2.2.1 == 0) &&
    (if x.cache then decide (dm.1 ≤ 1) && decide (x.kvLen ≤ x.pmax * 256)
     else k.inRange && v.inRange && k.dims == b4 kd && v.dims == k.dims)) .badShape

/-- Visibility without the mask (R172). -/
def atSees (x : At) (lk i k : Nat) : Bool :=
  decide (k < lk) && (!x.causal || decide ((k : Int) ≤ i + x.offset))

/-- A key or value vector (dense or from the frame cache). -/
def atKv (s : State) (c : Cmd) (x : At) (unit kv b h k : Nat) : Except Err (List Val) :=
  if x.cache then
    let f := (fmtOfCode x.kvFmt).getD .bf16
    let es := f.bytes
    mapE (fun j => do
      let w ← readLE s (cacheAddr x.seqVa x.layer x.pmax x.kvHeads x.d es kv h k j) es
      .ok (decodeElem f w)) (List.range x.d)
  else
    let t := c.desc unit
    mapE (fun j => readVal s t (if t.rank = 4 then [b, h, k, j] else [h, k, j])) (List.range x.d)

/-- A value of an optional bias or mask at (b, h, i, k). -/
def atOpt (s : State) (c : Cmd) (u b h i k : Nat) (dflt : Val) : Except Err Val :=
  if u = 0 then .ok dflt
  else
    let t := c.desc u
    readVal s t (if t.rank = 4 then [b, h, i, k] else [h, i, k])

/-- Score of a key, or none when it is invisible (R172, R173). -/
def atScore (s : State) (c : Cmd) (x : At) (q key : List Val) (lk b h i k : Nat) : Except Err (Option Val) := do
  if !atSees x lk i k then .ok none
  else do
    let m ← atOpt s c x.mask b h i k .one
    if !m.nonzero then .ok none
    else do
      let v := fmul (dotF q key) x.scale
      if x.bias = 0 then .ok (some v)
      else do
        let bv ← atOpt s c x.bias b h i k .zero
        .ok (some (fadd v bv))

/-- Running state of a row: m, s, o. -/
structure AtAcc where
  m : Val
  s : Val
  o : List Val
  deriving DecidableEq, Repr

/-- One key block (R173); scores of the block's keys, none for invisible ones. -/
def atBlock (pf : Fmt) (d : Nat) (acc : AtAcc) (vs : List (Option Val)) (vals : List (List Val)) : AtAcc :=
  let vis := vs.filterMap id
  match vis with
  | [] => acc
  | x :: t =>
      let mn := acc.m.max (t.foldl Val.max x)
      let a := if acc.m.eq mn then Val.one else eFun (fsub acc.m mn)
      let p := vs.map (fun v => v.map (fun w => if w == .inf true then Val.zero else eFun (fsub w mn)))
      let sum := fadd (fmul acc.s a) ((tree .addF p).getD .zero)
      let pr := p.map (fun v => v.map (fun w => decodeElem pf (convert pf .rne 0 w)))
      let o := (List.range d).map (fun ch =>
        let pv := (tree .addF ((pr.zip vals).map (fun q => q.1.map (fun w => w.mul (q.2.getD ch .zero))))).getD .zero
        fadd (fmul (acc.o.getD ch .zero) a) pv)
      ⟨mn, sum, o⟩

def AtAcc.empty (d : Nat) : AtAcc := ⟨.inf true, .zero, List.replicate d .zero⟩

/-- The loop of R173 over the blocks `[lo, hi)` for one row. -/
def atRow (s : State) (c : Cmd) (x : At) (pf : Fmt) (keys vals : List (List Val)) (q : List Val) (lk b h i : Nat) :
    Nat → Nat → AtAcc → Except Err AtAcc
  | 0, _, acc => .ok acc
  | n + 1, j, acc => do
      let ks := (List.range (min 64 (lk - 64 * j))).map (fun t => 64 * j + t)
      let vs ← mapE (fun k => atScore s c x q (keys.getD k []) lk b h i k) ks
      atRow s c x pf keys vals q lk b h i n (j + 1) (atBlock pf x.d acc vs (ks.map (fun k => vals.getD k [])))

/-- Merging the parts of a divided row in completion order (R174). -/
def atMerge (d : Nat) (a b : AtAcc) : AtAcc :=
  if b.m == .inf true then a
  else
    let mn := a.m.max b.m
    let f (m : Val) : Val := if m.eq mn then Val.one else eFun (fsub m mn)
    ⟨mn, fadd (fmul a.s (f a.m)) (fmul b.s (f b.m)),
      (List.range d).map (fun ch => fadd (fmul (a.o.getD ch .zero) (f a.m)) (fmul (b.o.getD ch .zero) (f b.m)))⟩

/-- The final lines of R173: outputs before rounding, and lse. -/
def atFinish (d : Nat) (a : AtAcc) : List Val × Val :=
  if a.m == .inf true then (List.replicate d .zero, .inf true)
  else
    let r := recip a.s
    ((List.range d).map (fun ch => fmul (a.o.getD ch .zero) r), lseOf a.m a.s)

/-- Units, K parts of `ATTN_FWD` (R174). -/
def atKs (s : State) (c : Cmd) : Nat :=
  let x := parseAt c.u0
  let dm := atDims c x
  let mt := max (min 256 dm.2.2.1) 1
  let u := dm.1 * dm.2.1 * cdiv dm.2.2.1 mt
  let e := (coresOf s c).length
  let kb := cdiv dm.2.2.2.2 64
  if !hdrRepro c.u0 && decide (2 * u < e) && decide (32 ≤ kb) then max 1 (min (e / max u 1) (kb / 16)) else 1

/-- Key blocks of tile `t` that hold a key visible under Lk and the causal rule (R175). -/
def visBlocks (x : At) (lq lk mt t : Nat) : Nat :=
  let last : Int := min lq (t * mt + mt) - 1
  if x.causal then
    let hi : Int := last + x.offset
    if hi < 0 then 0 else cdiv (min lk (hi.toNat + 1)) 64
  else cdiv lk 64

/-- The plan of `ATTN_FWD` (R174, R175). -/
def atPlan (s : State) (c : Cmd) : Plan :=
  let x := parseAt c.u0
  let dm := atDims c x
  let lq := dm.2.2.1
  let mt := max (min 256 lq) 1
  let tiles := cdiv lq mt
  let kb := cdiv dm.2.2.2.2 64
  let ks := atKs s c
  let e := (coresOf s c).length
  let w := if (c.desc 1).code = 1 then 64 else 128
  let blk := 2 * cdiv x.d w + cdiv x.d 32
  let st := hdrSettle c.u0
  let units := (List.range (dm.1 * dm.2.1 * tiles)).flatMap (fun n =>
    let t := n % tiles
    let rows := min mt (lq - t * mt)
    if rowsFrozen st c.settleRef c.frozen lq (t * mt) (t * mt + rows) then []
    else (List.range ks).map (fun i =>
      let vis := visBlocks x lq dm.2.2.2.2 mt t
      let kv := min vis ((i + 1) * kb / ks) - i * kb / ks
      { b := n / tiles / max dm.2.1 1, r := n, c := 0, cn := 1, part := i, tiles := 1, rows := rows,
        cycles := kv * blk * max rows 16, block := (0, 0), pru := 0 : WorkUnit }))
  let arr := bandCycles e units
  let tu := tilesOn e [units]
  let rowsAll := dm.1 * dm.2.1 * lq
  let share := cdiv ((units.filter (fun u => u.part == 0)).map WorkUnit.rows).sum (max e 1)
  let size := (c.desc 4).bytesPer
  let comb := if ks = 1 then 0 else
    max (cdiv (share * ks * (x.d + 2)) 64) (cdiv (share * (ks * (x.d + 2) * 4 + x.d * size) * 14) 1280)
  let pages := if ks = 1 then 0 else pagesOf (rowsAll * ks * (x.d + 2) * 4)
  { opcode := 4, e := e, tr := false, repro := hdrRepro c.u0, whole := false,
    frozen := frozenApplies st c.settleRef c.frozen lq, mt := mt, ks := ks, rt := dm.2.1 * tiles, ct := kb,
    h := 0, total := units.length, maxTiles := tu.1, coresUsed := tu.2,
    nBands := 1, bands := [units], predCycles := arr + comb, predNs := nsOf (arr + comb),
    passes := [⟨1, 0, 0xFF, 0, 0, units.length, arr⟩] ++
      (if ks = 1 then [] else [⟨3, 2, 0xFF, 0, pages * 2, units.length / ks, comb⟩]),
    scratchPages := pages, undo := [] }

/-- `ATTN_FWD`. -/
def atBody (s : State) (c : Cmd) : Except Err OpOut := do
  atCheck s c
  let x := parseAt c.u0
  let q := c.desc 1
  let o := c.desc 4
  let dm := atDims c x
  let lq := dm.2.2.1
  let lk := dm.2.2.2.2
  if dm.1 = 0 ∨ dm.2.1 = 0 ∨ lq = 0 then .ok (OpOut.just .okEmptyResult)
  else do
    require (!(coresOf s c).isEmpty) .noResources
    let p := atPlan s c
    require (decide (p.scratchPages ≤ scratchFree s.ms)) .noResources
    let pf := if (if x.cache then x.kvFmt else (c.desc 3).code) = 1 then Fmt.bf16 else Fmt.e4m3
    let ks := atKs s c
    let kb := cdiv lk 64
    let mt := max (min 256 lq) 1
    let items := (List.range (dm.1 * dm.2.1)).flatMap (fun bh =>
      let b := bh / dm.2.1
      let h := bh % dm.2.1
      let hk := h * dm.2.2.2.1 / dm.2.1
      let keysOf := mapE (fun k => atKv s c x 2 0 b hk k) (List.range lk)
      let valsOf := mapE (fun k => atKv s c x 3 1 b hk k) (List.range lk)
      (List.range lq).map (fun i =>
        let t := i / mt
        let n := bh * cdiv lq mt + t
        (if ks = 1 then (b, n, 0) else laterPlace 0 (bh * lq + i),
        if rowsFrozen (hdrSettle c.u0) c.settleRef c.frozen lq (t * mt) (min lq (t * mt + mt)) then .ok []
        else do
          let keys ← keysOf
          let vals ← valsOf
          let qv ← mapE (fun j => readVal s q (if q.rank = 4 then [b, h, i, j] else [h, i, j])) (List.range x.d)
          let parts ← mapE (fun pt =>
            atRow s c x pf keys vals qv lk b h i ((pt + 1) * kb / ks - pt * kb / ks) (pt * kb / ks)
              (AtAcc.empty x.d)) (List.range ks)
          let order := permBy ks (Config.free (s.freeCtr + bh * cdiv lq mt + t)) parts
          let acc := (order.drop 1).foldl (atMerge x.d) (order.headD (AtAcc.empty x.d))
          let fin := atFinish x.d acc
          let k0 := (bh * lq + i) * x.d
          let outs := (List.range x.d).flatMap (fun j =>
            elemWrite o (if q.rank = 4 then [b, h, i, j] else [h, i, j])
              (convert o.fmt ((rndOfCode x.rnd).getD .rne) (drawsVec s (k0 + j) 7) (fin.1.getD j .zero)))
          let sts := if x.stats = 0 then [] else
            let sd := c.desc x.stats
            let ix (j : Nat) : List Nat := if q.rank = 4 then [b, h, i, j] else [h, i, j]
            elemWrite sd (ix 0) (toF32 acc.m) ++ elemWrite sd (ix 1) (toF32 fin.2)
          .ok (outs ++ sts))))
    .ok (OpOut.ofItems s items (16 * q.count + dm.1 * dm.2.1 * cdiv lq mt))

/-! `ATTN_BWD` (R178 to R180). -/

/-- The checks of R177 with the formats of R180. -/
def abCheck (c : Cmd) : Except Err Unit := do
  let x := parseAt c.u0
  let q := c.desc 1
  let dm := atDims c { x with cache := false }
  let full := if q.rank = 4 then [dm.1, dm.2.1, dm.2.2.1, dm.2.2.2.2] else [dm.2.1, dm.2.2.1, dm.2.2.2.2]
  let bi := atExtra c x.bias (fun f => f == .bf16 || f == .fp32) full
  let ma := atExtra c x.mask (fun f => f == .bool8) full
  let ds := (List.range 9).map (fun k => c.desc (k + 1))
  let dAt (k : Nat) : Desc := c.desc k
  require (decide (10 ≤ c.units.length ∧ c.units.length ≤ 12) && !x.cache && x.stats == 0 &&
    fld c.u0 8 16 16 == 0 && fld c.u0 12 9 23 == 0 && allZero c.u0 24 40 && x.rnd != 3 && scaleGood x.scale &&
    optUnit x.bias 10 11 c.lastUnit && optUnit x.mask 10 11 c.lastUnit && (x.bias == 0 || x.bias != x.mask) &&
    ds.all Desc.good && bi.1 && ma.1) .badDescriptor
  require ((ds.take 5).all (fun d => d.code == 1) && (dAt 6).code == 2 &&
    (ds.drop 6).all (fun d => d.code == 1 || d.code == 2) && bi.2.1 && ma.2.1) .unsupportedFormat
  let b4 (l : List Nat) : List Nat := if q.rank = 4 then dm.1 :: l else l
  let kd := b4 [dm.2.2.2.1, dm.2.2.2.2, x.d]
  require (ds.all Desc.inRange && (q.rank == 3 || q.rank == 4) && q.lastDim == x.d &&
    decide (1 ≤ x.d ∧ x.d ≤ 256) && bi.2.2 && ma.2.2 && (dAt 2).dims == kd && (dAt 3).dims == kd &&
    (dAt 4).dims == q.dims && (dAt 5).dims == q.dims && (dAt 6).dims == b4 [dm.2.1, dm.2.2.1, 2] &&
    (dAt 7).dims == q.dims && (dAt 8).dims == kd && (dAt 9).dims == kd &&
    (if dm.2.2.2.1 = 0 then dm.2.1 == 0 else dm.2.1 % dm.2.2.2.1 == 0)) .badShape

/-- What one (query row, key) pair contributes: round(p) and round(ds) in BF16, none when invisible. -/
def abPair (s : State) (c : Cmd) (x : At) (q dO key val : List Val) (lk b h i k : Nat) (lse dd : Val) :
    Except Err (Option (Val × Val)) := do
  let sc ← atScore s c x q key lk b h i k
  match sc with
  | none => .ok none
  | some v =>
      let p := if v == .inf true then Val.zero else eFun (fsub v lse)
      let ds := fmul p (fsub (dotF dO val) dd)
      let r (w : Val) : Val := decodeElem .bf16 (convert .bf16 .rne 0 w)
      .ok (some (r p, r ds))

/-- A sum in chunks of 64 lanes of optional products (R82, R178). -/
def laneSum (lanes : List (Option Val)) : Val := (reduceChunks .addF (chunks64 lanes)).getD .zero

/-- `ATTN_BWD`. -/
def abBody (s : State) (c : Cmd) : Except Err OpOut := do
  abCheck c
  let x := { parseAt c.u0 with cache := false }
  let q := c.desc 1
  let dm := atDims c x
  let lq := dm.2.2.1
  let lk := dm.2.2.2.2
  let hk := dm.2.2.2.1
  if dm.1 = 0 ∨ dm.2.1 = 0 ∨ lq = 0 then .ok (OpOut.just .okEmptyResult)
  else do
    require (!(coresOf s c).isEmpty) .noResources
    require (decide (pagesOf (dm.1 * dm.2.1 * lq * 4) ≤ scratchFree s.ms)) .noResources
    let grp := dm.2.1 / hk
    let mt := max (min 256 lq) 1
    let vec (u b h i : Nat) : Except Err (List Val) := atKv s c x u 0 b h i
    let group (bg : Nat) : Except Err (List (Place × List (Nat × Byte))) := do
      let b := bg / hk
      let g := bg % hk
      let keys ← mapE (fun k => vec 2 b g k) (List.range lk)
      let vals ← mapE (fun k => vec 3 b g k) (List.range lk)
      -- per query row of the group: q, dO and its pairs with every key
      let rows ← mapE (fun n => do
        let h := g * grp + n / lq
        let i := n % lq
        let qv ← vec 1 b h i
        let ov ← vec 4 b h i
        let dov ← vec 5 b h i
        let lse ← readVal s (c.desc 6) (if q.rank = 4 then [b, h, i, 1] else [h, i, 1])
        let dd := dotF dov ov
        let ps ← mapE (fun k =>
          abPair s c x qv dov (keys.getD k []) (vals.getD k []) lk b h i k lse dd) (List.range lk)
        .ok (qv, dov, ps)) (List.range (grp * lq))
      let ix (h i j : Nat) : List Nat := if q.rank = 4 then [b, h, i, j] else [h, i, j]
      let out (u : Nat) (h i j seed : Nat) (v : Val) : List (Nat × Byte) :=
        let d := c.desc u
        elemWrite d (ix h i j) (convert d.fmt ((rndOfCode x.rnd).getD .rne) (drawsVec s seed 7) v)
      let dq := (rows.zip (List.range rows.length)).map (fun rn =>
        let unit := (b * dm.2.1 + g * grp + rn.2 / lq) * cdiv lq mt + rn.2 % lq / mt
        ((unit, unit, 2), (List.range x.d).flatMap (fun j =>
          let lanes := (rn.1.2.2.zip keys).map (fun pk => pk.1.map (fun p => p.2.mul (pk.2.getD j .zero)))
          out 7 (g * grp + rn.2 / lq) (rn.2 % lq) j (3 * ((bg * grp * lq + rn.2) * x.d + j))
            (fmul x.scale (laneSum lanes)))))
      let dkv := (List.range lk).map (fun k =>
        let unit := bg * cdiv lk 64 + k / 64
        ((unit, unit, 1), (List.range x.d).flatMap (fun j =>
        let lane (f : Val × Val → Val) (w : List Val × List Val × List (Option (Val × Val)) → List Val) : Val :=
          laneSum (rows.map (fun r => ((r.2.2.getD k none).map (fun p => (f p).mul ((w r).getD j .zero)))))
        let seed := (bg * lk + k) * x.d + j
        out 8 g k j (3 * seed + 1) (fmul x.scale (lane Prod.snd (fun r => r.1))) ++
        out 9 g k j (3 * seed + 2) (lane Prod.fst (fun r => r.2.1)))))
      .ok (dq ++ dkv : List (Place × List (Nat × Byte)))
    let items : List Item := (List.range (dm.1 * hk)).flatMap (fun bg =>
      match group bg with
      | .ok w => w.map (fun p => (p.1, .ok p.2))
      | .error e => [(noPlace, .error e)])
    .ok (OpOut.ofItems s items (48 * (q.count + (c.desc 2).count)))

/-- The plan of `ATTN_BWD` (R179). The blocks of 4,096 elements of pass 0 cut the elements of dO and O, while its `WORK`
counts those of dd (DESIGN CHOICE; log 25). -/
def abPlan (s : State) (c : Cmd) : Plan :=
  let x := { parseAt c.u0 with cache := false }
  let dm := atDims c x
  let lq := dm.2.2.1
  let lk := dm.2.2.2.2
  let hk := dm.2.2.2.1
  let e := (coresOf s c).length
  let q := c.desc 1
  let dd : Desc := { c.desc 1 with code := 2, strides := packedStrides q.dims.dropLast ++ [0] }
  let c0 := vectorCycles e 0 q.count (vectorRate false false) 0 q.dims [c.desc 4, c.desc 5, dd]
  let kb := cdiv lk 64
  let qch := cdiv (dm.2.1 / max hk 1 * lq) 64
  let u1 := (List.range (dm.1 * hk * kb)).map (fun n =>
    { b := n, r := n, c := 1, cn := 1, part := 0, tiles := 1, rows := 64,
      cycles := qch * (4 * cdiv x.d 64 + 2 * cdiv x.d 32) * 64, block := (0, 0), pru := 0 : WorkUnit })
  let mt := max (min 256 lq) 1
  let tiles := cdiv lq mt
  let u2 := (List.range (dm.1 * dm.2.1 * tiles)).map (fun n =>
    let rows := min mt (lq - n % max tiles 1 * mt)
    { b := n, r := n, c := 2, cn := 1, part := 0, tiles := 1, rows := rows,
      cycles := visBlocks x lq lk mt (n % max tiles 1) * (4 * cdiv x.d 64 + cdiv x.d 32) * max rows 16,
      block := (0, 0), pru := 0 : WorkUnit })
  let a1 := bandCycles e u1
  let a2 := bandCycles e u2
  let pages := pagesOf (dm.1 * dm.2.1 * lq * 4)
  let tu := tilesOn e [u1, u2]
  { opcode := 5, e := e, tr := false, repro := hdrRepro c.u0, whole := false, frozen := false, mt := mt, ks := 1,
    rt := dm.2.1 * tiles, ct := kb, h := 0, total := u1.length + u2.length,
    maxTiles := tu.1, coresUsed := tu.2, nBands := 1, bands := [plainUnits (cdiv q.count 4096), u1, u2],
    predCycles := c0 + a1 + a2, predNs := nsOf (c0 + a1 + a2),
    passes := [⟨2, 0, 0xFF, 0, pages * 2, dm.1 * dm.2.1 * lq, c0⟩, ⟨1, 0, 0xFF, 0, 0, u1.length, a1⟩,
      ⟨1, 0, 0xFF, 0, 0, u2.length, a2⟩], scratchPages := pages, undo := [] }

end Sys2Proof.Machine
end

