-- ==== Sys2Proof/Machine/Rng.lean ====
section
/-! DEFINITION. The sampling-class generator (10, R239 to R248), `RNG_FILL` (R252 to R255) and
`SAMPLE_TOKENS` (R256 to R259). -/

namespace Sys2Proof.Machine

def m32 (x : Nat) : Nat := x % 2 ^ 32

/-- The finaliser of R239. -/
def fin32 (v : Nat) : Nat :=
  let v := v ^^^ (v >>> 16)
  let v := m32 (v * 0x6C8E9CF5)
  let v := v ^^^ (v >>> 15)
  let v := m32 (v * 0xB5A34E27)
  v ^^^ (v >>> 16)

/-- A state (x, y, z, w) as one 128-bit number, x lowest. -/
def xsPack (x y z w : Nat) : Nat := x + y * 2 ^ 32 + z * 2 ^ 64 + w * 2 ^ 96

/-- One step (R239). -/
def xsStep (st : Nat) : Nat :=
  let x := m32 st
  let y := m32 (st >>> 32)
  let z := m32 (st >>> 64)
  let w := st >>> 96
  let t := x ^^^ m32 (x <<< 11)
  xsPack y z w (w ^^^ (w >>> 19) ^^^ t ^^^ (t >>> 8))

/-- The output word after a step. -/
def xsOut (st : Nat) : Nat := fin32 (st >>> 96)

/-- The base state of a seed (R240). -/
def xsBase (seed : Nat) : Nat :=
  let s := if seed = 0 then 0x9B1D4F072C6EA355 else seed
  let lo := m32 s
  let hi := m32 (s >>> 32)
  xsPack (fin32 (lo ^^^ 0xC3A51F29)) (fin32 (hi ^^^ 0x4B7D90E3)) (fin32 (lo ^^^ hi ^^^ 0x1E6F3A5B))
    (fin32 (m32 (lo + hi + 0x7D2C84B1)))

def xsMatrix : List Nat := (List.range 128).map (fun k => xsStep (2 ^ k))

/-- The state after `d` steps: square and multiply over the bits of `d` (R241, R243). -/
def xsJump : Nat → List Nat → Nat → Nat → Nat := gfPower

/-- The first state of a block (R241). -/
def xsBlock (seed stream block : Nat) : Nat :=
  xsJump 128 xsMatrix (stream % 2 ^ 32 * 2 ^ 96 + block * 2 ^ 32) (xsBase seed)

/-- `n` output words from a state. -/
def xsWords : Nat → Nat → List Nat
  | 0, _ => []
  | n + 1, st => let t := xsStep st; xsOut t :: xsWords n t

/-- The words of flattened elements 0 to n − 1 of a stream (R241). -/
def streamWords (seed stream n : Nat) : List Nat :=
  (List.range (cdiv n 4096)).flatMap (fun b =>
    xsWords (min 4096 (n - 4096 * b)) (xsBlock seed stream b))

/-- Leading zeros of a 23-bit number. -/
def lz23 (q : Nat) : Nat := if q = 0 then 23 else 22 - Nat.log2 q

/-- Segment and offset of R248: (seg, t). -/
def segment (q sh : Nat) : Nat × Val :=
  let e := min (lz23 q) 15
  let b := if e < 15 then 22 - e - sh else 8 - sh
  let seg := if e < 15 then e * 2 ^ sh + (q >>> b) % 2 ^ sh else 15 * 2 ^ sh + (q >>> b)
  (seg, .fin false (q % 2 ^ b) (-(b : Int)))

def tableFma (tbl seg : Nat) (t : Val) : Val :=
  let c (k : Nat) : Val := f32 (Config.coef tbl seg k).toNat
  fma (fma (c 2) t (c 1)) t (c 0)

/-! The coefficients are not published, but what the tables approximate and how closely is (R246 to R248): a table's
value is taken where it keeps to that, the exact value rounded otherwise (log 10). -/

/-- floor(√(2π) · 2^160). -/
def rootTau : Nat := 3663441327553143416155729018668077123931970202212

/-- `n` terms of √(2π) · (Φ(x) − 1/2) from term `k`, in units of 2^-160: `x2` is x², `t` is x^(2k+1) / (2^k k!). -/
def phiTerms : Nat → Nat → Nat → Nat → Int
  | 0, _, _, _ => 0
  | n + 1, k, x2, t =>
      (if k % 2 = 0 then ((t / (2 * k + 1) : Nat) : Int) else -((t / (2 * k + 1) : Nat) : Int)) +
        phiTerms n (k + 1) x2 (t * x2 / 2 ^ 160 / (2 * (k + 1)))

/-- The largest x below 6 with Φ(x) − 1/2 at most `target` / √(2π), bit by bit from `2^i`, in units of 2^-160. -/
def phiSearch (target : Int) : Nat → Nat → Nat
  | 0, x => x
  | i + 1, x =>
      let y := x + 2 ^ (i + 63)
      phiSearch target i (if y < 6 * 2 ^ 160 ∧ phiTerms 120 0 (y * y / 2 ^ 160) y ≤ target then y else x)

/-- Φ^-1 at 1/2 + (a + 1/2) / 2^24 (R246). -/
def normalExact (a : Nat) : Val := .fin false (phiSearch ((2 * a + 1) * rootTau / 2 ^ 25 : Nat) 100 0) (-160)

/-- A table's magnitude within R248 of the exact one and never zero. Near the centre, which the model takes to be below
2^-10, it keeps within 2^-31, so that the smallest magnitude (R246) and the spacing (R261) are what the rules give
(log 10). -/
def clampNormal (a : Nat) (v : Val) : Val :=
  let x := normalExact a
  let d : Val := if x.lt (.fin false 1 (-10)) then .fin false 1 (-31)
    else if v.lt (.fin false 4 0) then .fin false 1 (-18) else .fin false 1 (-12)
  if Val.zero.lt v && (x.sub d).le v && v.le (x.add d) then v else rne32 x

/-- The table's magnitude at distance `a` from the centre. -/
def normalMag (a : Nat) : Val := let sg := segment (2 ^ 23 - 1 - a) 6; clampNormal a (tableFma 0 sg.1 sg.2)

/-- The normal value of a word (R245, R246): no magnitude lies beyond the one at q = 0. -/
def normalOf (o : Nat) : Val :=
  let u := o / 256 % 2 ^ 24
  let top := u / 2 ^ 23 = 1
  let low := u % 2 ^ 23
  let v := (normalMag (if top then low else 2 ^ 23 - 1 - low)).min (normalMag (2 ^ 23 - 1))
  if top then v else v.neg

/-- log2 of a positive number in units of 2^-64. -/
def log2Fix (m : Nat) : Nat := Nat.log2 m * 2 ^ 64 + log2Frac 64 (m * 2 ^ 80 / 2 ^ Nat.log2 m) 0

/-- −ln(−ln u) at u = (2U + 1) / 2^25, from ln 2 = 12786308645202655659 / 2^64 and −log2 ln 2 = 9754017956498184655 /
2^64 (R247). -/
def gumbelExact (u : Nat) : Val :=
  let l := 25 * 2 ^ 64 - log2Fix (2 * u + 1)
  let g : Int := (64 * 2 ^ 64 + 9754017956498184655 : Nat) - (log2Fix l : Int)
  .fin (decide (g < 0)) (g.natAbs * 12786308645202655659) (-128)

/-- The Gumbel value of a word (R247), within R248 of the exact one. -/
def gumbelOf (o : Nat) : Val :=
  let u := o / 256 % 2 ^ 24
  let low := u % 2 ^ 23
  let v := if u < 2 ^ 23 then let sg := segment low 5; tableFma 1 sg.1 sg.2
    else let sg := segment (2 ^ 23 - 1 - low) 5; tableFma 2 sg.1 sg.2
  let x := gumbelExact u
  let d : Val := .fin false 1 (-17)
  if (x.sub d).le v && v.le (x.add d) then v else rne32 x

/-- The uniform value (R245). -/
def uniformOf (o : Nat) : Val := .fin false (o / 256 % 2 ^ 24) (-24)

/-! `RNG_FILL`. -/

def rfDist (c : Cmd) : Nat := fld c.u0 8 0 3
def rfP (c : Cmd) (k : Nat) : Nat := leAt c.u0 (16 + 4 * k) 4

def isPacked (d : Desc) : Bool := d.strides == packedStrides d.dims

/-- Output formats of a distribution (R253). -/
def rfFmt (dist : Nat) (f : Fmt) : Bool :=
  match dist with
  | 0 => f == .int32 || f == .int8 || f == .uint8
  | 4 => f == .bool8 || f == .int8 || f == .uint8 || f == .bf16 || f == .fp32
  | _ => isFlt f
where
  isFlt (f : Fmt) : Bool := f == .bf16 || f == .fp32 || isFp8 f

def rfCheck (c : Cmd) : Except Err Unit := do
  let o := c.desc 1
  let dist := rfDist c
  let finite (w : Nat) : Bool := !(f32 w).isNaN && !(f32 w).isInf
  let p0 := rfP c 0
  let p1 := rfP c 1
  require (c.units.length == 2 && fld c.u0 8 11 21 == 0 && allZero c.u0 24 40 && decide (dist ≤ 4) &&
    fld c.u0 8 3 2 != 3 &&
    (if dist = 0 then p0 == 0 && p1 == 0
     else if dist = 4 then p1 == 0 && finite p0 && Val.zero.le (f32 p0) && (f32 p0).le .one
     else finite p0 && finite p1) &&
    o.good && isPacked o && (o.fmt?.isNone || o.base % (512 * codeBits o.code) == 0)) .badDescriptor
  require (codeIs (rfFmt dist) o.code) .unsupportedFormat
  require o.inRange .badShape

/-- One element (R253): the pattern in the output format. -/
def rfElem (dist : Nat) (f : Fmt) (mode : Rnd) (u p0 p1 o : Nat) : Nat :=
  match dist with
  | 0 => if f == .int32 then o else o / 2 ^ 24
  | 4 =>
      let t := toQuantumDir false 1 0 0 * (match f32 p0 with
        | .fin _ m e => toQuantumDir false m (e + 24) 0
        | .nan | .inf _ => 0)
      encode f (if o / 256 % 2 ^ 24 < t then .one else .zero)
  | 1 => convert f mode u (fma (fsub (f32 p1) (f32 p0)) (uniformOf o) (f32 p0))
  | 2 => convert f mode u (fma (f32 p1) (normalOf o) (f32 p0))
  | _ => convert f mode u (fma (f32 p1) (gumbelOf o) (f32 p0))

/-- `RNG_FILL`. -/
def rfBody (s : State) (c : Cmd) : Except Err OpOut := do
  rfCheck c
  let o := c.desc 1
  let n := o.count
  if n = 0 then .ok (OpOut.just .okEmptyResult)
  else
    let seed := (c.sregs.getD (fld c.u0 8 5 6) 0).toNat
    let ws := streamWords seed (leAt c.u0 12 4) n
    .ok (OpOut.ofItems s (ws.zipIdx.map (fun w => ((noPlace.1, w.2 / 4096, 0),
      .ok (elemWrite o (unflat w.2 o.dims) (rfElem (rfDist c) o.fmt ((rndOfCode (fld c.u0 8 3 2)).getD .rne)
        (drawsVec s w.2 7) (rfP c 0) (rfP c 1) w.1))))) (16 * n))

/-- The partition that homes a page: where it lies in the stack, else the `HOME` of its entry (R211). -/
def partitionOf (s : State) (va : Nat) : Nat :=
  match leafOf s.ms.ptes va with
  | some p => if leafPa p va < 0x1000000000 then paPartition (leafPa p va) else pteHome p.word
  | none => homeOfVa va

/-- The partition that a byte lies in; 256 stands for capacity memory, in no partition. -/
def liesIn (s : State) (va : Nat) : Nat :=
  match leafOf s.ms.ptes va with
  | some p => if leafPa p va < 0x1000000000 then paPartition (leafPa p va) else 256
  | none => homeOfVa va

/-- Free scratch pages of one partition. -/
def scratchIn (ms : MemSys) (p : Nat) : Nat :=
  ((List.range (2 * ms.scratchGib)).filter (fun i => pageFree ms (poolPage p i))).length

/-- Adds `k` to the entry of a partition. -/
def tally (l : List (Nat × Nat)) (p k : Nat) : List (Nat × Nat) := alSet p ((alFind p l).getD 0 + k) l

def rfPlan (s : State) (c : Cmd) : Plan :=
  let o := c.desc 1
  let blocks := cdiv o.count 4096
  let per := (List.range blocks).foldl (fun acc b =>
    tally acc (partitionOf s (o.base + 4096 * b * o.bytesPer)) (min 4096 (o.count - 4096 * b))) []
  let ns := (per.map (fun p => max (cdiv (p.2 * o.bytesPer) 512) (cdiv p.2 128))).foldl max 0
  nbuPlan 0x0A (coresOf s c).length blocks per.length ns [⟨5, 0, 0xFF, 0, 0, blocks, cdiv (ns * 14) 10⟩]

/-! `SAMPLE_TOKENS`. -/

def stTopK (c : Cmd) : Nat := fld c.u0 8 0 11
def stTemp (c : Cmd) : Val := f32 (leAt c.u0 16 4)

/-- (batch, R, V). -/
def stDims (c : Cmd) : Nat × Nat × Nat :=
  let i := c.desc 1
  (if i.rank = 3 then i.dims.getD 0 0 else 1, i.dims.getD (i.rank - 2) 0, i.lastDim)

def stKeys (c : Cmd) : Bool := decide (4 ≤ c.units.length) && (c.desc 3).base != 0

def stCheck (c : Cmd) : Except Err Unit := do
  let i := c.desc 1
  let o := c.desc 2
  let k := c.desc 3
  require ((c.units.length == 3 || c.units.length == 4) && fld c.u0 8 17 15 == 0 && allZero c.u0 20 44 &&
    decide (stTopK c ≤ 1024) && Val.zero.le (stTemp c) && !(stTemp c).isInf && i.good && o.good &&
    o.base % 4 == 0 && (!stKeys c || (k.good && k.base % 4 == 0))) .badDescriptor
  require (codeIs (fun f => f == .bf16 || f == .fp32) i.code && o.fmt? == some .int32 &&
    (!stKeys c || k.fmt? == some .fp32)) .unsupportedFormat
  let d := stDims c
  let od := if i.rank = 3 then [d.1, d.2.1] else [d.2.1]
  require (i.inRange && o.inRange && (i.rank == 2 || i.rank == 3) && o.dims == od &&
    (!stKeys c || (k.inRange && k.dims == od)) && decide (d.2.2 ≤ 1048576) && decide (stTopK c ≤ d.2.2)) .badShape

/-- Whether candidate `a` ranks before `b` for TOP_K: descending, NaN below every number, lower index first. -/
def tokBefore (a b : Val × Nat) : Bool :=
  if a.1.isNaN then b.1.isNaN && decide (a.2 < b.2)
  else b.1.isNaN || b.1.below a.1 || (!a.1.below b.1 && decide (a.2 < b.2))

/-- Inserts into the kept candidates, at most `k` of them. -/
def tokInsert (k : Nat) (x : Val × Nat) (l : List (Val × Nat)) : List (Val × Nat) :=
  ((l.takeWhile (fun y => tokBefore y x)) ++ x :: l.dropWhile (fun y => tokBefore y x)).take k

/-- One row (R257): chosen index and key. -/
def tokRow (topK : Nat) (temp : Val) (scores : List Val) (words : List Nat) : Nat × Val :=
  let all := scores.zip (List.range scores.length)
  let elig := if topK = 0 then all
    else
      let best := all.foldl (fun acc x => tokInsert topK x acc) []
      all.filter (fun x => best.any (fun y => y.2 == x.2))
  let keys := elig.map (fun x =>
    if temp.isZero then x.1 else fma temp (gumbelOf (words.getD x.2 0)) x.1)
  let b := argOf false keys
  ((elig.map Prod.snd).getD b.1 0, b.2)

/-- The partition that homes row `n`'s first score (R259). -/
def stHome (s : State) (c : Cmd) (n : Nat) : Nat :=
  let i := c.desc 1
  let d := stDims c
  partitionOf s (i.at' (dot (if i.rank = 3 then [n / d.2.1, n % d.2.1, 0] else [n, 0]) i.strides)).toNat

/-- Room in every executing partition's scratch for the staged lines of its largest row (R224, R259). -/
def stRoom (s : State) (c : Cmd) : Bool :=
  let i := c.desc 1
  let d := stDims c
  (List.range (d.1 * d.2.1)).all (fun n =>
    let p := stHome s c n
    let lines := ((List.range d.2.2).map (fun v =>
      (i.at' (dot (if i.rank = 3 then [n / d.2.1, n % d.2.1, v] else [n, v]) i.strides)).toNat / 64)).eraseDups
    decide (pagesOf (64 * (lines.filter (fun l => liesIn s (l * 64) != p)).length) ≤ scratchIn s.ms p))

/-- `SAMPLE_TOKENS`. -/
def stBody (s : State) (c : Cmd) : Except Err OpOut := do
  stCheck c
  let i := c.desc 1
  let o := c.desc 2
  let k := c.desc 3
  let d := stDims c
  if i.count = 0 then .ok (OpOut.just .okEmptyResult)
  else do
    let seed := (c.sregs.getD (fld c.u0 8 11 6) 0).toNat
    let words := if (stTemp c).isZero then [] else streamWords seed (leAt c.u0 12 4) i.count
    require (stRoom s c) .noResources
    let items : List Item := (List.range (d.1 * d.2.1)).map (fun n => ((noPlace.1, n, 0), do
      let pre := if i.rank = 3 then [n / d.2.1, n % d.2.1] else [n]
      let sc ← mapE (fun v => readVal s i (pre ++ [v])) (List.range d.2.2)
      let r := tokRow (stTopK c) (stTemp c) sc ((words.drop (n * d.2.2)).take d.2.2)
      .ok (elemWrite o pre (toBits 32 r.1) ++ (if stKeys c then elemWrite k pre (toF32 r.2) else []))))
    .ok (OpOut.ofItems s items 0)

def stPlan (s : State) (c : Cmd) : Plan :=
  let d := stDims c
  let rows := d.1 * d.2.1
  let cyc := cdiv d.2.2 128 * (if stTopK c = 0 then 1 else 2)
  let per := (List.range rows).foldl (fun acc n => tally acc (stHome s c n) cyc) []
  let ns := (per.map Prod.snd).foldl max 0
  nbuPlan 0x15 (coresOf s c).length rows per.length ns [⟨5, 0, 0xFF, 0, 0, rows, cdiv (ns * 14) 10⟩]

end Sys2Proof.Machine
end

