-- ==== Sys2Proof/Machine/Sampler.lean ====
section
/-! DEFINITION. `SAMPLE_STEP`, the settle measurement and freezing (09, R216 to R237). -/

namespace Sys2Proof.Machine

/-- The body of unit 0 (R219). -/
structure Ss where
  lat : Nat
  x0Static : Bool
  maskStatic : Bool
  level : Nat
  rnd : Nat
  rowOffset : Nat
  rows : Nat
  sRatio : Option Nat
  sCount : Option Nat
  coefVa : Nat
  mapA : Nat
  mapB : Nat
  theta : Val
  persist : Nat
  settleFrom : Nat
  z : Nat
  z2 : Nat
  seedReg : Nat
  z2Fixed : Bool
  patchLog2 : Nat
  reservedOk : Bool
  deriving DecidableEq, Repr

def parseSs (u : Unit64) : Ss :=
  { lat := fld u 8 0 1, x0Static := fld u 8 1 1 == 1, maskStatic := fld u 8 2 1 == 1, level := fld u 8 3 3,
    rnd := fld u 8 6 2, rowOffset := fld u 12 0 20, rows := fld u 16 0 21,
    sRatio := if fld u 20 6 1 = 1 then some (fld u 20 0 6) else none
    sCount := if fld u 20 14 1 = 1 then some (fld u 20 8 6) else none
    coefVa := leAt u 24 6, mapA := leAt u 32 6, mapB := leAt u 40 6, theta := f32 (leAt u 48 4),
    persist := byteAt u 52, settleFrom := fld u 52 8 20, z := fld u 56 0 12, z2 := fld u 56 16 12,
    seedReg := fld u 60 0 6, z2Fixed := fld u 60 6 1 == 1, patchLog2 := fld u 60 8 3,
    reservedOk := allZero u 9 3 && fld u 12 20 12 == 0 && fld u 16 21 11 == 0 && fld u 20 7 1 == 0 &&
      fld u 20 15 17 == 0 && allZero u 30 2 && allZero u 38 2 && allZero u 46 2 && fld u 52 28 4 == 0 &&
      fld u 56 12 4 == 0 && fld u 56 28 4 == 0 && fld u 60 7 1 == 0 && fld u 60 11 21 == 0 }

/-- A coefficient row (R220). -/
structure CRow where
  coef : List Val
  guide : Bool
  noise : Bool
  mask : Bool
  histN : Nat
  push : Bool
  ring : Nat
  xsel : Nat
  reservedOk : Bool
  deriving DecidableEq, Repr

def parseRow (b : List Byte) : CRow :=
  { coef := (List.range 9).map (fun k => f32 (leAt b (4 * k) 4)), guide := fld b 36 0 1 == 1,
    noise := fld b 36 1 1 == 1, mask := fld b 36 2 1 == 1, histN := fld b 36 3 2, push := fld b 36 5 1 == 1,
    ring := fld b 36 6 2, xsel := fld b 36 8 1,
    reservedOk := fld b 36 9 23 == 0 && allZero b 40 24 }

def CRow.c (r : CRow) (k : Nat) : Val := r.coef.getD k .zero

/-- A tensor is absent beyond the command's length or at base 0 (R218). -/
def ssPresent (c : Cmd) (u : Nat) : Bool := decide (u ≤ c.lastUnit) && (c.desc u).base != 0

/-- The row index i (R221). -/
def ssIndex (c : Cmd) : Nat :=
  let x := parseSs c.u0
  (if x.level = 7 then 0 else c.orbitCtrs.getD x.level 0) + x.rowOffset

/-- H × W × C of the latent. -/
def ssDims (c : Cmd) : Nat × Nat × Nat :=
  let d := c.desc 1
  (d.dims.getD 0 0, d.dims.getD 1 0, d.dims.getD 2 0)

/-- The checks of R223; answers the row. -/
def ssCheck (s : State) (c : Cmd) : Except Err CRow := do
  let x := parseSs c.u0
  let units := (List.range 7).map (· + 1)
  let here := units.filter (ssPresent c)
  let i := ssIndex c
  let dense (u : Nat) : Bool :=
    (u == 7 || isPacked (c.desc u)) && (c.desc u).base % (if u ≤ 2 then 16384 else 256) == 0
  let settle := hdrSettle c.u0
  require (decide (4 ≤ c.units.length ∧ c.units.length ≤ 8) && x.reservedOk &&
    (x.level == 7 || (decide (x.level ≤ 3) && decide (x.level < c.orbitCtrs.length))) && x.rnd != 3 &&
    x.coefVa % 64 == 0 && x.mapA % 64 == 0 && x.mapB % 64 == 0 && !(x.mapB == 0 && x.mapA != 0) &&
    Val.zero.le x.theta && !x.theta.isInf && x.persist != 0 && x.z != x.z2 &&
    !(settle && x.mapA == 0) && decide (x.patchLog2 ≤ 4) && here.all (fun u => (c.desc u).good && dense u) &&
    [1, 2, 3].all (fun u => here.contains u)) .badDescriptor
  let row ← if i < x.rows then do
      let b ← readBytes s (x.coefVa + 64 * i) 64
      .ok (some (parseRow b))
    else .ok none
  require (match row with
    | some r => r.reservedOk && (!r.guide || here.contains 4) && (r.histN == 0 || here.contains 5) &&
        (!r.push || here.contains 5) && (!r.mask || (here.contains 6 && here.contains 7))
    | none => true) .badDescriptor
  let lat := if x.lat = 1 then Fmt.fp32 else Fmt.bf16
  let vec (f : Fmt) : Bool := f == .bf16 || f == .fp32
  require (here.all (fun u =>
    let code := (c.desc u).code
    if u ≤ 2 ∨ u = 5 then code == lat.code
    else if u = 7 then codeIs (fun f => f == .bf16 || f == .bool8) code
    else codeIs vec code)) .unsupportedFormat
  let d := ssDims c
  let dims := [d.1, d.2.1, d.2.2]
  require (here.all (fun u => (c.desc u).inRange && (c.desc u).dims == (if u = 5 then 4 :: dims else dims)) &&
    d.2.2 % 4 == 0 && decide (4 ≤ d.2.2 ∧ d.2.2 ≤ 256) && decide (1 ≤ d.1 ∧ d.1 ≤ 16384) &&
    decide (1 ≤ d.2.1 ∧ d.2.1 ≤ 16384)) .badShape
  match row with
  | some r => .ok r
  | none => .error (.badShape, 0)

/-- A cell of a settle map (R229). -/
structure Cell where
  d2 : Val
  v2 : Val
  run : Nat
  frozen : Bool
  at' : Nat
  deriving DecidableEq, Repr

def parseCell (b : List Byte) : Cell × Bool :=
  (⟨f32 (leAt b 0 4), f32 (leAt b 4 4), byteAt b 8, fld b 8 8 1 == 1, fld b 12 0 20⟩,
    fld b 8 9 23 == 0 && fld b 12 20 12 == 0)

def Cell.bytes (x : Cell) : List Byte :=
  toLE 4 (toF32 x.d2) ++ toLE 4 (toF32 x.v2) ++ toLE 4 (x.run + (if x.frozen then 256 else 0)) ++ toLE 4 x.at'

/-- Number of cells of an H × W latent (R228). -/
def cellCount (h w : Nat) : Nat := cdiv h 16 * cdiv w 16

/-- Reads a map; a reserved bit fails it (R229). -/
def readMap (s : State) (va n : Nat) : Except Err (List Cell) :=
  mapE (fun k => do
    let b ← readBytes s (va + 16 * k) 16
    let c := parseCell b
    if c.2 then .ok c.1 else .error (.badDescriptor, 0)) (List.range n)

/-- Frozen cells of a map, for the planner (R233). -/
def frozenCells (cs : List Cell) : List Nat :=
  (List.range cs.length).filter (fun k => ((cs[k]?).map Cell.frozen).getD false)

/-- One element's inputs. -/
structure SsIn where
  x : Val
  eu : Val
  ec : Val
  hist : List Val
  x0 : Val
  m : Val
  z : Val
  z2 : Val
  deriving DecidableEq, Repr

/-- r of R216 and the blend. -/
def ssBlend (r : CRow) (v : SsIn) (acc : Val) : Val :=
  let rr := fma (r.c 8) v.z2 (fmul (r.c 7) v.x0)
  fma v.m acc (fmul (fsub .one v.m) rr)

/-- e of R216. -/
def ssE (r : CRow) (v : SsIn) : Val :=
  if r.guide then fma (r.c 6) (fsub v.ec v.eu) v.eu else v.eu

/-- The update of one element before the final rounding (R216). -/
def ssUpdate (r : CRow) (v : SsIn) : Val :=
  let acc := fmul (r.c 0) v.x
  let acc := fma (r.c 1) (ssE r v) acc
  let acc := (List.range r.histN).foldl (fun a k => fma (r.c (2 + k)) (v.hist.getD k .zero) a) acc
  let acc := if r.noise then fma (r.c 5) v.z acc else acc
  if r.mask then ssBlend r v acc else acc

/-- A frozen cell's element (R232). -/
def ssFrozen (r : CRow) (v : SsIn) : Val := if r.mask then ssBlend r v v.x else v.x

/-- Sum of squares of one cell row: 64-element chunks, tree, ascending (R228). -/
def rowSquares (xs : List Val) : Val :=
  (reduceChunks .addF (chunks64 (xs.map (fun x => some (fmul x x))))).getD .zero

/-- d2 or v2 of a cell: row partials in ascending order. -/
def cellSum (rows : List (List Val)) : Val :=
  match rows.map rowSquares with
  | [] => .zero
  | v :: t => t.foldl fadd v

/-- The combine of one cell (R230); without the SETTLE flag both frozen fields are copied (R232). -/
def combineCell (x : Ss) (settle : Bool) (i : Nat) (old : Cell) (d2 v2 : Val) : Cell :=
  let quiet := d2.isZero || d2.le (fmul x.theta v2)
  let run := if quiet then min (old.run + 1) 255 else 0
  let fz := old.frozen || (settle && quiet && decide (x.persist ≤ run) && decide (x.settleFrom ≤ i))
  ⟨d2, v2, run, fz, if old.frozen || !settle then old.at' else if fz then i else 0⟩

/-- S_RATIO over the cells not frozen before (R231). -/
def ratioOf (cells : List (Cell × Cell)) : Val :=
  (cells.filter (fun p => !p.1.frozen)).foldl (fun acc p =>
    acc.max (if p.2.d2.isZero && p.2.v2.isZero then Val.zero else rdiv p.2.d2 p.2.v2)) .zero

/-- What a step leaves: writes, scalars, the output map, the buffers a checkpoint holds (R237). -/
structure SsOut where
  out : OpOut
  settleOut : Option SettleRef
  images : List (Nat × Nat)
  froze : Bool
  deriving DecidableEq, Repr

/-- Whether a step leaves frozen cells out (R232); the first resumed orbit runs it in full, and measures and freezes as ever
(R237). -/
def ssSettles (c : Cmd) : Bool := hdrSettle c.u0 && !c.inFull

/-- The maps the step reads and writes (R229). -/
def ssMaps (x : Ss) (r : CRow) : Nat × Nat := if r.xsel = 0 then (x.mapA, x.mapB) else (x.mapB, x.mapA)

/-- The input map, empty without one. -/
def ssOld (s : State) (c : Cmd) (r : CRow) : Except Err (List Cell) :=
  let x := parseSs c.u0
  if x.mapA = 0 then .ok [] else readMap s (ssMaps x r).1 (cellCount (ssDims c).1 (ssDims c).2.1)

/-- Whether element `k` lies in a cell that the step leaves frozen. -/
def ssFixed (c : Cmd) (old : List Cell) (k : Nat) : Bool :=
  let d := ssDims c
  let p := k / max d.2.2 1
  ssSettles c && ((old[p / max d.2.1 1 / 16 * cdiv d.2.1 16 + p % max d.2.1 1 / 16]?).map Cell.frozen).getD false

/-- Operand tensors of a row, whether each is a kept copy (R224) and whether a frozen cell reads it (R232). -/
def ssOperands (x : Ss) (r : CRow) : List (Nat × Bool × Bool) :=
  [(3, false, false)] ++ (if r.guide then [(4, false, false)] else []) ++
  (if r.mask then [(6, x.x0Static, true), (7, x.maskStatic, true)] else []) ++
  (if r.histN ≠ 0 then [(5, false, false)] else [])

/-- 64-byte lines of some elements of a tensor that lie outside partition `p`. -/
def linesOutside (s : State) (d : Desc) (p : Nat) (ks : List Nat) : List Nat :=
  let lines := (ks.map (fun k => (d.at' (dot (unflat k d.dims) d.strides)).toNat / 64)).eraseDups
  lines.filter (fun l => liesIn s (l * 64) != p)

/-- What one executing partition stages for a step (R224): the lines of `X0` and of `MASK` that it copies to keep, the bytes
of its largest block's other staging, and of all. -/
structure Staging where
  x0 : List Nat
  mask : List Nat
  most : Nat
  all : Nat
  deriving DecidableEq, Repr

def Staging.none : Staging := ⟨[], [], 0, 0⟩

/-- Staging per executing partition (R224). A line of `X0` or `MASK` that the partition holds from an earlier step (`kept`:
partition and line) or for another block counts nothing, nor do lines that only frozen cells would read. -/
def ssStaging (s : State) (c : Cmd) (x : Ss) (r : CRow) (old : List Cell) (kept : List (Nat × Nat)) :
    List (Nat × Staging) :=
  let d := ssDims c
  let n := d.1 * d.2.1 * d.2.2
  let src := c.desc (if r.xsel = 0 then 1 else 2)
  (List.range (cdiv n 4096)).foldl (fun acc b =>
    let a := 4096 * b
    let all := (List.range (min n (a + 4096) - a)).map (a + ·)
    let live := all.filter (fun k => !ssFixed c old k)
    let p := partitionOf s (src.base + a * src.bytesPer)
    let lines (o : Nat × Bool × Bool) : List Nat :=
      let ks := if o.2.2 then all else live
      if o.1 = 5 then (List.range r.histN).flatMap (fun k =>
        linesOutside s (c.desc 5) p (ks.map ((r.ring + 4 - k) % 4 * n + ·)))
      else linesOutside s (c.desc o.1) p ks
    let ops := ssOperands x r
    let acc0 := (alFind p acc).getD Staging.none
    let keep (u : Nat) (have' : List Nat) : List Nat :=
      have' ++ ((ops.filter (fun o => o.2.1 && o.1 == u)).flatMap lines).filter
        (fun l => !kept.contains (p, l) && !have'.contains l)
    let stage := 64 * ((ops.filter (fun o => !o.2.1)).flatMap lines).length
    alSet p ⟨keep 6 acc0.x0, keep 7 acc0.mask, max acc0.most stage, acc0.all + stage⟩ acc) []

/-- Pages of a partition's copies of `X0` and of `MASK` to keep. -/
def Staging.pages (g : Staging) : Nat := pagesOf (64 * g.x0.length) + pagesOf (64 * g.mask.length)
/-- Bytes that a step copies into a partition's scratch (R227). -/
def Staging.bytes (g : Staging) : Nat := 64 * (g.x0.length + g.mask.length) + g.all

def ssRoom (s : State) (st : List (Nat × Staging)) : Bool :=
  st.all (fun e => decide (e.2.pages + pagesOf e.2.most ≤ scratchIn s.ms e.1))

/-- X0 and MASK under their STATIC flags, as a checkpoint holds them (R237): the bytes they span. -/
def ssStatics (c : Cmd) : List (Nat × Nat) :=
  let x := parseSs c.u0
  (if x.x0Static && ssPresent c 6 then [(c.desc 6).span] else []) ++
  (if x.maskStatic && ssPresent c 7 then [(c.desc 7).span] else [])

/-- The result of a checked step: a read fault leaves the blocks of 4,096 already written (R226). The vector engines of the
cores write the map, cell by cell (R228). -/
def ssRun (s : State) (c : Cmd) (r : CRow) (old : List Cell) : SsOut :=
  let x := parseSs c.u0
  let settle := hdrSettle c.u0
  let d := ssDims c
  let h := d.1
  let w := d.2.1
  let ch := d.2.2
  let n := h * w * ch
  let i := ssIndex c
  let src := c.desc (if r.xsel = 0 then 1 else 2)
  let dst := c.desc (if r.xsel = 0 then 2 else 1)
  let lat := src.fmt
  let outMap := (ssMaps x r).2
  let seed := (c.sregs.getD x.seedReg 0).toNat
  let needZ2 := r.mask
  let zs := if r.noise then streamWords seed (x.z * 2 ^ 20 + i) n else []
  let z2s := if needZ2 then streamWords seed (x.z2 * 2 ^ 20 + (if x.z2Fixed then 0 else i)) n else []
  let tries : List (Except Err (List (Nat × Byte) × List (Nat × Byte) × Val × Val)) := (List.range n).map (fun k => do
    let idx := unflat k src.dims
    let fz := ssFixed c old k
    let xv ← readVal s src idx
    let eu ← if fz then .ok Val.zero else readVal s (c.desc 3) idx
    let ec ← if fz || !r.guide then .ok Val.zero else readVal s (c.desc 4) idx
    let hist ← if fz then .ok [] else mapE (fun t => readVal s (c.desc 5) ((r.ring + 4 - t) % 4 :: idx)) (List.range r.histN)
    let x0 ← if r.mask then readVal s (c.desc 6) idx else .ok Val.zero
    let m ← if r.mask then readVal s (c.desc 7) idx else .ok Val.one
    let v : SsIn := ⟨xv, eu, ec, hist, x0, m, if r.noise then normalOf (zs.getD k 0) else .zero,
      if needZ2 then normalOf (z2s.getD k 0) else .zero⟩
    let bits := convert lat ((rndOfCode x.rnd).getD .rne) (drawsVec s k 7) (if fz then ssFrozen r v else ssUpdate r v)
    let x' := decodeElem lat bits
    let push := if r.push && !fz then
      elemWrite (c.desc 5) ((r.ring + 1) % 4 :: idx) (convert lat .rne 0 (ssE r v)) else []
    .ok (elemWrite dst idx bits, push, fmul m (fsub x' xv), fmul m x'))
  let els := tries.filterMap (fun e => match e with
    | .ok v => some v
    | .error _ => none)
  let block (k : Nat) : Place := (noPlace.1, k / 4096, 0)
  let body := OpOut.ofItems s (tries.zipIdx.map (fun e => (block e.2, e.1.map Prod.fst)) ++
    tries.zipIdx.filterMap (fun e => match e.1 with
      | .ok v => some (block e.2, .ok v.2.1)
      | .error _ => none)) (16 * n)
  let rowOf (f : Nat × Nat → Val) (cy cx : Nat) : List (List Val) :=
    (List.range (min 16 (h - 16 * cy))).map (fun dy =>
      (List.range (min 16 (w - 16 * cx) * ch)).map (fun t =>
        f (((16 * cy + dy) * w + 16 * cx) * ch + t, 0)))
  let dmv := els.map (fun e => e.2.2)
  let cells := if x.mapA = 0 then [] else (old.zip (List.range old.length)).map (fun oc =>
    let cy := oc.2 / cdiv w 16
    let cx := oc.2 % cdiv w 16
    let d2 := cellSum (rowOf (fun k => ((dmv[k.1]?).map Prod.fst).getD .zero) cy cx)
    let v2 := cellSum (rowOf (fun k => ((dmv[k.1]?).map Prod.snd).getD .zero) cy cx)
    (oc.1, combineCell x settle i oc.1 d2 v2))
  let mapW := cells.zipIdx.map (fun p => (laterPlace 0 p.2, spread (outMap + 16 * p.2) p.1.2.bytes))
  let sr := if x.mapA = 0 then [] else
    (match x.sRatio with
     | some g => [(g, BitVec.ofNat 64 (toF32 (ratioOf cells)))]
     | none => []) ++
    (match x.sCount with
     | some g => [(g, BitVec.ofNat 64 (cells.filter (fun p => !p.2.frozen)).length)]
     | none => [])
  let froze := settle && cells.any (fun p => p.2.frozen)
  let plane := n * src.bytesPer
  let imgs := [(dst.base, plane)] ++
    (if r.push then [((c.desc 5).base + (r.ring + 1) % 4 * plane, plane)] else []) ++
    (if x.mapA = 0 then [] else [(outMap, 16 * cells.length)]) ++
    ssStatics c
  { out := if body.err.isSome then body
      else { body with res := if froze then .okSettled else .ok, tiles := body.tiles ++ mapW, sregs := sr },
    settleOut := if hdrSettle c.u0 then some ⟨outMap, h, w, x.patchLog2⟩ else none, images := imgs, froze := froze }

/-- `SAMPLE_STEP`: checks, the input map, room for staging (R224), result, with what each partition stages. -/
def ssBody (s : State) (c : Cmd) (kept : List (Nat × Nat)) : Except Err (SsOut × List (Nat × Staging)) := do
  let r ← ssCheck s c
  let old ← ssOld s c r
  let st := ssStaging s c (parseSs c.u0) r old kept
  require (ssRoom s st) .noResources
  .ok (ssRun s c r old, st)

/-- The row and the input map that a plan is made from. -/
def ssSeen (s : State) (c : Cmd) : CRow × List Cell :=
  let r := match readBytes s ((parseSs c.u0).coefVa + 64 * ssIndex c) 64 with
    | .ok b => parseRow b
    | .error _ => parseRow []
  (r, match ssOld s c r with
    | .ok l => l
    | .error _ => [])

/-- The plan of `SAMPLE_STEP` (R227): frozen cells read no network output or history, push and draw nothing but z2. -/
def ssPlan (s : State) (c : Cmd) (kept : List (Nat × Nat)) : Plan :=
  let x := parseSs c.u0
  let d := ssDims c
  let n := d.1 * d.2.1 * d.2.2
  let blocks := cdiv n 4096
  let seen := ssSeen s c
  let r := seen.1
  let src := c.desc (if r.xsel = 0 then 1 else 2)
  let st := ssStaging s c x r seen.2 kept
  let e := (coresOf s c).length
  let per (u a b : Nat) : Nat := streamBytes [d.1, d.2.1, d.2.2] (c.desc u) a b
  let cost := (List.range blocks).map (fun b =>
    let a := 4096 * b
    let z := min n (a + 4096)
    let live := ((List.range (z - a)).filter (fun k => !ssFixed c seen.2 (a + k))).length
    let bytes := 2 * (z - a) * src.bytesPer + (r.histN + (if r.push then 1 else 0)) * live * src.bytesPer +
      live * (c.desc 3).bytesPer + (if r.guide then live * (c.desc 4).bytesPer else 0) +
      (if r.mask then per 6 a z + per 7 a z else 0)
    (partitionOf s (src.base + a * src.bytesPer), bytes,
      (if r.noise then live else 0) + (if r.mask then z - a else 0)))
  let bank := cost.foldl (fun acc b => tally acc b.1 b.2.1) []
  let draws := cost.foldl (fun acc b => tally acc b.1 b.2.2) []
  let nbu := (bank.map (fun p =>
    let sg := (alFind p.1 st).getD Staging.none
    max (max (cdiv p.2 512) (cdiv sg.bytes 64)) (cdiv ((alFind p.1 draws).getD 0) 128))).foldl max 0
  let cells := cellCount d.1 d.2.1
  let comb := if x.mapA = 0 then 0 else 64 + 40 * cdiv cells (64 * max e 1)
  let cy := cdiv (nbu * 14) 10 + comb
  { nbuPlan 9 e blocks bank.length nbu
      ([⟨5, 0, 0xFF, 0, 0, blocks, cdiv (nbu * 14) 10⟩] ++
       (if x.mapA = 0 then [] else [⟨6, 0, 0xFF, 0, 0, cells, comb⟩])) with
    predCycles := cy, predNs := nsOf cy }

end Sys2Proof.Machine
end

