-- ==== Sys2Proof/Machine/Cache.lean ====
section
/-! DEFINITION. Frame-cache commands (07, R181 to R189), and the faults that the TCC and control cores
serve: copy-on-write (R188) and first writes to WORK pages (R210). -/

namespace Sys2Proof.Machine

/-! `KV_SCATTER` (R184, R185). -/

/-- The fields of unit 0 (R184). -/
structure Kv where
  fmt : Nat
  heads : Nat
  d : Nat
  start : Nat
  layer : Nat
  pmax : Nat
  seqVa : Nat
  reservedOk : Bool
  deriving DecidableEq, Repr

def parseKv (u : Unit64) : Kv :=
  { fmt := byteAt u 8, heads := byteAt u 9, d := fld u 8 16 9, start := leAt u 12 3, layer := leAt u 16 2,
    pmax := leAt u 18 2, seqVa := leAt u 24 6,
    reservedOk := fld u 8 25 7 == 0 && byteAt u 15 == 0 && allZero u 20 4 && allZero u 30 34 }

/-- COUNT, from the key descriptor. -/
def kvCount (c : Cmd) : Nat := (c.desc 1).dims.getD 1 0

/-- The checks before the page checks, in the order of R177 and R185. -/
def kvCheck (c : Cmd) : Except Err Unit := do
  let x := parseKv c.u0
  let k := c.desc 1
  let v := c.desc 2
  let es := codeBits x.fmt / 8
  require (c.units.length == 3 && x.reservedOk && k.good && v.good && x.seqVa != 0 &&
    x.seqVa % 0x200000 == 0 && decide (x.heads * x.d * es ≤ 4096)) .badDescriptor
  let inOk (f : Fmt) : Bool := f == .bf16 || f == .fp32 || isFp8 f
  require (codeIs isAttn x.fmt && codeIs inOk k.code && codeIs inOk v.code) .unsupportedFormat
  require (x.heads != 0 && x.d != 0 && decide (x.d ≤ 256) && k.inRange && v.inRange &&
    k.dims == [x.heads, kvCount c, x.d] && v.dims == k.dims &&
    decide (x.start + kvCount c ≤ x.pmax * 256)) .badShape

/-- The pages of the window of positions. -/
def kvPages (x : Kv) (count : Nat) : List Nat :=
  (List.range ((x.start + count - 1) / 256 + 1 - x.start / 256)).map
    (fun i => cachePage x.seqVa x.layer x.pmax (x.start / 256 + i))

/-- Takes and maps a frame-cache page with a count of 1 for every unmapped page (R185, R211); none when
the pool cannot supply them all. -/
def reservePages : List Nat → MemSys → Option MemSys
  | [], ms => some ms
  | va :: t, ms =>
      match leafOf ms.ptes va with
      | some _ => reservePages t ms
      | none =>
        let home := pteHome (ms.entry 2 va)
        match takePage ms .frameCache home with
        | none => none
        | some (pg, ms') => reservePages t (ms'.setPte ⟨2, va >>> 21, mkPte true false false 2 home (pg * 0x200000) 1⟩)

/-- The units of `KV_SCATTER`: the pages of its window (R185). -/
def kvUnits (c : Cmd) : List WorkUnit := plainUnits (kvPages (parseKv c.u0) (kvCount c)).length

/-- The writes of the window by page: keys, then values, in position order. -/
def kvWrites (s : State) (c : Cmd) (x : Kv) : List Item :=
  let f := (fmtOfCode x.fmt).getD .bf16
  let es := f.bytes
  (List.range (2 * kvCount c * x.heads)).flatMap (fun n =>
    let kv := n / (kvCount c * x.heads)
    let p := n / x.heads % kvCount c
    let h := n % x.heads
    (List.range x.d).map (fun ch => ((0, (x.start + p) / 256 - x.start / 256, 0), do
      let v ← readVal s (c.desc (1 + kv)) [h, p, ch]
      .ok (spread (cacheAddr x.seqVa x.layer x.pmax x.heads x.d es kv h (x.start + p) ch)
        (toLE es (convert f .rne 0 v))))))

/-- `KV_SCATTER`: what comes before its writes: the checks, and the pages reserved (none when empty). -/
def kvReserve (s : State) (c : Cmd) : Except Err (Option MemSys) := do
  kvCheck c
  let x := parseKv c.u0
  if kvCount c = 0 then .ok none
  else
    let pages := kvPages x (kvCount c)
    match pages.find? (fun va => !inSeq s.models va) with
    | some va => .error (.translationFault, va)
    | none => do
      needCores s c []
      match reservePages pages s.ms with
      | none => .error (.noResources, 0)
      | some ms => .ok (some ms)

/-- `KV_SCATTER`. Reserved pages stay mapped whatever follows (R185, R189). -/
def kvBody (s : State) (c : Cmd) : State × Except Err OpOut :=
  match kvReserve s c with
  | .error e => (s, .error e)
  | .ok none => (s, .ok (OpOut.just .okEmptyResult))
  | .ok (some ms) =>
      let s' := { s with ms := ms }
      (s', .ok (OpOut.ofItems s' (kvWrites s' c (parseKv c.u0)) 0))

/-! `KV_FORK` (R186, R187). -/

/-- The fields of unit 0 (R186). -/
structure Fk where
  release : Bool
  layerFirst : Nat
  layers : Nat
  pages : Nat
  pmax : Nat
  src : Nat
  dst : Nat
  good : Bool
  deriving DecidableEq, Repr

def parseFk (u : Unit64) : Fk :=
  let rel := fld u 8 0 1 == 1
  let src := leAt u 24 6
  let dst := leAt u 32 6
  { release := rel, layerFirst := leAt u 12 2, layers := leAt u 14 2, pages := leAt u 16 2,
    pmax := leAt u 18 2, src := src, dst := dst,
    good := fld u 8 1 31 == 0 && allZero u 20 4 && allZero u 30 2 && allZero u 38 26 &&
      dst != 0 && dst % 0x200000 == 0 && (if rel then src == 0 else src != 0 && src % 0x200000 == 0) }

/-- Page addresses of a range of layers and pages. -/
def fkPages (x : Fk) (base : Nat) : List Nat :=
  (List.range (x.layers * x.pages)).map (fun n =>
    cachePage base (x.layerFirst + n / x.pages) x.pmax (n % x.pages))

def fkPte (s : State) (va : Nat) : Option Pte := pteAt s.ms.ptes 2 (va >>> 21)

/-- Whether some source page would be counted beyond 65,535 mappings. -/
def fkFull (s : State) (src : List Nat) : Bool :=
  let ps := src.filterMap (fkPte s)
  ps.any (fun p => decide (pteRef p.word +
    (ps.filter (fun q => ptePa q.word == ptePa p.word)).length > 65535))

/-- The checks of R187 in their order; the pages to change are the result (none for an empty one). -/
def fkCheck (s : State) (x : Fk) : Except Err (List (Nat × Nat)) := do
  require x.good .badDescriptor
  require (decide (x.pages ≤ x.pmax)) .badShape
  if x.pages = 0 ∨ x.layers = 0 then .ok []
  else do
    let dst := fkPages x x.dst
    let src := if x.release then [] else fkPages x x.src
    match (src ++ dst).find? (fun va => !inSeq s.models va) with
    | some va => .error (.translationFault, va)
    | none => do
      require (x.release || (src.all (fun va => (fkPte s va).isSome) && dst.all (fun va => (fkPte s va).isNone)))
        .badDescriptor
      require (!fkFull s src) .noResources
      .ok (if x.release then dst.map (fun d => (0, d)) else src.zip dst)

/-- One forked page: the count rises, both entries are copy-on-write. -/
def forkPage (ms : MemSys) (src dst : Nat) : MemSys :=
  match pteAt ms.ptes 2 (src >>> 21) with
  | none => ms
  | some p =>
      let ms1 := ms.setRef (ptePa p.word) (· + 1)
      let w := mkPte (pteW p.word) true (ptePin p.word) 2 (pteHome p.word) (ptePa p.word) (pteRef p.word + 1)
      let w' := mkPte (pteW p.word) true false 2 (homeOfVa dst) (ptePa p.word) (pteRef p.word + 1)
      (ms1.setPte ⟨2, src >>> 21, w⟩).setPte ⟨2, dst >>> 21, w'⟩

/-- One released page: unmapped, the count falls; at 0 the page waits for the commands in flight
(R189). -/
def releasePage (inFlight : List Nat) (ms : MemSys) (dst : Nat) : MemSys :=
  match pteAt ms.ptes 2 (dst >>> 21) with
  | none => ms
  | some p =>
      let ms1 := ms.delPte 2 (dst >>> 21)
      let ms2 := ms1.setRef (ptePa p.word) (· - 1)
      if pteRef p.word ≤ 1 then { ms2 with releasing := ms2.releasing ++ [(ptePa p.word / 0x200000, inFlight)] }
      else ms2

/-- `KV_FORK` under FORK. -/
def forkBody (s : State) (c : Cmd) : State × Except Err OpOut :=
  match fkCheck s (parseFk c.u0) with
  | .error e => (s, .error e)
  | .ok [] => (s, .ok (OpOut.just .okEmptyResult))
  | .ok ps =>
      ({ s with ms := ps.foldl (fun ms p => forkPage ms p.1 p.2) s.ms }, .ok (OpOut.just .ok))

/-- `KV_FORK` under RELEASE. -/
def releaseBody (s : State) (c : Cmd) : State × Except Err OpOut :=
  match fkCheck s (parseFk c.u0) with
  | .error e => (s, .error e)
  | .ok [] => (s, .ok (OpOut.just .okEmptyResult))
  | .ok ps =>
      ({ s with ms := ps.foldl (fun ms p => releasePage (s.cmds.map Cmd.id) ms p.2) s.ms },
        .ok (OpOut.just .ok))

end Sys2Proof.Machine
end

