-- ==== Sys2Proof/Machine/Codec.lean ====
section
/-! DEFINITION. Video decode and encode (13, R317 to R338): bodies, checks, output formats, concealment,
compositing, reports and plan records. What the outside standards fix comes with the command (log 11). -/

namespace Sys2Proof

/-- The geometry of no sequence. -/
def PicGeom.none : PicGeom := ⟨0, 0, 0, 0, 0, 0, 0, 0, false, false, 0, 0⟩

/-- Widths of the three planes of a coded picture. -/
def PicGeom.planeW (g : PicGeom) (k : Nat) : Nat := if k = 0 then g.codedW else (g.codedW + 1) / 2

end Sys2Proof

namespace Sys2Proof.Machine

def align64K (n : Nat) : Nat := cdiv n 0x10000 * 0x10000
def up64 (n : Nat) : Nat := cdiv n 64 * 64

/-- One picture slot of a state buffer (R322). -/
def codecSlot (w h : Nat) (tenBit : Bool) : Nat :=
  align64K (up64 w * up64 h * 3 / 2 * (if tenBit then 2 else 1) + up64 w * up64 h / 16)

/-- Whether `[va, va + n)` lies in one WORK or CAPACITY range of a loaded model (R312, R321). -/
def inWorkOrCapacity (s : State) (va n : Nat) : Bool :=
  match rangeOf s.models va with
  | some (_, r) => (r.kind == 1 || r.kind == 3) && decide (va + n ≤ r.base + r.len)
  | none => false

/-- The session a state buffer holds: the newest one that the VCC wrote with the buffer's header word (R321; log 11).
Which buffer holds the word does not matter, so a copied buffer is as good as the first. -/
def sessionAt (s : State) (va codec : Nat) (encode : Bool) : Option Session :=
  match readLE s va 8 with
  | .ok b => s.vcc.sessions.find? (fun x => x.header.toNat == b && x.codec == codec && x.encode == encode)
  | .error _ => none

/-- A fresh session of a command. -/
def Session.fresh (c : Cmd) (codec : Nat) (encode : Bool) : Session :=
  { codec := codec, encode := encode, header := 0, frames := 0, sinceKey := 0, iraps := 0, shown := 0,
    t0 := c.issuedNs, geom := PicGeom.none, pics := [], copies := [], frame := [], forceKey := false }

/-- The session as a frame writes it back; the word that stands for it in the buffer is free and nonzero (log 11). -/
def Session.stamped (s : State) (x : Session) : Session :=
  { x with header := BitVec.ofNat 64 (Config.free s.freeCtr % (2 ^ 64 - 1) + 1) }

/-- The session a command continues or opens. -/
def sessionFor (s : State) (c : Cmd) (opened : Bool) (va codec : Nat) (encode : Bool) : Session :=
  if opened then Session.fresh c codec encode
  else (sessionAt s va codec encode).getD (Session.fresh c codec encode)

/-- Keeps what a state buffer now holds. -/
def putSession (v : Vcc) (x : Session) : Vcc := { v with sessions := x :: v.sessions }

/-! `CODEC_DEC` (R323). -/

structure Dec where
  codec : Nat
  outFmt : Nat
  opened : Bool
  tolerate : Bool
  signed : Bool
  sReport : Option Nat
  budgetMs : Nat
  bsVa : Nat
  bsBytes : Nat
  pitch : Nat
  outVa : Nat
  outBytes : Nat
  stateVa : Nat
  stateUnits : Nat
  reportVa : Nat
  planeOff : Nat
  reservedOk : Bool
  deriving DecidableEq, Repr

def parseDec (c : Cmd) : Dec :=
  let u := c.unitAt 0
  let v := c.unitAt 1
  { codec := fld u 8 0 2, outFmt := fld u 8 2 2, opened := fld u 8 4 1 == 1, tolerate := fld u 8 5 1 == 1,
    signed := fld u 8 6 1 == 1, sReport := if fld u 8 14 1 = 1 then some (fld u 8 8 6) else none,
    budgetMs := if byteAt u 12 = 0 then 40 else byteAt u 12, bsVa := leAt u 16 6, bsBytes := fld u 24 0 27,
    pitch := leAt u 28 4, outVa := leAt u 32 6, outBytes := leAt u 40 5, stateVa := leAt u 48 6,
    stateUnits := leAt u 56 3, reportVa := leAt v 0 6, planeOff := leAt v 8 4,
    reservedOk := fld u 8 7 1 == 0 && fld u 8 15 17 == 0 && allZero u 13 3 && allZero u 22 2 &&
      fld u 24 27 5 == 0 && allZero u 38 2 && allZero u 45 3 && allZero u 54 2 && allZero u 59 5 &&
      allZero v 6 2 && allZero v 12 52 }

/-- Plane sizes (rows, bytes in a row) of an output format (R325). -/
def outPlanes (fmt w h : Nat) : List (Nat × Nat) :=
  match fmt with
  | 0 => [(h, w), (cdiv h 2, 2 * cdiv w 2)]
  | 1 => [(h, 2 * w), (cdiv h 2, 4 * cdiv w 2)]
  | _ => [(h, 2 * w), (h, 2 * w), (h, 2 * w)]

/-- Whether the planes fit in a window. -/
def planesFit (fmt w h pitch planeOff window : Nat) : Bool :=
  (outPlanes fmt w h).zipIdx.all (fun p =>
    p.1.1 == 0 || decide (p.2 * planeOff + (p.1.1 - 1) * pitch + p.1.2 ≤ window))

/-- The checks of R327 up to the parsing of the headers. -/
def decCheck (s : State) (c : Cmd) : Except Err Unit := do
  let x := parseDec c
  require (c.units.length == 2 && x.reservedOk && decide (x.codec ≤ 1) && x.outFmt != 3 &&
    x.outVa % 64 == 0 && x.pitch % 64 == 0 && x.stateVa % 0x10000 == 0 && x.reportVa != 0 &&
    inWorkOrCapacity s x.stateVa (x.stateUnits * 0x10000) &&
    (x.opened || (sessionAt s x.stateVa x.codec false).isSome)) .badDescriptor

/-- The picture sizes of R318. -/
def sizeOk (w h : Nat) : Bool := decide (64 ≤ w ∧ w ≤ 8192 ∧ 64 ≤ h ∧ h ≤ 4352)

/-- The reference picture or frame under a key of the decoded picture buffer. -/
def picAt (pics : List (Int × RefPic)) (key : Int) : Option RefPic := (pics.find? (fun p => p.1 == key)).map Prod.snd

/-- The picture as its session sees it: a frame that `show_existing_frame` names brings its own size, and without it the
header cannot be parsed; an unparsed header leaves the session's sequence in force (R320, R324); AV1 has d = 8 (R322). -/
def pictureIn (ses : Session) (codec : Nat) (p : Picture) : Picture :=
  let q : Picture := match if codec = 1 then p.existing else none with
    | none => { p with existing := (none : Option Int) }
    | some k =>
      match picAt ses.pics k with
      | some r => { p with geom := r.geom, shown := true, keyed := false, concealed := [], refs := [] }
      | none => { p with existing := none, headerOk := false }
  let q := if q.headerOk then q else { q with geom := ses.geom, newSequence := false }
  if codec = 1 then { q with geom := { q.geom with dpb := 8 } } else q

/-- The checks of R327 that follow the parsing of the headers; one that cannot be parsed brings no sequence to check. The
limits and the buffer are those of the sequence's coded size (R318, R322), the output that of the cropped picture. -/
def decSeqCheck (c : Cmd) (pic : Picture) : Except Err Unit := do
  let x := parseDec c
  let g := pic.geom
  require (!pic.headerOk || (pic.inLimits && sizeOk g.seqW g.seqH)) .unsupportedFormat
  require (decide (1 ≤ x.bsBytes ∧ x.bsBytes ≤ 67108864) &&
    (planesFit x.outFmt g.width g.height x.pitch x.planeOff x.outBytes)) .badShape
  require (decide ((g.dpb + 1) * codecSlot g.seqW g.seqH g.tenBit + 0x100000 ≤ x.stateUnits * 0x10000)) .noResources

/-- The reference nearest in display order, the earlier one on a tie (R328). -/
def nearestRef (pics : List (Int × RefPic)) (refs : List Int) (display : Int) : Option RefPic :=
  ((pics.filter (fun p => refs.contains p.1)).map Prod.snd).foldl (fun best p =>
    match best with
    | none => some p
    | some q =>
        let d (r : RefPic) : Nat := (r.display - display).natAbs
        if d p < d q ∨ (d p = d q ∧ p.display < q.display) then some p else best) none

/-- A plane `w` wide with the samples of the CTUs in error replaced by the co-located ones of the reference's plane, or by
mid-grey. -/
def concealPlane (w ctu : Nat) (bad : Nat → Bool) (grey : Nat) (src : Option (Nat × List Nat)) (plane : List Nat) :
    List Nat :=
  plane.zipIdx.map (fun v =>
    if bad (v.2 / w / ctu * cdiv w ctu + v.2 % w / ctu) then
      match src with
      | some l => if v.2 % w < l.1 then l.2.getD (v.2 / w * l.1 + v.2 % w) grey else grey
      | none => grey
    else v.1)

/-- The picture after concealment (R328): Y, Cb, Cr at the coded size. -/
def concealPic (pics : List (Int × RefPic)) (pic : Picture) (aborted : Bool) : List (List Nat) :=
  let g := pic.geom
  let r := nearestRef pics pic.refs pic.displayIdx
  let grey := if g.tenBit then 512 else 128
  let bad (k : Nat) : Bool := aborted || pic.concealed.contains k
  let src (k : Nat) : Option (Nat × List Nat) := r.map (fun q => (q.geom.planeW k, q.planes.getD k []))
  let cn := g.planeW 1 * cdiv g.codedH 2
  let full (l : List Nat) (k : Nat) : List Nat := (List.range k).map (fun i => l.getD i grey)
  let ctu := 2 ^ g.ctuLog2
  [concealPlane (max (g.planeW 0) 1) ctu bad grey (src 0) (full pic.luma (g.codedW * g.codedH)),
   concealPlane (max (g.planeW 1) 1) (ctu / 2) bad grey (src 1) (full pic.cb cn),
   concealPlane (max (g.planeW 1) 1) (ctu / 2) bad grey (src 2) (full pic.cr cn)]

/-- The decoded picture buffer after a picture: what its reference picture set keeps, or in AV1 every slot that it does not
refresh, and the picture under its keys; a new sequence keeps nothing (R328). -/
def dpbAfter (ses : Session) (codec : Nat) (pic : Picture) (entry : RefPic) : List (Int × RefPic) :=
  pic.store.map (fun k => (k, entry)) ++ ses.pics.filter (fun p =>
    !pic.store.contains p.1 && !(pic.newSequence && codec == 0) && (codec == 1 || pic.keep.contains p.1))

/-- The cropped window of a plane, `s` the chroma shift (R324). -/
def cropPlane (g : PicGeom) (k : Nat) (plane : List Nat) : List Nat :=
  let s := if k = 0 then 1 else 2
  (List.range (cdiv g.height s)).flatMap (fun r => (List.range (cdiv g.width s)).map (fun q =>
    plane.getD ((g.cropY / s + r) * g.planeW k + g.cropX / s + q) 0))

/-! Sample conversions (R325, R326, R334). -/

def f32Ratio (a b : Nat) : Val := rdiv (Val.ofInt a) (Val.ofInt b)

/-- An 8-bit sample from a coded sample (R325). -/
def to8 (tenBit : Bool) (v : Nat) : Nat := if tenBit then min 255 ((v + 2) / 4) else v
/-- A P010 word from a coded sample. -/
def toP010 (tenBit : Bool) (v : Nat) : Nat := if tenBit then v * 64 else v * 256

/-- R, G, B of a pixel as BF16 patterns (R326). -/
def rgbOf (tenBit fullRange signed : Bool) (y cb cr : Nat) : List Nat :=
  let k := if tenBit then 4 else 1
  let oy := if fullRange then 0 else 16 * k
  let sy := if fullRange then (if tenBit then 1023 else 255) else 219 * k
  let sc := if fullRange then (if tenBit then 1023 else 255) else 224 * k
  let oc := 128 * k
  let nrm (v o d : Nat) : Val := rdiv (Val.ofInt ((v : Int) - o)) (Val.ofInt d)
  let yy := nrm y oy sy
  let pb := nrm cb oc sc
  let pr := nrm cr oc sc
  let r := fma (f32Ratio 15748 10000) pr yy
  let g := fma (f32Ratio 468124 1000000).neg pr (fma (f32Ratio 187324 1000000).neg pb yy)
  let b := fma (f32Ratio 18556 10000) pb yy
  [r, g, b].map (fun v =>
    let v := (v.max .zero).min .one
    let v := if signed then fma (Val.ofInt 2) v Val.one.neg else v
    convert .bf16 .rne 0 v)

/-- The writes of a shown picture (R325). -/
def picWrites (x : Dec) (g : PicGeom) (planes : List (List Nat)) : List (Nat × Byte) :=
  let w := g.width
  let cw := cdiv w 2
  let y := cropPlane g 0 (planes.getD 0 [])
  let cb := cropPlane g 1 (planes.getD 1 [])
  let cr := cropPlane g 2 (planes.getD 2 [])
  let plane (k : Nat) : Nat := x.outVa + k * x.planeOff
  let rowsC := List.range (cdiv g.height 2)
  match x.outFmt with
  | 0 =>
      (List.range g.height).flatMap (fun r => spread (plane 0 + r * x.pitch)
        ((List.range w).map (fun q => BitVec.ofNat 8 (to8 g.tenBit (y.getD (r * w + q) 0))))) ++
      rowsC.flatMap (fun r => spread (plane 1 + r * x.pitch) ((List.range cw).flatMap (fun q =>
        [BitVec.ofNat 8 (to8 g.tenBit (cb.getD (r * cw + q) 0)),
         BitVec.ofNat 8 (to8 g.tenBit (cr.getD (r * cw + q) 0))])))
  | 1 =>
      (List.range g.height).flatMap (fun r => spread (plane 0 + r * x.pitch)
        ((List.range w).flatMap (fun q => toLE 2 (toP010 g.tenBit (y.getD (r * w + q) 0))))) ++
      rowsC.flatMap (fun r => spread (plane 1 + r * x.pitch) ((List.range cw).flatMap (fun q =>
        toLE 2 (toP010 g.tenBit (cb.getD (r * cw + q) 0)) ++ toLE 2 (toP010 g.tenBit (cr.getD (r * cw + q) 0)))))
  | _ =>
      (List.range g.height).flatMap (fun r =>
        let px := (List.range w).map (fun q => rgbOf g.tenBit g.fullRange x.signed (y.getD (r * w + q) 0)
          (cb.getD (r / 2 * cw + q / 2) 0) (cr.getD (r / 2 * cw + q / 2) 0))
        (List.range 3).flatMap (fun k =>
          spread (plane k + r * x.pitch) (px.flatMap (fun p => toLE 2 (p.getD k 0)))))

/-- Why a decode frame is aborted (R328, R330): 0 when it is not. -/
def decReason (c : Cmd) (pic : Picture) (first : Bool) : Nat :=
  if !pic.headerOk || (first && !pic.keyed) then 4
  else if ((c.codec.map CodecRun.abortReason).getD 0) != 0 then (c.codec.map CodecRun.abortReason).getD 0
  else if pic.boundsHits != 0 then 3
  else 0

/-- Word 0 of the decode report (R330). -/
def decWord0 (shown concealed : Bool) (reason : Nat) (refDamaged grain newSeq : Bool) : Nat :=
  (if shown then 1 else 0) + (if concealed then 2 else 0) + (if reason != 0 then 4 else 0) + reason * 8 +
  (if refDamaged then 64 else 0) + (if grain then 128 else 0) + (if newSeq then 256 else 0)

/-- What a codec frame leaves beside its writes: the session and the engine counters. -/
structure CodecOut where
  out : OpOut
  session : Session
  concealed : Bool
  aborted : Bool
  boundsHits : Nat
  deriving DecidableEq, Repr

/-- The result of a frame under `TOLERATE` (R329). -/
def frameResult (tolerate concealed aborted : Bool) : Res :=
  if tolerate then .ok else if aborted then .codecFrameAborted else if concealed then .codecConcealed else .ok

/-- `CODEC_DEC`: the checks and the frame. The bitstream is read first; what it says is the row's operand (log 11). -/
def decBody (s : State) (c : Cmd) (parsed : Picture) : Except Err CodecOut := do
  decCheck s c
  let x := parseDec c
  let _ ← readBytes s x.bsVa (min x.bsBytes 67108864)
  let ses := sessionFor s c x.opened x.stateVa x.codec false
  let pic := pictureIn ses x.codec parsed
  let reason := decReason c pic x.opened
  decSeqCheck c pic
  let g := pic.geom
  let named := pic.existing.bind (picAt ses.pics)
  let planes := match named with
    | some r => if reason = 0 then r.planes else concealPic ses.pics pic true
    | none => concealPic ses.pics pic (reason != 0)
  let concealed := reason != 0 || !pic.concealed.isEmpty
  let units := if reason != 0 then cdiv g.codedW (2 ^ g.ctuLog2) * cdiv g.codedH (2 ^ g.ctuLog2)
    else pic.concealed.length
  let damaged := ses.pics.any (fun p => pic.refs.contains p.1 && p.2.concealed)
  let shown := ses.shown + (if pic.shown then 1 else 0)
  let iraps := ses.iraps + (if pic.keyed then 1 else 0)
  let w0 := decWord0 pic.shown (!pic.concealed.isEmpty || reason != 0) reason damaged pic.grain pic.newSequence
  let report := toLE 4 w0 ++ toLE 4 (if x.codec = 0 then toBits 32 pic.displayIdx else shown) ++ toLE 4 iraps ++
    toLE 4 (g.width % 2 ^ 14 + g.height % 2 ^ 14 * 2 ^ 16) ++ toLE 4 units ++ toLE 4 pic.bytesUsed ++
    toLE 4 pic.runUs ++ toLE 4 0
  let entry : RefPic := named.getD ⟨pic.displayIdx, g, planes, concealed⟩
  let next := { ses with frames := ses.frames + 1, iraps := iraps, shown := shown,
                         geom := if named.isSome then ses.geom else g,
                         pics := dpbAfter ses x.codec pic entry }.stamped s
  let writes := spread x.stateVa (toLE 8 next.header.toNat) ++
    (if pic.shown then picWrites x g planes else []) ++ spread x.reportVa report
  .ok { out := { res := frameResult x.tolerate concealed (reason != 0), tiles := [(noPlace, writes)],
                 sregs := (match x.sReport with
                   | some g => [(g, BitVec.ofNat 64 w0)]
                   | none => []),
                 draws := 1, err := none },
        session := next,
        concealed := concealed, aborted := reason != 0, boundsHits := pic.boundsHits }

/-! `CODEC_ENC` (R331 to R337). -/

structure Enc where
  codec : Nat
  tenBit : Bool
  opened : Bool
  forceKey : Bool
  tolerate : Bool
  rcMode : Nat
  sReport : Option Nat
  qp : Nat
  roiCount : Nat
  width : Nat
  height : Nat
  kbps : Nat
  gop : Nat
  periodUs : Nat
  bsVa : Nat
  bsBytes : Nat
  stateUnits : Nat
  roiVa : Nat
  stateVa : Nat
  reportVa : Nat
  reservedOk : Bool
  deriving DecidableEq, Repr

def parseEnc (u : Unit64) : Enc :=
  { codec := fld u 8 0 2, tenBit := fld u 8 2 1 == 1, opened := fld u 8 3 1 == 1,
    forceKey := fld u 8 4 1 == 1, tolerate := fld u 8 5 1 == 1, rcMode := fld u 8 6 2,
    sReport := if fld u 8 14 1 = 1 then some (fld u 8 8 6) else none, qp := byteAt u 10,
    roiCount := fld u 8 24 7, width := fld u 12 0 14, height := fld u 12 16 13, kbps := leAt u 16 4,
    gop := leAt u 20 2, periodUs := leAt u 22 2, bsVa := leAt u 24 6, bsBytes := leAt u 32 4,
    stateUnits := leAt u 36 3, roiVa := leAt u 40 6, stateVa := leAt u 48 6, reportVa := leAt u 56 6,
    reservedOk := fld u 8 15 1 == 0 && fld u 8 31 1 == 0 && fld u 12 14 2 == 0 && fld u 12 29 3 == 0 &&
      allZero u 30 2 && byteAt u 39 == 0 && allZero u 46 2 && allZero u 54 2 && allZero u 62 2 }

structure Layer where
  fmt : Nat
  policy : Nat
  signed : Bool
  alpha : Nat
  event : Nat
  x : Nat
  y : Nat
  w : Nat
  h : Nat
  holdUs : Nat
  va : Nat
  pitch : Nat
  planeOff : Nat
  bytes : Nat
  reservedOk : Bool
  deriving DecidableEq, Repr

def parseLayer (u : Unit64) : Layer :=
  { fmt := fld u 0 0 2, policy := fld u 0 2 2, signed := fld u 0 4 1 == 1, alpha := byteAt u 1,
    event := leAt u 2 2, x := fld u 4 0 14, y := fld u 4 16 14, w := fld u 8 0 14, h := fld u 8 16 14,
    holdUs := leAt u 12 4, va := leAt u 16 6, pitch := leAt u 24 4, planeOff := leAt u 28 4,
    bytes := leAt u 32 5,
    reservedOk := fld u 0 5 3 == 0 && fld u 4 14 2 == 0 && fld u 4 30 2 == 0 && fld u 8 14 2 == 0 &&
      fld u 8 30 2 == 0 && allZero u 22 2 && allZero u 37 27 }

def encLayers (c : Cmd) : List Layer := (c.units.drop 1).map parseLayer

/-- ROI entries: x, y, w, h, delta (R335). -/
def readRoi (s : State) (va : Nat) (n : Nat) : Except Err (List (List Int)) :=
  mapE (fun k => do
    let b ← readBytes s (va + 16 * k) 16
    .ok [(fld b 0 0 14 : Int), (fld b 0 16 14 : Int), (fld b 4 0 14 : Int), (fld b 4 16 14 : Int),
      ofBits 8 (byteAt b 8)]) (List.range n)

/-- The checks of `CODEC_ENC`. -/
def encCheck (s : State) (c : Cmd) : Except Err Unit := do
  let x := parseEnc c.u0
  let ls := encLayers c
  let even (n : Nat) : Bool := n % 2 == 0
  require (decide (2 ≤ c.units.length ∧ c.units.length ≤ 5) && x.reservedOk && decide (x.codec ≤ 1) &&
    x.rcMode != 3 && decide (x.roiCount ≤ 64) && (x.codec == 1 || decide (x.qp ≤ 51)) &&
    x.roiVa % 16 == 0 && x.stateVa % 0x10000 == 0 && x.reportVa != 0 &&
    inWorkOrCapacity s x.stateVa (x.stateUnits * 0x10000) &&
    ls.all (fun l => l.reservedOk && l.fmt != 3 && l.policy != 3 && decide (l.event ≤ 255) &&
      even l.x && even l.y && even l.w && even l.h) &&
    (x.opened || (sessionAt s x.stateVa x.codec true).isSome)) .badDescriptor
  let roi ← readRoi s x.roiVa x.roiCount
  require (roi.all (fun e => decide (-25 ≤ e.getD 4 0 ∧ e.getD 4 0 ≤ 25))) .badDescriptor
  require (sizeOk x.width x.height && even x.width && even x.height &&
    ls.all (fun l => planesFit l.fmt l.w l.h l.pitch l.planeOff l.bytes)) .badShape
  let kept := (ls.filter (fun l => l.policy != 1)).length
  require (decide ((3 + kept) * codecSlot x.width x.height x.tenBit + 0x100000 ≤ x.stateUnits * 0x10000)) .noResources

/-- A coded sample from an NV12 byte or a P010 word (R334). -/
def fromPlane (fmt : Nat) (tenBit : Bool) (v : Nat) : Nat :=
  if fmt = 0 then (if tenBit then v * 4 else v)
  else if tenBit then v / 64 else min 255 ((v / 64 + 2) / 4)

/-- Y, Pb, Pr of a pixel with components R, G, B: the matrix of R326 solved in fp32. The order of these operations is the
model's DESIGN CHOICE: R334 gives none (log 11). -/
def ycOf (r g b : Val) : Val × Val × Val :=
  let ka := rdiv (f32Ratio 468124 1000000) (f32Ratio 15748 10000)
  let kb := rdiv (f32Ratio 187324 1000000) (f32Ratio 18556 10000)
  let y := rdiv (fma ka r (fma kb b g)) (fadd (fadd Val.one ka) kb)
  (y, rdiv (fsub b y) (f32Ratio 18556 10000), rdiv (fsub r y) (f32Ratio 15748 10000))

/-- The limited-range sample of a component (R326), before it is rounded; `k` is 1 at 8 bits and 4 at 10 bits. -/
def lumaOf (k : Nat) (y : Val) : Val := fma (Val.ofInt (219 * k : Nat)) y (Val.ofInt (16 * k : Nat))
def chromaOf (k : Nat) (p : Val) : Val := fma (Val.ofInt (224 * k : Nat)) p (Val.ofInt (128 * k : Nat))

/-- The mean of four values in fp32. -/
def mean4 (l : List Val) : Val :=
  let v (i : Nat) : Val := l.getD i .zero
  fmul (.fin false 1 (-2)) (fadd (fadd (v 0) (v 1)) (fadd (v 2) (v 3)))

/-- Samples of one layer at coding depth: Y (w × h), Cb, Cr (half size). -/
def layerPlanes (s : State) (l : Layer) (tenBit signed : Bool) : Except Err (List (List Nat)) :=
  let k := if tenBit then 4 else 1
  let sample (v : Val) : Nat := (satInt 0 (if tenBit then 1023 else 255) .rne 0 v).toNat
  let at8 (p r q : Nat) : Except Err Nat := readLE s (l.va + p * l.planeOff + r * l.pitch + q) 1
  let at16 (p r q : Nat) : Except Err Nat := readLE s (l.va + p * l.planeOff + r * l.pitch + 2 * q) 2
  let cw := l.w / 2
  let ch := l.h / 2
  if l.fmt ≤ 1 then do
    let rd := if l.fmt = 0 then at8 else at16
    let y ← mapE (fun n => rd 0 (n / max l.w 1) (n % max l.w 1)) (List.range (l.w * l.h))
    let cb ← mapE (fun n => rd 1 (n / max cw 1) (2 * (n % max cw 1))) (List.range (cw * ch))
    let cr ← mapE (fun n => rd 1 (n / max cw 1) (2 * (n % max cw 1) + 1)) (List.range (cw * ch))
    .ok ([y, cb, cr].map (fun p => p.map (fromPlane l.fmt tenBit)))
  else do
    let px ← mapE (fun n => mapE (fun p => do
      let b ← at16 p (n / max l.w 1) (n % max l.w 1)
      let v := decodeElem .bf16 b
      .ok (if signed then fma Val.half v Val.half else v)) [0, 1, 2]) (List.range (l.w * l.h))
    let yc := px.map (fun p => ycOf (p.getD 0 .zero) (p.getD 1 .zero) (p.getD 2 .zero))
    let at' (n : Nat) : Val × Val × Val := yc.getD n (.zero, .zero, .zero)
    let mean (f : Val × Val × Val → Val) (n : Nat) : Nat :=
      let m := 2 * (n / max cw 1) * l.w + 2 * (n % max cw 1)
      sample (mean4 ([m, m + 1, m + l.w, m + l.w + 1].map (fun i => chromaOf k (f (at' i)))))
    .ok [(List.range (l.w * l.h)).map (fun n => sample (lumaOf k (at' n).1)),
         (List.range (cw * ch)).map (mean (fun p => p.2.1)), (List.range (cw * ch)).map (mean (fun p => p.2.2))]

/-- Blends one plane of a layer over the frame (R334). -/
def blendPlane (fw : Nat) (frame : List Nat) (lx ly lw lh alpha : Nat) (layer : List Nat) : List Nat :=
  frame.zipIdx.map (fun v =>
    let px := v.2 % fw
    let py := v.2 / fw
    if lx ≤ px ∧ px < lx + lw ∧ ly ≤ py ∧ py < ly + lh then
      (alpha * layer.getD ((py - ly) * lw + (px - lx)) 0 + (255 - alpha) * v.1 + 127) / 255
    else v.1)

/-- Blends a layer over the frame, all three planes. -/
def blendLayer (w : Nat) (frame : List (List Nat)) (l : Layer) (p : List (List Nat)) : List (List Nat) :=
  [blendPlane w (frame.getD 0 []) l.x l.y l.w l.h l.alpha (p.getD 0 []),
   blendPlane (w / 2) (frame.getD 1 []) (l.x / 2) (l.y / 2) (l.w / 2) (l.h / 2) l.alpha (p.getD 1 []),
   blendPlane (w / 2) (frame.getD 2 []) (l.x / 2) (l.y / 2) (l.w / 2) (l.h / 2) l.alpha (p.getD 2 [])]

/-- Black at coding depth (R334). -/
def blackFrame (w h : Nat) (tenBit : Bool) : List (List Nat) :=
  let k := if tenBit then 4 else 1
  [List.replicate (w * h) (16 * k), List.replicate (w * h / 4) (128 * k), List.replicate (w * h / 4) (128 * k)]

/-- How a layer is drawn (R333): 0 fresh, 1 from its copy, 2 not at all. -/
def layerUse (late : Bool) (policy : Nat) (hasCopy : Bool) : Nat :=
  if !late then 0 else if policy = 1 then 2 else if hasCopy then 1 else 2

/-- Composites the layers: the frame, the copies kept, and how each layer was drawn. -/
def composite (s : State) (x : Enc) (old : List (Nat × List (List Nat))) (late : List Nat) :
    List (Layer × Nat) → List (List Nat) → List (Nat × List (List Nat)) → List Nat →
    Except Err (List (List Nat) × List (Nat × List (List Nat)) × List Nat)
  | [], frame, copies, uses => .ok (frame, copies, uses)
  | (l, j) :: t, frame, copies, uses => do
      let u := layerUse (late.contains j) l.policy (alFind j old).isSome
      let p ← if u = 0 then layerPlanes s l x.tenBit l.signed else .ok ((alFind j old).getD [])
      let copies := if l.policy != 1 && u != 2 then alSet j p copies else copies
      composite s x old late t (if u = 2 then frame else blendLayer x.width frame l p) copies (uses ++ [u])

/-- Word 0 of the encode report (R337). -/
def encWord0 (key recoded : Bool) (reason : Nat) (late uses : List Nat) : Nat :=
  let bits (f : Nat → Bool) : Nat := ((List.range 4).map (fun j => if f j then 2 ^ j else 0)).sum
  (if key then 1 else 0) + (if recoded then 2 else 0) + (if reason != 0 then 4 else 0) + reason * 8 +
  bits (fun j => late.contains j) * 64 + bits (fun j => uses.getD j 0 == 1) * 1024 +
  bits (fun j => uses.getD j 0 == 2) * 16384

/-- The largest QP, the weight of a delta, the step of a second coding, and the size of a coding unit (R335, R336). -/
def qpMax (codec : Nat) : Nat := if codec = 0 then 51 else 255
def qpScale (codec : Nat) : Nat := if codec = 0 then 1 else 4
def qpRaise (codec : Nat) : Nat := if codec = 0 then 12 else 48
def qpUnit (codec : Nat) : Nat := if codec = 0 then 16 else 64

/-- The frame QP before deltas (R336): the constant one, or what rate control asks for. -/
def frameQp (x : Enc) (coded : Coded) : Nat :=
  if x.rcMode = 0 then x.qp else min coded.frameQp (qpMax x.codec)

/-- The QP delta of a coding unit: of the last entry that covers its centre (R335). -/
def roiDelta (roi : List (List Int)) (cx cy : Int) : Int :=
  ((roi.filter (fun e => decide (e.getD 0 0 ≤ cx ∧ cx < e.getD 0 0 + e.getD 2 0 ∧ e.getD 1 0 ≤ cy ∧
    cy < e.getD 1 0 + e.getD 3 0))).getLast?.getD []).getD 4 0

/-- The QP of every coding unit, in raster order (R335). -/
def qpMap (x : Enc) (roi : List (List Int)) (qp : Nat) : List Nat :=
  let u := qpUnit x.codec
  (List.range (cdiv x.height u)).flatMap (fun r => (List.range (cdiv x.width u)).map (fun q =>
    (clampInt 0 (qpMax x.codec) (qp + qpScale x.codec * roiDelta roi (q * u + u / 2 : Nat) (r * u + u / 2 : Nat))).toNat))

/-- Every QP raised for the second coding, clipped (R336). -/
def raiseQp (codec : Nat) (l : List Nat) : List Nat := l.map (fun q => min (q + qpRaise codec) (qpMax codec))

/-- The bitstream of a frame coded with these QPs (log 11). -/
def codedBytes (coded : Coded) (qps : List Nat) : List Byte :=
  ((coded.codings.find? (fun p => p.1 == qps)).map Prod.snd).getD []

/-- `CODEC_ENC`: the checks and the frame. -/
def encBody (s : State) (c : Cmd) (coded : Coded) : Except Err CodecOut := do
  encCheck s c
  let x := parseEnc c.u0
  let run := c.codec.getD CodecRun.fresh
  let ses := sessionFor s c x.opened x.stateVa x.codec true
  let key := x.opened || x.forceKey || ses.forceKey || ses.frames == 0 || (x.gop != 0 && decide (x.gop ≤ ses.sinceKey))
  let r ← composite s x ses.copies (run.late.filter (fun j => !run.ready.contains j)) (encLayers c).zipIdx (blackFrame x.width x.height x.tenBit) [] []
  let roi ← readRoi s x.roiVa x.roiCount
  let qps := qpMap x roi (frameQp x coded)
  let first := codedBytes coded qps
  let recoded := decide (x.bsBytes < first.length)
  let bytes := if recoded then codedBytes coded (raiseQp x.codec qps) else first
  let aborted := recoded && decide (x.bsBytes < bytes.length)
  let reason := if aborted then 3 else 0
  let w0 := encWord0 key recoded reason run.late r.2.2
  let heldUs := if run.holdEndNs = 0 then 0 else (run.holdEndNs - run.boundaryNs) / 1000
  let report := toLE 4 w0 ++ toLE 4 (if aborted then 0 else bytes.length) ++ toLE 4 (ses.frames + 1) ++
    toLE 4 (frameQp x coded) ++ toLE 4 heldUs ++ toLE 12 0
  let next := { ses with
    frames := ses.frames + 1, sinceKey := if key then 1 else ses.sinceKey + 1,
    geom := ⟨x.width, x.height, x.width, x.height, 0, 0, x.width, x.height, x.tenBit, false, 0, 0⟩, copies := r.2.1, frame := r.1, forceKey := aborted }.stamped s
  let writes := spread x.stateVa (toLE 8 next.header.toNat) ++
    (if aborted then [] else spread x.bsVa bytes) ++ spread x.reportVa report
  .ok { out := { res := frameResult x.tolerate false aborted, tiles := [(noPlace, writes)],
                 sregs := (match x.sReport with
                   | some g => [(g, BitVec.ofNat 64 w0)]
                   | none => []),
                 draws := 1, err := none },
        session := next,
        concealed := false, aborted := aborted, boundsHits := 0 }

/-! Plan records (R338). -/

/-- The one pass of a codec command; `ns` its prediction. -/
def codecPlan (opcode ns : Nat) : Plan :=
  { nbuPlan opcode 0 0 0 ns [⟨7, 0, 0xFF, 0, 0, 1, cdiv (ns * 14) 10⟩] with coresUsed := 0, maxTiles := 0 }

/-- Output picture size is that of the session's last sequence; bits are those of the window named (R317, R338). -/
def decPlan (s : State) (c : Cmd) : Plan :=
  let x := parseDec c
  let px := match sessionAt s x.stateVa x.codec false with
    | some t => t.geom.width * t.geom.height
    | none => 0
  codecPlan 0x11 (max (cdiv (px * 1000000000) 995328000) (cdiv (x.bsBytes * 8 * 1000) 600))

def encPlan (c : Cmd) : Plan :=
  let x := parseEnc c.u0
  let bits := if x.rcMode = 0 then 0 else x.kbps * (if x.periodUs = 0 then 33333 else x.periodUs) / 1000
  let holds := (((encLayers c).filter (fun l => l.policy == 2)).map Layer.holdUs).foldl max 0
  codecPlan 0x12 (max (cdiv (x.width * x.height * 1000000000) 497664000) (cdiv (bits * 1000) 300) + 1000 * holds)

end Sys2Proof.Machine
end

