-- ==== Sys2Proof/Machine/Collective.lean ====
section
/-! DEFINITION. Collectives (14, R343 to R357): groups, the `COLLECTIVE` body, local checks, digest,
reduction order, all-to-all, and the data movement of one member. -/

namespace Sys2Proof.Machine

/-- The fields of unit 0 (R345). -/
structure Col where
  op : Nat
  red : Nat
  rnd : Nat
  tagReg : Nat
  tagEn : Bool
  group : Nat
  axes : Nat
  sub : List Nat
  root : Nat
  tag : Nat
  cap : Nat
  dropVa : Nat
  recvVa : Nat
  reservedOk : Bool
  deriving DecidableEq, Repr

def parseCol (u : Unit64) : Col :=
  { op := fld u 8 0 3, red := fld u 8 3 2, rnd := fld u 8 5 2, tagEn := fld u 8 7 1 == 1,
    tagReg := fld u 8 8 6, group := leAt u 12 4, axes := fld u 16 0 3,
    sub := [leAt u 20 2, leAt u 22 2, leAt u 24 2], root := fld u 28 0 15, tag := leAt u 32 4,
    cap := leAt u 36 3, dropVa := leAt u 40 6, recvVa := leAt u 48 6,
    reservedOk := fld u 8 14 18 == 0 && fld u 16 3 29 == 0 && allZero u 26 2 && fld u 28 15 17 == 0 &&
      byteAt u 39 == 0 && allZero u 46 2 && allZero u 54 10 &&
      fld u 20 15 1 == 0 && fld u 22 15 1 == 0 && fld u 24 15 1 == 0 }

def colReduces (x : Col) : Bool := decide (x.op ≤ 1)
def colIndexed (c : Cmd) : Bool := decide (4 ≤ c.units.length)

/-- The tag of R344. -/
def colTag (x : Col) (sregs : List DWord) : Nat :=
  if x.tagEn then (x.tag + (sregs.getD x.tagReg 0).toNat % 2 ^ 32) % 2 ^ 32 else x.tag

/-! Groups (R343). -/

/-- Coordinates in a 15-bit strap value (R341). -/
def coordOf (w : BitVec 15) : List Nat := [w.toNat % 32, w.toNat / 32 % 32, w.toNat / 1024]

/-- Start, extent, stride of one axis; an axis outside the set has extent 1 and stride 0. -/
def axisOf (x : Col) (a : Nat) : Nat × Nat × Nat :=
  let w := x.sub.getD a 0
  if (x.axes >>> a) % 2 = 1 then (w % 32, w / 32 % 32 + 1, w / 1024 % 32) else (0, 1, 0)

/-- The number of members. -/
def colP (x : Col) : Nat := (axisOf x 0).2.1 * (axisOf x 1).2.1 * (axisOf x 2).2.1

/-- The coordinates of rank `r` of the group to which `own` belongs. -/
def memberCoord (x : Col) (own : List Nat) (r : Nat) : List Nat :=
  let ex := (axisOf x 0).2.1
  let ey := (axisOf x 1).2.1
  [r % ex, r / ex % ey, r / (ex * ey)].zipIdx.map (fun q =>
    if (x.axes >>> q.2) % 2 = 1 then (axisOf x q.2).1 + q.1 * (axisOf x q.2).2.2 else own.getD q.2 0)

/-- The rank of `own` in its sub-block. -/
def rankOf (x : Col) (own : List Nat) : Option Nat :=
  (List.range (colP x)).find? (fun r => memberCoord x own r == own)

/-- Extent DX, DY, DZ in force (R341, R358). -/
def torusExt (s : State) : List Nat :=
  let w := s.fre.torus.toNat
  [w % 32 + 1, w / 256 % 32 + 1, w / 65536 % 32 + 1]

/-- The sub-block rules of R343 and R354. -/
def colSubOk (s : State) (x : Col) : Bool :=
  (List.range 3).all (fun a =>
    let q := axisOf x a
    if (x.axes >>> a) % 2 = 1 then
      decide (1 ≤ q.2.2) && decide (q.1 + (q.2.1 - 1) * q.2.2 < (torusExt s).getD a 1)
    else x.sub.getD a 0 == 0)

def coordNum (c : List Nat) : Nat := c.getD 0 0 + 32 * c.getD 1 0 + 1024 * c.getD 2 0

/-- Where traffic to a coordinate goes: an alias maps a failed member to its survivor (R355). -/
def aliased (s : State) (c : List Nat) : Nat := (alFind (coordNum c) s.fre.aliases).getD (coordNum c)

/-- The coordinates a context's commands are issued under: its own, or the twin's when it was restored
from the twin (R355, R372). -/
def roleCoord (s : State) (asTwin : Bool) : List Nat :=
  if asTwin then coordOf ((s.tlc.pair.map PairRec.twinCoord).getD 0) else coordOf s.dev.straps

/-- Whether a coordinate is played by this device. -/
def isHere (s : State) (c : List Nat) : Bool := aliased s c == coordNum (coordOf s.dev.straps)

/-! Routes (R342), as far as this device knows links and failures: its own links, and the devices that aliases name as
failed; the links of others count as up (DESIGN CHOICE: log 30). -/

def coordOfNum (n : Nat) : List Nat := [n % 32, n / 32 % 32, n / 1024]

/-- Whether a device has failed: its traffic goes to a survivor. -/
def failedDevice (s : State) (c : List Nat) : Bool := (alFind (coordNum c) s.fre.aliases).isSome

/-- One hop on axis `a`, in the positive (0) or negative (1) direction. -/
def hop (s : State) (a dir : Nat) (u : List Nat) : List Nat :=
  let d := (torusExt s).getD a 1
  updAt u a (fun x => if dir = 0 then (x + 1) % d else (x + d - 1) % d)

/-- Whether the link of a hop is up: a down one is known at its own two ends. -/
def hopUp (s : State) (a dir : Nat) (u : List Nat) : Bool :=
  let own := coordOf s.dev.straps
  let up (k : Nat) : Bool := (s.fre.links.getD (2 * a + k) Link.reset).state != 0
  (u != own || up dir) && (hop s a dir u != own || up (1 - dir))

/-- `n` hops from a device: links up, and no failed device on the way. -/
def wayClear (s : State) (a dir : Nat) : Nat → List Nat → Bool
  | 0, _ => true
  | n + 1, u => hopUp s a dir u && (n == 0 || !failedDevice s (hop s a dir u)) && wayClear s a dir n (hop s a dir u)

/-- One axis of a route: the shorter way, positive on a tie, or the other way round. -/
def axisRoute (s : State) (a : Nat) (u t : List Nat) : Option (List (Nat × Nat × Nat)) :=
  let d := (torusExt s).getD a 1
  let n := (t.getD a 0 + d - u.getD a 0) % d
  let ways := if 2 * n ≤ d then [(0, n), (1, d - n)] else [(1, d - n), (0, n)]
  if n = 0 then some [] else (ways.find? (fun w => wayClear s a w.1 w.2 u)).map (fun w => [(a, w)])

/-- A route that takes the axes in an order: its turning points are live devices. -/
def orderRoute (s : State) (t : List Nat) : List Nat → List Nat → Option (List (Nat × Nat × Nat))
  | [], _ => some []
  | a :: rest, u =>
      let v := updAt u a (fun _ => t.getD a 0)
      match axisRoute s a u t, orderRoute s t rest v with
      | some x, some y => if v == t || v == u || !failedDevice s v then some (x ++ y) else none
      | _, _ => none

/-- The route between two devices: the first order that gives one (log 30). -/
def routeOf (s : State) (u t : List Nat) : Option (List (Nat × Nat × Nat)) :=
  [[0, 1, 2], [1, 0, 2], [0, 2, 1], [2, 0, 1], [1, 2, 0], [2, 1, 0]].findSome? (fun o => orderRoute s t o u)

/-- Whether a route leads from the device that plays one member to the one that plays another. -/
def joined (s : State) (u t : List Nat) : Bool :=
  (routeOf s (coordOfNum (aliased s u)) (coordOfNum (aliased s t))).isSome

/-- The way of a message from this device to the one that plays a member (R342, R355). -/
def wayTo (s : State) (member : List Nat) : Way :=
  ⟨aliased s member, (routeOf s (coordOf s.dev.straps) (coordOfNum (aliased s member))).getD []⟩

/-! Checks (R354). -/

/-- Formats of R346. -/
def colFmtOk (c : Cmd) (x : Col) : Bool :=
  let i := (c.desc 1).code
  let o := (c.desc 2).code
  let f (k : Nat) : Bool := k == 1 || k == 2
  x.op == 5 ||
  ((if colReduces x then f i && f o else (fmtOfCode i).isSome && i == o) &&
   (!colIndexed c || (c.desc 3).fmt? == some .int32))

/-- Elements of one row (R346). -/
def colRow (c : Cmd) : Nat := ((c.desc 1).dims.drop 1).foldl (· * ·) 1

/-- Whether the leading extents of a shape hold `n` rows and the others one row of `x` elements. -/
def rowsOf (dims : List Nat) (n x : Nat) : Bool :=
  (List.range (dims.length + 1)).any (fun k => (dims.take k).foldl (· * ·) 1 == n && (dims.drop k).foldl (· * ·) 1 == x)

/-- Shapes of R346. An all-to-all's output is p, or p and C, or their product, by X whole or in extents (log 30). -/
def colShapeOk (c : Cmd) (x : Col) : Bool :=
  let i := c.desc 1
  let o := c.desc 2
  let p := colP x
  match x.op with
  | 0 | 4 => i.inRange && o.inRange && i.dims == o.dims
  | 1 => i.inRange && o.inRange && i.count % p == 0 && o.count == i.count / p
  | 2 => i.inRange && o.inRange && o.count == p * i.count
  | 3 =>
      i.inRange && o.inRange &&
      (if colIndexed c then
        (c.desc 3).inRange && (c.desc 3).dims == [i.dims.getD 0 0] && x.cap != 0 && rowsOf o.dims (p * x.cap) (colRow c)
       else i.dims.getD 0 0 == p && rowsOf o.dims p (colRow c))
  | _ => i.base == 0 && o.base == 0

/-- Whether the member at `own` reads its input tensor (R346, R348): never for a barrier, the root alone for a broadcast. -/
def colReads (x : Col) (own : List Nat) : Bool :=
  x.op != 5 && (x.op != 4 || rankOf x own == some x.root)

/-- The local checks before the fabric check, with the issuer's coordinates; an INT4_G32 input brings the causes of
its side-table header (R52). -/
def colCheck (s : State) (c : Cmd) (own : List Nat) : Except Err Unit := do
  let x := parseCol c.u0
  let n := c.units.length
  let descs := (if x.op = 5 then [] else [c.desc 1, c.desc 2]) ++ (if colIndexed c then [c.desc 3] else [])
  require ((n == 3 || n == 4) && (n == 3 || x.op == 3) && x.reservedOk && decide (x.op ≤ 5) &&
    (if colReduces x then x.red != 3 else x.red == 0) && decide (x.rnd ≤ 1) && colSubOk s x &&
    (rankOf x own).isSome && decide (x.root < colP x) && (x.op == 4 || x.root == 0) &&
    x.dropVa % 4 == 0 && x.recvVa % 4 == 0 && (x.tagEn || x.tagReg == 0) && descs.all Desc.good)
    .badDescriptor
  let h ← if colReads x own then readInt4 s (c.desc 1) else .ok none
  require (h.all (fun t => t.good (c.desc 1))) .badDescriptor
  require (colFmtOk c x && h.all Int4.targetOk) .unsupportedFormat
  require (colShapeOk c x) .badShape

/-- The fabric check (R342, R354): up, and every pair joined that the collective needs: this member and each other, and the
neighbours of the ring of R348. -/
def colFabric (s : State) (x : Col) (own : List Nat) : Bool :=
  let p := colP x
  let m (r : Nat) : List Nat := memberCoord x own (r % p)
  p == 1 || (s.fre.coordValid && (List.range p).all (fun r => joined s own (m r) && joined s (m r) own &&
    (x.op == 3 || x.op == 5 || joined s (m r) (m (r + 1)))))

/-- The result of the local checks: none when all pass. -/
def colLocal (s : State) (c : Cmd) (own : List Nat) : Option Res :=
  match colCheck s c own with
  | .error e => some e.1
  | .ok () => if colFabric s (parseCol c.u0) own then none else some .fabricTimeout

/-! Chunks and slots (R349). -/

def colOutBytes (c : Cmd) : Nat := (c.desc 2).count * codeBits (c.desc 2).code / 8
def colWork (c : Cmd) (x : Col) : Nat :=
  if x.op = 5 then 0 else if colReduces x then 4 * (c.desc 1).count else colOutBytes c

def colL (x : Col) : Nat := 1048576 / max (colP x) 1

/-- Chunks of an operation; 1 when it runs as one piece. -/
def colChunks (c : Cmd) (x : Col) : Nat :=
  if colWork c x ≤ 0x2000000 then 1
  else if colReduces x then cdiv (cdiv (c.desc 1).count (colP x)) (colL x)
  else cdiv (colOutBytes c) 0x400000

/-- Slots the operation takes. -/
def colSlots (c : Cmd) (x : Col) : Nat :=
  if colWork c x ≤ 0x2000000 then cdiv (colWork c x) 0x400000 else min 8 (colChunks c x)

/-- The digest record of R352. -/
def digestRec (c : Cmd) (x : Col) : List Byte :=
  let n := colChunks c x
  toLE 1 x.op ++ toLE 1 x.red ++ toLE 1 (c.desc 1).code ++ toLE 1 (c.desc 2).code ++ toLE 4 x.group ++
  x.sub.flatMap (toLE 2) ++ toLE 2 x.root ++ toLE 8 (c.desc 2).count ++
  toLE 4 (if colIndexed c then x.cap else 0) ++
  toLE 4 (if n = 1 then 0 else if colReduces x then colL x else 0x400000) ++ toLE 4 n ++
  toLE 4 (if x.op = 3 then colRow c + (if colIndexed c then 2 ^ 31 else 0) else 0)

/-- The 64-bit digest (R351, R352). -/
def digestOf (c : Cmd) (x : Col) (failed : Bool) : DWord :=
  if failed then 0xFFFFFFFFFFFFFFFF
  else
    let k := crc64 (digestRec c x)
    if k = 2 ^ 64 - 1 then 0xFFFFFFFFFFFFFFFE else BitVec.ofNat 64 k

/-! Data. -/

/-- The pattern of element `k` of packed bytes. -/
def packedElem (bits : Nat) (b : List Byte) (k : Nat) : Nat :=
  if bits = 4 then (if k % 2 = 0 then byteAt b (k / 2) % 16 else byteAt b (k / 2) / 16)
  else leAt b (k * (bits / 8)) (bits / 8)

/-- All elements of a tensor, flattened. -/
def readAll (s : State) (d : Desc) : Except Err (List Nat) :=
  mapE (fun k => readElem s d (unflat k d.dims)) (List.range d.count)

/-- The writes of flattened patterns; nibble codes are dense, so pairs share a byte. -/
def writeFlat (d : Desc) (vals : List Nat) : List (Nat × Byte) :=
  if codeBits d.code = 4 then
    spread d.base ((List.range (vals.length / 2)).map (fun k =>
      BitVec.ofNat 8 (vals.getD (2 * k) 0 + 16 * vals.getD (2 * k + 1) 0)))
  else vals.zipIdx.flatMap (fun v => elemWrite d (unflat v.2 d.dims) v.1)

/-- op of R347. -/
def colOp (red : Nat) (a b : Val) : Val := if red = 0 then fadd a b else if red = 1 then a.max b else a.min b

/-- The segment that holds element `e` (R347). -/
def segOf (p n e : Nat) : Nat := ((List.range p).find? (fun j => decide (e < (j + 1) * n / p))).getD 0

/-- The first `n` terms of an element of segment `j` in the order of R347: ranks j + 1, …, j + n, all modulo p. -/
def reduceElem (red p j n : Nat) (xs : List Val) : Val :=
  (List.range (n - 1)).foldl (fun acc k => colOp red acc (xs.getD ((j + k + 2) % p) .zero))
    (xs.getD ((j + 1) % p) .zero)

/-- Inputs of every rank as patterns; own input from memory, the others from the fabric. -/
def rankInputs (rank : Nat) (own : List Nat) (bits n : Nat) (inputs : List (List Byte)) (p : Nat) :
    List (List Nat) :=
  (List.range p).map (fun r =>
    if r = rank then own else (List.range n).map (packedElem bits (inputs.getD r [])))

/-- Rows of an indexed all-to-all: for each destination, the rows sent, and the rows dropped (R353). -/
def a2aRows (p cap : Nat) (idx : List Int) : List (List Nat × Nat) :=
  (List.range p).map (fun d =>
    let rows := (idx.zipIdx.filter (fun q => q.1 == (d : Int))).map Prod.snd
    (rows.take cap, rows.length - min rows.length cap))

/-- Packs patterns into bytes, two nibble codes to a byte. -/
def packElems (bits : Nat) (l : List Nat) : List Byte :=
  if bits = 4 then (List.range (cdiv l.length 2)).map (fun k => BitVec.ofNat 8 (l.getD (2 * k) 0 + 16 * l.getD (2 * k + 1) 0))
  else l.flatMap (toLE (bits / 8))

/-- A reduction's inputs by rank, widened. -/
def colVals (c : Cmd) (rank : Nat) (own : List Nat) (inputs : List (List Byte)) : List (List Val) :=
  let i := c.desc 1
  (rankInputs rank own (codeBits i.code) i.count inputs (colP (parseCol c.u0))).map
    (fun l => l.map (fun b => widen (decodeElem i.fmt b)))

/-- `n` terms of element `e` of a reduction; all of them, rounded once at the owner (R347). -/
def colPartial (c : Cmd) (vals : List (List Val)) (n e : Nat) : Val :=
  let x := parseCol c.u0
  reduceElem x.red (colP x) (segOf (colP x) (c.desc 1).count e) n (vals.map (fun l => l.getD e .zero))
def colReduced (c : Cmd) (vals : List (List Val)) (e : Nat) : Nat :=
  let x := parseCol c.u0
  convert (c.desc 2).fmt ((rndOfCode x.rnd).getD .rne) 0 (colPartial c vals (colP x) e)

/-- What this member sends the others, each with its destination rank, phase and part (R348, R353): along the ring the
partial sums of every segment but its own, then what its successor lacks; rows and blocks to their ranks. -/
def colSends (s : State) (c : Cmd) (rank : Nat) (inputs : List (List Byte)) :
    Except Err (List (Nat × Nat × Nat × List Byte)) := do
  let x := parseCol c.u0
  let i := c.desc 1
  let p := colP x
  let bits := codeBits i.code
  let next := (rank + 1) % p
  let but (k : Nat) : List Nat := (List.range p).filter (· != k)
  let seg (j : Nat) : List Nat :=
    (List.range ((j + 1) * i.count / p - j * i.count / p)).map (fun k => j * i.count / p + k)
  if p ≤ 1 ∨ x.op = 5 ∨ i.count = 0 ∨ (c.desc 2).count = 0 then .ok []
  else do
    let own ← if x.op = 4 ∧ rank ≠ x.root then .ok [] else readAll s i
    let ins := rankInputs rank own bits i.count inputs p
    if colReduces x then
      let vals := colVals c rank own inputs
      .ok ((but rank).map (fun j => (next, 0, j, (seg j).flatMap (fun e => toLE 4 (toF32 (colPartial c vals ((rank + p - j) % p) e))))) ++
        (if x.op = 0 then (but next).map (fun j => (next, 1, j, packElems (codeBits (c.desc 2).code) ((seg j).map (colReduced c vals))))
         else []))
    else if x.op = 2 then .ok ((but next).map (fun r => (next, 1, r, packElems bits (ins.getD r []))))
    else if x.op = 4 then .ok (if next = x.root then [] else [(next, 1, x.root, packElems bits (ins.getD x.root []))])
    else
      let n := colRow c
      if colIndexed c then do
        let ix ← readAll s (c.desc 3)
        let rows := a2aRows p x.cap (ix.map (ofBits 32))
        .ok ((but rank).map (fun d => (d, 1, rank,
          packElems bits (((rows.getD d ([], 0)).1).flatMap (fun r => (own.drop (r * n)).take n)))))
      else .ok ((but rank).map (fun d => (d, 1, rank, packElems bits ((own.drop (d * n)).take n))))

/-- The effect of a verified collective on this member's memory (R346 to R348, R353). -/
def colRun (s : State) (c : Cmd) (rank : Nat) (inputs : List (List Byte)) : Except Err OpOut := do
  let x := parseCol c.u0
  let i := c.desc 1
  let o := c.desc 2
  let p := colP x
  let bits := codeBits i.code
  if x.op = 5 then .ok (OpOut.just .ok)
  else if i.count = 0 ∨ o.count = 0 then .ok (OpOut.just .okEmptyResult)
  else if colReduces x then do
    let own ← readAll s i
    let vals := colVals c rank own inputs
    let els := if x.op = 0 then List.range i.count
      else (List.range o.count).map (fun k => rank * i.count / p + k)
    .ok (OpOut.wrote (writeFlat o (els.map (colReduced c vals))) 0)
  else if x.op = 2 then do
    let own ← readAll s i
    .ok (OpOut.wrote (writeFlat o (rankInputs rank own bits i.count inputs p).flatten) 0)
  else if x.op = 4 then do
    let own ← if rank = x.root then readAll s i else .ok []
    .ok (OpOut.wrote (writeFlat o ((rankInputs rank own bits i.count inputs p).getD x.root [])) 0)
  else if !colIndexed c then do
    let own ← readAll s i
    let n := colRow c
    let blocks := rankInputs rank ((own.drop (rank * n)).take n) bits n inputs p
    .ok (OpOut.wrote (writeFlat o blocks.flatten) 0)
  else do
    let own ← readAll s i
    let n := colRow c
    let ix ← readAll s (c.desc 3)
    let rows := a2aRows p x.cap (ix.map (ofBits 32))
    let mine := ((rows.getD rank ([], 0)).1).flatMap (fun r => (own.drop (r * n)).take n)
    let got := (List.range p).map (fun r =>
      if r = rank then mine
      else
        let b := inputs.getD r []
        (List.range (min (b.length * 8 / max (bits * n) 1) x.cap * n)).map (packedElem bits b))
    let padded := got.map (fun l => l ++ List.replicate (x.cap * n - l.length) 0)
    let drops := rows.map Prod.snd
    let cnt (va : Nat) (l : List Nat) : List (Nat × Byte) := if va = 0 then [] else spread va (l.flatMap (toLE 4))
    .ok { res := if drops.any (· != 0) then .okDroppedOverflow else .ok,
          tiles := [(noPlace, writeFlat o padded.flatten ++ cnt x.dropVa drops ++
            cnt x.recvVa (got.map (fun l => l.length / max n 1)))],
          sregs := [], draws := 0, err := none }

/-- The plan record of a collective (R357). -/
def colPlan (c : Cmd) : Plan :=
  let x := parseCol c.u0
  let p := colP x
  let sz := codeBits (c.desc 2).code
  let e := (c.desc 1).count
  let row := colRow c
  let wire := match x.op with
    | 0 => cdiv ((p - 1) * e * (32 + sz)) (8 * p)
    | 1 => cdiv ((p - 1) * e * 4) p
    | 2 => cdiv ((p - 1) * e * sz) 8
    | 3 => if colIndexed c then cdiv ((p - 1) * x.cap * row * sz) 8 else cdiv ((p - 1) * e * sz) (8 * p)
    | 4 => cdiv (e * sz) 8
    | _ => 0
  let steps := match x.op with
    | 0 => 2 * (p - 1)
    | 5 => 0
    | _ => p - 1
  let ns := cdiv wire 100 + 600 * steps * cdiv (colChunks c x) 8
  { nbuPlan 0x10 0 0 0 ns [⟨8, 0, 0xFF, 0, 0, colChunks c x, cdiv (ns * 14) 10⟩] with
    coresUsed := 0, maxTiles := 0 }

end Sys2Proof.Machine
end

