-- ==== Sys2Proof/Machine/Matmul.lean ====
section
/-! DEFINITION. `MATMUL` (03, R81 to R96; 04, R104 to R125): body, checks, plan, result. -/

namespace Sys2Proof.Machine

/-- The body of unit 0 (R94). -/
structure Mm where
  mode : Nat
  drain : Nat
  biasFmt : Nat
  pro : Nat
  epi : Nat
  m : Nat
  n : Nat
  k : Nat
  batch : Nat
  conv : Conv
  biasVa : Nat
  idxVa : Nat
  reservedOk : Bool
  deriving DecidableEq, Repr

def parseMm (u : Unit64) : Mm :=
  { mode := fld u 8 0 3, drain := fld u 8 4 2, biasFmt := byteAt u 9, pro := fld u 10 0 4,
    epi := fld u 10 4 4, m := fld u 12 0 25, n := fld u 16 0 25, k := fld u 20 0 25, batch := fld u 24 0 25,
    conv := parseConv u 32, biasVa := leAt u 48 6, idxVa := leAt u 56 6,
    reservedOk := fld u 8 3 1 == 0 && fld u 8 6 2 == 0 && byteAt u 11 == 0 && fld u 12 25 7 == 0 &&
      fld u 16 25 7 == 0 && fld u 20 25 7 == 0 && fld u 24 25 7 == 0 && allZero u 28 4 && allZero u 54 2 &&
      allZero u 62 2 }

/-- Operand pairs of R49. -/
def pairOk (mac : Bool) (a b : Fmt) (h : Option Int4) : Bool :=
  match h with
  | none => (a == .bf16 && b == .bf16) || (isFp8 a && isFp8 b) || (a == .int8 && b == .int8)
  | some t => mac && ((isFp8 a && t.target == 3) || (a == .int8 && t.target == 5))

/-- A logical shape of R95: rank 2 is shared by every batch entry. -/
def shapeOk (d : Desc) (batch : Nat) (dims : List Nat) : Bool := d.dims == dims || d.dims == batch :: dims

/-- The checks of R96, first failure first; the side-table header is their only read. A stream that names one of units 0
to 3 names another block's unit (DESIGN CHOICE; log 23). -/
def mmCheck (s : State) (c : Cmd) : Except Err (Option Int4) := do
  let x := parseMm c.u0
  let a := c.desc 1
  let b := c.desc 2
  let o := c.desc 3
  let arg := x.drain != 0
  let sup := arg && o.base == 0
  let pro := proUse c x.pro
  let epi := epiUse c x.epi
  let taken := [0, 1, 2, 3] ++ (if x.pro = 0 then [] else [x.pro]) ++ [x.epi] ++
    (match pro with
     | some p => if p.p.norm = 0 then [] else [p.p.stats]
     | none => [])
  require (decide (4 ≤ c.units.length) && x.reservedOk && decide (x.mode ≤ 4) && x.drain != 3 &&
    unitField x.pro c.lastUnit && unitField x.epi c.lastUnit && (x.pro == 0 || x.pro != x.epi) &&
    (!arg || (x.idxVa != 0 && x.idxVa % 4 == 0)) && x.conv.good o.scaleVa &&
    (!arg || (x.conv.scaleMode != 2 && !x.conv.biasEn && x.epi == 0)) &&
    a.good && b.good && (sup || (o.good && epiGood c taken x.conv o epi)) && proGood c x.pro x.epi pro)
    .badDescriptor
  let h ← readInt4 s b
  require ((h.map (fun t => t.good b)).getD true) .badDescriptor
  require (codeIs isArrayA a.code && codeIs isArrayB b.code &&
    (h.map Int4.targetOk).getD true && pairOk (x.mode == 0) a.fmt b.fmt h && x.conv.fmtOk &&
    (!x.conv.biasEn || floatVecCode x.biasFmt) && proFmt a pro && epiFmt c x.conv.outCode o epi)
    .unsupportedFormat
  require (a.inRange && b.inRange &&
    [x.m, x.n, x.k, x.batch].all (fun v => decide (v ≤ 16777216)) &&
    shapeOk a x.batch [x.m, x.k] && shapeOk b x.batch [x.k, x.n] &&
    (sup || (o.inRange && shapeOk o x.batch [x.m, if arg then 1 else x.n] &&
      (decide (x.batch ≤ 1) || o.rank == 3))) &&
    proShape x.m x.batch x.k a.bytesPer true pro && epiShape c o [x.m, x.n] epi)
    .badShape
  .ok h

/-- The transposed mapping (R91, R122). -/
def Mm.transposed (x : Mm) : Bool := x.drain == 0 && decide (x.n < 8) && decide (8 ≤ x.m)

/-- Halving of mt for a prologue (R108, R122). -/
def fitMt (k size : Nat) : Nat → Nat → Nat
  | 0, mt => mt
  | f + 1, mt => if 16 < mt ∧ 1572864 < mt * k * size then fitMt k size f (mt / 2) else mt

/-- Rows per tile. -/
def Mm.mt (x : Mm) (size : Nat) : Nat :=
  min (if x.pro = 0 then 256 else fitMt x.k size 4 256) (if x.transposed then x.n else x.m)

/-- Chunk width (R93). -/
def Mm.width (x : Mm) (aFmt : Fmt) : Nat := if x.mode == 0 && aFmt != .bf16 then 128 else 64

/-- Whether the epilogue streams split the command (R119). -/
def splitOf (epi : Option Epi) : Option Nat := epi.bind Epi.cut

/-- Row and column tiles, tiles, K parts (R122). -/
def Mm.grid (x : Mm) (repro : Bool) (e size w : Nat) : Grid :=
  let mt := max (x.mt size) 1
  let mr := if x.transposed then x.n else x.m
  let nr := if x.transposed then x.m else x.n
  let rt := cdiv mr mt
  let ct := cdiv nr 32
  let t := x.batch * rt * ct
  let ch := cdiv x.k w
  let ks := if !repro && x.drain == 0 && decide (2 * t < e) && decide (32 ≤ ch) then
    min (e / max t 1) (ch / 16) else 1
  let runs := if x.drain = 0 then ct
    else if rt * x.batch ≥ e then 1 else min ct (cdiv e (max (rt * x.batch) 1))
  ⟨e, x.batch, rt, ct, runs, max ks 1, x.transposed⟩

/-- Rows of the accumulator tile and C rows of a unit. -/
def Mm.unit (x : Mm) (size w : Nat) (g : Grid) (b r c cn part : Nat) : WorkUnit :=
  let mt := max (x.mt size) 1
  let mr := if g.tr then x.n else x.m
  let rows := min mt (mr - r * mt)
  let ch := cdiv x.k w
  let chunks := (part + 1) * ch / g.ks - part * ch / g.ks
  let sfu := x.pro != 0
  { b := b, r := r, c := c, cn := cn, part := part, tiles := cn, rows := rows,
    cycles := cn * chunks * max rows 16, block := (b, r),
    pru := if sfu then rows * x.k else 0 }

/-- C rows `[a, z)` of a unit. -/
def Mm.unitRows (x : Mm) (size : Nat) (g : Grid) (u : WorkUnit) : Nat × Nat :=
  let mt := max (x.mt size) 1
  if g.tr then (u.c * 32, min x.m (u.c * 32 + 32)) else (u.r * mt, min x.m (u.r * mt + mt))

/-- Row runs of C for banding (R121). -/
def Mm.rowRuns (x : Mm) (size : Nat) (g : Grid) : List (Nat × Nat × Nat) :=
  let step := if g.tr then 32 else max (x.mt size) 1
  (List.range x.batch).flatMap (fun b =>
    (List.range (cdiv x.m step)).map (fun i => (b, i, min step (x.m - i * step))))

/-- C columns `[a, z)` of a unit. -/
def Mm.unitCols (x : Mm) (size : Nat) (g : Grid) (u : WorkUnit) : Nat × Nat :=
  let mt := max (x.mt size) 1
  if g.tr then (u.r * mt, min x.n (u.r * mt + mt)) else (u.c * 32, min x.n ((u.c + u.cn) * 32))

/-- K range of a unit (R122). -/
def Mm.unitK (x : Mm) (w : Nat) (g : Grid) (u : WorkUnit) : Nat × Nat :=
  let ch := cdiv x.k w
  (u.part * ch / g.ks * w, min x.k ((u.part + 1) * ch / g.ks * w))

/-- Undo bytes of one unit: what it reads of the input that C aliases; of the streams it reads those in `early` (R117,
R119). -/
def Mm.undoBytes (x : Mm) (c : Cmd) (g : Grid) (size w : Nat) (early : List Nat) (u : WorkUnit) : Nat :=
  let a := c.desc 1
  let b := c.desc 2
  let o := c.desc 3
  let n (p : Nat × Nat) : Nat := p.2 - p.1
  let rows := n (x.unitRows size g u)
  let cols := n (x.unitCols size g u)
  let ks := n (x.unitK w g u)
  let epi := epiUse c x.epi
  max (if o.same a then rows * ks * a.bytesPer else 0)
    (max (if o.same b then ks * cols * b.bytesPer else 0)
      (match epi with
       | some e => if early.any (fun k => o.same (streamDesc c e k)) then rows * cols * o.bytesPer else 0
       | none => 0))

/-- The bands of units of a checked command (R121 to R123, R234). -/
def mmBands (s : State) (c : Cmd) : Grid × List (List WorkUnit) × Nat :=
  let x := parseMm c.u0
  let a := c.desc 1
  let size := a.bytesPer
  let w := x.width a.fmt
  let e := (coresOf s c).length
  let g := x.grid (hdrRepro c.u0) e size w
  let split := (splitOf (epiUse c x.epi)).isSome || decide (1 < g.ks)
  let runs := x.rowRuns size g
  let rowBytes := x.n * 4 * g.ks
  let packed := if split then packBands rowBytes runs [] 0 else [runs]
  let pruRate := match proUse c x.pro with
    | some p => if p.p.sfu = 0 then 64 else 32
    | none => 64
  let mk (b r cc cn part : Nat) : WorkUnit :=
    let u := x.unit size w g b r cc cn part
    { u with pru := cdiv u.pru pruRate }
  let skip (u : WorkUnit) : Bool :=
    let rr := x.unitRows size g u
    rowsFrozen (hdrSettle c.u0 && x.drain == 0) c.settleRef c.frozen x.m rr.1 rr.2
  let bands := packed.map (bandUnits g mk skip)
  (g, bands, if split then bandPages rowBytes packed else 0)

/-- The plan of a checked, non-empty command. The record of an argument drain orders its units along the curve over rt
row tiles by the runs of column tiles, and the `WORK` of a K-combine counts the output tiles it combines (DESIGN CHOICE:
log 22). -/
def mmPlan (s : State) (c : Cmd) : Plan :=
  let x := parseMm c.u0
  let a := c.desc 1
  let o := c.desc 3
  let epi := epiUse c x.epi
  let gb := mmBands s c
  let g := gb.1
  let bands := gb.2.1
  let arr := (bands.map (bandCycles g.e)).sum
  let step := if g.tr then 32 else max (x.mt a.bytesPer) 1
  let runs := x.rowRuns a.bytesPer g
  let packed := packBands (x.n * 4 * g.ks) runs [] 0
  let lastRows := ((packed.getLastD []).map (fun r => r.2.2)).sum
  let lastEl := lastRows * x.n
  let total := x.batch * x.m * x.n
  let off := total - lastEl
  let kc := if g.ks = 1 then 0 else
    ((blockRanges g.e lastEl).map (fun r =>
      let el := r.2 - r.1
      max (cdiv (el * (g.ks - 1)) 64) (cdiv (el * 4 * (g.ks + 1) * 14) 1280))).foldl max 0
  let cut := splitOf epi
  let late := match epi with
    | some e => if g.ks > 1 then e.streams else match cut with
      | some k => ((e.steps.drop k).flatMap Step.sources).filterMap (fun n =>
          if 3 ≤ n ∧ n ≤ 6 then some (n - 3) else none) |>.eraseDups
      | none => []
    | none => []
  let hasV := decide (1 < g.ks) || cut.isSome
  let ds := match epi with
    | some e => late.map (streamDesc c e)
    | none => []
  let lateSfu := match epi with
    | some e => e.sfu != 0 && (decide (1 < g.ks) || decide (cut.getD 0 ≤ e.pos))
    | none => false
  let vc := if hasV then
    vectorCycles g.e off lastEl (vectorRate false lateSfu) 4 o.dims (ds ++ [o] ++ (if ds.any o.same then [o, o] else [])) else 0
  let tu := tilesOn g.e bands
  let pages := gb.2.2
  let early := match epi with
    | some e => if g.ks > 1 then [] else match cut with
      | some k => ((e.steps.take k).flatMap Step.sources).filterMap (fun n =>
          if 3 ≤ n ∧ n ≤ 6 then some (n - 3) else none) |>.eraseDups
      | none => e.streams
    | none => []
  let first := match epi with
    | some e => if e.steps.isEmpty || g.ks > 1 || cut == some 0 then 0xFF else 0
    | none => 0xFF
  let passes :=
    [PassRec.mk 1 0 first early.length 0
      ((bands.map (fun b => (b.map WorkUnit.tiles).sum)).sum) arr] ++
    (if g.ks > 1 then [PassRec.mk 3 2 0xFF 0 (pages * 2)
      ((bands.map (fun b => (b.map WorkUnit.tiles).sum)).sum / g.ks) kc] else []) ++
    (if hasV then [PassRec.mk 2 (if g.ks > 1 then 2 else 1)
      (if (epi.map (fun e => e.steps.isEmpty)).getD true then 0xFF else if g.ks > 1 then 0 else cut.getD 0) late.length
      (pages * 2) total vc] else [])
  let pred := arr + kc + vc
  let undo := undoMax (undoFor g.e bands (x.undoBytes c g a.bytesPer (x.width a.fmt) early))
    (undoLater (hasV && ds.any o.same) g.e (packed.map (fun b => (b.map (fun r => r.2.2)).sum * x.n)))
  let hFirst := match packed with
    | [] => 0
    | b :: _ => if hasV then
        let own := (b.filter (fun r => r.1 == (b.headD (0, 0, 0)).1)).length
        (if g.tr then hilbertH g.rt own else hilbertH own g.runs) else
        (if g.tr then hilbertH g.rt (cdiv x.m step) else hilbertH g.rt g.runs)
  { opcode := 1, e := g.e, tr := g.tr, repro := hdrRepro c.u0, whole := x.drain != 0 && decide (g.e ≤ g.rt * g.batch),
    frozen := frozenApplies (hdrSettle c.u0 && x.drain == 0) c.settleRef c.frozen x.m,
    mt := max (x.mt a.bytesPer) 1, ks := g.ks, rt := g.rt, ct := g.ct, h := hFirst,
    total := (bands.map (fun b => (b.map WorkUnit.tiles).sum)).sum, maxTiles := tu.1, coresUsed := tu.2,
    nBands := bands.length, bands := bands, predCycles := pred, predNs := nsOf pred,
    passes := holdUndo (undoTotal undo) passes, scratchPages := pages, undo := undo }

/-- Lanes of one output over K (R82, R84): terms in chunks of 64. -/
def mmLanes (mode : Nat) (int : Bool) (a b : List Val) : List (List (Option Val)) :=
  chunks64 ((a.zip b).map (fun p => some (arrTerm mode int p.1 p.2)))

/-- Divides an entry's chunks into its K parts (R122). -/
def kParts {α : Type} (ks per : Nat) (l : List α) : List (List α) :=
  let ch := cdiv l.length per
  (List.range ks).map (fun i =>
    let lo := i * ch / ks * per
    let hi := (i + 1) * ch / ks * per
    (l.drop lo).take (hi - lo))

/-- Row `m` of A, transformed. -/
def mmRow (s : State) (x : Mm) (a : Desc) (pro : Option ProUse) (gb : List Val × List Val) (b m : Nat) :
    Except Err (List Val) :=
  mapE (fun k => do
    let v ← readVal s a (if a.rank = 3 then [b, m, k] else [m, k])
    proElem s pro gb a.fmt b m k x.k v) (List.range x.k)

/-- Column `n` of B, expanded. -/
def mmCol (s : State) (x : Mm) (b : Desc) (h : Option Int4) (bt n : Nat) : Except Err (List Val) :=
  mapE (fun k => readOperand s b h (if b.rank = 3 then [bt, k, n] else [k, n])) (List.range x.k)

/-- Whether draw `j` of an element (a step's, 6 the conversion's, 7 the result's) is taken in the later pass on the vector
engines and not at the drain (R119). -/
def inLater (ks : Nat) (cut : Option Nat) (j : Nat) : Bool :=
  decide (1 < ks) || (match cut with
    | some k => j == 7 || (decide (k ≤ j) && j != 6)
    | none => false)

/-- The result of a checked, non-empty command. Rows of units left out by the frozen set keep what they
held (R234). -/
def mmRun (s : State) (c : Cmd) (h : Option Int4) : Except Err OpOut := do
  let x := parseMm c.u0
  let a := c.desc 1
  let b := c.desc 2
  let o := c.desc 3
  let pro := proUse c x.pro
  let epi := epiUse c x.epi
  let int := a.fmt == .int8
  let gb ← proVectors s pro x.k
  let scales ← readChannel s (x.conv.scaleMode == 2) o.scaleVa 2 x.n
  let biases ← readChannel s x.conv.biasEn x.biasVa x.biasFmt x.n
  let c0 ← readChannel s ((epi.map (fun e => e.named.contains 7)).getD false)
    ((epi.map Epi.c0Va).getD 0) ((epi.map Epi.c0Fmt).getD 0) x.n
  let c1 ← readChannel s ((epi.map (fun e => e.named.contains 8)).getD false)
    ((epi.map Epi.c1Va).getD 0) ((epi.map Epi.c1Fmt).getD 0) x.n
  let g := x.grid (hdrRepro c.u0) (coresOf s c).length a.bytesPer (x.width a.fmt)
  let mt := if g.tr then 32 else max (x.mt a.bytesPer) 1
  let live := (List.range x.m).filter (fun m =>
    let r0 := m / mt * mt
    !rowsFrozen (hdrSettle c.u0 && x.drain == 0) c.settleRef c.frozen x.m r0 (min x.m (r0 + mt)))
  let red := redOf x.mode int
  let zero : Val := .zero
  let later := decide (1 < g.ks) || (splitOf epi).isSome
  let starts := if later then (packBands (x.n * 4 * g.ks) (x.rowRuns a.bytesPer g) [] 0).map (fun b =>
    ((b.head?).map (fun r => r.1 * x.m + r.2.1 * (if g.tr then 32 else max (x.mt a.bytesPer) 1))).getD 0) else []
  let place (bt m n : Nat) : Place :=
    if later then
      let band := (starts.filter (fun r => decide (r ≤ bt * x.m + m))).length - 1
      laterPlace band (((bt * x.m + m - starts.getD band 0) * x.n + n) / 4096)
    else if g.tr then (bt, n / max (x.mt a.bytesPer) 1, m / 32) else (bt, m / mt, n / 32)
  let items := (List.range x.batch).flatMap (fun bt =>
    let cols := (List.range x.n).map (fun n => mmCol s x b h bt n)
    live.flatMap (fun m =>
      let row := mmRow s x a pro gb bt m
      let acc (n : Nat) : Except Err Val := do
        let r ← row
        let col ← cols.getD n (.ok [])
        let lanes := mmLanes x.mode int r col
        if g.ks = 1 then .ok ((reduceChunks red lanes).getD zero)
        else
          let tile := if g.tr then (m / 32) else (m / mt * g.ct + n / 32)
          .ok ((reduceParts red (Config.free (s.freeCtr + bt * g.rt * g.ct + tile))
            (kParts g.ks (x.width a.fmt / 64) lanes)).getD zero)
      let base := (bt * x.m + m) * x.n
      if x.drain = 0 then
        (List.range x.n).map (fun n => (place bt m n, do
          let v ← acc n
          let epu := if g.tr then drawsAt s ((bt * x.m + m - m % 32) * x.n + n) (m % 32)
            else drawsAt s (base + n - n % 32) (n % 32)
          drainElem s c x.conv o epi scales biases c0 c1
            (fun j => if inLater g.ks (splitOf epi) j then drawsVec s (base + n) j else epu j)
            (if o.rank = 3 then [bt, m, n] else [m, n]) n v))
      else
        [(place bt m 0, do
          let accs ← mapE acc (List.range x.n)
          let best := if x.k = 0 then (0, zero) else argOf (x.drain == 1) accs
          let y := x.conv.drain (x.conv.scaleOf [] 0) none (drawsAt s base 0 6) best.2
          .ok (spread (x.idxVa + 4 * (bt * x.m + m)) (toLE 4 best.1) ++
            (if o.base = 0 then []
             else elemWrite o (if o.rank = 3 then [bt, m, 0] else [m, 0]) (encode x.conv.out y))))]))
  .ok (OpOut.ofItems s items (16 * x.batch * x.m * x.n + x.batch * g.rt * g.ct))

/-- `MATMUL` (R94 to R96). -/
def mmBody (s : State) (c : Cmd) : Except Err OpOut := do
  let h ← mmCheck s c
  let x := parseMm c.u0
  if x.m = 0 ∨ x.n = 0 ∨ x.batch = 0 then .ok (OpOut.just .okEmptyResult)
  else do
    require (!(coresOf s c).isEmpty) .noResources
    let p := mmPlan s c
    require (decide (p.scratchPages + p.undoPages ≤ scratchFree s.ms)) .noResources
    mmRun s c h

end Sys2Proof.Machine
end

