-- ==== Sys2Proof/Machine/Conv.lean ====
section
/-! DEFINITION. `CONV` (05, R129 to R141): body, checks, tile shape, plan, result. -/

namespace Sys2Proof.Machine

/-- The body of unit 0 (R140). -/
structure Cv where
  padMode : Nat
  biasFmt : Nat
  pro : Nat
  epi : Nat
  upY : Nat
  upX : Nat
  fh : Nat
  fw : Nat
  sy : Nat
  sx : Nat
  dy : Nat
  dx : Nat
  pt : Nat
  pb : Nat
  pl : Nat
  pr : Nat
  groups : Nat
  padConst : Val
  conv : Conv
  biasVa : Nat
  reservedOk : Bool
  deriving DecidableEq, Repr

def parseCv (u : Unit64) : Cv :=
  { padMode := fld u 8 0 2, biasFmt := byteAt u 9, pro := fld u 10 0 4, epi := fld u 10 4 4,
    upY := fld u 11 0 4 + 1, upX := fld u 11 4 4 + 1, fh := byteAt u 12, fw := byteAt u 13,
    sy := byteAt u 14, sx := byteAt u 15, dy := byteAt u 16, dx := byteAt u 17, pt := byteAt u 18,
    pb := byteAt u 19, pl := byteAt u 20, pr := byteAt u 21, groups := leAt u 24 3,
    padConst := f32 (leAt u 28 4), conv := parseConv u 32, biasVa := leAt u 48 6,
    reservedOk := fld u 8 2 6 == 0 && allZero u 22 2 && byteAt u 27 == 0 && allZero u 54 10 }

/-- Output extent along one axis (R130): the integer o. -/
def outExtent (i lo hi dil f stride : Nat) : Int :=
  let num : Int := (i : Int) + lo + hi - (dil * (f - 1) : Nat) - 1
  num / (max stride 1 : Nat) + 1

/-- Extents of a command: (batch, H, W, Cin, g, Cout, Ho, Wo), H and W before upsampling. -/
structure CvDims where
  batch : Nat
  h : Nat
  w : Nat
  cin : Nat
  g : Nat
  cout : Nat
  ho : Int
  wo : Int
  deriving DecidableEq, Repr

def cvDims (x : Cv) (i f : Desc) : CvDims :=
  let d := if i.rank = 4 then i.dims.drop 1 else i.dims
  let h := d.getD 0 0
  let w := d.getD 1 0
  { batch := if i.rank = 4 then i.dims.getD 0 0 else 1, h := h, w := w, cin := d.getD 2 0,
    g := f.dims.getD 2 0, cout := f.dims.getD 3 0,
    ho := outExtent (h * x.upY) x.pt x.pb x.dy x.fh x.sy
    wo := outExtent (w * x.upX) x.pl x.pr x.dx x.fw x.sx }

/-- Groups per column tile (R137). -/
def packP (g gOut : Nat) : Nat := if g = 0 ∨ gOut = 0 then 0 else min (64 / g) (32 / gOut)

/-- Input channels that one tile reads (R133). -/
def cvLanes (groups g gOut cin : Nat) : Nat :=
  if g = 1 ∧ gOut = 1 then 32
  else if groups = 1 then cin
  else if packP g gOut = 0 then g else packP g gOut * g

/-- Tile rectangle of R133, halving mt from 256 to 16. -/
def cvTile (x : Cv) (ho wo lanes size : Nat) : List (Nat × Nat × Nat) → Option (Nat × Nat)
  | [] => none
  | (mt, _, tw0) :: t =>
      let tw := min tw0 wo
      let th := min (mt / max tw 1) ho
      let rows := (th - 1) * x.sy + x.dy * (x.fh - 1) + 1
      let cols := (tw - 1) * x.sx + x.dx * (x.fw - 1) + 1
      if rows * cols * lanes * size ≤ 1572864 then some (th, tw) else cvTile x ho wo lanes size t

def cvShapes : List (Nat × Nat × Nat) :=
  [(256, 16, 16), (128, 8, 16), (64, 8, 8), (32, 4, 8), (16, 4, 4)]

/-- The checks of R141. Where an output extent is 0 or less there is no tile, and no shape of R133 that could fail to fit
(DESIGN CHOICE; log 24). -/
def cvCheck (s : State) (c : Cmd) : Except Err (Option Int4) := do
  let x := parseCv c.u0
  let i := c.desc 1
  let f := c.desc 2
  let o := c.desc 3
  let pro := proUse c x.pro
  let epi := epiUse c x.epi
  let taken := [0, 1, 2, 3, x.pro, x.epi] ++
    (match pro with
     | some p => if p.p.norm = 0 then [] else [p.p.stats]
     | none => [])
  require (decide (4 ≤ c.units.length) && x.reservedOk &&
    [x.fh, x.fw, x.sy, x.sx, x.dy, x.dx, x.groups].all (fun v => v != 0) &&
    unitField x.pro c.lastUnit && unitField x.epi c.lastUnit && (x.pro == 0 || x.pro != x.epi) &&
    x.conv.good o.scaleVa && i.good && f.good && o.good && proGood c x.pro x.epi pro &&
    epiGood c taken x.conv o epi) .badDescriptor
  let h ← readInt4 s f
  require ((h.map (fun t => t.good f)).getD true) .badDescriptor
  require (codeIs isArrayA i.code && codeIs isArrayB f.code && (h.map Int4.targetOk).getD true &&
    pairOk true i.fmt f.fmt h && x.conv.fmtOk && (!x.conv.biasEn || floatVecCode x.biasFmt) &&
    proFmt i pro && epiFmt c x.conv.outCode o epi) .unsupportedFormat
  let d := cvDims x i f
  let gOut := d.cout / max x.groups 1
  let odims := [d.ho.toNat, d.wo.toNat, d.cout]
  require (i.inRange && f.inRange && o.inRange && (i.rank == 3 || i.rank == 4) && f.rank == 4 &&
    f.dims.getD 0 0 == x.fh && f.dims.getD 1 0 == x.fw &&
    o.dims == (if i.rank = 4 then d.batch :: odims else odims) &&
    (if d.cin = 0 then x.groups == 1 else decide (x.groups ≤ d.cin)) &&
    d.cin % max x.groups 1 == 0 && d.cout % max x.groups 1 == 0 && d.g == d.cin / max x.groups 1 &&
    (x.padMode != 2 || (decide (x.pt < d.h * x.upY) && decide (x.pb < d.h * x.upY) &&
      decide (x.pl < d.w * x.upX) && decide (x.pr < d.w * x.upX))) &&
    decide (x.fh * x.fw * d.g ≤ 16777216) &&
    proShape 1 d.batch d.cin i.bytesPer false pro &&
    epiShape c o odims epi &&
    (decide (d.ho ≤ 0) || decide (d.wo ≤ 0) ||
      (cvTile x d.ho.toNat d.wo.toNat (cvLanes x.groups d.g gOut d.cin) i.bytesPer cvShapes).isSome))
    .badShape
  .ok h

/-- The cell that padded position `p` reads in an extent of `i`: none for a pad value (R131). -/
def padCell (mode : Nat) (i : Nat) (p : Int) : Option Nat :=
  if 0 ≤ p ∧ p < i then some p.toNat
  else if mode = 2 then some (if p < 0 then (-p).toNat else (2 * ((i : Int) - 1) - p).toNat)
  else if mode = 3 then some (min p.toNat (i - 1))
  else none

/-- The pad value in the input format (R131). -/
def Cv.padVal (x : Cv) (f : Fmt) : Val :=
  if x.padMode = 1 then decodeElem f (convert f .rne 0 x.padConst) else .zero

/-- One input value after prologue, upsampling and padding (R131, R132). An empty extent under REPLICATE
has no cell: its value is not stated (log 17). -/
def cvInput (s : State) (x : Cv) (i : Desc) (d : CvDims) (pro : Option ProUse) (gb : List Val × List Val)
    (b : Nat) (iy ix : Int) (ch : Nat) : Except Err Val :=
  match padCell x.padMode (d.h * x.upY) iy, padCell x.padMode (d.w * x.upX) ix with
  | some y, some xx =>
      if d.h = 0 ∨ d.w = 0 then .ok (decodeElem i.fmt (Config.free s.freeCtr % 2 ^ codeBits i.code))
      else do
        let idx := [y / x.upY, xx / x.upX, ch]
        let v ← readVal s i (if i.rank = 4 then b :: idx else idx)
        proElem s pro gb i.fmt b 0 ch d.cin v
  | _, _ => .ok (x.padVal i.fmt)

/-- The lanes of tap `t` for output channel `co`: terms of group `q` in ascending channel. -/
def cvTap (s : State) (x : Cv) (i f : Desc) (h : Option Int4) (d : CvDims) (pro : Option ProUse)
    (gb : List Val × List Val) (int : Bool) (b oy ox co t : Nat) : Except Err (List Val) :=
  let gOut := d.cout / max x.groups 1
  let q := co / max gOut 1
  let fy := t / x.fw
  let fx := t % x.fw
  let iy : Int := (oy * x.sy + fy * x.dy : Nat) - (x.pt : Int)
  let ix : Int := (ox * x.sx + fx * x.dx : Nat) - (x.pl : Int)
  mapE (fun j => do
    let a ← cvInput s x i d pro gb b iy ix (q * d.g + j)
    let w ← readOperand s f h [fy, fx, j, co]
    .ok (arrTerm 0 int a w)) (List.range d.g)

/-- Chunks of one output in order (R129, R137, R138). -/
def cvChunks (x : Cv) (d : CvDims) (co : Nat) (taps : List (List Val)) : List (List (Option Val)) :=
  let gOut := d.cout / max x.groups 1
  if d.g = 1 ∧ gOut = 1 then
    chunksOf 1 (taps.map (fun t => t.head?)) 1 []
  else
    let p := packP d.g gOut
    if x.groups = 1 ∨ p = 0 then taps.flatMap (fun t => chunks64 (t.map some))
    else
      let off := (co / gOut) % p * d.g
      taps.map (fun t => List.replicate off none ++ t.map some)

/-- Tile rectangle of a checked command. -/
def cvRect (x : Cv) (i f : Desc) : Nat × Nat :=
  let d := cvDims x i f
  (cvTile x d.ho.toNat d.wo.toNat (cvLanes x.groups d.g (d.cout / max x.groups 1) d.cin) i.bytesPer
    cvShapes).getD (1, 1)

/-- Whether every pixel of row tile `r` is frozen (R234). -/
def cvFrozen (settle : Bool) (ref : Option SettleRef) (frozen : List Nat) (d : CvDims) (th tw r : Nat) : Bool :=
  match ref with
  | none => false
  | some q =>
      let ho := d.ho.toNat
      let wo := d.wo.toNat
      let sxn := cdiv wo tw
      let y0 := r / sxn * th
      let x0 := r % sxn * tw
      settle && !frozen.isEmpty &&
      (List.range (min th (ho - y0))).all (fun dy => (List.range (min tw (wo - x0))).all (fun dx =>
        frozen.contains (cellOf q ((y0 + dy) * q.h / ho) ((x0 + dx) * q.w / wo))))

/-- Whether every element of block `k` of a VXE-routed command lies on a frozen pixel (R139, R234). -/
def cvBlockFrozen (settle : Bool) (ref : Option SettleRef) (frozen : List Nat) (d : CvDims) (k : Nat) : Bool :=
  let ho := d.ho.toNat
  let wo := d.wo.toNat
  let n := d.batch * ho * wo * d.cout
  let p0 := 4096 * k / max d.cout 1
  let p1 := (min n (4096 * (k + 1)) - 1) / max d.cout 1
  match ref with
  | none => false
  | some q => settle && !frozen.isEmpty &&
      (List.range (p1 + 1 - p0)).all (fun i =>
        let p := (p0 + i) % max (ho * wo) 1
        frozen.contains (cellOf q (p / wo * q.h / ho) (p % wo * q.w / wo)))

/-- Source cells of one axis that outputs `[a, z]` read, the input block of R135 without its padding. -/
def cvCells (i up lo stride dil f a z : Nat) : Nat :=
  let first : Int := (a * stride : Nat) - (lo : Int)
  let last : Int := (z * stride + dil * (f - 1) : Nat) - (lo : Int)
  let x := (max first 0).toNat
  let y := (min last ((i * up : Nat) - 1)).toNat
  if last < 0 ∨ (i * up : Nat) ≤ first then 0 else y / max up 1 + 1 - x / max up 1

/-- Bands of units of a checked, non-empty command (R134). What the record says where no rule does is the model's choice
(DESIGN CHOICE; log 24): a transposed rectangle counts as the column tiles of 32 pixels it takes, with `COL_TILES` 1; a
prologue costs PRU cycles for every cell of the input block of R133, padding and halo included; and a VXE-routed command
reports its blocks as the other vector commands do, in one pass with its whole epilogue and no split. -/
def cvPlan (s : State) (c : Cmd) : Plan :=
  let x := parseCv c.u0
  let i := c.desc 1
  let f := c.desc 2
  let o := c.desc 3
  let d := cvDims x i f
  let ho := d.ho.toNat
  let wo := d.wo.toNat
  let gOut := d.cout / max x.groups 1
  let r := cvRect x i f
  let th := r.1
  let tw := r.2
  let mt := th * tw
  let eight := i.fmt != .bf16
  let w := if eight then 128 else 64
  let taps := x.fh * x.fw
  let tr := x.groups == 1 && decide (d.cout < 8) && decide (8 ≤ mt)
  let dw := d.g == 1 && gOut == 1
  let p := packP d.g gOut
  let chunks := if dw then cdiv taps (if eight then 4 else 2)
    else if x.groups = 1 ∨ p = 0 then taps * cdiv d.g w else taps
  let ct := if tr then 1 else if dw then cdiv d.cout 32 else if x.groups = 1 then cdiv d.cout 32
    else if p = 0 then x.groups * cdiv gOut 32 else cdiv x.groups p
  let sxn := cdiv wo tw
  let stripes := cdiv ho th
  let e := (coresOf s c).length
  let epi := epiUse c x.epi
  let cut := splitOf epi
  let stripeBytes := th * wo * d.cout * 4
  let perBand := if cut.isSome then max 1 (0x10000000 / max stripeBytes 1) else stripes
  let nb := cdiv stripes (max perBand 1)
  let frz := hdrSettle c.u0 && c.settleRef.isSome && !c.frozen.isEmpty
  let pruRate := match proUse c x.pro with
    | some q => if q.p.sfu = 0 then 64 else 32
    | none => 64
  let rows := (th - 1) * x.sy + x.dy * (x.fh - 1) + 1
  let cols := (tw - 1) * x.sx + x.dx * (x.fw - 1) + 1
  let pru := if x.pro = 0 then 0 else cdiv (rows * cols * cvLanes x.groups d.g gOut d.cin) pruRate
  let mk (b rr cc : Nat) : WorkUnit :=
    let nt := if tr then cdiv mt 32 else 1
    { b := b, r := rr, c := cc, cn := 1, part := 0, tiles := nt, rows := if tr then d.cout else mt,
      cycles := nt * chunks * max (if tr then d.cout else mt) 16, block := (b, rr), pru := pru }
  let band (b k : Nat) : List WorkUnit :=
    let base := k * perBand * sxn
    ((hilbertOrder (min perBand (stripes - k * perBand) * sxn) ct).map (fun q => mk b (base + q.1) q.2)).filter
      (fun u => !cvFrozen (hdrSettle c.u0) c.settleRef c.frozen d th tw u.r)
  let perBatch := (List.range d.batch).map (fun b => (List.range nb).map (band b))
  let bands := if cut.isSome then perBatch.flatten else [perBatch.flatten.flatten]
  let arr := (bands.map (bandCycles e)).sum
  let el := d.batch * ho * wo * d.cout
  let blocks := (List.range (cdiv el 4096)).filter (fun k =>
    !cvBlockFrozen (hdrSettle c.u0) c.settleRef c.frozen d k)
  let vxe := cdiv blocks.length (max e 1) * 64 * (taps + cdiv taps 2 - 1)
  let arrOnly := (bands.map (fun us => bandCycles e (us.map (fun u => { u with pru := 0 })))).sum
  let useVxe := dw && decide (x.fh ≤ 5) && decide (x.fw ≤ 5) && decide (vxe < arrOnly)
  let tu := tilesOn e bands
  let lastRows := ho - (nb - 1) * perBand * th
  let lastEl := lastRows * wo * d.cout
  let late := match epi, cut with
    | some ep, some k => ((ep.steps.drop k).flatMap Step.sources).filterMap (fun n =>
        if 3 ≤ n ∧ n ≤ 6 then some (n - 3) else none) |>.eraseDups
    | _, _ => []
  let vc := match epi, cut with
    | some ep, some k => vectorCycles e (el - lastEl) lastEl (vectorRate false (ep.sfu != 0 && decide (k ≤ ep.pos)))
        4 o.dims (late.map (streamDesc c ep) ++ [o] ++
          (if late.any (fun k => o.same (streamDesc c ep k)) then [o, o] else []))
    | _, _ => 0
  let pages := if cut.isSome && !useVxe then
    pagesOf (min (perBand * th) ho * wo * d.cout * 4) * (if bands.length > 1 then 2 else 1) else 0
  let early (ep : Epi) : Nat := match cut with
    | some k => (((ep.steps.take k).flatMap Step.sources).filter (fun n => decide (3 ≤ n ∧ n ≤ 6))).eraseDups.length
    | none => ep.streams.length
  let aliased := match epi with
    | some ep => (ep.streams.filter (fun k => useVxe || !late.contains k)).any (fun k => o.same (streamDesc c ep k))
    | none => false
  let lateAliased := match epi with
    | some ep => !useVxe && late.any (fun k => o.same (streamDesc c ep k))
    | none => false
  let bandEls := (List.range nb).map (fun k => min (perBand * th) (ho - k * perBand * th) * wo * d.cout)
  let lanes := cvLanes x.groups d.g gOut d.cin
  let reads (y0 y1 x0 x1 : Nat) : Nat :=
    cvCells d.h x.upY x.pt x.sy x.dy x.fh y0 y1 * cvCells d.w x.upX x.pl x.sx x.dx x.fw x0 x1 * i.bytesPer
  let bytes (u : WorkUnit) : Nat :=
    let y0 := u.r / sxn * th
    let x0 := u.r % sxn * tw
    let y1 := min ho (y0 + th) - 1
    let x1 := min wo (x0 + tw) - 1
    let cols := min 32 d.cout
    max (if o.same i then reads y0 y1 x0 x1 * lanes else 0)
      (max (if o.same f then taps * d.g * cols * f.bytesPer else 0)
        (if aliased then (y1 + 1 - y0) * (x1 + 1 - x0) * cols * o.bytesPer else 0))
  let blockBytes (u : WorkUnit) : Nat :=
    let p0 := 4096 * u.r / max d.cout 1
    let p1 := (min el (4096 * (u.r + 1)) - 1) / max d.cout 1
    max (if o.same i then reads (p0 / wo % ho) (p1 / wo % ho) 0 (wo - 1) * d.cin else 0)
      (max (if o.same f then taps * d.cout * f.bytesPer else 0) (if aliased then 4096 * o.bytesPer else 0))
  let vxBands := [blocks.map (fun k => WorkUnit.mk 0 k 0 1 0 1 0 0 (0, k) 0)]
  let tiles := (bands.map (fun b => (b.map WorkUnit.tiles).sum)).sum
  let first := match epi with
    | some ep => if ep.steps.isEmpty || (cut == some 0 && !useVxe) then 0xFF else 0
    | none => 0xFF
  let arrPasses := [PassRec.mk 1 0 first ((epi.map early).getD 0) 0 tiles arr] ++
    (if cut.isSome then [PassRec.mk 2 1 (cut.getD 0) late.length (pages * 2) el vc] else [])
  let undo := if useVxe then undoFor e vxBands blockBytes
    else undoMax (undoFor e bands bytes) (undoLater lateAliased e bandEls)
  let pred := if useVxe then vxe else arr + vc
  { opcode := 2, e := e, tr := tr && !useVxe, repro := hdrRepro c.u0, whole := false, frozen := frz, mt := mt, ks := 1,
    rt := if useVxe then blocks.length else stripes * sxn, ct := if useVxe then 1 else ct,
    h := if useVxe then 0 else hilbertH (min perBand stripes * sxn) ct,
    total := if useVxe then blocks.length else tiles,
    maxTiles := if useVxe then cdiv blocks.length (max e 1) else tu.1,
    coresUsed := if useVxe then min e blocks.length else tu.2, nBands := if useVxe then 1 else bands.length,
    bands := if useVxe then vxBands else bands, predCycles := pred, predNs := nsOf pred,
    passes := holdUndo (undoTotal undo) (if useVxe then
      [PassRec.mk 4 0 first ((epi.map (fun ep => ep.streams.length)).getD 0) 0 el vxe] else arrPasses),
    scratchPages := pages, undo := undo }

/-- Whether the planner routes a command to the vector engines (R139). -/
def Plan.isVxe (p : Plan) : Bool := p.passes.any (fun q => q.kind == 4)

/-- The column tile that holds an output channel (R131 to R134). -/
def cvColTile (x : Cv) (d : CvDims) (wide : Bool) (co : Nat) : Nat :=
  let gOut := d.cout / max x.groups 1
  let p := packP d.g gOut
  if x.groups == 1 && decide (d.cout < 8) && wide then 0
  else if (d.g == 1 && gOut == 1) || x.groups == 1 then co / 32
  else if p = 0 then co / max gOut 1 * cdiv gOut 32 + co % max gOut 1 / 32
  else co / max gOut 1 / p

/-- The drain column of an output channel within its column tile (R134, R137). -/
def cvColumn (x : Cv) (d : CvDims) (co : Nat) : Nat :=
  let gOut := d.cout / max x.groups 1
  let p := packP d.g gOut
  if (d.g == 1 && gOut == 1) || x.groups == 1 then co % 32
  else if p = 0 then co % max gOut 1 % 32
  else co / max gOut 1 % p * gOut + co % max gOut 1

/-- The result of a checked, non-empty command. -/
def cvRun (s : State) (c : Cmd) (h : Option Int4) (vxe : Bool) : Except Err OpOut := do
  let x := parseCv c.u0
  let i := c.desc 1
  let f := c.desc 2
  let o := c.desc 3
  let d := cvDims x i f
  let ho := d.ho.toNat
  let wo := d.wo.toNat
  let pro := proUse c x.pro
  let epi := epiUse c x.epi
  let int := i.fmt == .int8
  let red := redOf 0 int
  let gb ← proVectors s pro d.cin
  let scales ← readChannel s (x.conv.scaleMode == 2) o.scaleVa 2 d.cout
  let biases ← readChannel s x.conv.biasEn x.biasVa x.biasFmt d.cout
  let c0 ← readChannel s ((epi.map (fun e => e.named.contains 7)).getD false)
    ((epi.map Epi.c0Va).getD 0) ((epi.map Epi.c0Fmt).getD 0) d.cout
  let c1 ← readChannel s ((epi.map (fun e => e.named.contains 8)).getD false)
    ((epi.map Epi.c1Va).getD 0) ((epi.map Epi.c1Fmt).getD 0) d.cout
  let r := cvRect x i f
  let sxn := cdiv wo r.2
  let settle := hdrSettle c.u0
  let pix := if vxe then List.range (ho * wo) else (List.range (ho * wo)).filter (fun p =>
    !cvFrozen settle c.settleRef c.frozen d r.1 r.2 (p / wo / r.1 * sxn + p % wo / r.2))
  let kept (k : Nat) : Bool := !vxe || !cvBlockFrozen settle c.settleRef c.frozen d (k / 4096)
  let later := !vxe && (splitOf epi).isSome
  let tr := !vxe && x.groups == 1 && decide (d.cout < 8) && decide (8 ≤ r.1 * r.2)
  let rectPix (p : Nat) : Nat := p / wo % r.1 * r.2 + p % wo % r.2
  let group (b p co : Nat) : Nat :=
    (((b * cdiv ho r.1 + p / wo / r.1) * sxn + p % wo / r.2) * (r.1 * r.2) + rectPix p - rectPix p % 32) * d.cout + co
  let stripeBytes := r.1 * wo * d.cout * 4
  let perBand := max 1 (0x10000000 / max stripeBytes 1) * r.1
  let bands := cdiv ho perBand
  let place (b p co k : Nat) : Place :=
    if later then
      let n := p / wo / perBand
      laterPlace (b * bands + n) (((p - n * perBand * wo) * d.cout + co) / 4096)
    else if vxe then (0, k / 4096, 0)
    else (b, p / wo / r.1 * sxn + p % wo / r.2, cvColTile x d (decide (8 ≤ r.1 * r.2)) co)
  let items := (List.range d.batch).flatMap (fun b => pix.flatMap (fun p =>
    ((List.range d.cout).filter (fun co => kept ((b * ho * wo + p) * d.cout + co))).map (fun co =>
      let oy := p / wo
      let ox := p % wo
      let k := (b * ho * wo + p) * d.cout + co
      (place b p co k, do
        let taps ← mapE (cvTap s x i f h d pro gb int b oy ox co) (List.range (x.fh * x.fw))
        let acc := (reduceChunks red (cvChunks x d co taps)).getD .zero
        let epu := if tr then drawsAt s (group b p co) (rectPix p % 32)
          else drawsAt s (k - cvColumn x d co) (cvColumn x d co)
        drainElem s c x.conv o epi scales biases c0 c1
          (fun j => if vxe || inLater 1 (splitOf epi) j then drawsVec s k j else epu j)
          (if o.rank = 4 then [b, oy, ox, co] else [oy, ox, co]) co acc))))
  .ok (OpOut.ofItems s items (16 * d.batch * (cdiv ho r.1 * sxn * (r.1 * r.2)) * d.cout + 1))

/-- `CONV` (R140, R141). -/
def cvBody (s : State) (c : Cmd) : Except Err OpOut := do
  let h ← cvCheck s c
  let x := parseCv c.u0
  let d := cvDims x (c.desc 1) (c.desc 2)
  if d.ho ≤ 0 ∨ d.wo ≤ 0 ∨ d.batch = 0 ∨ d.cout = 0 then .ok (OpOut.just .okEmptyResult)
  else do
    require (!(coresOf s c).isEmpty) .noResources
    let p := cvPlan s c
    require (decide (p.scratchPages + p.undoPages ≤ scratchFree s.ms)) .noResources
    cvRun s c h p.isVxe

end Sys2Proof.Machine
end

