-- ==== Sys2Proof/Machine/PlanOf.lean ====
section
/-! DEFINITION. What every operator command has by its opcode: its plan, its checks before any operand is
read, the memory it names (R213, R214, R314), whether it rounds stochastically, and where it runs. -/

namespace Sys2Proof.Machine

def Cmd.opcode (c : Cmd) : Nat := hdrOpcode c.u0

/-! Spans. -/

/-- Units of a command that hold blocks and not descriptors. -/
def blockUnits (c : Cmd) : List Nat :=
  match c.opcode with
  | 0x01 => [(parseMm c.u0).pro, (parseMm c.u0).epi]
  | 0x02 => [(parseCv c.u0).pro, (parseCv c.u0).epi]
  | 0x08 => [vcChain c]
  | 0x11 => [1]
  | 0x12 => List.range c.units.length
  | _ => []

/-- Descriptor units that a command's fields leave out: the output under `STATS_ONLY` (R161), K and V under `CACHE`
(R176). -/
def ignoredUnits (c : Cmd) : List Nat :=
  match c.opcode with
  | 0x04 => if (parseAt c.u0).cache then [2, 3] else []
  | 0x06 => if (parseNr c.u0).statsOnly then [2] else []
  | _ => []

/-- Units whose descriptors a command writes. -/
def outUnits (c : Cmd) : List Nat :=
  match c.opcode with
  | 0x01 | 0x02 | 0x14 => [3]
  | 0x03 | 0x0E | 0x10 => [2]
  | 0x04 => 4 :: (if (parseAt c.u0).stats = 0 then [] else [(parseAt c.u0).stats])
  | 0x05 => [7, 8, 9]
  | 0x06 | 0x07 | 0x15 => [2, 3]
  | 0x08 => [vcDst c]
  | 0x0A | 0x0B => [1]
  | 0x0C => [3, 4]
  | _ => []

/-- Descriptors among some units that parse as such; one with base 0 is absent or suppressed. -/
def descsOf (c : Cmd) (ks : List Nat) : List Desc :=
  ((ks.filter (fun k => k != 0 && decide (k < c.units.length) && !(blockUnits c).contains k && !(ignoredUnits c).contains k)).map
    c.desc).filter (fun d => d.good && d.fmt?.isSome && d.count != 0 && d.base != 0)

/-- All descriptors of a command, those it writes and those it reads; `SAMPLE_STEP` reads and writes its latents and its
ring. -/
def cmdDescs (c : Cmd) : List Desc := descsOf c (List.range c.units.length)
def outDescs (c : Cmd) : List Desc := descsOf c (outUnits c)
def inDescs (c : Cmd) : List Desc :=
  descsOf c ((List.range c.units.length).filter (fun k => !(outUnits c).contains k))

/-- The scale tensor or side table a descriptor points to, with `n` output channels. -/
def scaleSpans (s : State) (d : Desc) (n : Nat) : List (Nat × Nat) :=
  if d.scaleVa = 0 then []
  else if d.fmt? == some .int4g32 then
    match readInt4 s d with
    | .ok (some h) =>
        [(h.va, 16), (h.va + h.tables, 16 * ((h.groups - 1) / 2 ^ h.shift + 1)), (h.va + h.scales, 2 * h.groups)]
    | .ok none | .error _ => [(d.scaleVa, 16)]
  else [(d.scaleVa, 4 * n)]

/-- A vector of `n` elements in a format code. -/
def vecSpan (on : Bool) (va code n : Nat) : List (Nat × Nat) :=
  if on && va != 0 then [(va, n * (codeBits code / 8))] else []

def epiSpans (e : Option Epi) (n : Nat) : List (Nat × Nat) :=
  match e with
  | none => []
  | some e => vecSpan (e.named.contains 7) e.c0Va e.c0Fmt n ++ vecSpan (e.named.contains 8) e.c1Va e.c1Fmt n

def proSpans (p : Option ProUse) (k : Nat) : List (Nat × Nat) :=
  match p with
  | none => []
  | some p => vecSpan p.p.gammaEn p.p.gammaVa p.p.gammaFmt k ++ vecSpan p.p.betaEn p.p.betaVa p.p.betaFmt k

/-- Address fields that a command reads through, each over the extent the command gives it (R314). -/
def fieldReads (s : State) (c : Cmd) : List (Nat × Nat) :=
  match c.opcode with
  | 0x01 =>
      let x := parseMm c.u0
      vecSpan x.conv.biasEn x.biasVa x.biasFmt x.n ++ scaleSpans s (c.desc 2) x.n ++
      (if x.conv.scaleMode = 2 then scaleSpans s (c.desc 3) x.n else []) ++
      epiSpans (epiUse c x.epi) x.n ++ proSpans (proUse c x.pro) x.k
  | 0x02 =>
      let x := parseCv c.u0
      let d := cvDims x (c.desc 1) (c.desc 2)
      vecSpan x.conv.biasEn x.biasVa x.biasFmt d.cout ++ scaleSpans s (c.desc 2) d.cout ++
      (if x.conv.scaleMode = 2 then scaleSpans s (c.desc 3) d.cout else []) ++
      epiSpans (epiUse c x.epi) d.cout ++ proSpans (proUse c x.pro) d.cin
  | 0x04 =>
      let x := parseAt c.u0
      if x.cache then
        (List.range (cdiv x.kvLen 256)).map (fun j =>
          (cachePage x.seqVa x.layer x.pmax j, 512 * x.kvHeads * x.d * (codeBits x.kvFmt / 8)))
      else []
  | 0x06 =>
      let x := parseNr c.u0
      let n := (c.desc 1).lastDim
      vecSpan (x.gammaEn && !x.statsOnly) x.gammaVa x.gammaFmt n ++ vecSpan (x.betaEn && !x.statsOnly) x.betaVa x.betaFmt n
  | 0x08 => epiSpans (some (vcEpi c)) (c.desc (vcDst c)).lastDim
  | 0x09 =>
      let x := parseSs c.u0
      let cells := 16 * cellCount (ssDims c).1 (ssDims c).2.1
      (x.coefVa, 64 * x.rows) :: (if x.mapA = 0 then [] else [(x.mapA, cells), (x.mapB, cells)])
  | 0x0E | 0x10 => scaleSpans s (c.desc 1) 0
  | 0x11 =>
      let x := parseDec c
      [(x.bsVa, x.bsBytes), (x.stateVa, x.stateUnits * 0x10000)]
  | 0x12 =>
      let x := parseEnc c.u0
      [(x.roiVa, 16 * x.roiCount), (x.stateVa, x.stateUnits * 0x10000)] ++ (encLayers c).map (fun l => (l.va, l.bytes))
  | _ => []

/-- Address fields that a command writes through. -/
def fieldWrites (c : Cmd) : List (Nat × Nat) :=
  match c.opcode with
  | 0x01 =>
      let x := parseMm c.u0
      if x.drain = 0 then [] else [(x.idxVa, 4 * x.batch * x.m)]
  | 0x03 =>
      let x := parsePl c.u0
      if x.op = 0 && x.idxEn then [(x.idxVa, 4 * (c.desc 2).count)] else []
  | 0x0C =>
      let x := parseNm c.u0
      let n := 4 * ((nmsDims c).1 * x.maxKeep)
      [(x.idxVa, n), (x.repVa, 16 * (nmsDims c).1)] ++ (if x.clsVa = 0 then [] else [(x.clsVa, n)])
  | 0x0D =>
      let x := parseKv c.u0
      (kvPages x (kvCount c)).map (fun va => (va, 512 * x.heads * x.d * (codeBits x.fmt / 8)))
  | 0x11 =>
      let x := parseDec c
      [(x.outVa, x.outBytes), (x.reportVa, 32)]
  | 0x12 =>
      let x := parseEnc c.u0
      [(x.bsVa, x.bsBytes), (x.reportVa, 32)]
  | 0x10 =>
      let x := parseCol c.u0
      if colIndexed c then ([x.dropVa, x.recvVa].filter (· != 0)).map (fun va => (va, 4 * colP x)) else []
  | _ => []

def fieldSpans (s : State) (c : Cmd) : List (Nat × Nat) := (fieldReads s c ++ fieldWrites c).filter (fun x => x.2 != 0)

/-- Pages that `KV_FORK` names through its address fields (R186); it changes their entries and moves no byte. -/
def forkSpans (c : Cmd) : List (Nat × Nat) :=
  if c.opcode = 0x13 then
    let x := parseFk c.u0
    ((if x.release then [] else fkPages x x.src) ++ fkPages x x.dst).map (fun va => (va, 0x200000))
  else []

/-- All memory the command names. -/
def cmdSpans (s : State) (c : Cmd) : List (Nat × Nat) := (cmdDescs c).map Desc.span ++ fieldSpans s c

/-- The state of the island that holds a physical address: a stack base, capacity memory, or the hub (R33). -/
def memoryState (s : State) (pa : Nat) : PState :=
  if pa < 0x1000000000 then (s.stkIsl (paPartition pa / 64)).state
  else if 0x400000000000 ≤ pa then s.capMem.state
  else .on

/-- Whether an access to some of these spans of addresses waits: its memory is in RETENTION and is being woken
(R34, R388, R389). -/
def asleep (s : State) (spans : List (Nat × Nat)) : Bool :=
  s.ms.leaves.any (fun p => memoryState s (ptePa p.word) == .retention &&
    spans.any (fun x => spansMeet x (p.idx <<< levelShift p.level, 2 ^ levelShift p.level)))

/-- Spilled tensors of loaded models that the command reads (R213), with their index. -/
def spilledRead (s : State) (c : Cmd) : List (Nat × Tensor) :=
  s.models.flatMap (fun m => (m.tensors.zipIdx.filter (fun t =>
    t.1.spilled && ((inDescs c).any (fun d => d.touches (t.1.va, t.1.bytes)) ||
      (fieldReads s c).any (spansMeet (t.1.va, t.1.bytes))))).map (fun t => (t.2, t.1)))

def spilledBytesRead (s : State) (c : Cmd) : Nat := ((spilledRead s c).map (fun t => t.2.bytes)).sum

/-! Races (R70, R116, R165). -/

/-- Input units whose tensor may be the output exactly: streams, the source of a chain, the input of row statistics; each of
their elements is read before it is written (R116, R118, R165, R170). -/
def aliasUnits (c : Cmd) : List Nat :=
  let streams (e : Option Epi) : List Nat :=
    match e with
    | some e => e.streams.map (fun k => e.x.getD k 0)
    | none => []
  match c.opcode with
  | 0x01 => streams (epiUse c (parseMm c.u0).epi)
  | 0x02 => streams (epiUse c (parseCv c.u0).epi)
  | 0x06 | 0x07 => [1]
  | 0x08 => vcSrc c :: streams (some (vcEpi c))
  | _ => []

/-- Whether a command reads a byte through an operand; `but` leaves operands out. -/
def readsAt (s : State) (c : Cmd) (but : Nat → Desc → Bool) (a : Nat) : Bool :=
  ((List.range c.units.length).filter (fun k => !(outUnits c).contains k)).any (fun k =>
    (descsOf c [k]).any (fun d => d.touches (a, 1) && !but k d)) ||
  (fieldReads s c).any (fun x => spansMeet x (a, 1))

/-- Whether a command reads a byte other than as an element of a tensor that its output is exactly; `SAMPLE_STEP` reads the
elements of its latents and ring before it writes them (R226). -/
def racesAt (s : State) (c : Cmd) (a : Nat) : Bool :=
  c.opcode != 0x09 && readsAt s c (fun k d => (aliasUnits c).contains k && (outDescs c).any d.same) a

/-- The 64-byte lines of some bytes. -/
def linesOf (l : List (Nat × Byte)) : List Nat := (l.map (fun p => p.1 / 64)).eraseDups

/-- The bytes of some of their lines, a free choice for each. -/
def pickLines (seed : Nat) (l : List (Nat × Byte)) : List (Nat × Byte) :=
  let on := ((linesOf l).zipIdx.filter (fun p => Config.free (seed + p.2) % 2 == 1)).map Prod.fst
  l.filter (fun p => on.contains (p.1 / 64))

/-- Bytes read by a command as they were before other commands in flight wrote them: none of these is ordered before it, so
each of its reads may still return them (R70, R116). -/
def staleBytes (s : State) (c : Cmd) : List (Nat × Byte) :=
  ((s.cmds.filter (fun d => d.id != c.id)).flatMap Cmd.was).filter (fun p => readsAt s c (fun _ _ => false) p.1)

/-! Plans. -/

/-- The plan of an operator command before R214; `KV_SCATTER` and `KV_FORK` have none. -/
def basePlan (s : State) (c : Cmd) (kept : List (Nat × Nat)) : Option Plan :=
  match c.opcode with
  | 0x01 => some (mmPlan s c)
  | 0x02 => some (cvPlan s c)
  | 0x03 => some (poolPlan s c)
  | 0x04 => some (atPlan s c)
  | 0x05 => some (abPlan s c)
  | 0x06 => some (nrPlan s c)
  | 0x07 => some (smPlan s c)
  | 0x08 => some (vcPlan s c)
  | 0x09 => some (ssPlan s c kept)
  | 0x0A => some (rfPlan s c)
  | 0x0B => some (boxPlan s c)
  | 0x0C => some (nmsPlan s c)
  | 0x0E => some (copyPlan s c)
  | 0x10 => some (colPlan c)
  | 0x11 => some (decPlan s c)
  | 0x12 => some (encPlan c)
  | 0x14 => some (gatherPlan s c)
  | 0x15 => some (stPlan s c)
  | _ => none

/-- R214: at least the staging copy of the spilled tensors read. -/
def withSpill (p : Plan) (bytes : Nat) : Plan :=
  if bytes = 0 then p
  else
    let cy := max p.predCycles (cdiv (bytes * 14) 5460)
    { p with predCycles := cy, predNs := nsOf cy }

def planOf (s : State) (c : Cmd) (kept : List (Nat × Nat)) : Option Plan :=
  (basePlan s c kept).map (fun p => withSpill p (spilledBytesRead s c))

/-- The checks made before any operand is read. -/
def opCheck (s : State) (c : Cmd) : Except Err Unit :=
  match c.opcode with
  | 0x01 => (mmCheck s c).map (fun _ => ())
  | 0x02 => (cvCheck s c).map (fun _ => ())
  | 0x03 => (poolCheck c).map (fun _ => ())
  | 0x04 => atCheck s c
  | 0x05 => abCheck c
  | 0x06 => nrCheck c
  | 0x07 => smCheck c
  | 0x08 => vcCheck c
  | 0x09 => (ssCheck s c).map (fun _ => ())
  | 0x0A => rfCheck c
  | 0x0B => boxCheck c
  | 0x0C => nmsCheck c
  | 0x0E => (copyCheck s c).map (fun _ => ())
  | 0x10 => colCheck s c (coordOf s.dev.straps)
  | 0x11 => decCheck s c
  | 0x12 => encCheck s c
  | 0x14 => gatherCheck c
  | 0x15 => stCheck c
  | _ => .ok ()

/-! Where a command runs. -/

/-- The units dealt to cores, group by group: of the plan (R122), or the pages of a `KV_SCATTER` (R185). -/
def dealtUnits (c : Cmd) (p : Option Plan) : List (List WorkUnit) :=
  if c.opcode = 0x0D then [kvUnits c] else (p.map Plan.bands).getD []

/-- Near-bank commands. -/
def isNbu (op : Nat) : Bool := op == 0x09 || op == 0x0A || op == 0x15
/-- Commands of the hub or of firmware: `COLLECTIVE`, codec, `KV_FORK`. -/
def isHub (op : Nat) : Bool := op == 0x10 || op == 0x11 || op == 0x12 || op == 0x13
/-- Commands whose work runs as tiles on cores. -/
def isCoreOp (op : Nat) : Bool := !isNbu op && !isHub op

/-- Home of every block of 4,096 elements of a tensor, in order. -/
def blockHomes (s : State) (d : Desc) : List Nat :=
  (List.range (cdiv d.count 4096)).map (fun b => partitionOf s (d.base + 4096 * b * d.bytesPer))

/-- The partition that executes each block or row of a near-bank command, in order (R224, R255, R259). -/
def nbuPlaces (s : State) (c : Cmd) : List Nat :=
  match c.opcode with
  | 0x09 => blockHomes s (c.desc (if (ssSeen s c).1.xsel = 0 then 1 else 2))
  | 0x0A => blockHomes s (c.desc 1)
  | 0x15 => (List.range ((stDims c).1 * (stDims c).2.1)).map (stHome s c)
  | _ => []

/-- Partitions whose NBUs execute a near-bank command. -/
def nbuHomes (s : State) (c : Cmd) : List Nat := (nbuPlaces s c).eraseDups

/-- The partition whose NBU writes the byte at `va` (R225): of the block or row that the address belongs to. -/
def nbuWriter (s : State) (c : Cmd) (va : Nat) : Option Nat :=
  let places := nbuPlaces s c
  let block (d : Desc) (plane : Nat) : Option Nat :=
    if d.base ≤ va then places[((va - d.base) / max d.bytesPer 1) % max plane 1 / 4096]? else none
  match c.opcode with
  | 0x09 =>
      let d := ssDims c
      let plane := d.1 * d.2.1 * d.2.2
      let dst := c.desc (if (ssSeen s c).1.xsel = 0 then 2 else 1)
      if spansMeet dst.span (va, 1) then block dst plane
      else if spansMeet (c.desc 5).span (va, 1) then block (c.desc 5) plane else none
  | 0x0A => block (c.desc 1) (c.desc 1).count
  | 0x15 =>
      (List.range places.length).findSome? (fun n =>
        let idx := if (c.desc 1).rank = 3 then [n / (stDims c).2.1, n % (stDims c).2.1] else [n]
        let at' (d : Desc) : Bool := spansMeet ((d.at' (dot idx d.strides)).toNat, 4) (va, 1)
        if at' (c.desc 2) || (stKeys c && at' (c.desc 3)) then places[n]? else none)
  | _ => none

/-- Maximal runs of consecutive numbers on each partition, of numbers with their partitions (R243). -/
def runsOf (l : List (Nat × Nat)) : Nat :=
  (l.eraseDups.filter (fun p => !l.contains (p.1, p.2 - 1) || p.2 == 0)).length

/-- Start states that the JMP computes for a command: one for each run of consecutive blocks of each stream on one
partition (R243); a block of which no word is drawn needs none. -/
def jumpsOf (s : State) (c : Cmd) : Nat :=
  let places := nbuPlaces s c
  match c.opcode with
  | 0x09 =>
      let seen := ssSeen s c
      let d := ssDims c
      let n := d.1 * d.2.1 * d.2.2
      let draws (b : Nat) : Bool :=
        (List.range (min n (4096 * b + 4096) - 4096 * b)).any (fun k => !ssFixed c seen.2 (4096 * b + k))
      (if seen.1.noise then runsOf (places.zipIdx.filter (fun p => draws p.2)) else 0) +
      (if seen.1.mask then runsOf places.zipIdx else 0)
  | 0x15 =>
      let v := (stDims c).2.2
      if (stTemp c).isZero then 0
      else runsOf (places.zipIdx.flatMap (fun p =>
        (List.range ((p.2 * v + v - 1) / 4096 + 1 - p.2 * v / 4096)).map (fun k => (p.1, p.2 * v / 4096 + k))))
  | _ => runsOf places.zipIdx

/-- Sites of a command's enabled cores. -/
def siteList (s : State) (c : Cmd) : List Nat := (coresOf s c).filterMap s.siteOfLcore

/-- Whether some result of the command is rounded stochastically (R57, R58). -/
def usesSr (c : Cmd) : Bool :=
  let steps (e : Option Epi) : Bool :=
    match e with
    | some e => e.steps.any (fun t => t.op == 10 && t.arg / 256 == 2)
    | none => false
  match c.opcode with
  | 0x01 => (parseMm c.u0).conv.rnd == 2 || steps (epiUse c (parseMm c.u0).epi)
  | 0x02 => (parseCv c.u0).conv.rnd == 2 || steps (epiUse c (parseCv c.u0).epi)
  | 0x03 => (parsePl c.u0).rnd == 2
  | 0x04 | 0x05 => (parseAt c.u0).rnd == 2
  | 0x06 => (parseNr c.u0).rnd == 2
  | 0x07 => fld c.u0 8 0 2 == 2
  | 0x08 => vcRnd c == 2 || steps (some (vcEpi c))
  | 0x09 => (parseSs c.u0).rnd == 2
  | 0x0A => fld c.u0 8 3 2 == 2
  | 0x0E => fld c.u0 8 0 2 == 2
  | _ => false

end Sys2Proof.Machine
end

