-- ==== Sys2Proof/Machine/Operators.lean ====
section
/-! DEFINITION. The operator commands: one shared operation that runs an issued command, and one meaning
per row. An operator row names an issued command; it runs once, when the command has no result yet and its
spilled tensors are staged (R213). Any other row of the table leaves the block unchanged then (log 3). -/

namespace Sys2Proof.Machine

/-- The ATU page that captures a fault of a command (R206): of the cluster whose core or NBU met it, which is a free
choice among those that work for the command (log 26), or the walker's for hub blocks and firmware. -/
def faultPage (s : State) (c : Cmd) : Nat :=
  if isHub c.opcode then 0x0810
  else
    let l := if isNbu c.opcode then (nbuHomes s c).map (· / 16) else c.mask
    0x0800 + l.getD (Config.free s.freeCtr % max l.length 1) 16

/-- The page that reports a memory error at a physical address (R196, R198). -/
def memoryPage (pa : Nat) : Nat := if pa < 0x1000000000 then 0x0600 + paPartition pa else 0x0900

/-- Records the fault that ends a command (R40, R196, R206, R449, R481). -/
def captureFault (s : State) (c : Cmd) (e : Err) : State :=
  let t := { s with freeCtr := s.freeCtr + 1 }
  match e.1 with
  | .translationFault => t.logError (faultPage s c) 1 0x14 e.1.code e.2
  | .writeProtected => t.logError (faultPage s c) 1 0x15 e.1.code e.2
  | .badAddress => t.logError (faultPage s c) 1 0x16 e.1.code e.2
  | .memoryUncorrected =>
      s.logError (memoryPage e.2) 1 (if e.2 < 0x1000000000 then 0x05 else 0x08) e.1.code e.2
  | _ => s

/-- The command gets its result; a failing one dispatches nothing further (R206, R291). -/
def Cmd.close (r : Res) (c : Cmd) : Cmd :=
  { c with result := some r, runs := if r.isOk then c.runs else [], redo := if r.isOk then c.redo else [] }

/-- Writes the scalar registers of a command's context (R231, R290). -/
def setSregs (s : State) (ctx : Nat) (l : List (Nat × DWord)) : State :=
  l.foldl (fun s p => s.setSregOf ctx p.1 p.2) s

/-- Takes scratch pages under a holder's key, one for each home partition (R121, R174, R211). -/
def holdScratch (ms : MemSys) (key : Nat) : List Nat → MemSys
  | [] => ms
  | home :: t =>
      match takePage ms .scratch home with
      | some (pg, ms') => holdScratch { ms' with scratchHeld := (key, pg) :: ms'.scratchHeld } key t
      | none => ms

/-- Takes `n` scratch pages of one partition (R224: the overflow of R211 does not apply). -/
def holdScratchIn (ms : MemSys) (key partition : Nat) : Nat → MemSys
  | 0 => ms
  | n + 1 =>
      match freeIn ms .scratch partition with
      | some pg =>
          let ms' := takeThis ms pg
          holdScratchIn { ms' with scratchHeld := (key, pg) :: ms'.scratchHeld } key partition n
      | none => ms

/-- Gives back the scratch pages of a holder. -/
def dropScratch (ms : MemSys) (key : Nat) : MemSys :=
  let mine := (ms.scratchHeld.filter (fun p => p.1 == key)).map Prod.snd
  mine.foldl dropPage { ms with scratchHeld := ms.scratchHeld.filter (fun p => p.1 != key) }

/-- Holder key of a core's undo pages for a command (R117). -/
def undoKey (cmd lcore : Nat) : Nat := 2 ^ 48 + cmd * 256 + lcore

/-- Scratch of an operator about to write: band buffers above the sites that write them first, a free choice among the
command's (R211), and each core's undo pages above its own site (R117). -/
def holdPlan (s : State) (c : Cmd) (p : Plan) : MemSys :=
  let sites := siteList s c
  let homes := (List.range p.scratchPages).map (fun k => sites.getD (Config.free (s.freeCtr + k) % max sites.length 1) 0)
  p.undo.foldl (fun ms u =>
    let l := (coresOf s c).getD u.1 0
    holdScratch ms (undoKey c.id l) (List.replicate u.2 ((s.siteOfLcore l).getD 0))) (holdScratch s.ms c.id homes)

/-- All scratch of a command given back. -/
def dropCmdScratch (ms : MemSys) (cmd : Nat) : MemSys :=
  ((ms.scratchHeld.map Prod.fst).filter (fun k => k == cmd || decide (undoKey cmd 0 ≤ k ∧ k < undoKey (cmd + 1) 0))).eraseDups.foldl
    dropScratch ms

/-- Holder key of a context's kept copies (R224). -/
def keptKey (ctx : Nat) : Nat := 2 ^ 32 + ctx

/-- The LFSR of a site or of the partition above it after a free number of groups, 32 steps each (R249, R250; log 8). -/
def advanced (s : State) (n : Nat) (r : Word) : Word :=
  BitVec.ofNat 32 (lfsrJump (polyOf n) (32 * (Config.free (s.freeCtr + n) % 2 ^ 32)) r.toNat)

/-- After stochastic rounding the generators that delivered draws have moved on by whole groups (R249, R250). -/
def advanceLfsr (s : State) (c : Cmd) : State :=
  if !usesSr c then s
  else if isNbu c.opcode then
    (nbuHomes s c).foldl (fun s p =>
      if p < 256 then s.setPart p { s.part p with lfsr := advanced s p (s.part p).lfsr } else s) s
  else
    (siteList s c).foldl (fun s n => s.setSite n { s.site n with lfsr := advanced s n (s.site n).lfsr }) s

/-- Writes of an outcome by place: each tile's in order. -/
def OpOut.byPlace (o : OpOut) : List (Place × List (Nat × Byte)) :=
  ((o.tiles.map Prod.fst).eraseDups).map (fun p => (p, (o.tiles.filter (fun t => t.1 == p)).flatMap Prod.snd))

/-- Writes the numbered tiles that `on` names; a write that faults ends its own tile. The first fault and its tile. -/
def writeTiles (cmd : Nat) (hub : Bool) (on : Nat → Bool) :
    List ((Place × List (Nat × Byte)) × Nat) → State → State × Option (Nat × Err)
  | [], s => (s, none)
  | (t, k) :: ts, s =>
      if on k then
        let w := writeAll cmd hub t.2 t.2 s
        let r := writeTiles cmd hub on ts w.1
        (r.1, match w.2 with
          | some e => some (k, e)
          | none => r.2)
      else writeTiles cmd hub on ts s

/-- The bytes that some writes replace. -/
def replacedBytes (s : State) (ws : List (Nat × Byte)) : List (Nat × Byte) :=
  let s := { s with ms := { s.ms with view := { s.ms.view with race := [] } } }
  ws.filterMap (fun w =>
    match readByte s w.1 with
    | .ok b => some (w.1, b)
    | .error _ => none)

/-- The state in which an outcome's tiles write: generators and start states have moved on, and the command holds what its writes
replace. -/
def beginWrites (s : State) (c : Cmd) (o : OpOut) : State :=
  let s1 := (advanceLfsr { s with freeCtr := s.freeCtr + o.draws } c).updCmd c.id (fun d => { d with was := replacedBytes s o.writes })
  let jumps := if isNbu c.opcode && o.res != .okEmptyResult then jumpsOf s c else 0
  { s1 with freeCtr := s1.freeCtr + 256 + o.byPlace.length, jmpJumps := s1.jmpJumps.bump jumps }

/-- Applies an outcome: generators, start states, writes tile by tile, scalar registers. A write that faults ends its tile and
the command; of the other tiles a free choice had been dispatched, and these finish; a read fault that ended the work leaves
what `OpOut.ofItems` kept (R206). -/
def applyOut (s : State) (c : Cmd) (hub : Bool) (o : OpOut) : State × Res :=
  let s2 := beginWrites s c o
  let w := writeTiles c.id hub (fun _ => true) o.byPlace.zipIdx s2
  match w.2, o.err with
  | some (k, e), _ =>
      let had (j : Nat) : Bool := Config.free (s.freeCtr + o.draws + 256 + j) % 2 == 1
      let w' := writeTiles c.id hub (fun j => j == k || had j) o.byPlace.zipIdx s2
      let e' := (w'.2.map Prod.snd).getD e
      (captureFault w'.1 c e', e'.1)
  | none, some e => (captureFault w.1 c e, e.1)
  | none, none => (setSregs w.1 c.ctx o.sregs, o.res)

/-- A command that may run now: no result yet, its spilled tensors staged, its memory awake. -/
def opReady (s : State) (id opcode : Nat) : Option Cmd :=
  match s.cmd? id with
  | some c =>
      if c.opcode = opcode ∧ c.result = none ∧ (c.needsStaging = false ∨ c.staged = true) ∧ asleep s (cmdSpans s c) = false
      then some c else none
  | none => none

/-- Who makes a command's accesses (R37), where they are translated (R203), what they read in place of memory: the
command's staging buffer, and bytes that other commands are writing (R70); the generators of its draws (R250), and the map
that the cores write for `SAMPLE_STEP` (R228). -/
def viewOf (s : State) (c : Cmd) : View :=
  let race := c.stagedData ++ pickLines s.freeCtr (staleBytes s c)
  let x := parseSs c.u0
  let cells := 16 * cellCount (ssDims c).1 (ssDims c).2.1
  { issuer := if isHub c.opcode then .hub else if isNbu c.opcode then .nbu else .core,
    tlbs := if isHub c.opcode then [16] else c.mask, race := race, again := race,
    gens := if isNbu c.opcode then (nbuPlaces s c).map (256 + ·) else siteList s c,
    byCores := if c.opcode = 0x09 && x.mapA != 0 then [(x.mapA, cells), (x.mapB, cells)] else [] }

/-- A state with a command's accesses in progress. -/
def State.accessing (s : State) (c : Cmd) : State :=
  { s with freeCtr := s.freeCtr + (linesOf (staleBytes s c)).length, ms := { s.ms with view := viewOf s c } }

/-- Runs `f` with a command's accesses in progress. -/
def State.during (s : State) (c : Cmd) (f : State → State) : State :=
  let t := f (s.accessing c)
  { t with ms := { t.ms with view := s.ms.view } }

/-- A command run with the state's accesses reading other bytes in place of memory's, on a first and a later read. -/
def State.racing (s : State) (first later : List (Nat × Byte)) : State :=
  let v := s.ms.view
  { s with ms := { s.ms with view := { v with race := first ++ v.race, again := later ++ first ++ v.again } } }

/-- One round of a race: each tile's writes anew, each line that changes while it runs read old or new by free choice, and a
line once read new read new again (R70). `alts` are the bytes that a read may return in place of memory's. -/
def raceRound (s : State) (seed : Nat) (alts : List (Nat × Byte)) (run : State → Except Err OpOut) (o : OpOut) : OpOut :=
  let n := (linesOf alts).length
  { o with tiles := (((o.tiles.map Prod.fst).eraseDups).zipIdx).flatMap (fun p =>
      let at' := seed + 2 * n * p.2
      let mine (q : OpOut) : List (Place × List (Nat × Byte)) := q.tiles.filter (fun t => t.1 == p.1)
      match run (s.racing (pickLines at' alts) (pickLines (at' + n) alts)) with
      | .ok q => mine q
      | .error _ => mine o) }

/-- An outcome where bytes change while the command reads them: those its own tiles write and other tiles read, and those
that other commands are writing (R70, R116, R165). A byte written in one round may be read in the next. -/
def racedOut (s : State) (c : Cmd) (run : State → Except Err OpOut) (o : OpOut) : OpOut :=
  let alts (o : OpOut) : List (Nat × Byte) := o.writes.filter (fun w => racesAt s c w.1) ++ staleBytes s c
  let n := (linesOf (alts o)).length
  let seed := s.freeCtr + o.draws
  let step := 2 * n * o.byPlace.length
  if n = 0 then o
  else { (List.range (Config.free seed % n + 1)).foldl (fun o k => raceRound s (seed + 1 + step * k) (alts o) run o) o with
         draws := o.draws + 1 + step * n }

/-- What the tiles write when they run again after the first, second time (R59, R384): the same bytes, but for stochastic
rounding, whose draws then come from elsewhere. -/
def replaysOf (s : State) (c : Cmd) (run : State → Except Err OpOut) (o : OpOut) :
    List (List (Place × List (Nat × Byte))) :=
  if isCoreOp c.opcode && usesSr c then
    [1, 2].map (fun k =>
      match run { s with freeCtr := s.freeCtr + k * (o.draws + 1) } with
      | .ok q => q.byPlace
      | .error _ => o.byPlace)
  else []

/-- Whether an NBU fault made a block run again (R226, R255): a free value, since no row brings one (log 49). -/
def nbuFaulted (s : State) (c : Cmd) (o : OpOut) : Bool :=
  isNbu c.opcode && o.res != .okEmptyResult && Config.free s.freeCtr % 2 == 1

/-- The command after its work: result, the writes its tiles make (R73), replays. -/
def Cmd.ran (o : OpOut) (replays : List (List (Place × List (Nat × Byte)))) (replayed : Bool) (r : Res) (c : Cmd) : Cmd :=
  { Cmd.close r c with outs := o.byPlace, replays := replays, replayed := c.replayed || replayed }

/-- Entries that an access used come first in their TLB; which of several was the last is a free choice (R203). -/
def useEntries (free : Nat) (used : Pte → Bool) (l : List Pte) : List Pte :=
  (l.filter used).rotateLeft (free % max (l.filter used).length 1) ++ l.filter (fun p => !used p)

/-- The TLBs of a command after its accesses: the entries that it used are the ones used last (R203). -/
def usedTlbs (s : State) (c : Cmd) : MemSys :=
  let spans := cmdSpans s c
  let hit (p : Pte) : Bool := spans.any (fun x => spansMeet x (p.idx <<< levelShift p.level, 2 ^ levelShift p.level))
  { s.ms with tlbs := s.ms.tlbs.map (fun t =>
      if s.ms.view.tlbs.contains t.1 then (t.1, useEntries (Config.free s.freeCtr) hit t.2) else t) }

/-- Applies the outcome `o` of a command whose work is `run`. -/
def finishOp (s : State) (c : Cmd) (hub : Bool) (run : State → Except Err OpOut) (o : OpOut) : State :=
  let q := racedOut s c run o
  let again := replaysOf s c run q
  let r := applyOut { s with freeCtr := s.freeCtr + 1 + 3 * again.length * (q.draws + 1) } c hub q
  let t := if (cmdSpans s c).isEmpty then r.1 else { r.1 with ms := usedTlbs r.1 c }
  t.updCmd c.id (Cmd.ran q again (nbuFaulted s c q) r.2)

/-- Runs an issued operator command: checks, plan, result (R70: reads before writes). -/
def runOp (s : State) (id opcode : Nat) (hub : Bool) (body : State → Cmd → State × Except Err OpOut) : State :=
  match opReady s id opcode with
  | none => s
  | some c => s.during c (fun s =>
    match body s c with
    | (s1, .error e) => (captureFault s1 c e).updCmd id (Cmd.close e.1)
    | (s1, .ok o) =>
        let s2 := match basePlan s c [] with
          | some p => if o.res = .ok then { s1 with ms := holdPlan s1 c p, freeCtr := s1.freeCtr + p.scratchPages } else s1
          | none => s1
        finishOp s2 c hub (fun t => (body t c).2) o)

/-- A body that changes nothing before its writes. -/
def pureBody (b : State → Cmd → Except Err OpOut) (s : State) (c : Cmd) : State × Except Err OpOut := (s, b s c)

/-- Runs `SAMPLE_STEP`: also the kept copies (R224), the map that becomes active at completion (R233) and the
buffers a checkpoint holds (R237). -/
def runSample (s : State) (id : Nat) : State :=
  match opReady s id 0x09 with
  | none => s
  | some c => s.during c (fun s =>
    let kept := ((s.ctx? c.ctx).map Ctx.kept).getD []
    match ssBody s c kept with
    | .error e => (captureFault s c e).updCmd id (Cmd.close e.1)
    | .ok (o, staged) =>
        let made := staged.flatMap (fun p => (p.2.x0 ++ p.2.mask).map (fun l => (p.1, l)))
        let ms := staged.foldl (fun ms p => holdScratchIn ms (keptKey c.ctx) p.1 p.2.pages) s.ms
        let s1 := { s with ms := ms }.updCtx c.ctx (fun x => { x with kept := x.kept ++ made })
        (finishOp s1 c false (fun t => (ssBody t c kept).map (fun r => r.1.out)) o.out).updCmd id
          (fun c => { c with settleOut := o.settleOut, images := o.images }))

/-! One meaning per row. -/

/-- `MATMUL` (R94). -/
def execMatmul (cmd : Nat) (s : State) : Host.Outcome State Fault Refusal :=
  .next (runOp s cmd 0x01 false (pureBody mmBody))
/-- `CONV` (R140). -/
def execConv (cmd : Nat) (s : State) : Host.Outcome State Fault Refusal :=
  .next (runOp s cmd 0x02 false (pureBody cvBody))
/-- `POOL` (R142). -/
def execPool (cmd : Nat) (s : State) : Host.Outcome State Fault Refusal :=
  .next (runOp s cmd 0x03 false (pureBody poolBody))
/-- `ATTN_FWD` (R176). -/
def execAttnFwd (cmd : Nat) (s : State) : Host.Outcome State Fault Refusal :=
  .next (runOp s cmd 0x04 false (pureBody atBody))
/-- `ATTN_BWD` (R180). -/
def execAttnBwd (cmd : Nat) (s : State) : Host.Outcome State Fault Refusal :=
  .next (runOp s cmd 0x05 false (pureBody abBody))
/-- `NORM` (R161). -/
def execNorm (cmd : Nat) (s : State) : Host.Outcome State Fault Refusal :=
  .next (runOp s cmd 0x06 false (pureBody nrBody))
/-- `SOFTMAX` (R168). -/
def execSoftmax (cmd : Nat) (s : State) : Host.Outcome State Fault Refusal :=
  .next (runOp s cmd 0x07 false (pureBody smBody))
/-- `VEC_CHAIN` (R118). -/
def execVecChain (cmd : Nat) (s : State) : Host.Outcome State Fault Refusal :=
  .next (runOp s cmd 0x08 false (pureBody vcBody))
/-- `SAMPLE_STEP` (R218). -/
def execSampleStep (cmd : Nat) (s : State) : Host.Outcome State Fault Refusal := .next (runSample s cmd)
/-- `RNG_FILL` (R252). -/
def execRngFill (cmd : Nat) (s : State) : Host.Outcome State Fault Refusal :=
  .next (runOp s cmd 0x0A false (pureBody rfBody))
/-- `SAMPLE_TOKENS` (R256). -/
def execSampleTokens (cmd : Nat) (s : State) : Host.Outcome State Fault Refusal :=
  .next (runOp s cmd 0x15 false (pureBody stBody))
/-- `BOX_DECODE` (R145). -/
def execBoxDecode (cmd : Nat) (s : State) : Host.Outcome State Fault Refusal :=
  .next (runOp s cmd 0x0B false (pureBody boxBody))
/-- `NMS` (R147). -/
def execNms (cmd : Nat) (s : State) : Host.Outcome State Fault Refusal :=
  .next (runOp s cmd 0x0C false (pureBody nmsBody))
/-- `KV_SCATTER` (R184). -/
def execKvScatter (cmd : Nat) (s : State) : Host.Outcome State Fault Refusal :=
  .next (runOp s cmd 0x0D false kvBody)

/-- Whether an issued command is a `KV_FORK` with the given OP bit. -/
def isFork (s : State) (id : Nat) (release : Bool) : Bool :=
  match s.cmd? id with
  | some c => (parseFk c.u0).release == release
  | none => false

/-- `KV_FORK` with OP 0 (R187). -/
def execFork (cmd : Nat) (s : State) : Host.Outcome State Fault Refusal :=
  .next (if isFork s cmd false then runOp s cmd 0x13 false forkBody else s)
/-- `KV_FORK` with OP 1 (R187). -/
def execRelease (cmd : Nat) (s : State) : Host.Outcome State Fault Refusal :=
  .next (if isFork s cmd true then runOp s cmd 0x13 false releaseBody else s)
/-- `COPY` (R301). -/
def execCopy (cmd : Nat) (s : State) : Host.Outcome State Fault Refusal :=
  .next (runOp s cmd 0x0E false (pureBody copyBody))
/-- `GATHER_ROWS` (R301). -/
def execGatherRows (cmd : Nat) (s : State) : Host.Outcome State Fault Refusal :=
  .next (runOp s cmd 0x14 false (pureBody gatherBody))

end Sys2Proof.Machine
end

