-- ==== Sys2Proof/Machine/Fabric.lean ====
section
/-! DEFINITION. The fabric: collectives from handshake to data (R344 to R356), links (R340, R341) and the
alias table (R355, R356). -/

namespace Sys2Proof.Machine

/-! Collectives in flight. -/

/-- Whether a command is a started collective of a key and role (R344). -/
def Cmd.hasKey (c : Cmd) (group tag : Nat) : Bool :=
  match c.coll with
  | some k => k.group == group && k.tag == tag
  | none => false

/-- Phase of a command's collective. -/
def Cmd.phaseIs (c : Cmd) (p : CollPhase) : Bool := (c.coll.map Coll.phase) == some p

/-- Messages of a collective's member to some ranks, each by its way (R342). -/
def toRanks (s : State) (c : Cmd) (k : Coll) (ranks : List Nat) (f : Way → Nat → Egress) : List Egress :=
  ranks.map (fun r => f (wayTo s (memberCoord (parseCol c.u0) (roleCoord s k.asTwin) r)) r)

/-- The digests of a key that rank 0 holds. -/
def digestsOf (s : State) (group tag : Nat) : List DigestRec :=
  s.fre.digests.filter (fun d => d.group == group && d.tag == tag)

def dropDigests (s : State) (group tag : Nat) : State :=
  { s with fre := { s.fre with digests := s.fre.digests.filter (fun d => !(d.group == group && d.tag == tag)) } }

def putDigest (s : State) (d : DigestRec) : State :=
  let rest := s.fre.digests.filter (fun e => !(e.group == d.group && e.tag == d.tag && e.rank == d.rank))
  { s with fre := { s.fre with digests := rest ++ [d] } }

/-- The command that plays rank 0 of a key here and waits in its handshake. -/
def rankZeroCmd (s : State) (group tag : Nat) : Option Cmd :=
  s.cmds.find? (fun c => c.hasKey group tag && c.phaseIs .handshake &&
    (c.coll.map Coll.rank) == some 0 && c.result.isNone)

/-- The verdict of rank 0 once all p digests are there (R351 step 3). -/
def judge (s : State) (group tag : Nat) : State :=
  match rankZeroCmd s group tag with
  | none => s
  | some c =>
    match c.coll with
    | none => s
    | some k =>
      let ds := digestsOf s group tag
      let val (r : Nat) : Option DWord := (ds.find? (fun d => d.rank == r)).map DigestRec.value
      if (List.range k.p).all (fun r => (val r).isSome) then
        let agree := (List.range k.p).all (fun r => val r == val 0)
        (dropDigests s group tag).emits
          (toRanks s c k (List.range k.p) (fun w r => if agree then .go w group tag r else .mismatch w group tag r))
      else s

/-- A member's digest on its way to rank 0. -/
def sendDigest (s : State) (x : Col) (own : List Nat) (group tag rank : Nat) (v : DWord) : State :=
  if isHere s (memberCoord x own 0) then judge (putDigest s ⟨group, tag, rank, v⟩) group tag
  else s.emit (.digest (wayTo s (memberCoord x own 0)) group tag rank v)

/-- Undefined output buffers of an operation that ended after GO (R351): free values. -/
def scrambleOut (s : State) (c : Cmd) : State :=
  let o := c.desc 2
  let n := if (parseCol c.u0).op = 5 then 0 else o.count
  let vals := (List.range n).map (fun k => Config.free (s.freeCtr + k) % 2 ^ codeBits o.code)
  let ws := writeFlat o vals
  (writeAll c.id true ws ws { s with freeCtr := s.freeCtr + n }).1

/-- The abort that a member sends every other (R350, R351). -/
def abortMsgs (s : State) (c : Cmd) (k : Coll) (r : Res) : List Egress :=
  toRanks s c k ((List.range k.p).filter (· != k.rank)) (fun w q => .collAbort w k.group k.tag q r.code)

/-- What a member sends the others of its data (R348, R353); nothing where its input cannot be read. -/
def dataMsgs (s : State) (c : Cmd) (k : Coll) : List Egress :=
  match colSends s c k.rank k.inputs with
  | .ok l => l.flatMap (fun q => toRanks s c k [q.1] (fun w _ => .fabricData w k.group k.tag q.2.1 q.2.2.1 q.2.2.2))
  | .error _ => []

/-- Moves the data of a collective after GO, with the slots it takes: residue failures, then what it sends and the result
(R347 to R350, R353). -/
def moveData (s : State) (c : Cmd) (k : Coll) : State :=
  let x := parseCol c.u0
  let need := colSlots c x
  let s := s.updCmd c.id (fun d => { d with coll := some { k with phase := .moving, slots := need } })
  let fails := if colReduces x then k.residue else []
  let s := { s with fre := { s.fre with residue := s.fre.residue.bump fails.length } }
  let s := fails.zipIdx.foldl (fun s f =>
    let nth := ((fails.take f.2).filter (· == f.1)).length
    s.logError 0x0B00 (if nth = 0 then 0 else 1) 0x0A (if nth = 0 then 0 else Res.reduceCheck.code)
      (f.1 % 2 ^ 32 + (nth + 1) * 2 ^ 32)) s
  if fails.any (fun ch => decide (2 ≤ (fails.filter (· == ch)).length)) then
    ((scrambleOut s c).emits (abortMsgs s c k .reduceCheck)).updCmd c.id (Cmd.close .reduceCheck)
  else
    s.during c (fun s =>
      match colRun s c k.rank k.inputs with
      | .error e => (captureFault s c e).updCmd c.id (Cmd.close e.1)
      | .ok o =>
          let r := applyOut (s.emits (dataMsgs s c k)) c true o
          r.1.updCmd c.id (Cmd.close r.2))

/-- Slots held now (R349). -/
def slotsHeld (s : State) : Nat := (s.cmds.map (fun c => (c.coll.map Coll.slots).getD 0)).sum

/-- A collective that has still to take slots. -/
def Cmd.needsSlots (c : Cmd) : Bool :=
  match c.coll with
  | some k => c.result.isNone && k.localCheck.isNone && (k.phase == .waitingKey || k.phase == .handshake || k.phase == .wantSlots) &&
      colSlots c (parseCol c.u0) != 0
  | none => false

/-- Whether a collective may take its slots: they are free, and none issued before it has still to take its own (R349; log
30); its memory is awake. -/
def slotTurn (s : State) (c : Cmd) : Bool :=
  decide (slotsHeld s + colSlots c (parseCol c.u0) ≤ 8) && !asleep s (cmdSpans s c) &&
  (colSlots c (parseCol c.u0) == 0 || !s.cmds.any (fun d => decide (d.id < c.id) && d.needsSlots))

/-- A verified collective moves its data, or waits for its slots. -/
def takeSlots (s : State) (c : Cmd) (k : Coll) : State :=
  if slotTurn s c then moveData s c k
  else s.updCmd c.id (fun d => { d with coll := some { k with phase := .wantSlots } })

/-- Starts a collective: local checks, then the digest; a group of one completes locally (R343, R351). -/
def beginColl (s : State) (c : Cmd) : State :=
  let x := parseCol c.u0
  let twin := ((s.ctx? c.ctx).map Ctx.asTwin).getD false
  let own := roleCoord s twin
  let chk := colLocal s c own
  let p := colP x
  let rank := (rankOf x own).getD p
  let v := digestOf c x chk.isSome
  let k : Coll := ⟨x.group, colTag x c.sregs, rank, p, v, chk, .handshake, 0, twin, [], []⟩
  if p = 1 then
    match chk with
    | some r => s.updCmd c.id (fun d => Cmd.close r { d with coll := some { k with phase := .finished } })
    | none => takeSlots s c k
  else
    sendDigest (s.updCmd c.id (fun d => { d with coll := some k })) x own k.group k.tag rank v

/-- Whether another collective of the same key and role is in flight (R344). -/
def keyBusy (s : State) (c : Cmd) : Bool :=
  let x := parseCol c.u0
  let twin := ((s.ctx? c.ctx).map Ctx.asTwin).getD false
  s.cmds.any (fun d => d.id != c.id && d.hasKey x.group (colTag x c.sregs) &&
    (d.coll.map Coll.asTwin) == some twin && !d.phaseIs .waitingKey)

/-- Runs a `COLLECTIVE` command whose `OP` the row names: it starts, or waits for its key. -/
def runColl (s : State) (id : Nat) (ok : Nat → Bool) : State :=
  match opReady s id 0x10 with
  | none => s
  | some c =>
    let x := parseCol c.u0
    if !ok x.op || c.coll.isSome then s
    else if keyBusy s c then
      let twin := ((s.ctx? c.ctx).map Ctx.asTwin).getD false
      let k : Coll := ⟨x.group, colTag x c.sregs, 0, 0, 0, none, .waitingKey, 0, twin, [], []⟩
      s.updCmd id (fun d => { d with coll := some k })
    else beginColl s c

/-- Once a collective has completed, the first command that waits for its key starts (R344). -/
def nextColl (s : State) (group tag : Nat) (twin : Bool) : State :=
  match s.cmds.find? (fun c => c.hasKey group tag && c.phaseIs .waitingKey &&
    (c.coll.map Coll.asTwin) == some twin && c.result.isNone) with
  | some c => beginColl s c
  | none => s

/-- The member of a key that awaits its verdict. -/
def awaiting (s : State) (group tag : Nat) : Option Cmd :=
  s.cmds.find? (fun c => c.hasKey group tag && c.phaseIs .handshake && c.result.isNone)

/-- The digests that a member which plays rank 0 holds end with its collective (R351, R356). -/
def endHandshake (s : State) (c : Cmd) : State :=
  match c.coll with
  | some k => if k.rank = 0 ∧ c.phaseIs .handshake = true then dropDigests s k.group k.tag else s
  | none => s

/-- Ends a collective with a failure after or before GO; after GO its output buffers are undefined. -/
def endColl (s : State) (c : Cmd) (r : Res) : State :=
  let s := endHandshake (if c.phaseIs .moving || c.phaseIs .wantSlots then scrambleOut s c else s) c
  s.updCmd c.id (fun d => Cmd.close r { d with coll := d.coll.map (fun k => { k with slots := 0 }) })

/-- A collective that GO has started and that has not completed. -/
def started (s : State) (group tag : Nat) : Option Cmd :=
  s.cmds.find? (fun c => c.hasKey group tag && (c.phaseIs .moving || c.phaseIs .wantSlots) &&
    ((c.result.map Res.isOk).getD true))

/-! The rows of `COLLECTIVE`. -/

/-- ALL_REDUCE (R348). -/
def execAllReduce (cmd : Nat) (s : State) : Host.Outcome State Fault Refusal := .next (runColl s cmd (· == 0))
/-- REDUCE_SCATTER (R347). -/
def execReduceScatter (cmd : Nat) (s : State) : Host.Outcome State Fault Refusal := .next (runColl s cmd (· == 1))
/-- ALL_GATHER (R346). -/
def execAllGather (cmd : Nat) (s : State) : Host.Outcome State Fault Refusal := .next (runColl s cmd (· == 2))
/-- ALL_TO_ALL (R353). -/
def execAllToAll (cmd : Nat) (s : State) : Host.Outcome State Fault Refusal := .next (runColl s cmd (· == 3))
/-- BROADCAST (R348). -/
def execBroadcast (cmd : Nat) (s : State) : Host.Outcome State Fault Refusal := .next (runColl s cmd (· == 4))
/-- BARRIER (R351); a reserved `OP` also comes here, to fail its local checks. -/
def execBarrier (cmd : Nat) (s : State) : Host.Outcome State Fault Refusal :=
  .next (runColl s cmd (fun op => decide (5 ≤ op)))

/-! Handshake and data events. -/

/-- DIGEST (R351): rank 0 holds a member's digest and judges. -/
def execDigest (group tag rank : Nat) (value : DWord) (s : State) : Host.Outcome State Fault Refusal :=
  .next (judge (putDigest s ⟨group, tag, rank, value⟩) group tag)

/-- GO (R351): a member starts moving data, or waits for slots behind earlier ones (R349). -/
def execGo (group tag : Nat) (inputs : List (List Byte)) (residue : List Nat) (s : State) :
    Host.Outcome State Fault Refusal :=
  .next (match awaiting s group tag with
    | none => s
    | some c =>
      match c.coll with
      | none => s
      | some k =>
        match k.localCheck with
        | some r => s.updCmd c.id (Cmd.close r)
        | none =>
          takeSlots s c { k with inputs := inputs, residue := residue })

/-- REDUCTION_SLOT_GRANT (R349): a waiter whose turn it is takes its slots and moves its data. -/
def execReductionSlotGrant (cmd : Nat) (s : State) : Host.Outcome State Fault Refusal :=
  .next (match s.cmd? cmd with
    | some c =>
      match c.coll with
      | some k => if k.phase = .wantSlots ∧ c.result = none then takeSlots s c k else s
      | none => s
    | none => s)

/-- MISMATCH (R351): a refusing member completes with its own failure, any other with
`COLLECTIVE_MISMATCH`. -/
def execMismatch (group tag : Nat) (s : State) : Host.Outcome State Fault Refusal :=
  .next (match awaiting s group tag with
    | none => s
    | some c =>
        let r := ((c.coll.bind Coll.localCheck)).getD .collectiveMismatch
        { s with fre := { s.fre with mismatch := s.fre.mismatch.bump 1 } }.updCmd c.id (Cmd.close r))

/-- ABANDON (R351). -/
def execAbandon (group tag : Nat) (s : State) : Host.Outcome State Fault Refusal :=
  .next (match awaiting s group tag with
    | none => s
    | some c => s.updCmd c.id (Cmd.close .fabricTimeout))

/-- HANDSHAKE_TIMEOUT (R351): rank 0 abandons every member; a member hears no verdict. -/
def execHandshakeTimeout (group tag : Nat) (s : State) : Host.Outcome State Fault Refusal :=
  .next (match awaiting s group tag with
    | none => s
    | some c =>
      let s' := (endHandshake s c).updCmd c.id (Cmd.close .fabricTimeout)
      match c.coll with
      | some k => if k.rank = 0 then s'.emits (toRanks s c k ((List.range k.p).drop 1) (fun w r => .abandon w group tag r)) else s'
      | none => s')

/-- DATA_TIMEOUT (R351): the member completes with `FABRIC_TIMEOUT` and sends an abort. -/
def execDataTimeout (group tag : Nat) (s : State) : Host.Outcome State Fault Refusal :=
  .next (match started s group tag with
    | none => s
    | some c => (endColl s c .fabricTimeout).emits ((c.coll.map (fun k => abortMsgs s c k .fabricTimeout)).getD []))

/-- COLLECTIVE_ABORT (R350, R351): the member completes with the abort's code. -/
def execCollectiveAbort (group tag code : Nat) (s : State) : Host.Outcome State Fault Refusal :=
  let r := if code = 0x201 then Res.reduceCheck else Res.fabricTimeout
  .next (match started s group tag with
    | some c => endColl s c r
    | none =>
      match awaiting s group tag with
      | some c => endColl s c r
      | none => s)

/-! Links. -/

def State.setLink (s : State) (i : Nat) (f : Link → Link) : State :=
  { s with fre := { s.fre with links := updAt s.fre.links i f } }

/-- FRAME_CRC_ERROR (R340): the frame is replayed; at 16 consecutive replays the link goes down and
retrains, which is logged and raises ERRLOG (R394). -/
def execFrameCrcError (link frame : Nat) (s : State) : Host.Outcome State Fault Refusal :=
  let l := s.fre.links.getD link Link.reset
  let n := if l.lastFrame = frame ∧ l.replays ≠ 0 then l.replays + 1 else 1
  let page := if link < 6 then 0x0B00 else 0x0C00
  let s1 := (s.logError page 0 0x12 0 (link + frame % 2 ^ 24 * 256)).emit (.frameReplay link frame)
  .next (
    if n < 16 then s1.setLink link (fun l => { l with replays := n, lastFrame := frame })
    else
      let s2 := s1.setLink link (fun l => { l with replays := 0, lastFrame := frame, state := 0 })
      ((s2.logError page 0 0x13 0 link).attnEvent attnERRLOG).emit (.retrain link))

/-- The neighbour's coordinates on a link: X+, X−, Y+, Y−, Z+, Z− (R340, R341). -/
def neighbourOf (s : State) (link : Nat) : List Nat :=
  let own := coordOf s.dev.straps
  let a := link / 2
  let d := (torusExt s).getD a 1
  own.zipIdx.map (fun q => if q.2 = a then (if link % 2 = 0 then (q.1 + 1) % d else (q.1 + d - 1) % d) else q.1)

/-- State of a link by the lanes that came up (R340, R358). -/
def laneState (lanes : Nat) : Nat := if lanes ≥ 4 then 2 else if lanes ≥ 2 then 1 else 0

/-- LINK_TRAINING (R341). -/
def execLinkTraining (link : Nat) (far : FarEnd) (s : State) : Host.Outcome State Fault Refusal :=
  let ext := torusExt s
  let used := s.fre.coordValid && decide (link < 6) && decide (1 < ext.getD (link / 2) 1)
  let good := [far.coord.1, far.coord.2.1, far.coord.2.2] == neighbourOf s link &&
    [far.extents.1, far.extents.2.1, far.extents.2.2] == ext
  .next (
    if !used then s
    else if good then s.setLink link (fun l =>
      { l with lanes := min far.lanes 4, state := laneState far.lanes, bad := false, replays := 0 })
    else (s.setLink link (fun l => { l with state := 0, bad := true })).logError 0x0B00 0 0x19 0 link)

/-- LANE_LOSS (R340): with two or three lanes left the link runs on two; with fewer it is down. -/
def execLaneLoss (link lanesLost : Nat) (s : State) : Host.Outcome State Fault Refusal :=
  .next (
    if (s.fre.links.getD link Link.reset).state = 0 ∨ lanesLost = 0 then s
    else s.setLink link (fun l => { l with lanes := l.lanes - lanesLost, state := laneState (l.lanes - lanesLost) }))

/-! Aliases. -/

/-- Whether a collective includes the member at a coordinate. -/
def includesCoord (s : State) (c : Cmd) (coord : Nat) : Bool :=
  match c.coll with
  | none => false
  | some k =>
    let x := parseCol c.u0
    let own := roleCoord s k.asTwin
    !c.phaseIs .waitingKey && ((c.result.map Res.isOk).getD true) &&
      (List.range (colP x)).any (fun r => coordNum (memberCoord x own r) == coord)

/-- Installs an alias and ends the collectives of the failed member (R355, R356); a full table refuses it. -/
def installAlias (s : State) (failed survivor : Nat) : State :=
  if (alFind failed s.fre.aliases).isNone && decide (32 ≤ s.fre.aliases.length) then
    (s.logError 0x0B00 0 0x1A 0 failed).attnEvent attnERRLOG
  else
    let hit := s.cmds.filter (fun c => includesCoord s c failed)
    let s1 := hit.foldl (fun s c => endColl s c .fabricTimeout) s
    { s1 with fre := { s1.fre with aliases := alSet failed survivor s1.fre.aliases } }

/-- ALIAS_ANNOUNCEMENT (R355). -/
def execAliasAnnouncement (failed survivor : Nat) (s : State) : Host.Outcome State Fault Refusal :=
  .next (installAlias s failed survivor)

/-- ALIAS_REMOVAL (R356). -/
def execAliasRemoval (failed : Nat) (s : State) : Host.Outcome State Fault Refusal :=
  .next { s with fre := { s.fre with aliases := s.fre.aliases.filter (fun a => a.1 != failed) } }

end Sys2Proof.Machine
end

