-- ==== Sys2Proof/Machine/Models.lean ====
section
/-! DEFINITION. Models (R207 to R213, R272): manifests, the spill decision, loading and unloading, and the
staging buffers. -/

namespace Sys2Proof.Machine

/-! The manifest (R272). -/

structure Manifest where
  ranges : List Range
  tensors : List Tensor
  deriving DecidableEq, Repr

def manifestRange (b : List Byte) (o : Nat) : Range := ⟨leAt b o 8, leAt b (o + 8) 8, byteAt b (o + 16)⟩
def manifestTensor (b : List Byte) (o : Nat) : Tensor :=
  ⟨leAt b o 8, leAt b (o + 8) 8, leAt b (o + 16) 8, leAt b (o + 24) 4, false, 0⟩

/-- A manifest whose header, lengths and reserved bytes are right. -/
def parseManifest (b : List Byte) : Option Manifest :=
  let nr := leAt b 2 2
  let nt := leAt b 4 4
  let tab := 32 + 32 * nr
  if decide (32 ≤ b.length) && leAt b 0 2 == 1 && decide (1 ≤ nr ∧ nr ≤ 4096 ∧ nt ≤ 1048576) && allZero b 8 24 &&
      decide (tab + 32 * nt ≤ b.length) &&
      (List.range nr).all (fun i => allZero b (32 + 32 * i + 17) 15) &&
      (List.range nt).all (fun i => allZero b (tab + 32 * i + 28) 4) then
    some ⟨(List.range nr).map (fun i => manifestRange b (32 + 32 * i)),
      (List.range nt).map (fun i => manifestTensor b (tab + 32 * i))⟩
  else none

/-- Two spans `(base, length)` share a byte. -/
def overlap (a b : Nat × Nat) : Bool := decide (a.1 < b.1 + b.2) && decide (b.1 < a.1 + a.2)

/-- Whether every range stands clear of those before it. -/
def rangesApart : List (Nat × Nat) → List Range → Bool
  | _, [] => true
  | seen, r :: t => seen.all (fun q => !overlap q (r.base, r.len)) && rangesApart ((r.base, r.len) :: seen) t

/-- R208. -/
def rangesOk (s : State) (rs : List Range) : Bool :=
  rs.all (fun r =>
    let al := if r.kind = 2 then 0x200000 else 0x10000
    decide (r.kind ≤ 3) && r.len != 0 && r.base % al == 0 && r.len % al == 0 && decide (0x10000 ≤ r.base) &&
      decide (r.base + r.len ≤ 2 ^ 48)) &&
  rangesApart (s.models.flatMap (fun m => m.ranges.map (fun r => (r.base, r.len)))) rs

/-- Every tensor lies in one WEIGHT range and in the weight image (R272). -/
def tensorsOk (m : Manifest) (weightBytes : Nat) : Bool :=
  m.tensors.all (fun t =>
    m.ranges.any (fun r => r.kind == 0 && decide (r.base ≤ t.va ∧ t.va + t.bytes ≤ r.base + r.len)) &&
    decide (t.srcOff + t.bytes ≤ weightBytes))

/-! Pool pages of a load (R212). -/

/-- A page of a WEIGHT or WORK range. -/
structure MPage where
  kind : Nat
  level : Nat
  va : Nat
  deriving DecidableEq, Repr

def Model.pages (m : Model) : List MPage :=
  (m.ranges.filter (fun r => decide (r.kind ≤ 1))).flatMap (fun r =>
    r.pages.map (fun p => ⟨r.kind, p.1, p.2⟩))

/-- The pool page that a page takes: itself, or its group of 32. -/
def poolKey (small : List Nat) (p : MPage) : Nat × Nat :=
  if p.level = 2 then (2, p.va) else (3, small.findIdx (· == p.va) / 32)

def keysOf (small : List Nat) (ps : List MPage) : List (Nat × Nat) := (ps.map (poolKey small)).eraseDups

/-- WEIGHT pages that hold a byte of a tensor. -/
def tensorPages (ws : List MPage) (t : Tensor) : List MPage :=
  ws.filter (fun p => t.bytes != 0 && overlap (p.va, 2 ^ levelShift p.level) (t.va, t.bytes))

/-- Order of spill candidates: use hint ascending, bytes descending, index ascending. -/
def candBefore (a b : Tensor × Nat) : Bool :=
  let ha := max 1 a.1.hint
  let hb := max 1 b.1.hint
  decide (ha < hb) || (ha == hb && (decide (b.1.bytes < a.1.bytes) || (a.1.bytes == b.1.bytes && decide (a.2 < b.2))))

def insertCand (x : Tensor × Nat) : List (Tensor × Nat) → List (Tensor × Nat)
  | [] => [x]
  | y :: t => if candBefore x y then x :: y :: t else y :: insertCand x t

/-- The spill decision over the candidates: the pool pages moved, and whether the need then fits. -/
def spillLoop (small : List Nat) (ws : List MPage) (need free wpb capf : Nat) :
    List (Tensor × Nat) → List (Nat × Nat) → Bool × List (Nat × Nat)
  | [], moved => (false, moved)
  | t :: rest, moved =>
      let next := (moved ++ keysOf small (tensorPages ws t.1)).eraseDups
      let bytes := 0x200000 * next.length
      if 4 * bytes > wpb ∨ bytes > capf then (false, moved)
      else if need - bytes ≤ free then (true, next)
      else spillLoop small ws need free wpb capf rest next

/-! Capacity memory. -/

/-- End of the capacity memory that loads may use: the mirror area is kept out while paired (R366). -/
def capLimit (s : State) : Nat :=
  let e := capEnd s.dev.capMem
  if s.tlc.pair.isSome then max 0x400000000000 (e - 0x800000000) else e

def capFree (s : State) : Nat := capLimit s - 0x400000000000 - (s.ms.capUsed.map Prod.snd).sum

/-- The lowest aligned free place of `n` bytes in capacity memory. -/
def capPlace (s : State) (n : Nat) : Option Nat :=
  let starts := 0x400000000000 :: s.ms.capUsed.map (fun u => cdiv (u.1 + u.2) n * n)
  let ok (a : Nat) : Bool := decide (a + n ≤ capLimit s) && s.ms.capUsed.all (fun u => !overlap u (a, n))
  (starts.filter ok).foldl (fun best a => match best with
    | none => some a
    | some b => some (min a b)) none

/-- Takes zeroed capacity memory. -/
def takeCap (s : State) (n : Nat) : Option (Nat × State) :=
  (capPlace s n).map (fun a =>
    (a, { s with ms := zeroFill { s.ms with capUsed := (a, n) :: s.ms.capUsed } a n }))

/-! Mapping a load. -/

/-- Maps CAPACITY pages (R209). -/
def mapCapacity : List (Nat × Nat) → State → Option State
  | [], s => some s
  | (level, va) :: t, s =>
      match takeCap s (2 ^ levelShift level) with
      | none => none
      | some (pa, s1) =>
          let e : Pte := ⟨level, va >>> levelShift level, mkPte true false false 3 (homeOfVa va) pa 1⟩
          mapCapacity t { s1 with ms := s1.ms.setPte e }

/-- Places for the moved pool pages in capacity memory. -/
def placeMoved : List (Nat × Nat) → State → List ((Nat × Nat) × Nat) → Option (List ((Nat × Nat) × Nat) × State)
  | [], s, acc => some (acc, s)
  | k :: t, s, acc =>
      match takeCap s 0x200000 with
      | none => none
      | some (pa, s1) => placeMoved t s1 ((k, pa) :: acc)

/-- Maps WEIGHT pages (R209, R211): in the model pool, or at the place of their moved pool page. -/
def mapWeights (m : Model) (small : List Nat) (moved : List ((Nat × Nat) × Nat)) : List MPage → State → Option State
  | [], s => some s
  | p :: t, s =>
      let entry (pa : Nat) : Pte :=
        ⟨p.level, p.va >>> levelShift p.level, mkPte false false false 1 (homeOfVa p.va) pa 1⟩
      match moved.find? (fun q => q.1 == poolKey small p) with
      | some q =>
          let off := if p.level = 2 then 0 else small.findIdx (· == p.va) % 32 * 0x10000
          mapWeights m small moved t { s with ms := s.ms.setPte (entry (q.2 + off)) }
      | none =>
        match placeModelPage s.ms m p.level p.va (homeOfVa p.va) with
        | none => none
        | some (pa, ms) => mapWeights m small moved t { s with ms := ms.setPte (entry pa) }

/-- Firmware writes the list `ws` at mapped addresses, whatever their `W`; an uncorrectable line takes a whole line only
(R196). -/
def firmwareWrite (ws : List (Nat × Byte)) : List (Nat × Byte) → State → Except Err State
  | [], s => .ok s
  | (va, b) :: t, s =>
      match leafOf s.ms.ptes va with
      | none => firmwareWrite ws t s
      | some p =>
        match storeByte s ws (leafPa p va) va b with
        | .error e => .error e
        | .ok s1 => firmwareWrite ws t s1

/-! Staging buffers (R213). -/

def stageKey (model : Nat) : Nat := 2 ^ 33 + model

/-- A command that is only looked at: its units and scalar registers. -/
def Cmd.plain (units : List Unit64) (sregs : List DWord) : Cmd :=
  { id := 0, ctx := 0, graph := 0, unit := 0, units := units,
    mask := maskClusters (hdrMask (units.getD 0 [])), cores := none, sregs := sregs, orbitCtrs := [0, 0, 0, 0], signal := 0,
    frozen := [], settleRef := none, settleOut := none, images := [], result := none, replayed := false,
    parts := [], runs := [], redo := [], work := [], outs := [], faults := [], predCycles := 0, coll := none, codec := none,
    needsStaging := false, staged := false, stagedData := [], inFull := false, replays := [], was := [], issuedNs := 0 }

/-- The commands of a run of units. -/
def cmdsIn : Nat → Nat → List Unit64 → List (Nat × List Unit64)
  | 0, _, _ => []
  | _, _, [] => []
  | fuel + 1, off, u :: us =>
      (off, (u :: us).take (hdrUnits u)) :: cmdsIn fuel (off + hdrUnits u) ((u :: us).drop (hdrUnits u))

/-- The commands of a version with their unit offsets (R308). -/
def versionCmds (segs : List (List Unit64)) : List (Nat × List Unit64) :=
  segs.zipIdx.flatMap (fun g => cmdsIn g.1.length (1024 * g.2) g.1)

/-- The largest total of spilled tensors that one command of a model's graphs reads. -/
def stagingNeed (s : State) (model : Nat) : Nat :=
  ((s.graphs.filter (fun g => g.model == model)).flatMap (fun g => g.versions.flatMap (fun v =>
    (versionCmds v.segs).map (fun c => spilledBytesRead s (Cmd.plain c.2 []))))).foldl max 0

/-- Takes staging pages from the partitions in rotation (R211). -/
def holdStaging (ms : MemSys) (key : Nat) : Nat → MemSys
  | 0 => ms
  | n + 1 =>
      match takePage ms .scratch ms.stagingNext with
      | some (pg, ms') =>
          holdStaging { ms' with scratchHeld := (key, pg) :: ms'.scratchHeld,
                                 stagingNext := (pg / 128 + 1) % 256 } key n
      | none => ms

/-- Holds the two staging buffers of a model at their present size. -/
def restage (s : State) (model : Nat) : State :=
  let n := 2 * pagesOf (stagingNeed s model)
  let have' := (s.ms.scratchHeld.filter (fun p => p.1 == stageKey model)).length
  if n = have' then s
  else { s with ms := holdStaging (dropScratch' s.ms (stageKey model)) (stageKey model) n }
where
  /-- Gives back the pages of a holder. -/
  dropScratch' (ms : MemSys) (key : Nat) : MemSys :=
    ((ms.scratchHeld.filter (fun p => p.1 == key)).map Prod.snd).foldl dropPage
      { ms with scratchHeld := ms.scratchHeld.filter (fun p => p.1 != key) }

/-! Load and unload. -/

/-- The memory decision of R212: the moved pool pages, or the shortfall. -/
def spillDecision (s : State) (m : Model) : Except Nat (List (Nat × Nat)) :=
  let capBytes := ((m.ranges.filter (fun r => r.kind == 3)).map Range.len).sum
  if capFree s < capBytes then .error (capBytes - capFree s)
  else
    let capf := capFree s - capBytes
    let small := m.smallPages
    let pages := m.pages
    let ws := pages.filter (fun p => p.kind == 0)
    let need := 0x200000 * (keysOf small pages).length
    let free := 0x200000 * modelFree s.ms
    if need ≤ free then .ok []
    else
      let cand := (m.tensors.zipIdx.filter (fun t => decide (2 * t.1.bytes ≤ 0x200000 * scratchFree s.ms))).foldl
        (fun acc t => insertCand t acc) []
      let r := spillLoop small ws need free (0x200000 * (keysOf small ws).length) capf cand []
      if r.1 then .ok r.2 else .error (need - free - 0x200000 * r.2.length)

/-- Marks the spilled tensors, with the CRC taken at load (R212, R213). -/
def markSpilled (small : List Nat) (ws : List MPage) (moved : List (Nat × Nat)) (image : List Byte) (t : Tensor) :
    Tensor :=
  if t.bytes != 0 && (tensorPages ws t).any (fun p => moved.contains (poolKey small p)) then
    { t with spilled := true, crc := BitVec.ofNat 32 (crc32c (slice image t.srcOff t.bytes)) }
  else t

/-- A model whose manifest holds is given memory, mapped and filled (R209, R211, R212). -/
def placeModel (s : State) (id : Nat) (mf : Manifest) (image : List Byte) : State × Res × Nat :=
  let m : Model := ⟨id, mf.ranges, mf.tensors, 0, 0, false⟩
  match spillDecision s m with
  | .error short => (s, .modelTooLarge, short)
  | .ok keys =>
    let small := m.smallPages
    let wp := m.pages.filter (fun p => p.kind == 0)
    let caps := (m.ranges.filter (fun r => r.kind == 3)).flatMap Range.pages
    match (mapCapacity caps s).bind (fun s1 => (placeMoved keys s1 []).bind (fun q =>
        mapWeights m small q.1 wp q.2)) with
    | none => (s, .noResources, 0)
    | some s2 =>
        let ws := mf.tensors.flatMap (fun t => spread t.va (slice image t.srcOff t.bytes))
        match firmwareWrite ws ws s2 with
        | .error e => (s, e.1, 0)
        | .ok s3 =>
          let reserved := (keysOf small m.pages).length - (keysOf small wp).length
          let m' : Model := { m with
            tensors := mf.tensors.map (markSpilled small wp keys image)
            spilledBytes := 0x200000 * keys.length
            workReserved := reserved
            planOpen := !keys.isEmpty }
          let s4 := { s3 with models := s3.models ++ [m'],
                              ms := { s3.ms with modelReserved := s3.ms.modelReserved + reserved } }
          if keys.isEmpty then (s4, .ok, 0)
          else (s4.attnEvent attnPLAN, .okSpilledPlan, 0x200000 * keys.length)

/-- `LOAD_MODEL` with OP 0: the state, RESULT and `DETAIL`. -/
def loadModel (s : State) (id : Nat) (manifest image : List Byte) : State × Res × Nat :=
  if decide (id < 1 ∨ 63 < id) || (s.model? id).isSome then (s, .badDescriptor, 0)
  else match parseManifest manifest with
    | none => (s, .badDescriptor, 0)
    | some mf =>
      if !(rangesOk s mf.ranges && tensorsOk mf image.length) then (s, .badDescriptor, 0) else placeModel s id mf image

/-- Whether memory that a load takes is asleep: its writes are bounced, and it waits (R34, R389). -/
def loadAsleep (s t : State) : Bool :=
  (t.ms.usedPages.filter (fun p => !s.ms.usedPages.contains p)).any (fun p => memoryState s (p * 0x200000) == .retention) ||
  (t.ms.capUsed.filter (fun u => !s.ms.capUsed.contains u)).any (fun u => memoryState s u.1 == .retention)

/-- The weight image of a loaded model: its tensors' bytes at their places (R272, R375). -/
def weightImage (s : State) (m : Model) : List Byte :=
  let bytes := m.tensors.flatMap (fun t => match readBytes s t.va t.bytes with
    | .ok b => spread t.srcOff b
    | .error _ => [])
  (List.range ((m.tensors.map (fun t => t.srcOff + t.bytes)).foldl max 0)).map (fun k => (alFind k bytes).getD 0)

/-- Pool pages, capacity memory and entries of a model's ranges given back. -/
def unmapModel (s : State) (m : Model) : State :=
  let mine (p : Pte) : Bool :=
    m.ranges.any (fun r => overlap (p.idx <<< levelShift p.level, 1) (r.base, r.len))
  let gone := s.ms.leaves.filter mine
  let pas := gone.map (fun p => ptePa p.word)
  let pool := (pas.filter (fun a => decide (a < 0x1000000000))).map (· / 0x200000)
  let caps := (pas.filter (fun a => decide (0x400000000000 ≤ a)))
  let small := m.smallPages
  let mapped := keysOf small (m.pages.filter (fun p => (leafOf s.ms.ptes p.va).isSome))
  let left := (keysOf small m.pages).length - mapped.length
  let ms := gone.foldl (fun ms p => ms.delPte p.level p.idx) s.ms
  let shared := gone.filter (fun p => pteKind p.word == 2)
  let ms := shared.foldl (fun ms p => ms.setRef (ptePa p.word) (· - 1)) ms
  let ms := (pool.eraseDups.filter (fun p => !ms.leaves.any (fun q => ptePa q.word / 0x200000 == p))).foldl dropPage ms
  let used := ms.capUsed.filter (fun u => !caps.any (fun a => overlap u (a, 1)))
  { s with ms := { ms with modelReserved := ms.modelReserved - left, capUsed := used } }

/-- Store pages of a version: the graph, the version that brought each, and its segment (R308). -/
def storeKeys (graph : Nat) (v : Version) : List (Nat × Nat × Nat) := v.origin.zipIdx.map (fun o => (graph, o.1, o.2))

/-- A version joins the store: `REFCNT` of its pages rises (R201, R308). -/
def addRefs (l : List ((Nat × Nat × Nat) × Nat)) (keys : List (Nat × Nat × Nat)) : List ((Nat × Nat × Nat) × Nat) :=
  keys.foldl (fun l k =>
    if l.any (fun r => r.1 == k) then l.map (fun r => if r.1 = k then (k, r.2 + 1) else r) else l ++ [(k, 1)]) l

/-- A version leaves the store: `REFCNT` of its pages falls, and pages that reach 0 are freed (R313). -/
def dropRefs (l : List ((Nat × Nat × Nat) × Nat)) (keys : List (Nat × Nat × Nat)) : List ((Nat × Nat × Nat) × Nat) :=
  (keys.foldl (fun l k => l.map (fun r => if r.1 = k then (k, r.2 - 1) else r)) l).filter (fun r => r.2 != 0)

/-- Keeps of each graph the versions that `keep` names; the others leave the store. -/
def keepVersions (s : State) (keep : Graph → Version → Bool) : State :=
  let gone := s.graphs.flatMap (fun g => (g.versions.filter (fun v => !keep g v)).flatMap (storeKeys g.id))
  { s with graphs := s.graphs.map (fun g => { g with versions := g.versions.filter (keep g) })
           ms := { s.ms with storeRefs := dropRefs s.ms.storeRefs gone } }

/-- ATTN `PLAN` after a spilled model is gone: pending while another load that spilled has not been acknowledged (R212). -/
def clearPlan (s : State) : State :=
  if s.models.any Model.planOpen then s else { s with attn := s.attn.clearEvent attnPLAN }

/-- An unload that its live launches do not hold up (R272): its graphs are deleted. -/
def unloadNow (s : State) (m : Model) : State :=
  let s1 := unmapModel s m
  let s2 := keepVersions { s1 with models := s1.models.filter (fun x => x.id != m.id) } (fun g _ => g.model != m.id)
  let s2 := { s2 with graphs := s2.graphs.filter (fun g => g.model != m.id) }
  let s3 := restage s2 m.id
  if m.spilledBytes = 0 then s3 else clearPlan s3

end Sys2Proof.Machine
end

