-- ==== Sys2Proof/Machine/Graphs.lean ====
section
/-! DEFINITION. Stored graphs (R281 to R285, R298, R308 to R316): walking units, the checks of a version,
storing, patching, pins and retirement. -/

namespace Sys2Proof.Machine

/-! Walking a version (R298, R308). -/

/-- The unit `n` units after unit `u` of segment `k`, in execution order. -/
def unitAfter : List Nat → Nat → Nat → Option Nat
  | [], _, _ => none
  | l :: t, k, u => if u < l then some (1024 * k + u) else unitAfter t (k + 1) (u - l)

/-- The unit offset `n` units ahead in execution order (R298); none past the end. -/
def unitAhead (lens : List Nat) (off n : Nat) : Option Nat :=
  unitAfter (lens.drop (off / 1024)) (off / 1024) (off % 1024 + n)

def Version.lens (v : Version) : List Nat := v.segs.map List.length

/-- The units of the command at an offset. -/
def Version.unitsAt (v : Version) (off : Nat) : List Unit64 :=
  let t := (v.segs.getD (off / 1024) []).drop (off % 1024)
  t.take (hdrUnits (t.getD 0 []))

/-- The command after the one at an offset. -/
def Version.next (v : Version) (off : Nat) : Option Nat := unitAhead v.lens off (v.unitsAt off).length

/-- The number a client sees of a version (R311). -/
def verNumber (num : Nat) : Nat := num % 2 ^ 32

/-! The checks of R310. -/

/-- Units allowed for an opcode (R285). -/
def unitRange (op : Nat) : Option (Nat × Nat) :=
  match op with
  | 0x01 | 0x02 | 0x08 => some (4, 16)
  | 0x03 | 0x0D | 0x0E => some (3, 3)
  | 0x04 => some (5, 8)
  | 0x05 => some (10, 12)
  | 0x06 | 0x07 | 0x14 => some (4, 4)
  | 0x09 => some (4, 8)
  | 0x0A => some (2, 2)
  | 0x15 | 0x0B => some (3, 4)
  | 0x0C => some (5, 5)
  | 0x13 => some (1, 1)
  | 0x10 => some (3, 4)
  | 0x11 => some (2, 2)
  | 0x12 => some (2, 5)
  | 0x80 => some (1, 16)
  | 0x89 => some (1, 2)
  | _ => if 0x81 ≤ op ∧ op ≤ 0x8C then some (1, 1) else none

/-- The reserved bits of a tensor descriptor (R286). -/
def descReserved (u : Unit64) : Bool :=
  fld u 7 4 4 == 0 && fld u 62 6 2 == 0 && byteAt u 63 == 0 &&
  (List.range 6).all (fun k => decide (leAt u (8 + 4 * k) 4 < 2 ^ 25))

/-- A control command's flags, mask, reserved bits and values (R284, R286, R293, R297). -/
def controlGood (us : List Unit64) : Bool :=
  let u := us.getD 0 []
  let op := hdrOpcode u
  (fld u 1 4 4 == 0 && hdrMask u == 0) &&
  match op with
  | 0x81 => fld u 8 22 10 == 0 && fld u 12 6 26 == 0 && allZero u 16 48 &&
      (fld u 8 21 1 == 1 || decide (fld u 8 0 21 ≤ 1048576))
  | 0x82 => fld u 8 5 27 == 0 && allZero u 12 52
  | 0x83 => fld u 8 10 22 == 0 && allZero u 14 2 && allZero u 24 40 && decide (fld u 8 3 3 ≤ 5) &&
      fld u 8 6 2 != 3 && fld u 8 8 2 != 3
  | 0x84 => fld u 8 5 27 == 0 && byteAt u 15 == 0 && allZero u 16 48 && fld u 8 3 2 != 3
  | 0x85 => allZero u 16 48 && (List.range 4).all (fun k => decide (leAt u (8 + 2 * k) 2 ≤ 255))
  | 0x86 | 0x88 | 0x8A => allZero u 8 56
  | 0x87 => fld u 8 12 20 == 0 && allZero u 12 52
  | 0x89 => fld u 8 1 31 == 0 && fld u 12 12 20 == 0 && allZero u 16 48 &&
      us.length == (if fld u 8 0 1 = 0 then 2 else 1) && (us.drop 1).all descReserved
  | 0x8B => fld u 8 5 3 == 0 && fld u 9 6 2 == 0 && allZero u 12 4 && allZero u 24 40 && decide (fld u 8 0 5 ≤ 20)
  | 0x8C => fld u 8 6 26 == 0 && allZero u 12 52
  | _ => true

/-- A command's opcode, length, event ids and control body. -/
def commandGood (us : List Unit64) : Bool :=
  let u := us.getD 0 []
  (match unitRange (hdrOpcode u) with
    | some r => decide (r.1 ≤ hdrUnits u ∧ hdrUnits u ≤ r.2)
    | none => false) &&
  us.length == hdrUnits u && decide (hdrWait u ≤ 255) && decide (hdrSignal u ≤ 255) &&
  (decide (hdrOpcode u < 0x80) || controlGood us)

/-- Commands with the orbits open around each, the `ORBIT_END` within its body; and offsets that break the
orbit rules. -/
def orbitWalk : List (Nat × List Unit64) → List Nat → List (Nat × List Nat) × List Nat
  | [], stack => ([], (stack.getLast?).toList)
  | (off, us) :: t, stack =>
      let op := hdrOpcode (us.getD 0 [])
      let inner := if op = 0x81 then off :: stack else if op = 0x82 then stack.drop 1 else stack
      let r := orbitWalk t inner
      let bad := (op == 0x81 && decide (4 < inner.length)) || (op == 0x82 && stack.isEmpty)
      ((off, stack) :: r.1, if bad then off :: r.2 else r.2)

/-- Offset of the first offending command of a version (R310). -/
def firstBad (segs : List (List Unit64)) : Option Nat :=
  let cmds := versionCmds segs
  let w := orbitWalk cmds []
  let around (off : Nat) : Option (List Nat) := (w.1.find? (fun p => p.1 == off)).map Prod.snd
  let jumpBad (c : Nat × List Unit64) : Bool :=
    let u := c.2.getD 0 []
    hdrOpcode u == 0x84 &&
      (leAt u 12 3 == 0 ||
       match unitAhead (segs.map List.length) c.1 (leAt u 12 3) with
       | some t => (around t).isNone || around t != around c.1
       | none => true)
  let bad := (cmds.filter (fun c => !commandGood c.2 || jumpBad c)).map Prod.fst ++ w.2
  bad.foldl (fun b x => match b with
    | none => some x
    | some y => some (min x y)) none

/-! Pins and live versions (R299, R313, R314). -/

/-- Whether a live launch pins a version. -/
def isPinned (s : State) (graph num : Nat) : Bool :=
  s.ctxs.any (fun x => x.typ == 1 && ((x.graph == graph && x.ver == num && x.ver != 0) || x.pins.contains (graph, num)))

/-- Pins and currency of the version within its graph. -/
def isLive (s : State) (g : Graph) (v : Version) : Bool := (!g.deleted && v.num == g.cur) || isPinned s g.id v.num

/-- Retires every version that is neither current nor pinned (R313). -/
def retire (s : State) : State :=
  let t := keepVersions s (isLive s)
  { t with graphs := t.graphs.filter (fun g => !(g.deleted && g.versions.isEmpty)) }

/-- Memory a stored command names, descriptors with `ADDR_REG_EN` excluded (R314). -/
def refSpans (s : State) (us : List Unit64) : List (Nat × Nat) :=
  let c := Cmd.plain us []
  if c.opcode = 0x89 then
    (((us.drop 1).map (parseDesc [])).filter (fun d => d.good && d.fmt?.isSome && d.count != 0 && !d.regEn)).map Desc.span
  else if 0x80 ≤ c.opcode then []
  else ((cmdDescs c).filter (fun d => !d.regEn)).map Desc.span ++ fieldSpans s c ++ forkSpans c

/-- Sets `PIN` on exactly the WEIGHT pages in the reference set of a pinned version (R314). -/
def repin (s : State) : State :=
  let spans := s.graphs.flatMap (fun g => (g.versions.filter (fun v => isPinned s g.id v.num)).flatMap (fun v =>
    (versionCmds v.segs).flatMap (fun c => refSpans s c.2)))
  let want (p : Pte) : Bool :=
    pteKind p.word == 1 && spans.any (fun x => spansMeet x (p.idx <<< levelShift p.level, 2 ^ levelShift p.level))
  let changed := s.ms.leaves.filter (fun p => ptePin p.word != want p)
  let flip (p : Pte) : Pte := { p with word := p.word ^^^ 16 }
  { s with ms := changed.foldl (fun ms p => ms.setPte (flip p)) s.ms }

/-- What follows a change of pins: versions retire, `PIN` follows. -/
def settlePins (s : State) : State := repin (retire s)

/-! The store. -/

/-- Store pages in use: pages shared by versions count once (R308). -/
def storePages (s : State) : Nat := s.ms.storeRefs.length

/-- Versions of a graph that stay live beside a new one. -/
def heldVersions (s : State) (g : Graph) : Nat :=
  (g.versions.filter (fun v => isPinned s g.id v.num && decide (v.num / 2 ^ 32 = g.cur / 2 ^ 32))).length

/-- Room for a new version (R310, R313). -/
def storeRoom (s : State) (g : Option Graph) (newPages : Nat) : Except Err Unit := do
  require (match g with
    | some g => g.deleted || decide (heldVersions s g + 1 ≤ 4)
    | none => true) .graphVersionLimit
  require (decide (storePages s + newPages ≤ 8192) &&
    (g.isSome || decide ((s.graphs.filter (fun g => !g.deleted)).length < 4096))) .noResources

/-- Number of the next version of a graph; a graph stored anew under a deleted id starts at 1 (R311). -/
def nextVersion (g : Option Graph) : Nat :=
  match g with
  | none => 1
  | some g => if g.deleted then (g.cur / 2 ^ 32 + 1) * 2 ^ 32 + 1 else g.cur + 1

/-- Makes a version current. -/
def installVersion (s : State) (id model : Nat) (v : Version) : State :=
  let s := { s with ms := { s.ms with storeRefs := addRefs s.ms.storeRefs (storeKeys id v) } }
  let s1 := match s.graph? id with
    | some _ => s.updGraph id (fun g =>
        { g with model := model, deleted := false, cur := v.num, versions := g.versions ++ [v] })
    | none => { s with graphs := s.graphs ++ [⟨id, model, false, v.num, [v]⟩] }
  restage (settlePins s1) model

/-- 64-byte units of an image's bytes. -/
def unitsOf : Nat → List Byte → List Unit64
  | 0, _ => []
  | n + 1, b => slice b 0 64 :: unitsOf n (b.drop 64)

def offendingAll : Nat := 0xFFFFFFFFFFFFFFFF

/-- A graph image (R309). -/
structure GImage where
  segs : List (List Unit64)
  slots : List Slot
  instances : Nat
  instReg : Nat
  stride : Nat
  deriving DecidableEq, Repr

/-- Whether `[a, b)` lies in one range of a model, of the kinds given. -/
def inModelRange (s : State) (model : Nat) (kinds : List Nat) (a b : Nat) : Bool :=
  match rangeOf s.models a with
  | some (m, r) => m.id == model && kinds.contains r.kind && decide (b ≤ r.base + r.len)
  | none => false

/-- Parses and checks a graph image: header, slots (R312), segment entries. -/
def parseGraph (s : State) (model : Nat) (b : List Byte) : Option GImage :=
  let ns := leAt b 2 2
  let nsl := leAt b 4 2
  let ni := byteAt b 6
  let st := leAt b 8 8
  let tab := 64 + 32 * nsl
  let slotAt (i : Nat) : Slot := ⟨leAt b (64 + 32 * i) 8, leAt b (64 + 32 * i + 8) 8, byteAt b (64 + 32 * i + 16)⟩
  let slotOk (i : Nat) : Bool :=
    let t := slotAt i
    allZero b (64 + 32 * i + 17) 15 && t.va % 64 == 0 && decide (t.dir ≤ 2) &&
      inModelRange s model [1, 3] t.va (t.va + (ni - 1) * st + t.bytes)
  let segOk (k : Nat) : Bool :=
    let o := tab + 16 * k
    allZero b (o + 10) 6 && leAt b o 8 % 64 == 0 && decide (1 ≤ leAt b (o + 8) 2 ∧ leAt b (o + 8) 2 ≤ 1024) &&
      decide (leAt b o 8 + 64 * leAt b (o + 8) 2 ≤ b.length)
  if decide (64 ≤ b.length) && leAt b 0 2 == 1 && decide (1 ≤ ns ∧ ns ≤ 256 ∧ nsl ≤ 64 ∧ 1 ≤ ni ∧ ni ≤ 64) &&
      st % 0x10000 == 0 && (ni != 1 || st == 0) && (ni == 1 || decide (byteAt b 7 ≤ 63)) && allZero b 20 44 &&
      leAt b 16 4 == crc32c (b.drop 64) && decide (tab + 16 * ns ≤ b.length) &&
      (List.range nsl).all slotOk && (List.range ns).all segOk then
    some { segs := (List.range ns).map (fun k =>
             unitsOf (leAt b (tab + 16 * k + 8) 2) (b.drop (leAt b (tab + 16 * k) 8)))
           slots := (List.range nsl).map slotAt
           instances := ni
           instReg := byteAt b 7
           stride := st }
  else none

/-- `STORE_GRAPH` (R310, R311): the state, RESULT and `DETAIL`. -/
def storeGraph (s : State) (id model : Nat) (image : List Byte) : State × Res × Nat :=
  let g := s.graph? id
  if image.isEmpty then
    match g with
    | some x => if x.deleted then (s, .badDescriptor, 0)
        else
          let s1 := settlePins (s.updGraph id (fun y => { y with deleted := true }))
          (restage s1 x.model, .ok, 0)
    | none => (s, .badDescriptor, 0)
  else if (s.model? model).isNone || (match g with
      | some x => !x.deleted && x.model != model
      | none => false) then (s, .badDescriptor, offendingAll)
  else match parseGraph s model image with
    | none => (s, .badDescriptor, offendingAll)
    | some im =>
      match firstBad im.segs with
      | some off => (s, .badDescriptor, off)
      | none =>
        match storeRoom s g im.segs.length with
        | .error e => (s, e.1, 0)
        | .ok () =>
            let num := nextVersion g
            let v : Version :=
              ⟨num, im.segs, List.replicate im.segs.length num, im.slots, im.instances, im.instReg, im.stride⟩
            (installVersion s id model v, .ok, verNumber num)

/-! Patches (R315, R316). -/

structure PWrite where
  va : Nat
  bytes : Nat
  off : Nat
  deriving DecidableEq, Repr

/-- A patch image: new segments (none for one kept), and writes. -/
structure PImage where
  baseVer : Nat
  newSegs : Nat
  repl : List (Nat × List Unit64)
  writes : List PWrite
  deriving DecidableEq, Repr

/-- Parses a patch image (R315). -/
def parsePatch (oldSegs : Nat) (b : List Byte) : Option PImage :=
  let nr := leAt b 2 2
  let ns := leAt b 4 2
  let nw := leAt b 6 2
  let wt := 32 + 16 * nr
  let segNo (i : Nat) : Nat := leAt b (32 + 16 * i) 2
  let units (i : Nat) : Nat := leAt b (32 + 16 * i + 2) 2
  let segOff (i : Nat) : Nat := leAt b (32 + 16 * i + 8) 8
  let replOk (i : Nat) : Bool :=
    allZero b (32 + 16 * i + 4) 4 && decide (segNo i < ns) && segOff i % 64 == 0 &&
      decide (1 ≤ units i ∧ units i ≤ 1024) && decide (segOff i + 64 * units i ≤ b.length) &&
      (List.range i).all (fun j => segNo j != segNo i)
  let writeAt (i : Nat) : PWrite := ⟨leAt b (wt + 32 * i) 8, leAt b (wt + 32 * i + 8) 8, leAt b (wt + 32 * i + 16) 8⟩
  let writeOk (i : Nat) : Bool :=
    allZero b (wt + 32 * i + 24) 8 && decide ((writeAt i).off + (writeAt i).bytes ≤ b.length)
  if decide (32 ≤ b.length) && leAt b 0 2 == 1 && decide (nr ≤ 256 ∧ 1 ≤ ns ∧ ns ≤ 256 ∧ nw ≤ 4096) &&
      allZero b 16 16 && leAt b 12 4 == crc32c (b.drop 32) && decide (wt + 32 * nw ≤ b.length) &&
      (List.range nr).all replOk && (List.range nw).all writeOk &&
      (List.range ns).all (fun k => decide (k < oldSegs) || (List.range nr).any (fun i => segNo i == k)) then
    some ⟨leAt b 8 4, ns, (List.range nr).map (fun i => (segNo i, unitsOf (units i) (b.drop (segOff i)))),
      (List.range nw).map writeAt⟩
  else none

/-- Addresses that a patch image writes (R315). -/
def patchSpans (s : State) (id : Nat) (image : List Byte) : List (Nat × Nat) :=
  match (s.graph? id).bind (fun g => g.version? g.cur) with
  | none => []
  | some v => ((parsePatch v.segs.length image).map (fun im => im.writes.map (fun w => (w.va, w.bytes)))).getD []

/-- Whether a span touches a pinned page. -/
def touchesPin (s : State) (a n : Nat) : Bool :=
  s.ms.leaves.any (fun p => ptePin p.word && overlap (p.idx <<< levelShift p.level, 2 ^ levelShift p.level) (a, n))

/-- CRCs of spilled tensors that a write touched are taken anew (R316 step 4). -/
def recrc (s : State) (ws : List PWrite) (m : Model) : Model :=
  { m with tensors := m.tensors.map (fun t =>
      if t.spilled && ws.any (fun w => overlap (w.va, w.bytes) (t.va, t.bytes)) then
        match readBytes s t.va t.bytes with
        | .ok b => { t with crc := BitVec.ofNat 32 (crc32c b) }
        | .error _ => t
      else t) }

/-- `PATCH_GRAPH` steps 3 to 5 (R316): the state, RESULT and `DETAIL`. -/
def patchGraph (s : State) (id : Nat) (image : List Byte) : State × Res × Nat :=
  match s.graph? id with
  | none => (s, .badDescriptor, offendingAll)
  | some g =>
    match (if g.deleted then none else g.version? g.cur) with
    | none => (s, .badDescriptor, offendingAll)
    | some old =>
      match parsePatch old.segs.length image with
      | none => (s, .badDescriptor, offendingAll)
      | some im =>
        let num := g.cur + 1
        let segs := (List.range im.newSegs).map (fun k => (alFind k im.repl).getD (old.segs.getD k []))
        let origin := (List.range im.newSegs).map (fun k =>
          if (alFind k im.repl).isSome then num else old.origin.getD k num)
        match firstBad segs with
        | some off => (s, .badDescriptor, off)
        | none =>
          match storeRoom s (some g) im.repl.length with
          | .error e => (s, e.1, 0)
          | .ok () =>
            if im.baseVer ≠ 0 ∧ im.baseVer ≠ verNumber g.cur then (s, .versionConflict, 0)
            else if im.writes.any (fun w => !inModelRange s g.model [0] w.va (w.va + w.bytes)) then
              (s, .badDescriptor, offendingAll)
            else if im.writes.any (fun w => touchesPin s w.va w.bytes) then (s, .pinnedWrite, 0)
            else
              let ws := im.writes.flatMap (fun w => spread w.va (slice image w.off w.bytes))
              match firmwareWrite ws ws s with
              | .error e => (s, e.1, 0)
              | .ok s1 =>
              let fresh := s1.models.map (fun m => if m.id = g.model then recrc s1 im.writes m else m)
              let s2 := { s1 with models := fresh }
              (installVersion s2 id g.model { old with num := num, segs := segs, origin := origin }, .ok, verNumber num)

end Sys2Proof.Machine
end

