-- ==== Sys2Proof/Machine/Paging.lean ====
section
/-! DEFINITION. Events of memory and translation (R183, R188, R195, R196, R203 to R206, R210, R213, R300). -/

namespace Sys2Proof.Machine

/-! TLBs (R203): 0 to 15 by cluster, 16 the hub TLB. -/

/-- The set of a cluster TLB that an entry falls in. -/
def tlbSet (p : Pte) : Nat := p.idx % 512

/-- Puts an entry first among the entries of a full group of `ways`, whose victim is a free choice among all but the entry
used last, which stands first, as a pseudo-LRU may choose (R203; log 13). -/
def evictInto (free ways : Nat) (mine : List Pte) (p : Pte) : List Pte :=
  let rest := mine.filter (fun q => !(q.level == p.level && q.idx == p.idx))
  if rest.length < ways then p :: rest else p :: rest.eraseIdx (1 + free % (ways - 1))

/-- Fills a TLB: a cluster's has 512 sets of 8 ways, the hub's 1,024 entries (R203). -/
def tlbFill (free n : Nat) (l : List Pte) (p : Pte) : List Pte :=
  if n = 16 then evictInto free 1024 l p
  else
    let mine := l.filter (fun q => tlbSet q == tlbSet p)
    evictInto free 8 mine p ++ l.filter (fun q => tlbSet q != tlbSet p)

def fillTlb (free : Nat) (ms : MemSys) (n : Nat) (p : Pte) : MemSys :=
  { ms with tlbs := alSet n (tlbFill free n ((alFind n ms.tlbs).getD []) p) ms.tlbs }

/-- The pointer entries that a walk went through. -/
def pathOf (ptes : List Pte) (va : Nat) : List Pte :=
  ([0, 1, 2].filterMap (fun l => pteAt ptes l (va >>> levelShift l))).filter
    (fun p => pteV p.word && !pteLeaf p.word && !pteMalformed p)

/-- The walk cache, 512 pointer entries, after a walk (R204). -/
def fillWalkCache (free : Nat) (ms : MemSys) (va : Nat) : MemSys :=
  { ms with walkCache := (pathOf ms.ptes va).foldl (evictInto free 512) ms.walkCache }

/-- Whether the island of a TLB is up (R204). -/
def tlbUp (s : State) (n : Nat) : Bool := if n = 16 then s.hub.state != .off else (s.svcIsl (n / 4)).state != .off

/-- TLB contents lost with an island (R204). -/
def clearTlbs (ms : MemSys) (which : List Nat) : MemSys :=
  { ms with tlbs := ms.tlbs.filter (fun t => !which.contains t.1) }

/-- The tables of levels 0 and 1 are lost with HSR, and come back from the master copies (R204). -/
def loseTables (ms : MemSys) : MemSys := { ms with ptes := ms.ptes.filter (fun p => decide (2 ≤ p.level)) }
def reloadTables (ms : MemSys) : MemSys := { ms with ptes := ms.masters }

/-- ATU page of a TLB. -/
def tlbPage (n : Nat) : Nat := 0x0800 + min n 16

/-- WALK_COMPLETE (R203 to R206): the pointers met fill the walk cache and a valid leaf the TLB; a missing or malformed
entry, or a write where `W` is 0, is the fault that the page captures. Unmapped WORK pages are no fault (R210). -/
def execWalkComplete (tlb va : Nat) (write : Bool) (s : State) : Host.Outcome State Fault Refusal :=
  .next (
    if 16 < tlb ∨ tlbUp s tlb = false ∨ tlbUp s 16 = false then s
    else
      let s := { s with freeCtr := s.freeCtr + 2, ms := fillWalkCache (Config.free s.freeCtr) s.ms va }
      match leafOf s.ms.ptes va with
    | some p =>
        if pteMalformed p then s.logError (tlbPage tlb) 1 0x14 Res.translationFault.code va
        else
          let s1 := { s with ms := fillTlb (Config.free (s.freeCtr + 1)) s.ms tlb p }
          if write && !pteW p.word then s1.logError (tlbPage tlb) 1 0x15 Res.writeProtected.code va else s1
    | none =>
        match rangeOf s.models va with
        | some (_, r) => if r.kind = 1 then s else s.logError (tlbPage tlb) 1 0x14 Res.translationFault.code va
        | none => s.logError (tlbPage tlb) 1 0x14 Res.translationFault.code va)

/-! Held writes (R188, R210). -/

/-- The command's held write on a page. -/
def heldOf (s : State) (cmd page : Nat) (cow : Bool) : Option Held :=
  s.ms.held.find? (fun h => h.cmd == cmd && h.page == page && h.cow == cow)

def dropHeld (ms : MemSys) (h : Held) : MemSys :=
  { ms with held := ms.held.filter (fun k => !(k.cmd == h.cmd && k.page == h.page && k.cow == h.cow)) }

/-- The site of the core that has piece `k` of `n` that a command's cores divide as units (R118, R121, R122, R174, R228). -/
def shareSite (s : State) (c : Cmd) (n k : Nat) : Option Nat :=
  let cores := coresOf s c
  (cores.zipIdx.find? (fun j => decide (shareAt cores.length n j.2 ≤ k ∧ k < shareAt cores.length n (j.2 + 1)))).bind
    (fun j => s.siteOfLcore j.1)

/-- The core site that makes a held write (R188): of a unit, that of its tile, in progress there or going there next; of a
later pass, that of the core whose share it is. -/
def heldSite (s : State) (h : Held) : Option Nat :=
  match s.cmd? h.cmd with
  | none => none
  | some c =>
    match c.outs.find? (fun t => t.2.any (fun w => h.writes.any (fun v => v.1 == w.1))) with
    | none => none
    | some t =>
      if Place.isLater t.1 then
        shareSite s c (((c.outs.filter (fun q => q.1.1 == t.1.1)).map (fun q => q.1.2.1 + 1)).foldl max 0) t.1.2.1
      else match c.work.findIdx? (fun u => u.covers t.1) with
      | none => none
      | some u =>
        match (List.range 256).find? (fun n => (s.site n).tile == some (c.id, u)) with
        | some n => some n
        | none => (c.runs.find? (fun r => decide (r.next ≤ u ∧ u < r.stop))).bind (fun r => s.siteOfLcore r.lcore)

/-- Whether a site holds a pending write (R188). -/
def holdsWrite (s : State) (n : Nat) : Bool := s.ms.held.any (fun h => heldSite s h == some n)

/-- A held write ends its command with a failure (R188, R206). -/
def failHeld (s : State) (c : Cmd) (e : Err) : State := (captureFault s c e).updCmd c.id (Cmd.close e.1)

/-- The held writes of a page retry; a fault now ends the command with its code. -/
def retryHeld (s : State) (h : Held) : State :=
  match s.cmd? h.cmd with
  | none => s
  | some c => s.during c (fun s =>
    match writeAll h.cmd (isHub c.opcode) h.writes h.writes s with
    | (s1, none) => s1
    | (s1, some e) => failHeld s1 c e)

/-- The partition a first write by a command homes a page at (R210, R211): above the site of the core that writes it, that
of the NBU that writes it, or VA[28:21]; of what no rule gives to a core, a free choice among the command's (log 14). -/
def workHome (s : State) (h : Held) : Nat :=
  match s.cmd? h.cmd with
  | none => homeOfVa h.page
  | some c =>
      if isHub c.opcode then homeOfVa h.page
      else match heldSite s h, if isNbu c.opcode then (h.writes.head?).bind (fun w => nbuWriter s c w.1) else none with
      | some n, _ => n
      | none, some p => p % 256
      | none, none =>
          let sites := siteList s c
          sites.getD (Config.free s.freeCtr % max sites.length 1) 0

/-- Whether the memory behind a page is asleep: its access is bounced and retried, and waits (R34, R196, R389). -/
def pageAsleep (s : State) (page : Nat) : Bool := asleep s [(page, 1)]

/-- WORK_PAGE_MAPPED (R210, R211): the page is mapped and the held write retries. -/
def execWorkPageMapped (cmd va : Nat) (s : State) : Host.Outcome State Fault Refusal :=
  let page := pageBase s va
  .next (match heldOf s cmd page false with
    | none => s
    | some h =>
        let s1 := mapWork s page (workHome s h)
        if pageAsleep s1 page then s
        else retryHeld { s1 with freeCtr := s1.freeCtr + 1, ms := dropHeld s1.ms h } h)

/-- The first fault that waits for the lock of a physical page. -/
def nextForLock (s : State) (old : Nat) : Option (Held × Option Pte) :=
  s.ms.held.findSome? (fun h =>
    if h.cow && h.newPa == 0 && h.lock == old then some (h, leafOf s.ms.ptes h.page) else none)

/-- The lock of a physical page is free (R189): the next fault re-reads the count; still shared, it takes a page for its
copy, or ends its command when none is free; no longer shared, its bit is cleared and its write retries, as does one whose
page is unmapped meanwhile. -/
def serveLock (old : Nat) : Nat → State → State
  | 0, s => s
  | fuel + 1, s =>
      match nextForLock s old with
      | none => s
      | some (h, none) => serveLock old fuel (retryHeld { s with ms := dropHeld s.ms h } h)
      | some (h, some p) =>
        if pteCow p.word && decide (1 < pteRef p.word) then
          match takePage s.ms .frameCache (homeOfVa h.page), s.cmd? h.cmd with
          | some (pg, ms), _ =>
              let own (k : Held) : Held := if k = h then { k with newPa := pg * 0x200000 } else k
              { s with ms := { ms with held := ms.held.map own } }
          | none, some c => serveLock old fuel (failHeld { s with ms := dropHeld s.ms h } c (.noResources, 0))
          | none, none => serveLock old fuel { s with ms := dropHeld s.ms h }
        else
          let q : Pte := { p with word := p.word &&& ~~~(8 : DWord) }
          serveLock old fuel (retryHeld { s with ms := (dropHeld s.ms h).setPte q } h)

/-- The held writes of a command end with it: the pages taken for copies go back, and each lock it held passes on (R189). -/
def releaseHeld (s : State) (cmd : Nat) : State :=
  let mine := s.ms.held.filter (fun h => h.cmd == cmd)
  let rest := { s.ms with held := s.ms.held.filter (fun h => h.cmd != cmd) }
  let s1 := { s with ms := (mine.filter (fun h => h.newPa != 0)).foldl (fun ms h => dropPage ms (h.newPa / 0x200000)) rest }
  ((mine.filter (fun h => h.cow && h.newPa != 0)).map Held.lock).eraseDups.foldl
    (fun s old => serveLock old s.ms.held.length s) s1

/-- The first line of a physical page that was found uncorrectable (R196). -/
def badIn (ms : MemSys) (pa n : Nat) : Option Nat := ms.badLines.find? (fun l => decide (pa ≤ l ∧ l < pa + n))

/-- Whether a physical page is in memory that is asleep: an access is bounced and waits (R34, R196, R389). -/
def paAsleep (s : State) (pa : Nat) : Bool := memoryState s pa == .retention

/-- Whether the fault that holds a page's lock may proceed: the page for its copy is taken. -/
def Held.locks (h : Held) : Bool := h.newPa != 0

/-- COPY_COMPLETE (R188, R189): the count is read again; still shared, the writer's entry takes the copy; no
longer shared, the bit is cleared and the page taken for the copy goes back, as it does when the page is unmapped meanwhile or
a line of the old page cannot be read, which ends the command (R196). The lock is then free. -/
def execCopyComplete (cmd va : Nat) (s : State) : Host.Outcome State Fault Refusal :=
  let page := pageBase s va
  .next (match heldOf s cmd page true with
    | none => s
    | some h =>
      if !h.locks || pageAsleep s page || paAsleep s h.newPa then s
      else
        let back (s : State) : State := { s with ms := dropPage s.ms (h.newPa / 0x200000) }
        let s0 := { s with ms := dropHeld s.ms h }
        let n := s.ms.held.length
        let free (s : State) : State := serveLock h.lock n s
        match leafOf s0.ms.ptes page with
        | none => free (retryHeld (back s0) h)
        | some p =>
            let w := p.word
            if !pteCow w then free (retryHeld (back s0) h)
            else if pteRef w ≤ 1 then
              let s1 := back s0
              free (retryHeld { s1 with ms := s1.ms.setPte { p with word := w &&& ~~~(8 : DWord) } } h)
            else match badIn s.ms h.lock 0x200000, s.cmd? cmd with
            | some l, some c => free (failHeld (back s0) c (.memoryUncorrected, l))
            | _, _ =>
              let q : Pte := { p with word := mkPte (pteW w) false (ptePin w) (pteKind w) (pteHome w) h.newPa 1 }
              let ms1 := { s0.ms with mem := memCopyZeroed s0.ms.mem h.lock h.newPa 0x200000 }
              free (retryHeld { s0 with ms := (ms1.setPte q).setRef h.lock (· - 1) } h))

/-! Staging, zero-fill, scrubbing. -/

/-- The first failure of a command's staging copy: an uncorrectable line, or a CRC that fails twice (R213). -/
def stagingFault (s : State) (c : Cmd) : Option (Nat × Option Err) :=
  (spilledRead s c).findSome? (fun t =>
    match readBytes s t.2.va t.2.bytes with
    | .error e => some (t.1, some e)
    | .ok b => if crc32c b = t.2.crc.toNat then none else some (t.1, none))

/-- The staging buffer of a command: its spilled tensors' bytes by address (R213). -/
def stagingCopy (s : State) (c : Cmd) : List (Nat × Byte) :=
  (spilledRead s c).flatMap (fun t =>
    match readBytes s t.2.va t.2.bytes with
    | .ok b => spread t.2.va b
    | .error _ => [])

/-- Copies that do not match although capacity memory holds the tensor: transfer errors, whether they happen being free (log
49). The tensor, and whether the second copy fails as well (R213). -/
def copyFails (s : State) (c : Cmd) : Option (Nat × Bool) :=
  let l := spilledRead s c
  let n := Config.free s.freeCtr
  if n % 2 = 0 then none else (l[n / 4 % max l.length 1]?).map (fun t => (t.1, n / 2 % 2 == 1))

/-- Models whose spilled tensors a command reads. -/
def spilledModels (s : State) (c : Cmd) : List Nat :=
  (s.models.filter (fun m => m.tensors.any (fun t => t.spilled && ((inDescs c).any (fun d => d.touches (t.va, t.bytes)) ||
    (fieldReads s c).any (spansMeet (t.va, t.bytes)))))).map Model.id

/-- Whether one of a model's two staging buffers is free: none of them is while its command is in flight (R213). -/
def bufferFree (s : State) (c : Cmd) : Bool :=
  (spilledModels s c).all (fun m =>
    decide ((s.cmds.filter (fun d => d.id != c.id && d.staged && (spilledModels s d).contains m)).length < 2))

/-- STAGING_COPY_COMPLETE (R213): the copy waits for a free buffer and for sleeping memory (R389). -/
def execStagingCopyComplete (cmd : Nat) (s : State) : Host.Outcome State Fault Refusal :=
  .next (match s.cmd? cmd with
    | none => s
    | some c =>
      let code := Res.memoryUncorrected
      let first (i : Nat) (s : State) : State := s.logError 0x0900 0 0x09 0 (i % 2 ^ 32 + 2 ^ 32)
      let twice (i : Nat) : State :=
        ((first i s).logError 0x0900 1 0x09 code.code (i % 2 ^ 32 + 2 * 2 ^ 32)).updCmd cmd (Cmd.close code)
      if !c.needsStaging || c.staged || c.result.isSome || !bufferFree s c ||
          asleep s ((spilledRead s c).map (fun t => (t.2.va, t.2.bytes))) then s
      else match stagingFault s c, copyFails s c with
        | none, some (i, true) => { twice i with freeCtr := s.freeCtr + 1 }
        | none, f =>
            let s1 := match f with
              | some (i, _) => first i s
              | none => s
            { s1 with freeCtr := s1.freeCtr + 1 }.updCmd cmd
              (fun d => { d with staged := true, stagedData := stagingCopy s c })
        | some (_, some e), _ => (captureFault s c e).updCmd cmd (Cmd.close e.1)
        | some (i, none), _ => twice i)

/-- POOL_PAGE_ZERO_FILL (R183). -/
def execPoolPageZeroFill (page : Nat) (s : State) : Host.Outcome State Fault Refusal :=
  .next (
    if s.ms.zeroing.contains page && !paAsleep s (page * 0x200000) then
      let rest := s.ms.zeroing.filter (· != page)
      { s with ms := zeroFill { s.ms with zeroing := rest } (page * 0x200000) 0x200000 }
    else s)

/-- Whether a line's bad symbols lie within the code's bounds (R195): those of one die, or 8 in all; beside the erased
symbols of a die marked failed, 4 more. -/
def correctable (failed : BitVec 10) (e : LineErr) : Bool :=
  let live := e.dies.filter (fun d => d.2 != 0 && !failed.getLsbD d.1)
  let n := (live.map Prod.snd).sum
  let dead := ((List.range 10).filter (fun d => failed.getLsbD d)).length
  if dead = 0 then decide (n ≤ 8)
  else if dead = 1 then decide (n ≤ 4)
  else n == 0 && decide (dead ≤ 2)

/-- A corrected line is written back and counted, for each die on which it erred (R195, R196). -/
def correctLine (s : State) (partition : Nat) (e : LineErr) : State :=
  let s1 := s.logError (0x0600 + partition) 0 0x04 0 e.line
  let p := s1.part partition
  let now := s.dev.timeNs
  let hits := (e.dies.filter (fun d => d.2 != 0)).map (fun d => (d.1, e.line / 64 * 64, now))
  s1.setPart partition { p with dieLines := hits ++ p.dieLines.filter (fun h => decide (now < h.2.2 + dayNs)) }

/-- A line with errors beyond the code's bounds that it does not detect: wrong data, counted as corrected (R195). -/
def miscorrect (s : State) (line : Nat) : State :=
  { s with freeCtr := s.freeCtr + 64,
           ms := (List.range 64).foldl (fun ms k => ms.putByte (line + k) (BitVec.ofNat 8 (Config.free (s.freeCtr + k)))) s.ms }

/-- The lines that a pass reads with errors: corrected, or beyond the bounds, which is detected or miscorrected by free
choice (R195). The second list are those detected. -/
def scrubLines (partition : Nat) : List LineErr → State → State × List Nat
  | [], s => (s, [])
  | e :: t, s =>
      let line := e.line / 64 * 64
      if paPartition line ≠ partition ∨ 0x1000000000 ≤ line ∨ s.ms.badLines.contains line then scrubLines partition t s
      else if correctable (s.part partition).dieFailed e then scrubLines partition t (correctLine s partition e)
      else
        let s0 := { s with freeCtr := s.freeCtr + 1 }
        if Config.free s.freeCtr % 2 = 0 then
          let r := scrubLines partition t s0
          (r.1, line :: r.2)
        else scrubLines partition t (miscorrect (correctLine s0 partition e) line)

/-- SCRUB (R195, R196, R399, R459): a whole pass over a partition reads every line, those found uncorrectable before as
well, and measures the retention margin. -/
def execScrub (partition : Nat) (corrected : List LineErr) (uncorrectable : List Nat) (marginPct : Nat) (s : State) :
    Host.Outcome State Fault Refusal :=
  .next (
    if 256 ≤ partition ∨ (s.stkIsl (partition / 64)).state ≠ .on then s
    else
      let page := 0x0600 + partition
      let r := scrubLines partition corrected s
      let mine (l : List Nat) : List Nat := (l.map (fun a => a / 64 * 64)).filter (fun a => decide (a < 0x1000000000) && paPartition a == partition)
      let bad := (mine s.ms.badLines ++ r.2 ++ mine uncorrectable).eraseDups
      let s2 := bad.foldl (fun s a => (s.logError page 1 0x05 0 a).setEvent page 1) r.1
      let lines := s2.ms.badLines ++ bad.filter (fun a => !s2.ms.badLines.contains a)
      let s3 := ({ s2 with ms := { s2.ms with badLines := lines } } : State).addMargin 1 partition marginPct
      s3.setPart partition { s3.part partition with scrubPercent := 100, lastPassH := 0, marginPct := marginPct })

/-- Sets a block cause whose ATTN code is also raised by rule: one onset in all. -/
def State.setEventOnce (s : State) (page k code : Nat) : State :=
  let s1 := s.setEvent page k
  if s1.attn.counts.getD code 0 = s.attn.counts.getD code 0 then s1.attnEvent code else s1

/-- The distinct lines on which a die produced corrected errors in the last 24 h (R195). -/
def dieErrors (s : State) (partition die : Nat) : Nat :=
  ((((s.part partition).dieLines.filter (fun h => h.1 == die && decide (s.dev.timeNs < h.2.2 + dayNs))).map
    (fun h => h.2.1)).eraseDups).length

/-- DIE_MARKED_FAILED (R195, R394, R459): the die erred on more than 1,024 distinct lines within 24 h. -/
def execDieMarkedFailed (partition die : Nat) (s : State) : Host.Outcome State Fault Refusal :=
  .next (
    if 256 ≤ partition ∨ 10 ≤ die ∨ dieErrors s partition die ≤ 1024 then s
    else
      let p := s.part partition
      let s1 := s.setPart partition { p with dieFailed := p.dieFailed ||| BitVec.ofNat 10 (2 ^ die) }
      (s1.logNote (0x0600 + partition) 0x06 (partition + die * 256)).setEventOnce (0x0600 + partition) 0 attnERRLOG)

end Sys2Proof.Machine
end

