-- ==== Sys2Proof/Machine/Control.lean ====
section
/-! DEFINITION. Control commands (R293 to R300). A control row names a context; it runs when the next command
of that context is the row's, the context is issuing and `WAIT_EV` is satisfied (R288); otherwise nothing
changes (log 3). -/

namespace Sys2Proof.Machine

/-! The place of a context. -/

/-- A return offset past the end of its version. -/
def endPc : Nat := 2 ^ 20

/-- Control returns through the calls whose graphs have ended; at the top level issue stops (R299). -/
def unwind : List Frame → Ctx → Ctx
  | [], x => { x with issuing := false, calls := [] }
  | f :: t, x =>
      let x := { x with calls := t, pcGraph := f.graph, pcVer := f.ver, orbits := x.orbits.take f.depth }
      if f.unit < endPc then { x with pc := f.unit } else unwind t x

/-- Goes to an offset of the running version, or past its end. -/
def Ctx.goto (x : Ctx) (t : Option Nat) : Ctx :=
  match t with
  | some n => { x with pc := n }
  | none => unwind x.calls x

/-- The version a context executes. -/
def State.verOf (s : State) (x : Ctx) : Option Version := (s.graph? x.pcGraph).bind (fun g => g.version? x.pcVer)

/-- Clusters that receive a part: those of the mask whose tile is in service (R304, R381). -/
def partClusters (s : State) (mask : List Nat) : List Nat := mask.filter s.clusterUp

/-- The key of a `COLLECTIVE` and the role that it is issued under (R344, R355). -/
def collKey (u : Unit64) (sregs : List DWord) (asTwin : Bool) : Nat × Nat × Bool :=
  ((parseCol u).group, colTag (parseCol u) sregs, asTwin)

/-- The keys in flight (R344). -/
def keysInFlight (s : State) : List (Nat × Nat × Bool) :=
  ((s.cmds.filter (fun c => c.opcode == 0x10)).map (fun c =>
    collKey c.u0 c.sregs (((s.ctx? c.ctx).map Ctx.asTwin).getD false))).eraseDups

/-- Whether a command can take its credits, queue place and key (R288, R305, R338, R344). -/
def canIssue (s : State) (x : Ctx) (us : List Unit64) : Bool :=
  let u := us.getD 0 []
  let op := hdrOpcode u
  (partClusters s (maskClusters (hdrMask u))).all (fun k => decide (0 < (s.cluster k).credits)) &&
  (op != 0x11 || decide (s.vcc.decQueue.length < 128)) && (op != 0x12 || decide (s.vcc.encQueue.length < 128)) &&
  (op != 0x10 || (keysInFlight s).contains (collKey u x.sregs x.asTwin) || decide ((keysInFlight s).length < 256))

/-- Commands of a context in flight. -/
def inFlight (s : State) (ctx : Nat) : List Nat := (s.cmds.filter (fun c => c.ctx == ctx)).map Cmd.id

/-- The next command of a context that issues, when no boundary holds it (R365) and its wait event is satisfied
(R288). -/
def waitingOf (s : State) (ctx : Nat) : Option (Ctx × Version × List Unit64) :=
  match s.ctx? ctx with
  | none => none
  | some x =>
    match s.verOf x with
    | none => none
    | some v =>
      let us := v.unitsAt x.pc
      if x.state = .running ∧ x.issuing = true ∧ x.ckptCmd = none ∧ us ≠ [] ∧ x.satisfied (hdrWait (us.getD 0 [])) = true
      then some (x, v, us) else none

/-- Whether the events that a `WAIT_EVENT` lists are satisfied (R294). -/
def eventsMet (x : Ctx) (u : Unit64) : Bool := (List.range 4).all (fun k => x.satisfied (leAt u (8 + 2 * k) 2))

/-- Whether a context's core could take its next command now: nothing holds its issue (R288, R294). -/
def canGo (s : State) (ctx : Nat) : Bool :=
  match waitingOf s ctx with
  | none => false
  | some (x, _, us) =>
    let u := us.getD 0 []
    if hdrOpcode u < 0x80 then canIssue s x us
    else if hdrOpcode u = 0x85 then eventsMet x u
    else if hdrOpcode u = 0x8A then (inFlight s ctx).isEmpty
    else true

/-- Whether it is a context's turn: none of its core's contexts that could go stands before it in the round (R303). -/
def inTurn (s : State) (ctx : Nat) : Bool :=
  let key (n : Nat) : Nat := (n + 65536 - s.turns.getD (ctx % 4) 0) % 65536
  s.ctxs.all (fun y => y.num == ctx || y.num % 4 != ctx % 4 || decide (key ctx ≤ key y.num) || !canGo s y.num)

/-- The command cache takes some segments of a graph's version, 64 KiB each; of its 128 places the ones filled last stay
(R300, R303; log 13). -/
def cacheSegs (graph ver : Nat) (ks : List Nat) (l : List (Nat × Nat × Nat)) : List (Nat × Nat × Nat) :=
  let new := ks.map (fun k => (graph, ver, k))
  (new ++ l.filter (fun e => !new.contains e)).take 128

/-- Of the segments of a version: the one at `k` and the next two in segment order (R303). -/
def segsFrom (n k : Nat) : List Nat := (List.range n).filter (fun j => decide (k ≤ j ∧ j ≤ k + 2))

/-- The context's core has taken a command from it; the round goes on after it, and the command cache holds the executing
segment and the next two (R303). -/
def State.turned (s : State) (ctx : Nat) : State :=
  let cache := match (s.ctx? ctx).bind (fun x => (s.verOf x).map (fun v => (x, v))) with
    | some (x, v) => cacheSegs x.pcGraph x.pcVer (segsFrom v.segs.length (x.pc / 1024)) s.cmdCache
    | none => s.cmdCache
  { s with turns := updAt s.turns (ctx % 4) (fun _ => (ctx + 1) % 65536), cmdCache := cache }

/-- A context whose next command may run now (R288, R303, R365). -/
def nextOf (s : State) (ctx : Nat) : Option (Ctx × Version × List Unit64) :=
  if inTurn s ctx then waitingOf s ctx else none

/-- Runs a control command of the given opcode: `f` gives the context after it, or fails the request with
`BAD_DESCRIPTOR`; its event is signalled as it executes (R290). -/
def runControl (s : State) (ctx op : Nat) (f : Ctx → Version → Unit64 → Option Ctx) : State :=
  match nextOf s ctx with
  | none => s
  | some (x, v, us) =>
    let u := us.getD 0 []
    if hdrOpcode u = op then
      match f x v u with
      | none => (s.turned ctx).setCtx (x.fail .badDescriptor)
      | some y => (s.turned ctx).setCtx (y.bumpEvent (hdrSignal u) 1 1)
    else s

/-- The context after its command, in program order. -/
def Ctx.step (x : Ctx) (v : Version) : Ctx := x.goto (v.next x.pc)

/-! Sources and scalar operations (R296, R297). -/

/-- A src byte's operand; none when it names an orbit level that is not open. -/
def Ctx.src (x : Ctx) (b : Nat) (imm : DWord) : Option DWord :=
  match b / 64 with
  | 0 => some (x.sreg (b % 64))
  | 1 => (x.orbits[b % 4]?).map (fun o => BitVec.ofNat 64 o.c)
  | 2 => some imm
  | _ => some (if x.pred (b % 8) then 1 else 0)

def lowF32 (a : DWord) : Val := f32 (a.toNat % 2 ^ 32)
def ofF32 (v : Val) : DWord := BitVec.ofNat 64 (toF32 v)

/-- `DST` := A op B (R297). -/
def scalarFn (op : Nat) (a b : DWord) : DWord :=
  match op with
  | 0 => a
  | 1 => a + b
  | 2 => a - b
  | 3 => a * b
  | 4 => a &&& b
  | 5 => a ||| b
  | 6 => a ^^^ b
  | 7 => a <<< (b.toNat % 64)
  | 8 => a >>> (b.toNat % 64)
  | 9 => a.sshiftRight (b.toNat % 64)
  | 10 => if a.toInt ≤ b.toInt then a else b
  | 11 => if a.toInt ≤ b.toInt then b else a
  | 12 => if a.toNat ≤ b.toNat then a else b
  | 13 => if a.toNat ≤ b.toNat then b else a
  | 14 => ofF32 (fadd (lowF32 a) (lowF32 b))
  | 15 => ofF32 (fsub (lowF32 a) (lowF32 b))
  | 16 => ofF32 (fmul (lowF32 a) (lowF32 b))
  | 17 => ofF32 ((lowF32 a).min (lowF32 b))
  | 18 => ofF32 ((lowF32 a).max (lowF32 b))
  | 19 => ofF32 (Val.ofInt a.toInt)
  | _ => BitVec.ofInt 64 (satInt (-9223372036854775808) 9223372036854775807 .rne 0 (lowF32 a))

/-- The comparison of `SET_PRED` (R296). -/
def predTest (typ cmp : Nat) (a b : DWord) : Bool :=
  match typ with
  | 0 => Val.test cmp (Val.ofInt a.toInt) (Val.ofInt b.toInt)
  | 1 => Val.test cmp (Val.ofInt a.toNat) (Val.ofInt b.toNat)
  | _ => Val.test cmp (lowF32 a) (lowF32 b)

/-! The rows. -/

/-- `NOP` (R293). -/
def execNop (ctx : Nat) (s : State) : Host.Outcome State Fault Refusal :=
  .next (runControl s ctx 0x80 (fun x v _ => some (x.step v)))

/-- The offset after the `ORBIT_END` that matches an open `ORBIT_BEGIN`: the rest of the version, `depth`
nested orbits open. -/
def afterOrbit (v : Version) : List (Nat × List Unit64) → Nat → Option Nat
  | [], _ => none
  | (off, us) :: t, depth =>
      let op := hdrOpcode (us.getD 0 [])
      if op = 0x81 then afterOrbit v t (depth + 1)
      else if op = 0x82 then (if depth = 0 then v.next off else afterOrbit v t (depth - 1))
      else afterOrbit v t depth

/-- `ORBIT_BEGIN` (R295). -/
def execOrbitBegin (ctx : Nat) (s : State) : Host.Outcome State Fault Refusal :=
  .next (runControl s ctx 0x81 (fun x v u =>
    let n := if fld u 8 21 1 = 1 then (x.sreg (fld u 12 0 6)).toNat else fld u 8 0 21
    if 4 ≤ x.orbits.length ∨ 1048576 < n then none
    else if n = 0 then
      some (x.goto (afterOrbit v ((versionCmds v.segs).filter (fun c => decide (x.pc < c.1))) 0))
    else
      match v.next x.pc with
      | some body => some { x with pc := body, orbits := x.orbits ++ [⟨n, 0, body⟩] }
      | none => none))

/-- `ORBIT_END` (R295); it ends the first resumed orbit once its step has run (R237). -/
def execOrbitEnd (ctx : Nat) (s : State) : Host.Outcome State Fault Refusal :=
  .next (runControl s ctx 0x82 (fun x v u =>
    match x.orbits.getLast? with
    | none => none
    | some o =>
        let c := o.c + 1
        let quit := fld u 8 3 1 == 1 && (x.pred (fld u 8 0 3) != (fld u 8 4 1 == 1))
        let x := if x.fullStep then { x with inFull := false, fullStep := false } else x
        let y := if quit && decide (c < o.n) then x.note .okEarlyExit else x
        if quit || c == o.n then some ({ y with orbits := y.orbits.dropLast }.step v)
        else some { y with pc := o.body, orbits := y.orbits.dropLast ++ [{ o with c := c }] }))

/-- `SET_PRED` (R296). -/
def execSetPred (ctx : Nat) (s : State) : Host.Outcome State Fault Refusal :=
  .next (runControl s ctx 0x83 (fun x v u =>
    let imm := BitVec.ofNat 64 (leAt u 16 8)
    match x.src (byteAt u 12) imm, x.src (byteAt u 13) imm with
    | some a, some b =>
        let r := predTest (fld u 8 6 2) (fld u 8 3 3) a b
        let d := fld u 8 0 3
        let old := x.pred d
        let comb := fld u 8 8 2
        some ((x.setPred d (if comb = 0 then r else if comb = 1 then old && r else old || r)).step v)
    | _, _ => none))

/-- `JUMP_IF` (R298). -/
def execJumpIf (ctx : Nat) (s : State) : Host.Outcome State Fault Refusal :=
  .next (runControl s ctx 0x84 (fun x v u =>
    let p := x.pred (fld u 8 0 3)
    let cond := fld u 8 3 2
    if cond = 0 ∨ (cond = 1 ∧ p = true) ∨ (cond = 2 ∧ p = false) then
      some (x.goto (unitAhead v.lens x.pc (leAt u 12 3)))
    else some (x.step v)))

/-- `WAIT_EVENT` (R294): it holds issue until its events are satisfied. -/
def execWaitEvent (ctx : Nat) (s : State) : Host.Outcome State Fault Refusal :=
  .next (match nextOf s ctx with
    | none => s
    | some (x, _, us) =>
      if eventsMet x (us.getD 0 []) then
        runControl s ctx 0x85 (fun x v _ => some (x.step v))
      else s)

/-- `SIGNAL_EVENT` (R294): its event is signalled once every command issued before it has completed. -/
def execSignalEvent (ctx : Nat) (s : State) : Host.Outcome State Fault Refusal :=
  .next (match nextOf s ctx with
    | none => s
    | some (x, v, us) =>
      let u := us.getD 0 []
      let ev := hdrSignal u
      if hdrOpcode u ≠ 0x86 then s
      else
        let before := inFlight s ctx
        if before.isEmpty then (s.turned ctx).setCtx ((x.step v).bumpEvent ev 1 1)
        else
          let y := (x.step v).bumpEvent ev 1 0
          (s.turned ctx).setCtx { y with lateSignals := y.lateSignals ++ [(ev, before)] })

/-- `FENCE` (R294): it holds issue until every command issued before it has completed. -/
def execFence (ctx : Nat) (s : State) : Host.Outcome State Fault Refusal :=
  .next (if (inFlight s ctx).isEmpty then runControl s ctx 0x8A (fun x v _ => some (x.step v)) else s)

/-- The version a call runs: the one pinned by this launch's first call of the graph, else the current one; a deleted graph
has none (R299, R311). -/
def calleeVersion (s : State) (x : Ctx) (id : Nat) : Option Nat :=
  match s.graph? id, s.graph? x.pcGraph with
  | some g, some own => if !g.deleted && g.model == own.model then some ((alFind id x.pins).getD g.cur) else none
  | _, _ => none

/-- `CALL_GRAPH` (R299). -/
def execCallGraph (ctx : Nat) (s : State) : Host.Outcome State Fault Refusal :=
  .next (repin (runControl s ctx 0x87 (fun x v u =>
    let id := fld u 8 0 12
    if 4 ≤ x.calls.length then none
    else match calleeVersion s x id with
      | none => none
      | some n =>
          let back : Frame := ⟨x.pcGraph, x.pcVer, (v.next x.pc).getD endPc, x.orbits.length⟩
          some { x with
            calls := back :: x.calls
            pins := if (alFind id x.pins).isSome then x.pins else x.pins ++ [(id, n)]
            pcGraph := id
            pcVer := n
            pc := 0 })))

/-- `RETURN` (R299). -/
def execRet (ctx : Nat) (s : State) : Host.Outcome State Fault Refusal :=
  .next (runControl s ctx 0x88 (fun x _ _ => some (unwind x.calls x)))

/-- The cluster TLBs take the translations of a descriptor's mapped pages (R300, R204). -/
def prefetchPages (s : State) (d : Desc) : State :=
  let hit := s.ms.leaves.filter (fun p => !pteMalformed p && spansMeet d.span (p.idx <<< levelShift p.level, 2 ^ levelShift p.level))
  let up := (List.range 16).filter (tlbUp s)
  let fill (ms : MemSys) (p : Pte) : MemSys := up.foldl (fun ms n => fillTlb (Config.free (s.freeCtr + n)) ms n p) ms
  { s with freeCtr := s.freeCtr + 16, ms := hit.foldl fill s.ms }

/-- The command cache takes the first two segments of a graph's current version (R300). -/
def prefetchGraph (s : State) (id : Nat) : State :=
  match (s.graph? id).bind (fun g => if g.deleted then none else g.version? g.cur) with
  | some v => { s with cmdCache := cacheSegs id v.num ((List.range v.segs.length).take 2) s.cmdCache }
  | none => s

/-- `PREFETCH` (R300). -/
def execPrefetch (ctx : Nat) (s : State) : Host.Outcome State Fault Refusal :=
  .next (match nextOf s ctx with
    | none => s
    | some (x, _, us) =>
      let u := us.getD 0 []
      let s1 := runControl s ctx 0x89 (fun x v _ => some (x.step v))
      let d := parseDesc x.sregs (us.getD 1 [])
      if hdrOpcode u ≠ 0x89 then s1
      else if fld u 8 0 1 = 1 then prefetchGraph s1 (fld u 12 0 12)
      else if d.good && d.fmt?.isSome && d.count != 0 then prefetchPages s1 d
      else s1)

/-- `SCALAR_OP` (R297). -/
def execScalarOp (ctx : Nat) (s : State) : Host.Outcome State Fault Refusal :=
  .next (runControl s ctx 0x8B (fun x v u =>
    let imm := BitVec.ofNat 64 (leAt u 16 8)
    match x.src (byteAt u 10) imm, x.src (byteAt u 11) imm with
    | some a, some b => some ((x.setSreg (fld u 9 0 6) (scalarFn (fld u 8 0 5) a b)).step v)
    | _, _ => none))

/-- `TIMESTAMP` (R294). -/
def execTimestamp (ctx : Nat) (s : State) : Host.Outcome State Fault Refusal :=
  .next (runControl s ctx 0x8C (fun x v u =>
    some ((x.setSreg (fld u 8 0 6) (BitVec.ofNat 64 s.dev.timeNs)).step v)))

end Sys2Proof.Machine
end

