-- ==== Sys2Proof/Machine/Tile.lean ====
section
/-! DEFINITION. A tile on its core: `CORE_ARR_CFG` and `CORE_ARR_STATUS`, the slots of the matrix array with its banks
and slice buffers (R75 to R80, R97 to R102), and the lines of the cluster's cache (R194). -/

namespace Sys2Proof.Machine

/-- `CORE_ARR_CFG` for a unit of a command (R97, R99). It keeps its value after the tile; a tile that does not use the
array sets 0; of the several products of an `ATTN_FWD` or `ATTN_BWD` tile the formats shown are those of Q and K, the first
(DESIGN CHOICE: log 9). -/
def arrCfg (c : Cmd) (u : WorkUnit) : Word :=
  let pair (a b : Nat) : Nat := a * 256 + b * 65536
  if u.rows = 0 then 0
  else match c.opcode with
  | 0x01 =>
      let x := parseMm c.u0
      let tr := x.drain == 0 && decide (x.n < 8) && decide (8 ≤ x.m)
      BitVec.ofNat 32 (x.mode + x.drain * 16 + (if tr then 64 else 0) + pair (c.desc 1).code (c.desc 2).code)
  | 0x02 =>
      let x := parseCv c.u0
      let r := cvRect x (c.desc 1) (c.desc 2)
      let tr := x.groups == 1 && decide ((cvDims x (c.desc 1) (c.desc 2)).cout < 8) && decide (8 ≤ r.1 * r.2)
      BitVec.ofNat 32 ((if tr then 64 else 0) + pair (c.desc 1).code (c.desc 2).code)
  | 0x04 =>
      let x := parseAt c.u0
      BitVec.ofNat 32 (pair (c.desc 1).code (if x.cache then x.kvFmt else (c.desc 2).code))
  | 0x05 => BitVec.ofNat 32 (pair (c.desc 1).code (c.desc 2).code)
  | _ => 0

/-- `CORE_ARR_STATUS` (R100). -/
def Site.arrStatus (x : Site) : Word :=
  let bank (k : Nat) : Nat := ((x.arr.banks[k]?).map Bank.state).getD 0
  let full (k : Nat) : Bool := ((x.arr.slices[k]?).bind SliceBuf.set).isSome
  BitVec.ofNat 32 (bank 0 + 4 * bank 1 + (if full 0 then 16 else 0) + (if full 1 then 32 else 0) +
    (if x.tile.isSome then 64 else 0))

/-! Slots. -/

/-- Chunks of the K range of one tile of a unit (R93). -/
def WorkUnit.chunks (u : WorkUnit) : Nat := u.cycles / max u.rows 16 / max u.tiles 1
/-- Valid slots of a tile: one for each row and chunk (R74). -/
def WorkUnit.perTile (u : WorkUnit) : Nat := u.chunks * u.rows
def WorkUnit.slots (u : WorkUnit) : Nat := u.tiles * u.perTile

/-- The unit of a command without a plan: no slots. -/
def noUnit : WorkUnit := ⟨0, 0, 0, 1, 0, 0, 0, 0, (0, 0), 0⟩

/-- Present lanes and second chunk of slot `j` of a K range of `k` lanes in chunks of 64, two to a slot where `wide`
(R75, R77, R84). -/
def kSlot (k : Nat) (wide : Bool) (j : Nat) : Nat × Bool :=
  let ch := cdiv k 64
  let first := if wide then 2 * j else j
  let second := wide && decide (first + 1 < ch)
  let last := if second then first + 1 else first
  (if last + 1 < ch then 64 else (k - 1) % 64 + 1, second)

/-- The K ranges that a tile of a command reduces one after the other for each row, each with whether two chunks share a
slot: of `MATMUL` its own (R93), of `CONV` one for each tap (R129, R137) or, packed depthwise, two taps a chunk of 64 lanes
(R138), of attention for each key block D for each of 2 column tiles of keys and the block's 64 keys for each of the columns
of D (R173, R175, R179). -/
def kRanges (s : State) (c : Cmd) (u : WorkUnit) : List (Nat × Bool) :=
  match c.opcode with
  | 0x01 =>
      let x := parseMm c.u0
      let w := x.width (c.desc 1).fmt
      let k := x.unitK w (x.grid (hdrRepro c.u0) (coresOf s c).length (c.desc 1).bytesPer w) u
      [(k.2 - k.1, w == 128)]
  | 0x02 =>
      let x := parseCv c.u0
      let d := cvDims x (c.desc 1) (c.desc 2)
      let gOut := d.cout / max x.groups 1
      let wide := (c.desc 1).fmt != .bf16
      let taps := x.fh * x.fw
      let p := packP d.g gOut
      if d.g == 1 && gOut == 1 then
        [(32 * taps, wide)]
      else List.replicate taps (if x.groups = 1 ∨ p = 0 then (d.g, wide) else (min p (x.groups - u.c * p) * d.g, false))
  | 0x04 =>
      let x := parseAt c.u0
      let wide := (c.desc 1).code != 1
      let blk := 2 * cdiv x.d (if wide then 128 else 64) + cdiv x.d 32
      (List.range (u.chunks / max blk 1)).flatMap (fun _ =>
        List.replicate 2 (x.d, wide) ++ List.replicate (cdiv x.d 32) (64, false))
  | 0x05 =>
      let x := parseAt c.u0
      let per := 4 * cdiv x.d 64 + (if u.c = 1 then 2 else 1) * cdiv x.d 32
      (List.range (u.chunks / max per 1)).flatMap (fun _ =>
        List.replicate 4 (x.d, false) ++ List.replicate ((if u.c = 1 then 2 else 1) * cdiv x.d 32) (64, false))
  | _ => []

/-- Slots that a K range takes for each row. -/
def rangeSlots (r : Nat × Bool) : Nat := if r.2 then cdiv r.1 128 else cdiv r.1 64

/-- The K range that chunk `j` of a tile falls in, and its place there: `LANES`, `PAIR`, and whether it is the first or the
last of the range. -/
def chunkAt : List (Nat × Bool) → Nat → Nat × Bool × Bool × Bool
  | [], _ => (64, false, false, false)
  | r :: t, j =>
      if j < rangeSlots r then
        let q := kSlot r.1 r.2 j
        (q.1, q.2, j == 0, j + 1 == rangeSlots r)
      else chunkAt t (j - rangeSlots r)

/-- Slot `n` of a unit: the rows of a tile pass once for each chunk, its chunks ascend, and the next set of slices is in
the other buffer (R74 to R78). The accumulator entry of `CONV` runs over all its taps (R129); attention's products each have
their own. -/
def slotAt (s : State) (c : Cmd) (x : Arr) (u : WorkUnit) (n : Nat) : ASlot :=
  let t := n / max u.perTile 1
  let m := n % max u.perTile 1
  let j := m / max u.rows 1
  let q := chunkAt (kRanges s c u) j
  let whole := c.opcode == 0x01 || c.opcode == 0x02
  { valid := true, row := m % max u.rows 1, bank := (x.bank + t) % 2, slice := (x.buf + t * u.chunks + j) % 2,
    first := if whole then j == 0 else q.2.2.1, last := if whole then j + 1 == u.chunks else q.2.2.2,
    pair := q.2.1, lanes := q.1, data := s.freeCtr }

/-- Set `k` of the slices that a unit uses, in order; weights that every batch entry shares are one set (R78, R95). -/
def sliceSet (c : Cmd) (u : WorkUnit) (k : Nat) : SliceSet :=
  let shared := (c.opcode == 0x01 && (c.desc (if (parseMm c.u0).transposed then 1 else 2)).rank == 2) || c.opcode == 0x02
  (c.id, if shared then 0 else u.b, u.c + k / max u.chunks 1, u.part, k % max u.chunks 1)

/-- The set that a buffer holds. -/
def Arr.setIn (x : Arr) (k : Nat) : Option SliceSet := (x.slices[k]?).bind SliceBuf.set
/-- The state of a bank. -/
def Arr.bankState (x : Arr) (k : Nat) : Nat := ((x.banks[k]?).map Bank.state).getD 0

/-- The array as the CSQ assigns a unit: the other bank takes its first tile; its first set is loaded anew unless a
buffer still holds it (R78, R79). The drain of the unit before has ended, as a core holds one unit at a time (R73, R117;
log 9). -/
def Arr.assign (x : Arr) (c : Cmd) (u : WorkUnit) : Arr :=
  if u.slots = 0 then { x with issued := 0, total := 0, slot := none }
  else
    let bank := 1 - x.bank
    { x with
      banks := x.banks.zipIdx.map (fun b => { b.1 with state := if b.2 = bank then 1 else 0 }), bank := bank,
      buf := if x.setIn x.buf = some (sliceSet c u 0) then x.buf else 1 - x.buf,
      issued := 0, total := u.slots, slot := none }

/-- A bank on its way from the last slot of its tile to `FREE`: `ACCUMULATING` while slots are in the pipeline,
`AWAIT_DRAIN`, `DRAINING`, `FREE`; it never goes back (R76, R79). -/
def bankOn (free state : Nat) : Nat :=
  match state with
  | 1 => [1, 2, 3, 0].getD (free % 4) 0
  | 2 => [2, 3, 0].getD (free % 3) 0
  | 3 => [3, 0].getD (free % 2) 0
  | _ => 0

/-- The idle buffer as the loader fills it (R78): it keeps the set used before, is being refilled, or holds the next set,
and never loses a complete next set. -/
def idleSet (free : Nat) (old prev next : Option SliceSet) : Option SliceSet :=
  if next.isNone ∨ old = next then old
  else if old = prev then [prev, none, next].getD (free % 3) none
  else [none, next].getD (free % 2) none

/-- The array when `n` slots of the unit have entered. How far a full bank drains, how far the next set is loaded, whether an
invalid slot followed, and the values the array holds are free; the bank of an earlier tile drains before that of a later
(R75, R78, R79; log 9). -/
def Arr.entered (s : State) (c : Cmd) (u : WorkUnit) (x : Arr) (n : Nat) : Arr :=
  if n = 0 then x
  else
    let f (k : Nat) : Nat := Config.free (s.freeCtr + k)
    let q := slotAt s c x u (n - 1)
    let per := max u.perTile 1
    let t := (n - 1) / per
    let t0 := if x.issued = 0 then 0 else (x.issued - 1) / per
    let full := n % per == 0
    let other' := if t = 0 then 0
      else if t0 = t then bankOn (f 0) (x.bankState (1 - q.bank))
      else if t0 + 1 = t then bankOn (f 0) (max 1 (x.bankState (1 - q.bank)))
      else bankOn (f 0) 1
    let mine := if !full then 1
      else if other' = 0 then bankOn (f 1) (if x.issued = n then x.bankState q.bank else 1)
      else [1, 2].getD (f 1 % 2) 1
    let chunk (m : Nat) : Nat := m / per * u.chunks + m % per / max u.rows 1
    let k := chunk (n - 1)
    let fresh := x.issued = 0 ∨ chunk (x.issued - 1) ≠ k
    let next := if k + 1 < u.tiles * u.chunks then some (sliceSet c u (k + 1)) else none
    let prev := if k = 0 then x.setIn (1 - q.slice) else some (sliceSet c u (k - 1))
    let rest := idleSet (f 2) (if fresh then prev else x.setIn (1 - q.slice)) prev next
    let moved := x.issued != n
    let bank (k st : Nat) : Bank := ⟨st, if moved then s.freeCtr + 8192 * k else ((x.banks[k]?).map Bank.acc).getD 0⟩
    let buffer (k : Nat) (v : Option SliceSet) : SliceBuf :=
      ⟨v, if v = x.setIn k then ((x.slices[k]?).map SliceBuf.data).getD 0 else s.freeCtr + 8192 * (2 + k)⟩
    let now := some (sliceSet c u k)
    let slot := if moved then q else x.slot.getD q
    { x with
      banks := if q.bank = 0 then [bank 0 mine, bank 1 other'] else [bank 0 other', bank 1 mine],
      slices := if q.slice = 0 then [buffer 0 now, buffer 1 rest] else [buffer 0 rest, buffer 1 now],
      issued := n, slot := some { slot with valid := slot.valid && (n == x.total || f 3 % 2 == 0) } }

/-- The command and unit of the tile on a site. -/
def State.tileUnit (s : State) (site : Nat) : Option (Cmd × WorkUnit) :=
  (s.site site).tile.bind (fun t => (s.cmd? t.1).bind (fun c => (c.work[t.2]?).map (fun u => (c, u))))

/-- Slots of the tile on a site enter until `n` have: the counters of R80 move unless they are frozen (R101). The tile's
operands and results have gone through the LSM, which holds free values now (R73; log 7). -/
def State.slotsEnter (s : State) (site n starve block : Nat) : State :=
  match s.tileUnit site with
  | none => s
  | some (c, u) =>
    let x := s.site site
    if n < x.arr.issued then s
    else
      let k (m : Nat) : Nat := if x.freeze || x.arr.total ≤ x.arr.issued then 0 else m
      { s.setSite site { x with
        arr := x.arr.entered s c u n, valid := x.valid.bump (k (n - x.arr.issued)),
        starve := x.starve.bump (k starve), block := x.block.bump (k block) } with
        ms := { s.ms with lsm := alSet site s.freeCtr s.ms.lsm, lsmKept := s.ms.lsmKept.filter (fun a => lsmSite a != some site) } }

/-- Before anything reads, clears, freezes or ends a core's counting, the tile on it has progressed by a free number of
slots (R80; log 9). -/
def State.arrProgress (s : State) (site : Nat) : State :=
  let x := s.site site
  if x.tile.isNone || x.fenced then s
  else
    let f (k : Nat) : Nat := Config.free (s.freeCtr + k)
    let n := x.arr.issued + f 4 % (x.arr.total - x.arr.issued + 1)
    { s.slotsEnter site n (f 5) (f 6) with freeCtr := s.freeCtr + 65536 }

/-- The array after its unit: its slots have all entered and drained. -/
def Arr.finish (x : Arr) (u : WorkUnit) : Arr :=
  if x.total = 0 then x
  else { x with
    banks := x.banks.map (fun b => { b with state := 0 }), bank := (x.bank + u.tiles - 1) % 2, buf := (x.buf + u.tiles * u.chunks - 1) % 2,
    issued := 0, total := 0, slot := none }

/-! The cluster cache (R194). -/

/-- A line enters the cache of 16 ways by 8,192 sets; the victim of a full set is a free choice among all but the line that
came last, as a pseudo-LRU may choose (log 13). -/
def cscTake (free : Nat) (csc : List Nat) (line : Nat) : List Nat :=
  let mine := (csc.filter (fun l => l % 8192 == line % 8192)).filter (· != line)
  line :: (if mine.length < 16 then mine else mine.eraseIdx (1 + free % 15)) ++ csc.filter (fun l => l % 8192 != line % 8192)

/-- The 128 B lines of written bytes. -/
def writtenLines (s : State) (ws : List (Nat × Byte)) : List Nat :=
  (ws.filterMap (fun w => (leafOf s.ms.ptes w.1).map (fun p => leafPa p w.1 / 128))).eraseDups

/-- The 128 B lines of stacked and capacity memory that a command reads. -/
def readLines (s : State) (c : Cmd) : List Nat :=
  let spans := (inDescs c).map Desc.span ++ fieldReads s c
  let lines := spans.flatMap (fun x => (List.range ((x.2 + 254) / 128)).map (fun k => (x.1 / 128 + k) * 128))
  ((lines.filterMap (fun a => (leafOf s.ms.ptes a).map (fun p => leafPa p a))).filter
    (fun a => decide (a < 0x1000000000 ∨ 0x400000000000 ≤ a))).map (· / 128) |>.eraseDups

/-- The cache takes the lines that a tile of a command has read, which of the command's is free, and those of its output; a line
used again is the one used last. -/
def State.cscUse (s : State) (cl : Nat) (cmd : Cmd) (ws : List (Nat × Byte)) : State :=
  let c := s.cluster cl
  let all := readLines s cmd
  let read := (all.zipIdx.filter (fun l => Config.free (s.freeCtr + 1 + l.2) % 2 == 1)).map Prod.fst
  let s1 := s.setCluster cl { c with csc := (read ++ writtenLines s ws).foldl (cscTake (Config.free s.freeCtr)) c.csc }
  { s1 with freeCtr := s.freeCtr + 1 + all.length }

end Sys2Proof.Machine
end

