-- ==== Sys2Proof/Machine/Video.lean ====
section
/-! DEFINITION. The codec commands and the events of the video codec complex (R321, R328, R333, R338). -/

namespace Sys2Proof.Machine

/-- The state buffer a codec command names (R321). -/
def codecStateVa (c : Cmd) : Nat :=
  if c.opcode = 0x11 then (parseDec c).stateVa else (parseEnc c.u0).stateVa

def isCodec (c : Cmd) : Bool := c.opcode == 0x11 || c.opcode == 0x12

/-- Earlier commands of the same session that have not finished (R321). -/
def codecAhead (s : State) (c : Cmd) : List Cmd :=
  s.cmds.filter (fun d => isCodec d && decide (d.id < c.id) && d.result.isNone && codecStateVa d == codecStateVa c)

def State.updCodec (s : State) (id : Nat) (f : CodecRun → CodecRun) : State :=
  s.updCmd id (fun c => { c with codec := c.codec.map f })

def State.updEngine (s : State) (e : Nat) (f : Engine → Engine) : State :=
  { s with vcc := { s.vcc with engines := updAt s.vcc.engines e f } }

/-- `HOLDING` of the engine follows its command (R339). -/
def syncHold (s : State) (id : Nat) : State :=
  match (s.cmd? id).bind Cmd.codec with
  | some r =>
    match r.engine with
    | some e => s.updEngine e (fun x => { x with holding := !r.holding.isEmpty })
    | none => s
  | none => s

/-- First queued command that R321 does not block. -/
def nextCodec (s : State) (encode : Bool) : Option Cmd :=
  ((if encode then s.vcc.encQueue else s.vcc.decQueue).filterMap s.cmd?).find? (fun c => (codecAhead s c).isEmpty)

/-- Lowest-numbered idle engine of a direction (R338). -/
def idleEngine (s : State) (encode : Bool) : Option Nat :=
  (if encode then [4, 5] else [0, 1, 2, 3]).find? (fun e => !(s.vcc.engines.getD e Engine.reset).busy)

/-- CODEC_ENGINE_START (R338). -/
def execCodecEngineStart (encode : Bool) (s : State) : Host.Outcome State Fault Refusal :=
  .next (match nextCodec s encode, idleEngine s encode with
    | some c, some e =>
        let codec := if encode then (parseEnc c.u0).codec else (parseDec c).codec
        let s1 := (s.updEngine e (fun x => { x with busy := true, codec := codec, cmd := some c.id })).updCodec c.id
          (fun r => { r with engine := some e })
        let drop (q : List Nat) : List Nat := q.filter (· != c.id)
        let v := s1.vcc
        syncHold { s1 with vcc := { v with decQueue := drop v.decQueue, encQueue := drop v.encQueue } } c.id
    | _, _ => s)

/-- Frees the engine of a command. -/
def freeEngine (s : State) (id : Nat) : State :=
  { s with vcc := { s.vcc with engines := s.vcc.engines.map (fun e =>
    if e.cmd = some id then { e with busy := false, holding := false, cmd := none, codec := 0 } else e) } }

/-- Counts a finished frame on its engine (R328, R339). -/
def Engine.count (o : CodecOut) (e : Engine) : Engine :=
  let hits := min (2 ^ 32 - 1) (e.boundsHits + o.boundsHits)
  { e with frames := e.frames.bump 1, conceal := e.conceal.bump (if o.concealed then 1 else 0),
           abort := e.abort.bump (if o.aborted then 1 else 0), boundsHits := hits }

/-- Ends a codec frame: counters, writes, result, session; the engine is free again. -/
def closeFrame (s : State) (c : Cmd) (r : Except Err CodecOut) : State :=
  match r with
  | .error e => freeEngine ((captureFault s c e).updCmd c.id (Cmd.close e.1)) c.id
  | .ok o =>
      let w := applyOut s c true o.out
      let s1 := w.1.updCmd c.id (Cmd.close w.2)
      let s2 := if w.2 = o.out.res then { s1 with vcc := putSession s1.vcc o.session } else s1
      let s3 := match c.codec.bind CodecRun.engine with
        | some e => s2.updEngine e (Engine.count o)
        | none => s2
      freeEngine s3 c.id

/-- `CODEC_DEC` (R323 to R330): a command on its engine finishes its frame. -/
def execCodecDec (cmd : Nat) (pic : Picture) (s : State) : Host.Outcome State Fault Refusal :=
  .next (match opReady s cmd 0x11 with
    | none => s
    | some c =>
      if (c.codec.bind CodecRun.engine).isSome then s.during c (fun s => closeFrame s c (decBody s c pic)) else s)

/-- `CODEC_ENC` (R331 to R337): a command on its engine, its layers sampled and none held, finishes its frame. -/
def execCodecEnc (cmd : Nat) (coded : Coded) (s : State) : Host.Outcome State Fault Refusal :=
  .next (match opReady s cmd 0x12 with
    | none => s
    | some c =>
      match c.codec with
      | none => s
      | some r =>
        if r.engine.isSome && r.sampled && r.holding.isEmpty then s.during c (fun s => closeFrame s c (encBody s c coded))
        else s)

/-- A guard of R328 fires on a decode engine with a frame in progress; the first one stands. -/
def guardFires (s : State) (engine reason : Nat) : State :=
  let e := s.vcc.engines.getD engine Engine.reset
  if 4 ≤ engine then s
  else match e.cmd with
    | some id => s.updCodec id (fun r => { r with abortReason := if r.abortReason = 0 then reason else r.abortReason })
    | none => s

/-- CTU_BUDGET_EXPIRY (R328). -/
def execCtuBudgetExpiry (engine : Nat) (s : State) : Host.Outcome State Fault Refusal := .next (guardFires s engine 1)
/-- FRAME_BUDGET_EXPIRY (R328). -/
def execFrameBudgetExpiry (engine : Nat) (s : State) : Host.Outcome State Fault Refusal := .next (guardFires s engine 2)

/-- Time zero of a command's session and the number of its frame (R331, R333). -/
def frameNumber (s : State) (c : Cmd) : Nat × Nat :=
  let chain := (codecAhead s c).filter (fun d => d.opcode == 0x12) ++ [c]
  let start := match sessionAt s (parseEnc c.u0).stateVa (parseEnc c.u0).codec true with
    | some t => (t.t0, t.frames)
    | none => (c.issuedNs, 0)
  let r := chain.foldl (fun acc d => if (parseEnc d.u0).opened then (d.issuedNs, 1) else (acc.1, acc.2 + 1)) start
  (r.1, r.2 - 1)

/-- The boundary of a command's frame in ns (R333). -/
def boundaryNs (s : State) (c : Cmd) : Nat :=
  let f := frameNumber s c
  let p := (parseEnc c.u0).periodUs
  if p = 0 then c.issuedNs else max c.issuedNs (f.1 + f.2 * p * 1000)

/-- FRAME_BOUNDARY (R333): its time has come, and every layer is sampled once; late layers with HOLD are held. -/
def execFrameBoundary (cmd : Nat) (s : State) : Host.Outcome State Fault Refusal :=
  .next (match s.cmd? cmd with
    | none => s
    | some c =>
      match c.codec, s.ctx? c.ctx with
      | some r, some x =>
          let t := boundaryNs s c
          if c.opcode != 0x12 || r.sampled || c.result.isSome then s
          else
            let ls := (encLayers c).zipIdx.filter (fun l => !x.satisfied l.1.event)
            let held := ls.filter (fun l => l.1.policy == 2)
            syncHold ((timeReaches s t).updCodec cmd (fun r => { r with
              sampled := true, late := ls.map Prod.snd, holding := held.map Prod.snd, boundaryNs := t })) cmd
      | _, _ => s)

/-- Layers leave the hold of a command; the hold ends with the last of them. -/
def leaveHold (s : State) (id : Nat) (out : List Nat) (ready : Bool) : State :=
  syncHold (s.updCodec id (fun r =>
    let gone := r.holding.filter (fun j => out.contains j)
    let rest := r.holding.filter (fun j => !out.contains j)
    { r with holding := rest, ready := if ready then r.ready ++ gone else r.ready,
             holdEndNs := if !gone.isEmpty && rest.isEmpty then s.dev.timeNs else r.holdEndNs })) id

/-- HOLD_DEADLINE (R333): the layer is still late when its `HOLD_US` has passed. -/
def execHoldDeadline (cmd layer : Nat) (s : State) : Host.Outcome State Fault Refusal :=
  .next (match s.cmd? cmd with
    | none => s
    | some c =>
      match c.codec, (encLayers c)[layer]? with
      | some r, some l =>
          if c.opcode = 0x12 ∧ r.holding.contains layer = true then
            leaveHold (timeReaches s (r.boundaryNs + l.holdUs * 1000)) cmd [layer] false
          else s
      | _, _ => s)

/-- Held layers whose event is now satisfied are ready (R333). -/
def releaseHolds (s : State) : State :=
  s.cmds.foldl (fun s c =>
    match c.codec, s.ctx? c.ctx with
    | some r, some x =>
        let now := r.holding.filter (fun j => ((encLayers c)[j]?.map (fun l => x.satisfied l.event)).getD false)
        if now.isEmpty then s else leaveHold s c.id now true
    | _, _ => s) s

end Sys2Proof.Machine
end

