-- ==== Sys2Proof/Machine/Issue.lean ====
section
/-! DEFINITION. The life of an issued command: issue (R288, R304, R305), parts, tiles (R73, R304), the
completion collector (R307), completion (R290, R294) and step checkpoints (R365). -/

namespace Sys2Proof.Machine

/-! Issue. -/

/-- The frozen set that a `SETTLE`-flagged command reads when its plan is made (R233, R234). -/
def frozenFor (s : State) (x : Ctx) (u : Unit64) : List Nat :=
  match x.settle with
  | none => []
  | some r =>
    if hdrSettle u then
      match readMap s r.va (cellCount r.h r.w) with
      | .ok cs => frozenCells cs
      | .error _ => []
    else []

/-- The stretches of each band that each core runs (R122): unit numbers count over the bands. -/
def bandRuns (cores : List Nat) : List Nat → Nat → List Run
  | [], _ => []
  | n :: t, base =>
      (cores.zipIdx.map (fun c =>
        ⟨c.1, base + shareAt cores.length n c.2, base + shareAt cores.length n (c.2 + 1)⟩)).filter
          (fun r => decide (r.next < r.stop)) ++ bandRuns cores t (base + n)

/-- The command as issued: its plan is made of the cores, the frozen set and the scalars of this moment (R122, R124). The
images of `NMS` go to the mask's clusters in ascending order, round-robin (R150); a cluster without an enabled core is not
counted among them (DESIGN CHOICE: log 26). -/
def mkCmd (s : State) (x : Ctx) (us : List Unit64) : Cmd :=
  let u := us.getD 0 []
  let mask := maskClusters (hdrMask u)
  let op := hdrOpcode u
  let cores := s.enabledCores mask
  let c0 : Cmd := { Cmd.plain us x.sregs with
    id := s.nextCmd, ctx := x.num, graph := x.pcGraph, unit := x.pc, mask := mask, cores := some cores,
    orbitCtrs := x.orbits.map Orbit.c, signal := hdrSignal u, frozen := frozenFor s x u, settleRef := x.settle,
    inFull := x.inFull, parts := (partClusters s mask).map (fun k => ⟨k, s.hub.epoch, .sent⟩),
    codec := if op = 0x11 ∨ op = 0x12 then some CodecRun.fresh else none, issuedNs := s.dev.timeNs }
  let spill := !(spilledRead s c0).isEmpty
  match opCheck s c0 with
  | .error _ => { c0 with needsStaging := spill }
  | .ok () =>
      let p := planOf s c0 x.kept
      let groups := if isCoreOp op then dealtUnits c0 p else []
      let images := mask.filter (fun k => !(s.enabledIn k).isEmpty)
      { c0 with
        work := groups.flatten
        runs := if op = 0x0C then [] else bandRuns cores (groups.map List.length) 0
        redo := if op = 0x0C then (List.range groups.flatten.length).map (fun k =>
          (images.getD (k % max images.length 1) 0, k)) else []
        predCycles := (p.map Plan.predCycles).getD 0
        needsStaging := spill }

/-- Takes one credit of each cluster. -/
def takeCredits (s : State) (ks : List Nat) : State :=
  ks.foldl (fun s k => s.setCluster k { s.cluster k with credits := (s.cluster k).credits - 1 }) s

/-- Returns a part's credit and takes the part out of its queue. -/
def returnCredit (s : State) (id k : Nat) : State :=
  let c := s.cluster k
  s.setCluster k { c with credits := c.credits + 1, queue := c.queue.filter (· != id) }

/-- The plan key of a command (R126, R128). -/
def keyOf (s : State) (c : Cmd) (kept : List (Nat × Nat)) : List DWord :=
  match opCheck s c, planOf s c kept with
  | .ok (), some p => [p.key (hdrMask c.u0) (coresOf s c) c.frozen]
  | _, _ => []

/-- COMMAND_ISSUE (R288, R304, R305). -/
def execCommandIssue (ctx : Nat) (s : State) : Host.Outcome State Fault Refusal :=
  .next (match nextOf s ctx with
    | none => s
    | some (x, v, us) =>
      if hdrOpcode (us.getD 0 []) < 0x80 ∧ canIssue s x us = true then
        let c := mkCmd s x us
        let y := (x.step v).bumpEvent c.signal 1 0
        let s1 := (takeCredits (s.turned ctx) (c.parts.map Part.cluster)).setCtx
          { y with planKeys := y.planKeys ++ keyOf s c x.kept }
        let q := s1.vcc
        let dq := if c.opcode = 0x11 then q.decQueue ++ [c.id] else q.decQueue
        let eq := if c.opcode = 0x12 then q.encQueue ++ [c.id] else q.encQueue
        { s1 with cmds := s1.cmds ++ [c], nextCmd := s1.nextCmd + 1, vcc := { q with decQueue := dq, encQueue := eq } }
      else s)

/-! Parts and tiles. -/

def Cmd.phaseOf (c : Cmd) (k : Nat) : Option PartPhase := (c.parts.find? (fun p => p.cluster == k)).map Part.phase

def Cmd.setPhase (k : Nat) (f : PartPhase) (c : Cmd) : Cmd :=
  { c with parts := c.parts.map (fun p => if p.cluster = k then { p with phase := f } else p) }

/-- Whether a part's messages carry an epoch that is no longer the HUB's: they are dropped (R387). -/
def Cmd.staleAt (s : State) (c : Cmd) (k : Nat) : Bool :=
  c.parts.any (fun p => p.cluster == k && p.epoch != s.hub.epoch)

/-- A message is dropped as stale (R387). -/
def State.dropStale (s : State) : State := { s with pwr := { s.pwr with stale := s.pwr.stale.bump 1 } }

/-- PART_COMMIT (R304): the CSQ accepts the part into its queue; a SERVICE island that is not ON answers with RETRY or
`DOMAIN_OFF`, and the part is sent again (R388). -/
def execPartCommit (cmd cluster : Nat) (s : State) : Host.Outcome State Fault Refusal :=
  .next (match s.cmd? cmd with
    | none => s
    | some c =>
      if c.phaseOf cluster ≠ some .sent then s
      else if c.staleAt s cluster then s.dropStale
      else if (s.svcIsl (cluster / 4)).state ≠ .on then s
      else
        let k := s.cluster cluster
        (s.setCluster cluster { k with queue := k.queue ++ [cmd] }).updCmd cmd (Cmd.setPhase cluster .accepted))

/-- A unit that a core can take now: the command, the unit, and whether it is a redealt one (R384). -/
structure Pick where
  cmd : Nat
  unit : Nat
  redo : Bool
  deriving DecidableEq, Repr

/-- The next unit of a logical core: of the earliest accepted part with one for it. -/
def nextUnit (s : State) (cl lcore : Nat) : Option Pick :=
  (s.cluster cl).queue.findSome? (fun id =>
    match s.cmd? id with
    | none => none
    | some c =>
      if c.needsStaging && !c.staged then none
      else match c.runs.find? (fun r => r.lcore == lcore && decide (r.next < r.stop)) with
        | some r => some ⟨id, r.next, false⟩
        | none => (c.redo.find? (fun r => r.1 == cl)).map (fun r => ⟨id, r.2, true⟩))

/-- A moon that can take a logical id of its cluster (R20): free, in whatever state, and not being eclipsed itself. -/
def moonReady (s : State) (cl : Nat) : Bool :=
  let m := s.site (cl * 16 + 15)
  (s.cluster cl).moonFree && !(m.fenced && !m.resetting) && m.isl.state != .eclipsed

/-- Whether a site can take a tile (R188, R388, R389); one whose graceful eclipse is due and has a moon takes none (R383). -/
def siteFree (s : State) (n : Nat) : Bool :=
  let x := s.site n
  !(x.graceful && moonReady s (n / 16)) && x.tile.isNone && !holdsWrite s n && x.isl.state == .on && !x.fenced && !x.resetting && x.lcore.isSome && s.clusterUp (n / 16)

/-- Of several free cores the one with the lowest logical id takes a redealt unit (R384). -/
def lowestFree (s : State) (cl lcore : Nat) : Bool :=
  (List.range 16).all (fun k =>
    let n := cl * 16 + k
    match (s.site n).lcore with
    | some l => !(siteFree s n) || decide (lcore ≤ l) ||
        (match nextUnit s cl l with
          | some p => !p.redo
          | none => true)
    | none => true)

/-- A tile is assigned: the part dispatches, and with the first tile of a command the cluster's cache is empty (R194). -/
def assignTile (s : State) (site : Nat) (p : Pick) (c : Cmd) : State :=
  let cl := site / 16
  let x := s.site site
  let u := c.work.getD p.unit noUnit
  let k := s.cluster cl
  let s1 := if c.phaseOf cl = some .accepted then s.setCluster cl { k with csc := [] } else s
  let s2 := s1.setSite site { x with tile := some (c.id, p.unit), cfg := arrCfg c u, arr := x.arr.assign c u }
  { s2 with pwr := { s2.pwr with idleMs := updAt s2.pwr.idleMs (cl / 4) (fun _ => 0) } }

/-- TILE_DISPATCH (R73, R304, R384). -/
def execTileDispatch (site : Nat) (s : State) : Host.Outcome State Fault Refusal :=
  .next (match (s.site site).lcore with
    | none => s
    | some l =>
      let cl := site / 16
      if !siteFree s site then s
      else match nextUnit s cl l with
        | none => s
        | some p =>
          if p.redo && !lowestFree s cl l then s
          else match s.cmd? p.cmd with
            | none => s
            | some c =>
              ((assignTile s site p c).updCmd p.cmd (Cmd.setPhase cl .started)).updCmd p.cmd (fun c =>
                if p.redo then { c with redo := c.redo.erase (cl, p.unit) }
                else { c with runs := c.runs.map (fun r =>
                  if r.lcore = l ∧ r.next = p.unit then { r with next := r.next + 1 } else r) }))

/-- What unit `k` of a command writes (R73): when it runs again after a fault, with the draws of that run (R59). -/
def unitWrites (c : Cmd) (k : Nat) (u : WorkUnit) : List (Nat × Byte) :=
  let again := (c.faults.filter (fun f => f.1 == k)).length
  let outs := if again = 0 then c.outs else c.replays.getD (again - 1) (c.replays.getLastD c.outs)
  (outs.filter (fun t => u.covers t.1)).flatMap Prod.snd

/-- What the tile on a site writes. -/
def State.siteWrites (s : State) (site : Nat) : List (Nat × Byte) :=
  match (s.site site).tile, s.tileUnit site with
  | some t, some (c, u) => unitWrites c t.2 u
  | _, _ => []

/-- The tile's writes reach memory, through the cluster's cache; a tile in flight finishes whatever has become of its command
(R73, R194, R206). -/
def tileWrites (s : State) (site : Nat) : State :=
  match s.tileUnit site, s.siteWrites site with
  | none, _ | _, [] => s
  | some (c, _), ws => (s.during c (fun s =>
      match writeAll c.id false ws ws s with
      | (s1, none) => s1
      | (s1, some e) => failHeld s1 c e)).cscUse (site / 16) c ws

/-- A core's undo pages are free once its last unit has written (R117), those of a split plan's later pass with the command. -/
def freeUndo (s : State) (site : Nat) : State :=
  match (s.site site).tile, (s.site site).lcore with
  | some t, some l =>
    match s.cmd? t.1 with
    | some c =>
        if c.runs.all (fun r => r.lcore != l || r.next == r.stop) && !c.outs.any (fun o => Place.isLater o.1) then
          { s with ms := dropScratch s.ms (undoKey c.id l) } else s
    | none => s
  | _, _ => s

/-- TILE_COMPLETE (R73, R80): the tile's last slots count unless the counters are frozen (R101), and its output stands in
memory; a tile whose write is held is not complete (R188), one whose memory is asleep waits (R34, R389), and one that issued
`valid` slots is no tile with another number of them (log 3). -/
def execTileComplete (site valid starve block : Nat) (s : State) : Host.Outcome State Fault Refusal :=
  .next (
    let x := s.site site
    if x.tile.isNone || x.fenced || holdsWrite s site || valid != x.arr.total ||
        asleep s ((s.siteWrites site).map (fun w => (w.1, 1))) then s
    else
      let u := ((s.tileUnit site).map Prod.snd).getD noUnit
      let s1 := tileWrites (s.slotsEnter site x.arr.total starve block) site
      if holdsWrite s1 site then s1
      else
        let s2 := freeUndo s1 site
        let y := s2.site site
        s2.setSite site { y with tile := none, arr := y.arr.finish u })

/-- Whether a cluster has no unit of a command left or in flight. -/
def clusterDone (s : State) (c : Cmd) (cl : Nat) : Bool :=
  c.runs.all (fun r => r.lcore / 15 != cl || r.next == r.stop) && c.redo.all (fun r => r.1 != cl) &&
  (List.range 16).all (fun k =>
    let x := s.site (cl * 16 + k)
    (x.tile.map Prod.fst) != some c.id && (x.abandoned.map Prod.fst) != some c.id)

/-- Whether a command's work outside the cores is reported through a cluster's part (R304): the lowest masked one's. -/
def reportsWork (c : Cmd) (cl : Nat) : Bool := isCoreOp c.opcode || (c.parts.map Part.cluster).all (fun k => decide (cl ≤ k))

/-- Whether a part has nothing left to wait for: its units, its held writes, and the work reported through it (R304). -/
def partDone (s : State) (c : Cmd) (cl : Nat) : Bool :=
  !reportsWork c cl ||
  (c.result.isSome && clusterDone s c cl && s.ms.held.all (fun h => h.cmd != c.id))

/-- The collector takes one entry of the first non-empty queue in its round (R307). -/
def collectOne (s : State) : State :=
  match ((List.range 16).map (fun k => (s.collNext + k) % 16)).find? (fun k => !(s.cluster k).collector.isEmpty) with
  | none => s
  | some k =>
      let c := s.cluster k
      { s.setCluster k { c with collector := c.collector.drop 1 } with collNext := (k + 1) % 16 }

/-- The collector takes entries until none of a command's is left: of at most 512 in each queue (R307). -/
def collectAll (id : Nat) : Nat → State → State
  | 0, s => s
  | n + 1, s =>
      if (List.range 16).any (fun k => (s.cluster k).collector.contains id) then collectAll id n (collectOne s) else s

/-- PART_COMPLETE (R304, R305, R307): the collector takes an entry, the completion enters its queue, and the credit
returns. -/
def execPartComplete (cmd cluster : Nat) (s : State) : Host.Outcome State Fault Refusal :=
  .next (match s.cmd? cmd with
    | none => s
    | some c =>
      if c.staleAt s cluster then s.dropStale
      else if (c.phaseOf cluster = some .accepted ∨ c.phaseOf cluster = some .started) ∧ partDone s c cluster = true then
        let s0 := collectOne s
        let s1 := (returnCredit s0 cmd cluster).updCmd cmd (Cmd.setPhase cluster .collected)
        let k := s1.cluster cluster
        s1.setCluster cluster { k with collector := k.collector ++ [cmd] }
      else s)

/-! Completion. -/

/-- Frees frame-cache pages whose release waited for the commands in flight (R189). -/
def freeReleased (s : State) (id : Nat) : State :=
  let l := s.ms.releasing.map (fun r => (r.1, r.2.filter (· != id)))
  let done := (l.filter (fun r => r.2.isEmpty)).map Prod.fst
  { s with ms := done.foldl dropPage { s.ms with releasing := l.filter (fun r => !r.2.isEmpty) } }

/-- Signals of `SIGNAL_EVENT` whose earlier commands have all completed (R294). -/
def Ctx.lateDone (id : Nat) (x : Ctx) : Ctx :=
  let l := x.lateSignals.map (fun e => (e.1, e.2.filter (· != id)))
  let due := (l.filter (fun e => e.2.isEmpty)).map Prod.fst
  due.foldl (fun x ev => x.bumpEvent ev 0 1) { x with lateSignals := l.filter (fun e => !e.2.isEmpty) }

/-- The context after one of its commands: first failure, notes, active map, progress, signal (R280, R284, R290,
R291). -/
def Ctx.afterCmd (x : Ctx) (c : Cmd) (r : Res) : Ctx :=
  let x := if r.isOk then x.note r else x.fail r
  let x := if c.replayed then x.note .okReplayed else x
  let x := match c.settleOut with
    | some m => if r.isOk && hdrSettle c.u0 then { x with settle := some m, fullStep := x.inFull } else x
    | none => x
  let x := if hdrNotify c.u0 then
      { x with progress := (c.unit, ((x.orbits.getLast?).map Orbit.c).getD 0) } else x
  (x.bumpEvent c.signal 0 1).lateDone c.id

/-! Checkpoints (R365 to R367). -/

/-- Bytes of the twin's mirror area. -/
def mirrorArea (s : State) : Nat := if s.dev.capMem = 0 then 0 else 0x800000000

/-- INPUT bytes of a request's descriptors (R270). -/
def inputBytes (descs : List Unit64) : Nat :=
  (descs.zipIdx.flatMap (fun d =>
    if d.2 = 0 then [slice d.1 36 28] else [slice d.1 8 28, slice d.1 36 28]) |>.filter (fun e => byteAt e 2 == 0)
    |>.map (fun e => leAt e 16 8)).sum

/-- Images and inputs that mirrored requests keep in the twin's mirror area. -/
def mirrorUse (s : State) : Nat :=
  ((s.ctxs.filter (fun x => x.mirror && !x.stale)).map (fun x =>
    inputBytes x.descs + (x.sentImages.map Prod.snd).sum)).sum

/-- The tensors of a boundary command's checkpoint (R365): those of R237, or the extents of its output descriptors. -/
def checkpointTensors (c : Cmd) : List (Nat × Nat) :=
  if c.opcode = 0x09 then c.images else (outDescs c).map Desc.span

/-- What the first checkpoint has beyond a later one: `X0` and `MASK` under their `STATIC` flags (R237). -/
def onceTensors (c : Cmd) : List (Nat × Nat) := if c.opcode = 0x09 then ssStatics c else []

/-- Sends mirrored updates in order (R363). -/
def sendMirror (s : State) (us : List Mirror) : State :=
  us.foldl (fun s u =>
    { s.emit (.mirror (s.tlc.sendSeq + 1) u) with tlc := { s.tlc with sendSeq := s.tlc.sendSeq + 1 } }) s

/-- The control snapshot of a context (R365 step 2). -/
def Ctx.snapshot (x : Ctx) : Snapshot := ⟨x.pcGraph, x.pcVer, x.pc, x.calls, x.orbits, x.sregs, x.preds, x.events, x.info⟩

/-- Once no command is in flight the held boundary takes its snapshot, issue resumes, and tensors and snapshot
go to the twin. -/
def takeSnapshot (s : State) (ctx : Nat) : State :=
  match s.ctx? ctx with
  | none => s
  | some x =>
    match x.ckptCmd with
    | none => s
    | some b =>
      if s.cmds.any (fun c => c.ctx == ctx && decide (c.id < b)) || asleep s x.ckptImages then s
      else
        let snap := x.snapshot
        let images := x.ckptImages.map (fun m =>
          Mirror.image ctx m.1 ((List.range m.2).map (fun k =>
            match readByte s (m.1 + k) with
            | .ok b => b
            | .error _ => 0)))
        let s1 := s.setCtx { x with ckptCmd := none, ckptImages := [], ckptPending := some snap }
        sendMirror s1 (images ++ [.snapshot ctx snap])

/-- Whether a completing command is a boundary that takes a checkpoint (R284, R365, R367). -/
def isBoundary (s : State) (x : Ctx) (c : Cmd) : Bool :=
  hdrMirror c.u0 && x.mirror && !x.stale && s.tlc.tstate == 2 && c.result.all Res.isOk

/-- The boundary's effect on its context: the checkpoint begins, or the mirror area is full (R366), be it for images that the
first boundary did not have yet; a request that has crossed in a new epoch never fails for it, but is mirrored no more (R367;
DESIGN CHOICE: log 38). -/
def beginCheckpoint (s : State) (x : Ctx) (c : Cmd) : State :=
  let all := (checkpointTensors c).filter (fun t => !((onceTensors c).contains t && x.sentImages.contains t))
  let new := all.filter (fun t => !x.sentImages.contains t)
  if mirrorArea s < mirrorUse s + (new.map Prod.snd).sum then
    takeSnapshot (s.updCtx c.ctx (fun y => if y.resent then { y with stale := true } else y.fail .mirrorAreaFull)) c.ctx
  else
    takeSnapshot (s.updCtx c.ctx (fun y =>
      { y with ckptCmd := some c.id, ckptImages := all, sentImages := y.sentImages ++ new })) c.ctx

/-- COMMAND_COMPLETE (R290, R291, R294, R344, R365): all parts are collected. -/
def execCommandComplete (cmd : Nat) (s : State) : Host.Outcome State Fault Refusal :=
  .next (match s.cmd? cmd with
    | none => s
    | some c =>
      match c.result, s.ctx? c.ctx with
      | some r, some x =>
        if !(c.parts.all (fun p => p.phase == .collected)) || s.ms.held.any (fun h => h.cmd == cmd) ||
            (isBoundary s x c && (x.ckptPending.isSome || x.ckptCmd.isSome)) then s
        else
          let s2 := (freeReleased (collectAll cmd 8192 s) cmd).dropCmd cmd
          let s3 := { s2 with ms := dropCmdScratch s2.ms cmd }.updCtx c.ctx (fun y => y.afterCmd c r)
          let s4 := if isBoundary s x c then beginCheckpoint s3 x c else takeSnapshot s3 c.ctx
          let s5 := match c.coll with
            | some k => nextColl s4 k.group k.tag k.asTwin
            | none => s4
          releaseHolds s5
      | _, _ => s)

/-- CHECKPOINT_COMMIT (R365 step 4): the twin has acknowledged the snapshot. -/
def execCheckpointCommit (ctx : Nat) (s : State) : Host.Outcome State Fault Refusal :=
  .next (match s.ctx? ctx with
    | none => s
    | some x =>
      match x.ckptPending with
      | none => s
      | some snap => s.setCtx { x with ckptPending := none, ckptDone := some snap })

end Sys2Proof.Machine
end

