-- ==== Sys2Proof/Machine/Completion.lean ====
section
/-! DEFINITION. Completion records (R268, R273, R274), closing contexts, and the wait for the twin's
acknowledgement (R363, R364). -/

namespace Sys2Proof.Machine

/-! Mirrored updates. -/

/-- `STATE` of a context (R302). -/
def CtxState.code : CtxState → Nat
  | .queued => 0
  | .input => 1
  | .running => 2
  | .output => 3
  | .closing => 4

/-- A context as it crosses to the twin (R363). -/
def Ctx.toMirror (x : Ctx) : MirCtx :=
  ⟨x.num, x.conn, x.reqId, x.typ, x.notify, x.mirror, x.state.code, x.descs, x.graph, x.ver, x.inst, x.sregs, x.preds, x.orbits⟩

/-- The ring state of a connection (R363). -/
def Conn.ringUpdate (c : Conn) : Mirror := .ring c.id c.head c.expected c.sqTail c.cqHead c.nextSeq

/-- Whether updates cross to the twin now (R367, R377). -/
def mirroring (s : State) : Bool := s.tlc.tstate == 2 && s.tlc.linkUp

/-- The contexts and rings that differ after a local action: those opened, changed in state, closed; rings
whose counts moved, and those of connections that have closed (R363). -/
def mirrorDiff (s t : State) : List Mirror :=
  (t.ctxs.filter (fun x => match s.ctx? x.num with
    | none => true
    | some y => y.state != x.state)).map (fun x => .context x.toMirror) ++
  (s.ctxs.filter (fun x => (t.ctx? x.num).isNone)).map (fun x => .contextClosed x.num) ++
  (t.conns.filter (fun c => match s.conn? c.id with
    | none => true
    | some d => d.ringUpdate != c.ringUpdate)).map Conn.ringUpdate ++
  (s.conns.filter (fun c => (t.conn? c.id).isNone)).map (fun c => .ringClosed c.id)

/-! Records. -/

def usSat (ns : Nat) : Nat := min (2 ^ 32 - 1) (ns / 1000)

/-- The 32 bytes of a completion record (R273); `STATUS` is built with the record (R25, R278). -/
def recordBytes (s : State) (seq : Nat) (o : OutRec) : List Byte :=
  toLE 8 seq ++ toLE 4 o.reqId ++ toLE 2 (s.status o.res) ++ toLE 1 o.info.toNat ++ toLE 1 o.typ ++
  toLE 4 o.queueUs ++ toLE 4 o.runUs ++ toLE 8 o.detail.toNat

/-- Where a record goes (R273). -/
def recordVa (c : Conn) (seq : Nat) : Nat := c.cqVa + 32 * ((seq - 1) % c.cqRecords)

/-- The context is free and its pins end (R299, R302, R313). -/
def closeCtx (s : State) (n : Nat) : State :=
  let ms := dropScratch s.ms (keptKey n)
  settlePins { s.dropCtx n with ms := ms, holds := s.holds.filter (fun h => h.ctx != n) }

/-- A record reaches the client, with its notification (R273, R274). -/
def sendRecord (s : State) (c : Conn) (h : HeldRec) : State :=
  let s1 := s.emit (.record c.id (recordVa c h.seq) h.bytes)
  let s2 := if h.notify then s1.emit (.notify c.id (h.seq % 2 ^ 32)) else s1
  match h.ctx with
  | some n => closeCtx s2 n
  | none => s2

/-- Numbers the first waiting completion and writes its record: at once, after the twin's acknowledgement
(R364), or held for a connection that no client has reattached (R372, R374). -/
def writeOne (s : State) (c : Conn) (o : OutRec) : State :=
  let seq := c.nextSeq
  let h : HeldRec := ⟨seq, recordBytes s seq o, o.notify, o.ctx⟩
  let keep := mirroring s || !c.attached
  let s1 := s.updConn c.id (fun d =>
    { d with nextSeq := seq + 1, outq := d.outq.drop 1, held := if keep then d.held ++ [h] else d.held })
  if mirroring s && c.attached then
    let closed := match o.ctx with
      | some n => [Mirror.contextClosed n]
      | none => []
    let ring := Mirror.ring c.id c.head c.expected c.sqTail c.cqHead (seq + 1)
    let s2 := sendMirror s1 (closed ++ [ring, .record c.id seq h.notify h.bytes])
    { s2 with tlc := { s2.tlc with awaiting := s2.tlc.awaiting ++ [(s2.tlc.sendSeq, .record c.id seq)] } }
  else if c.attached then sendRecord s1 c h
  else match o.ctx with
    | some n => closeCtx s1 n
    | none => s1

/-- Writes records while the completion ring has room. -/
def drainLoop : Nat → Nat → State → State
  | 0, _, s => s
  | n + 1, conn, s =>
    match s.conn? conn with
    | none => s
    | some c =>
      match c.outq with
      | [] => s
      | o :: _ => if c.nextSeq - 1 - c.cqHead < c.cqRecords then drainLoop n conn (writeOne s c o) else s

def drain (s : State) (conn : Nat) : State :=
  drainLoop (((s.conn? conn).map (fun c => c.outq.length)).getD 0) conn s

/-- Queues a completion and writes what there is room for. -/
def enqueue (s : State) (conn : Nat) (o : OutRec) : State :=
  drain (s.updConn conn (fun c => { c with outq := c.outq ++ [o] })) conn

/-- A completion without a context: items flushed or malformed, refused SENDs. -/
def bareRec (reqId typ : Nat) (notify : Bool) (r : Res) (detail : Nat) : OutRec :=
  ⟨none, reqId, typ, notify, r, r.infoBit, 0, 0, BitVec.ofNat 64 detail⟩

/-- A ring record (R273, R275). -/
def ringRec (slots : Nat) : OutRec := bareRec 0xFFFFFFFF 0xFF false .ringResync slots

/-- The context completes with a RESULT (R268, R273, R302); with its connection gone no record is written
(R265). A request that never started counts its start at this moment. -/
def complete (s : State) (x : Ctx) (r : Res) : State :=
  if (s.conn? x.conn).isNone then closeCtx s x.num
  else
    let start := if x.startNs = 0 then s.dev.timeNs else x.startNs
    let stop := if x.outNs = 0 then s.dev.timeNs else x.outNs
    let o : OutRec := ⟨some x.num, x.reqId, x.typ, x.notify, r, x.info ||| r.infoBit, usSat (start - x.consumedNs),
      usSat (stop - start), x.detail⟩
    enqueue (s.setCtx { x with state := .closing, issuing := false, toRead := [], reads := [] }) x.conn o

/-- Whether a context's completion is already queued (R25, R276). -/
def isDone (s : State) (x : Ctx) : Bool :=
  match s.conn? x.conn with
  | none => false
  | some c => c.outq.any (fun o => o.ctx == some x.num) || c.held.any (fun h => h.ctx == some x.num)

/-- The last `SEQ` written to the client: records still held for the twin are not (R266, R363). -/
def Conn.lastWritten (c : Conn) : Nat := c.held.foldl (fun n h => min n (h.seq - 1)) (c.nextSeq - 1)

/-- Room in the completion ring for one more item (R268). -/
def hasRoom (s : State) (c : Conn) : Bool :=
  let opened := (s.ctxs.filter (fun x => x.conn == c.id && !isDone s x)).length
  decide (c.nextSeq - 1 - c.cqHead + c.outq.length + opened < c.cqRecords)

/-- The twin has the record: it reaches the client (R364). -/
def releaseRecord (s : State) (conn seq : Nat) : State :=
  match s.conn? conn with
  | none => s
  | some c =>
    match c.held.find? (fun h => h.seq == seq) with
    | none => s
    | some h =>
        let s1 := s.updConn conn (fun d => { d with held := d.held.filter (fun k => k.seq != seq) })
        if c.attached then sendRecord s1 c h else s1

/-! Stopping requests (R265, R276, R306, R381). -/

/-- The clusters' queues and credits after some parts of a command are dropped (R305, R306). -/
def dropParts (s : State) (id : Nat) (ks : List Nat) : State :=
  (ks.foldl (fun s k => returnCredit s id k) s).updCmd id (fun c =>
    { c with parts := c.parts.filter (fun p => !ks.contains p.cluster) })

/-- A command none of whose work has begun is discarded whole. -/
def discardCmd (s : State) (c : Cmd) : State :=
  let s1 := dropParts s c.id ((c.parts.filter (fun p => p.phase != .collected)).map Part.cluster)
  let s2 := releaseHeld (freeReleased s1 c.id) c.id
  let q := s2.vcc
  { s2.dropCmd c.id with
    ms := dropCmdScratch s2.ms c.id
    vcc := { q with decQueue := q.decQueue.filter (· != c.id), encQueue := q.encQueue.filter (· != c.id) } }

/-- Whether work of a command has begun. -/
def begun (c : Cmd) : Bool :=
  c.result.isSome || c.parts.any (fun p => p.phase == .started) || c.coll.isSome ||
  ((c.codec.bind CodecRun.engine).isSome)

/-- The bytes that a command writes through its descriptors and address fields. -/
def outBytes (c : Cmd) : List Nat :=
  (outDescs c).flatMap (fun d => d.addrs.flatMap (fun a => (List.range (max (codeBits d.code / 8) 1)).map (a + ·))) ++
  (fieldWrites c).flatMap (fun x => (List.range x.2).map (x.1 + ·))

/-- Buffers that a stopped command was writing hold undefined contents: free values. -/
def scrambleCore (s : State) (c : Cmd) : State :=
  let bytes := outBytes c
  let ws := bytes.zipIdx.map (fun p => (p.1, BitVec.ofNat 8 (Config.free (s.freeCtr + p.2))))
  (writeAll c.id true ws ws { s with freeCtr := s.freeCtr + bytes.length }).1

/-- A stopped scatter: each 64-byte unit of its window holds the old or the new values, a free choice, and the pages reserved
for it stay mapped (R189). -/
def stopScatter (s : State) (c : Cmd) : State :=
  match kvBody s c with
  | (s1, .ok o) =>
      let ws := o.writes.filter (fun w => Config.free (s.freeCtr + w.1 / 64) % 2 == 1)
      (writeAll c.id true ws ws { s1 with freeCtr := s.freeCtr + 1 }).1
  | (_, .error _) => s

/-- What the unfinished work of a core command leaves in memory. -/
def leaveHalf (s : State) (c : Cmd) : State :=
  if c.result.isSome then s else if c.opcode = 0x0D then stopScatter s c else scrambleCore s c

/-- Dispatch of a command stops and its parts that have not started are dropped; its tiles in flight, and work begun outside
the cores, finish (R276, R306). -/
def stopCmd (s : State) (c : Cmd) (r : Res) : State :=
  if !begun c then discardCmd s c
  else
    let waiting := (c.parts.filter (fun p => p.phase == .sent || p.phase == .accepted)).map Part.cluster
    if isCoreOp c.opcode then
      (dropParts (leaveHalf s c) c.id waiting).updCmd c.id (fun d =>
        { d with runs := [], redo := [], result := some (d.result.getD r) })
    else dropParts s c.id waiting

/-- A live launch stops with a failure (R276): before its graph started it completes at once; later its
commands stop, and no output is written that had not begun. -/
def stopCtx (s : State) (n : Nat) (r : Res) : State :=
  match s.ctx? n with
  | none => s
  | some x =>
    match x.state with
    | .queued | .input => complete s x r
    | .running =>
        (s.cmds.filter (fun c => c.ctx == n)).foldl (fun s c => stopCmd s c r) (s.setCtx (x.fail r))
    | .output => s.setCtx (x.fail r)
    | .closing => s

end Sys2Proof.Machine
end

