-- ==== Sys2Proof/Machine/Registers.lean ====
section
/-! DEFINITION. Reading registers: the common header (R442 to R450), the block registers (R97 to R103, R215,
R260, R339, R358, R377, R405, R406, R435, R436, R454 to R460), the AON shadow (R397, R451) and the read
latches (R439). -/

namespace Sys2Proof.Machine

def PState.code : PState → Nat
  | .off => 0
  | .quiescing => 1
  | .on => 2
  | .retention => 3
  | .eclipsed => 4
  | .test => 5

def bit (b : Bool) : Nat := if b then 1 else 0
def word (n : Nat) : Word := BitVec.ofNat 32 n

/-- A page of the index (R452). -/
def pageExists (p : Nat) : Bool := (pageIsland p).isSome

def isCorePage (p : Nat) : Bool := p / 256 == 5
def isTccPage (p : Nat) : Bool := decide (0x0300 ≤ p ∧ p < 0x0304)

/-- Pages that hold a field of R453. -/
def hasOperatorField (p : Nat) : Bool :=
  isCorePage p || p == 0x0810 || p == 0x0E00 || p == 0x0B00 || p == 0x0F00 || p == 0x0100

/-- State and epoch that a page reports (R446). -/
def pageIsl (s : State) (p : Nat) : Isl := ((pageIsland p).map s.isl).getD Isl.reset

/-- Whether a page's block is in service or draining, and not fenced for an eclipse (R383): it takes register writes. -/
def answers (s : State) (p : Nat) : Bool :=
  match (pageIsl s p).state with
  | .on | .quiescing => !(isCorePage p && (s.site (p % 256)).fenced)
  | .off | .retention | .test | .eclipsed => false

/-- Whether a page's block has power and is not in self-test: it may answer a read; an eclipsed one does while its
interface still responds (R397). -/
def powered (s : State) (p : Nat) : Bool :=
  match (pageIsl s p).state with
  | .on | .quiescing | .eclipsed => true
  | .off | .retention | .test => false

/-- Whether the block answers the MGC within 100 µs: one of AON always (R452), another that has power by free choice
(R397; log 40). -/
def respondsNow (s : State) (p : Nat) : Bool × State :=
  if pageIsland p = some .aon then (true, s)
  else if powered s p then
    let r := s.takeFree
    (r.1 % 2 == 0, r.2)
  else (false, s)

def loWord (d : DWord) : Word := word (d.toNat % 2 ^ 32)
def hiWord (d : DWord) : Word := word (d.toNat / 2 ^ 32)

/-- A word of the common header, read from the block (R442 to R450; revision 1.0: log 2). -/
def headerWord (s : State) (p off : Nat) : Word :=
  let h := s.hdr p
  match off with
  | 0x000 => word (p + 1 * 2 ^ 24)
  | 0x004 => word (bit (hasOperatorField p) * 2 ^ 28 + bit (isCorePage p || isTccPage p) * 2 ^ 29
      + bit (isCorePage p) * 2 ^ 30)
  | 0x008 => word (bit h.enable + 2 * bit h.quiesce + 4 * bit h.softReset
      + 8 * bit (h.eclipse || (isCorePage p && s.dev.eclipsedFlash.contains (p % 256))))
  | 0x00C => word ((pageIsl s p).state.code + (pageIsl s p).epoch.toNat * 2 ^ 16)
  | 0x010 => h.event.setWidth 32
  | 0x014 => h.evmask.setWidth 32
  | 0x018 => h.attn
  | 0x01C => word (h.corrected.toNat + h.uncorrected.toNat * 2 ^ 16)
  | 0x020 => loWord h.first
  | 0x024 => hiWord h.first
  | 0x028 => loWord h.last
  | 0x02C => hiWord h.last
  | 0x030 => word (bit h.locked)
  | _ => 0

/-- `DEV_IDENT` (R455). -/
def devIdent (s : State) : Word :=
  word (s.dev.revMinor % 16 + s.dev.revMajor % 16 * 16 + s.dev.capMem % 4 * 256 + s.dev.stkSize % 4 * 1024
    + s.dev.grade % 16 * 4096 + 0x0A08 * 65536)

/-- The words of a 48-bit counter at its two offsets. -/
def ctrWord (c : Ctr48) (high : Bool) : Word := if high then c.hi else c.lo

def coreWord (s : State) (n off : Nat) : Word :=
  let x := s.site n
  match off with
  | 0x040 => word (n + (x.lcore.getD 0xFF) * 256 + bit (n % 16 == 15 && (s.cluster (n / 16)).moonFree) * 65536)
  | 0x044 => x.cfg
  | 0x048 => x.arrStatus
  | 0x04C => word (2 * bit x.freeze)
  | 0x050 => x.valid.lo
  | 0x054 => x.valid.hi
  | 0x058 => x.starve.lo
  | 0x05C => x.starve.hi
  | 0x060 => x.block.lo
  | 0x064 => x.block.hi
  | 0x068 => word (polyOf n)
  | _ => 0

/-- Fields of `w` bits from a list, the first lowest. -/
def packFields (w : Nat) : List Nat → Nat
  | [] => 0
  | x :: t => x % 2 ^ w + 2 ^ w * packFields w t

def csqWord (s : State) (cl off : Nat) : Word :=
  let c := s.cluster cl
  match off with
  | 0x040 => word (packFields 4 (c.map.take 8))
  | 0x044 => word (packFields 4 (c.map.drop 8))
  | 0x048 => word (packFields 1 (c.present.map bit) + 0xF * 65536 + bit c.moonFree * 2 ^ 20)
  | 0x04C => word c.credits
  | _ => 0

def stkWord (s : State) (p off : Nat) : Word :=
  let x := s.part p
  match off with
  | 0x040 => x.dieFailed.setWidth 32
  | 0x044 => word (x.scrubPercent + x.lastPassH * 65536)
  | _ => 0

/-- `ATU_POOL_CFG` as stored (R215). -/
def poolCfg (s : State) : Word := s.dev.poolFlash.getD 0x0804

def walkerWord (s : State) (off : Nat) : Word :=
  match off with
  | 0x040 => poolCfg s
  | 0x044 => word (modelFree s.ms % 65536 + fcFree s.ms % 65536 * 65536)
  | 0x048 => word (scratchFree s.ms % 65536)
  | _ => 0

def linkNibble (l : Link) : Nat := l.state % 4 + 4 * bit l.bad

def freWord (s : State) (off : Nat) : Word :=
  let c := s.dev.straps.toNat
  match off with
  | 0x040 => word (c % 32 + c / 32 % 32 * 256 + c / 1024 % 32 * 65536 + bit s.fre.coordValid * 2 ^ 31)
  | 0x044 => s.fre.torusFlash.getD 0
  | 0x048 => s.fre.timeout
  | 0x04C => word (packFields 4 ((s.fre.links.take 6).map linkNibble))
  | 0x050 => s.fre.residue.lo
  | 0x054 => s.fre.residue.hi
  | 0x058 => s.fre.mismatch.lo
  | 0x05C => s.fre.mismatch.hi
  | 0x060 => word s.fre.aliases.length
  | _ => 0

def tlcWord (s : State) (off : Nat) : Word :=
  let t := s.tlc
  match off with
  | 0x040 => word (((t.pair.map PairRec.role).getD 0) % 2 + ((t.pair.map PairRec.mode).getD 0) % 2 * 2 + t.tstate % 8 * 4
      + bit t.linkUp * 32 + bit t.aliveIn * 64)
  | 0x044 => t.epoch
  | 0x048 => t.hbLate.lo
  | 0x04C => t.hbLate.hi
  | 0x050 => t.ckpt.lo
  | 0x054 => t.ckpt.hi
  | _ => 0

def vccWord (s : State) (e off : Nat) : Word :=
  let x := s.vcc.engines.getD e Engine.reset
  match off with
  | 0x040 => word (bit x.busy + 2 * bit x.holding + x.codec % 4 * 4)
  | 0x048 => x.frames.lo
  | 0x04C => x.frames.hi
  | 0x050 => x.conceal.lo
  | 0x054 => x.conceal.hi
  | 0x058 => x.abort.lo
  | 0x05C => x.abort.hi
  | 0x060 => word (min (2 ^ 32 - 1) x.boundsHits)
  | _ => 0

/-- `JMP_TBL_DATA` (R260). -/
def tableWord (a : Nat) : Word :=
  let c := a % 4
  let seg := a / 4 % 1024
  let t := a / 4096 % 4
  if c = 3 ∨ t = 3 ∨ (t ≠ 0 ∧ 511 < seg) then 0 else Config.coef t seg c

def jmpWord (s : State) (off : Nat) : Word :=
  match off with
  | 0x040 => s.jmpAddr
  | 0x044 => tableWord s.jmpAddr.toNat
  | 0x048 => s.jmpJumps.lo
  | 0x04C => s.jmpJumps.hi
  | _ => 0

/-- Tiles held by a thermal cap (R402, R405). -/
def thermCaps (p : Pwr) : List Bool := p.cap.zip p.fcur |>.map (fun x => decide (x.1 < 18) && x.1 - 2 == x.2)

def pwrWord (s : State) (off : Nat) : Word :=
  let p := s.pwr
  match off with
  | 0x040 => word (p.limitW + p.throttleC * 2 ^ 16 + p.park10 * 2 ^ 24)
  | 0x044 => word (packFields 5 p.fcur + packFields 1 ((thermCaps p).map bit) * 2 ^ 20 + bit p.alert * 2 ^ 24)
  | 0x048 => word (p.powerDw % 65536 + p.tjMaxDc % 65536 * 65536)
  | 0x050 => p.throttle.lo
  | 0x054 => p.throttle.hi
  | 0x058 => p.stale.lo
  | 0x05C => p.stale.hi
  | _ => 0

/-- Whole seconds left in the presence window (R423, R435). -/
def windowSeconds (s : State) : Nat :=
  if s.mgc.windowOpen then (s.mgc.windowNs + 120000000000 - s.dev.timeNs) / 1000000000 else 0

/-- `MGC_THR_ITEM` (R435). -/
def mgcWord (s : State) (off : Nat) : Word :=
  let m := s.mgc
  match off with
  | 0x040 => word (m.step % 16 + m.image % 2 * 16 + bit m.fallback * 32 + bit m.halted * 64 + bit m.recovery * 128
      + m.readyMs % 65536 * 65536)
  | 0x044 => word (bit m.windowOpen + windowSeconds s % 128 * 2 + bit m.labJmp * 256 + bit m.sealClosed * 512
      + bit s.dev.sealBroken * 1024 + m.admitted % 65536 * 65536)
  | 0x048 => word (m.stage % 8 + m.received.length / 1024 * 256)
  | 0x04C => m.fwVersion
  | _ =>
      if 0x080 ≤ off ∧ off < 0x0C0 then
        let t := m.thresholds.getD ((off - 0x080) / 8) Threshold.reset
        if off % 8 = 0 then t.item else t.value
      else 0

def devWord (s : State) (off : Nat) : Word :=
  match off with
  | 0x040 => devIdent s
  | 0x048 => loWord s.dev.serial
  | 0x04C => hiWord s.dev.serial
  | 0x050 => word (s.dev.timeNs % 2 ^ 32)
  | 0x054 => word (s.dev.timeNs / 2 ^ 32)
  | 0x058 => word (s.coreCount + s.moonsFree * 256)
  | 0x05C => s.dev.bootCount
  | _ => 0

def wearWord (s : State) (off : Nat) : Word :=
  match off with
  | 0x040 => word (s.wear.devLo % 65536 + s.wear.devHi % 65536 * 65536)
  | 0x044 => word (s.wear.limitIndex % 256 + s.wear.limitKind % 4 * 256)
  | _ => 0

def attnWord (s : State) (off : Nat) : Word :=
  if off = 0x040 then s.attn.pending.setWidth 32
  else if off = 0x044 then s.attn.masked.setWidth 32
  else if 0x048 ≤ off ∧ off < 0x070 then s.attn.counts.getD ((off - 0x048) / 4 + 1) 0
  else 0

/-- A block-specific word. -/
def blockWord (s : State) (p off : Nat) : Word :=
  match p / 256 with
  | 0x00 => devWord s off
  | 0x01 => mgcWord s off
  | 0x04 => csqWord s (p % 256) off
  | 0x05 => coreWord s (p % 256) off
  | 0x06 => stkWord s (p % 256) off
  | 0x08 => if p = 0x0810 then walkerWord s off else 0
  | 0x0B => freWord s off
  | 0x0C => tlcWord s off
  | 0x0D => if p % 256 < 6 then vccWord s (p % 256) off else 0
  | 0x0E => jmpWord s off
  | 0x0F => pwrWord s off
  | 0x10 => if off = 0x040 then word s.dev.clkLock.toNat else 0
  | 0x11 => wearWord s off
  | 0x13 => attnWord s off
  | _ => 0

/-- The live value of a word. -/
def liveWord (s : State) (p off : Nat) : Word := if off < 0x040 then headerWord s p off else blockWord s p off

/-! 64-bit pairs (R439). -/

/-- Whether an offset is the low word of a 64-bit register. -/
def isLowWord (p off : Nat) : Bool :=
  off == 0x020 || off == 0x028 ||
  (match p / 256 with
    | 0x00 => off == 0x048 || off == 0x050
    | 0x05 => off == 0x050 || off == 0x058 || off == 0x060
    | 0x0B => off == 0x050 || off == 0x058
    | 0x0C => off == 0x048 || off == 0x050
    | 0x0D => decide (p % 256 < 6) && (off == 0x048 || off == 0x050 || off == 0x058)
    | 0x0E => off == 0x048
    | 0x0F => off == 0x050 || off == 0x058
    | _ => false)

/-- Latches the high word for a requester. -/
def latchHigh (s : State) (req p off : Nat) (high : Word) : State :=
  { s with latches := (req, p, off + 4, high) ::
      s.latches.filter (fun l => !(l.1 == req && l.2.1 == p && l.2.2.1 == off + 4)) }

/-- The word a requester reads at an offset when the block answers, and the latches after it. -/
def readLatched (s : State) (req p off : Nat) : Word × State :=
  if isLowWord p off then (liveWord s p off, latchHigh s req p off (liveWord s p (off + 4)))
  else
    match s.latches.find? (fun l => l.1 == req && l.2.1 == p && l.2.2.1 == off) with
    | some l =>
        (l.2.2.2, { s with latches := s.latches.filter (fun k =>
          !(k.1 == req && k.2.1 == p && k.2.2.1 == off)) })
    | none => (liveWord s p off, s)

/-! The shadow (R397, R451): 13 words per page. -/

/-- A header word from the shadow: `SHADOW` is set in `PG_STATE`. -/
def shadowWord (s : State) (p off : Nat) : Word :=
  if off ≤ 0x030 then
    let w := ((alFind p s.shadow).getD []).getD (off / 4) 0
    if off = 0x00C then w ||| 8 else w
  else 0

/-- The value a reader gets: live, or of the shadow for a header word of a block that does not answer; none for
a block-specific word of such a block. The flag tells a shadow read. -/
def readWord (s : State) (live : Bool) (req p off : Nat) : Option (Word × Bool × State) :=
  if live then
    let s := if isCorePage p then s.arrProgress (p % 256) else s
    let r := readLatched s req p off
    some (r.1, false, r.2)
  else if off < 0x040 then some (shadowWord s p off, true, s)
  else none

end Sys2Proof.Machine
end

