-- ==== Sys2Proof/Machine/Requests.lean ====
section
/-! DEFINITION. Connections, the submission ring and its items, and the request types (R262 to R277, R302, R306,
R312, R313, R316, R362). Rows that wait for the twin (R364) are written as a plain local action and then gated. -/

namespace Sys2Proof

open Machine (leAt byteAt fld allZero)

/-! The private data of a control QP's REQ (R264, R374). -/

def CmReq.sqSlots (q : CmReq) : Nat := leAt q.priv 0 2
def CmReq.dataQps (q : CmReq) : Nat := byteAt q.priv 2
def CmReq.cqRecords (q : CmReq) : Nat := leAt q.priv 4 4
def CmReq.cqVa (q : CmReq) : Nat := leAt q.priv 8 8
def CmReq.cqRkey (q : CmReq) : Nat := leAt q.priv 16 4
def CmReq.resumeConn (q : CmReq) : Nat := leAt q.priv 24 4
def CmReq.resume (q : CmReq) : Nat := fld q.priv 28 0 1
def CmReq.resumeCqHead (q : CmReq) : Nat := leAt q.priv 32 8
/-- Whether the reserved bits are 0. -/
def CmReq.reservedOk (q : CmReq) : Bool := byteAt q.priv 3 == 0 && fld q.priv 28 1 7 == 0 && allZero q.priv 29 3

end Sys2Proof

namespace Sys2Proof.Machine

/-! Items and entries (R269 to R271). -/

def itemType (d : Unit64) : Nat := byteAt d 0
def itemLen (d : Unit64) : Nat := fld d 1 0 4
def itemNotify (d : Unit64) : Bool := fld d 1 4 1 == 1
def itemMirror (d : Unit64) : Bool := fld d 1 5 1 == 1
def itemSerial (d : Unit64) : Nat := leAt d 2 2
def itemReq (d : Unit64) : Nat := leAt d 4 4

structure Entry where
  slot : Nat
  kind : Nat
  dqp : Nat
  rkey : Nat
  va : Nat
  len : Nat
  rsv : Nat
  deriving DecidableEq, Repr

def parseEntry (d : Unit64) (o : Nat) : Entry :=
  ⟨leAt d o 2, byteAt d (o + 2), byteAt d (o + 3), leAt d (o + 4) 4, leAt d (o + 8) 8, leAt d (o + 16) 8, leAt d (o + 24) 4⟩

/-- The entries of an item in order, empty ones left out (R270). -/
def entriesOf (descs : List Unit64) : List Entry :=
  let all := match descs with
    | [] => []
    | d :: t => parseEntry d 36 :: t.flatMap (fun c => [parseEntry c 8, parseEntry c 36])
  all.filter (fun e => e.kind != 0xFF)

/-- Every entry slot's reserved bytes, empty entries included. -/
def entryReserved (descs : List Unit64) : Bool :=
  match descs with
  | [] => true
  | d :: t => allZero d 60 4 && t.all (fun c => allZero c 32 4 && allZero c 60 4)

def ofKind (k : Nat) (descs : List Unit64) : List Entry := (entriesOf descs).filter (fun e => e.kind == k)

/-- The continuations of an item (R269). -/
def continuationsOk (descs : List Unit64) : Bool :=
  ((descs.drop 1).zipIdx).all (fun p =>
    byteAt p.1 0 == 0xFF && byteAt p.1 1 == p.2 + 1 && leAt p.1 2 2 == itemSerial (descs.getD 0 []) && allZero p.1 4 4)

/-- Reserved body bits, `OP` and `SELECTOR` (R271). -/
def bodyOk (d : Unit64) : Bool :=
  match itemType d with
  | 0x01 => fld d 8 12 4 == 0 && allZero d 10 26
  | 0x02 => decide (byteAt d 9 ≤ 1) && allZero d 10 26
  | 0x03 => fld d 8 12 4 == 0 && allZero d 11 25
  | 0x04 => fld d 8 12 4 == 0 && allZero d 10 26
  | 0x05 => allZero d 12 24
  | 0x06 => fld d 8 1 7 == 0 && allZero d 9 27
  | 0x07 => fld d 8 12 4 == 0 && allZero d 10 2 && allZero d 20 16
  | 0x08 => decide (leAt d 8 4 ≤ 3) && allZero d 16 20
  | _ => false

/-- Entries that a request type takes (R271): exactly its BLOBs; a `RUN_GRAPH`'s are checked against its version. -/
def entriesOk (descs : List Unit64) : Bool :=
  let d := descs.getD 0 []
  let es := entriesOf descs
  let blobs (n least : Nat) : Bool :=
    es.length == n && (List.range n).all (fun k => es.any (fun e => e.kind == 3 && e.slot == k && decide (least ≤ e.len)))
  match itemType d with
  | 0x01 => true
  | 0x02 => if byteAt d 9 = 0 then blobs 2 0 else es.isEmpty
  | 0x03 | 0x04 => blobs 1 0
  | 0x07 => blobs 1 160
  | 0x08 => blobs 1 64
  | _ => es.isEmpty

/-- What makes an item complete with `BAD_DESCRIPTOR` once it is consumed. -/
def itemOk (c : Conn) (descs : List Unit64) : Bool :=
  continuationsOk descs && entryReserved descs && bodyOk (descs.getD 0 []) && entriesOk descs &&
  (entriesOf descs).all (fun e => e.kind == 2 || decide (e.dqp < c.dataQps))

/-- BLOB `k` of an item. -/
def blob (descs : List Unit64) (k : Nat) : Option Entry := (ofKind 3 descs).find? (fun e => e.slot == k)

/-! Opening a context (R268, R292, R302). -/

/-- The lowest number that no context holds. -/
def lowestFree' (used : List Nat) : Nat := ((List.range (used.length + 1)).find? (fun n => !used.contains n)).getD 0

/-- The number that an action which waits for the twin has for its context (R363). -/
def Await.num (a : Await) : Option Nat :=
  match a with
  | .row _ n => n
  | .record _ _ | .finish _ | .forward _ _ => none

/-- The number of the next context: the one promised to the row that runs, or the lowest that no context has and no waiting
row is promised (R302, R363). -/
def freshNum (s : State) : Nat :=
  s.tlc.promised.getD (lowestFree' (s.ctxs.map Ctx.num ++ s.tlc.awaiting.filterMap (fun a => a.2.num)))

/-- A context as an item opens it; a client of the twin that came over plays the failed member (R355). -/
def newCtx (s : State) (n : Nat) (c : Conn) (descs : List Unit64) : Ctx :=
  let d := descs.getD 0 []
  let run := itemType d == 1
  let load := decide (2 ≤ itemType d ∧ itemType d ≤ 4)
  { num := n, conn := c.id, reqId := itemReq d, typ := itemType d,
    state := if run then .queued else if load then .input else .closing,
    notify := itemNotify d, mirror := run && itemMirror d && mirroring s, descs := descs,
    graph := if run then fld d 8 0 12 else 0, ver := 0, inst := 0,
    sregs := List.replicate 64 0, preds := List.replicate 8 false, orbits := [], calls := [], pins := [],
    pcGraph := 0, pcVer := 0, pc := 0, events := [], lateSignals := [], progress := (0, 0), info := 0,
    failure := none, detail := 0, issuing := false, settle := none, inFull := false, fullStep := false, kept := [], planKeys := [],
    toRead := [], reads := [], reading := false, taken := false, ckptCmd := none, ckptImages := [], sentImages := [], ckptPending := none,
    ckptDone := none, stale := false, resent := false, asTwin := c.mirroredPeer, consumedNs := s.dev.timeNs,
    startNs := if run then 0 else s.dev.timeNs, outNs := 0 }

/-! RDMA READs (R262, R277). -/

/-- A client buffer is read in pieces of up to 1 MiB. -/
def readPieces (e : Entry) : List (Nat × Nat × Nat × Nat) :=
  (List.range ((e.len + 0xFFFFF) / 0x100000)).map (fun k =>
    (e.dqp, e.rkey, e.va + 0x100000 * k, min 0x100000 (e.len - 0x100000 * k)))

/-- The READs of a data QP of a connection that are outstanding. -/
def readsOut (s : State) (conn dqp : Nat) : Nat :=
  ((s.ctxs.filter (fun y => y.conn == conn)).flatMap Ctx.reads).count dqp

/-- Issues a context's READs in order while fewer than 16 of their QP are outstanding. -/
def issueReads (n : Nat) : Nat → State → State
  | 0, s => s
  | fuel + 1, s =>
    match s.ctx? n with
    | none => s
    | some x =>
      match x.toRead with
      | [] => s
      | (d, k, va, len) :: t =>
        if 16 ≤ readsOut s x.conn d then s
        else issueReads n fuel ((s.setCtx { x with toRead := t, reads := x.reads ++ [d] }).emit (.rdmaRead x.conn d k va len))

/-- A context begins to read entries: as many READs as its QPs may have outstanding. -/
def beginReads (s : State) (x : Ctx) (es : List Entry) : State :=
  let l := es.flatMap readPieces
  issueReads x.num l.length (s.setCtx { x with toRead := l, reads := [] })

/-- A context whose entries are all placed: the READs still due have been issued as earlier ones were answered. -/
def readsDone (s : State) (x : Ctx) : State :=
  (s.setCtx { x with toRead := [], reads := [] }).emits (x.toRead.map (fun p => .rdmaRead x.conn p.1 p.2.1 p.2.2.1 p.2.2.2))

/-! Admission of launches (R312, R313, R316). -/

/-- Whether a hold that began before a context's consumption covers its graph (R316). -/
def heldBack (s : State) (x : Ctx) : Bool :=
  let earlier := (s.ctxs.takeWhile (fun y => y.num != x.num)).map Ctx.num
  let model := (s.graph? x.graph).map Graph.model
  s.holds.any (fun h => earlier.contains h.ctx && (h.graph == x.graph || (h.wholeModel.isSome && h.wholeModel == model)))

/-- The version a launch may pin: current, of a graph whose model is not being unloaded (R272, R313). -/
def pinnable (s : State) (x : Ctx) : Option Nat :=
  match s.graph? x.graph with
  | none => none
  | some g =>
    let earlier := s.ctxs.takeWhile (fun y => y.num != x.num)
    if g.deleted || earlier.any (fun y => y.typ == 2 && byteAt (y.descs.getD 0 []) 9 == 1 &&
        byteAt (y.descs.getD 0 []) 8 == g.model && y.state == .input) then none
    else some g.cur

/-- Instances of a graph in use. -/
def instancesTaken (s : State) (graph : Nat) : List Nat :=
  (s.ctxs.filter (fun y => y.typ == 1 && y.graph == graph && y.taken)).map Ctx.inst

/-- The lowest free instance for a queued launch, when no earlier launch of the graph waits for one. -/
def freeInstance (s : State) (x : Ctx) : Option Nat :=
  match (s.graph? x.graph).bind (fun g => g.version? x.ver) with
  | none => none
  | some v =>
    let earlier := s.ctxs.takeWhile (fun y => y.num != x.num)
    if earlier.any (fun y => y.typ == 1 && y.state == .queued && y.graph == x.graph) then none
    else (List.range v.instances).find? (fun j => !(instancesTaken s x.graph).contains j)

/-- A queued launch that has pinned takes an instance and reads its inputs (R312). -/
def takeInstance (s : State) (n : Nat) : State :=
  match s.ctx? n with
  | none => s
  | some x =>
    if x.typ ≠ 1 ∨ x.state ≠ .queued ∨ x.ver = 0 then s
    else match freeInstance s x with
      | none => s
      | some j => s.setCtx { x with state := .input, inst := j, taken := true, startNs := s.dev.timeNs }

/-- A launch pins its version, unless held back (R313, R316); a missing graph ends it. -/
def pinCtx (s : State) (n : Nat) : State :=
  match s.ctx? n with
  | none => s
  | some x =>
    if x.typ ≠ 1 ∨ x.state ≠ .queued ∨ x.ver ≠ 0 ∨ heldBack s x = true then s
    else match pinnable s x with
      | none => complete s x .badDescriptor
      | some v => repin (s.setCtx { x with ver := v })

/-- A launch that is consumed pins its version and takes an instance when one is free (R312, R313). -/
def admitCtx (s : State) (n : Nat) : State := takeInstance (pinCtx s n) n

/-- A hold ends: the launches that waited pin in consumption order (R316 step 5); they take their instances by
`INSTANCE_ACQUIRE`, a change of state that the twin sees first (R363). -/
def endHold (s : State) (ctx : Nat) : State :=
  let s1 := { s with holds := s.holds.filter (fun h => h.ctx != ctx) }
  (s1.ctxs.map Ctx.num).foldl pinCtx s1

/-! The ring (R266 to R268, R275). -/

/-- Whether the hub serves a connection's requests. -/
def serving (s : State) : Bool := s.hub.state == .on && s.tlc.tstate != 5 && s.dev.ready

def Conn.slot (c : Conn) (n : Nat) : Unit64 := (alFind (n % c.sqSlots) c.ring).getD (List.replicate 64 0)

/-- The header check of R275 on one slot. -/
def headerOk (c : Conn) (d : Unit64) : Bool :=
  decide (1 ≤ itemType d ∧ itemType d ≤ 8) && itemSerial d == c.expected && fld d 1 6 2 == 0 &&
  (itemType d == 1 || !itemMirror d) && itemReq d != 0xFFFFFFFF

/-- Slots from the head up to the next that passes the check, or up to the tail. -/
def skipped (c : Conn) : Nat → Nat → Nat
  | 0, _ => 0
  | fuel + 1, n => if n < c.sqTail ∧ headerOk c (c.slot n) = false then 1 + skipped c fuel (n + 1) else 0

/-- Copies an item's descriptors and takes its slots. -/
def leaveSlots (s : State) (c : Conn) (n serial : Nat) : State :=
  s.updConn c.id (fun d => { d with head := d.head + n, expected := (serial + 1) % 65536 })

/-- Consumes the item at the head (R268, R275, R277): a launch is admitted, a patch begins its hold, BLOBs are
read. Whether `NUM_WRITES` of the patch is above 0, so that the hold covers the model, the image tells that is read later; until
then it is a free value (R316; log 35). -/
def openItem (s : State) (c : Conn) (descs : List Unit64) : State :=
  let n := freshNum s
  let x := newCtx s n c descs
  let s1 := { leaveSlots s c descs.length (itemSerial (descs.getD 0 [])) with ctxs := s.ctxs ++ [x] }
  if !itemOk c descs then complete s1 x .badDescriptor
  else
    let reading := beginReads s1 x (ofKind 3 descs)
    if x.typ = 1 then admitCtx s1 n
    else if x.typ = 4 then
      let g := fld (descs.getD 0 []) 8 0 12
      let wide := Config.free s1.freeCtr % 2 == 1
      { reading with freeCtr := reading.freeCtr + 1, holds := s1.holds ++ [⟨n, g, if wide then (s1.graph? g).map Graph.model else none⟩] }
    else if x.typ ≤ 4 then reading
    else s1

/-- DOORBELL (R266, R267): slots written, then the two counts; a value out of place is ignored and counted. -/
def doorbellRow (conn : Nat) (slots : List (Nat × Unit64)) (sqTail cqHead : Option Nat) (s : State) : State :=
  match s.conn? conn with
  | none => s
  | some c =>
    if serving s = false ∨ c.attached = false then s
    else
      let c1 := { c with ring := slots.foldl (fun r w => alSet (w.1 % c.sqSlots) (slice w.2 0 64) r) c.ring }
      let c2 := match sqTail with
        | some t => if t < c1.sqTail ∨ c1.head + c1.sqSlots < t then { c1 with ignoredTail := c1.ignoredTail + 1 }
            else { c1 with sqTail := t }
        | none => c1
      let c3 := match cqHead with
        | some h => if h < c2.cqHead ∨ c2.lastWritten < h then { c2 with ignoredHead := c2.ignoredHead + 1 }
            else { c2 with cqHead := h }
        | none => c2
      drain (s.updConn conn (fun _ => c3)) conn

/-! Launches (R277, R312). -/

/-- A launch's entries against its version (R277 step 3, R312). -/
def entryFailure (c : Conn) (v : Version) (es : List Entry) : Option Res :=
  let slot (e : Entry) : Option Slot := v.slots[e.slot]?
  let bad (e : Entry) : Bool :=
    match e.kind with
    | 0 => (match slot e with
        | some t => t.dir == 1
        | none => true) || decide (c.dataQps ≤ e.dqp)
    | 1 => (match slot e with
        | some t => t.dir == 0
        | none => true) || decide (c.dataQps ≤ e.dqp)
    | 2 => decide (63 < e.slot) || (decide (1 < v.instances) && e.slot == v.instReg)
    | _ => true
  let long (e : Entry) : Bool := decide (e.kind ≤ 1) && (match slot e with
    | some t => decide (t.bytes < e.len)
    | none => false)
  if es.any bad then some .badDescriptor else if es.any long then some .badShape else none

/-- Address of a parameter slot for a launch's instance (R312). -/
def slotVa (v : Version) (x : Ctx) (n : Nat) : Nat :=
  ((v.slots[n]?).map Slot.va).getD 0 + x.inst * v.instStride

def launchVersion (s : State) (x : Ctx) : Option Version := (s.graph? x.graph).bind (fun g => g.version? x.ver)

/-- Whether a context restores what a lost twin had (R372): its inputs come from the mirror area. -/
def isRestoring (s : State) (ctx : Nat) : Bool := s.tlc.mctxs.any (fun t => t.restoring == some ctx)

/-- RUN_GRAPH (R277 steps 2 and 3, R292): scalars, then the instance offset, then the reads. -/
def runGraphRow (ctx : Nat) (s : State) : State :=
  match s.ctx? ctx with
  | none => s
  | some x =>
    match launchVersion s x, s.conn? x.conn with
    | some v, some c =>
      if x.typ ≠ 1 ∨ x.state ≠ .input ∨ x.reading = true then s
      else
        let es := entriesOf x.descs
        match entryFailure c v es with
        | some r => complete s x r
        | none =>
          let regs := (es.filter (fun e => e.kind == 2)).foldl (fun l e => updAt l e.slot (fun _ => BitVec.ofNat 64 e.va)) x.sregs
          let regs := if 1 < v.instances then updAt regs v.instReg (fun _ => BitVec.ofNat 64 (x.inst * v.instStride))
            else regs
          beginReads s { x with sregs := regs, reading := true } (ofKind 0 x.descs)
    | _, _ => s

/-- Logs a fault of a hub block's access (R40, R196, R206). -/
def hubFault (s : State) (e : Err) : State := captureFault s (Cmd.plain [[0x13]] []) e

/-- The bytes each INPUT places, with the address. -/
def inputWrites (v : Version) (x : Ctx) (data : List (List Byte)) : List (Nat × List Byte) :=
  ((ofKind 0 x.descs).zip data).map (fun p => (slotVa v x p.1.slot, p.2))

/-- Whether the bytes given are those the reads asked for. -/
def dataFits (x : Ctx) (data : List (List Byte)) : Bool := (ofKind 0 x.descs).map Entry.len == data.map List.length

/-- INPUTS_PLACED (R277 steps 3 and 4). -/
def inputsPlacedRow (ctx : Nat) (data : List (List Byte)) (s : State) : State :=
  match s.ctx? ctx with
  | none => s
  | some x =>
    match launchVersion s x with
    | none => s
    | some v =>
      if x.state ≠ .input ∨ x.reading = false ∨ isRestoring s ctx = true ∨ dataFits x data = false ∨
          asleep s ((inputWrites v x data).map (fun p => (p.1, p.2.length))) = true then s
      else
        let ws := (inputWrites v x data).flatMap (fun p => spread p.1 p.2)
        match writeAll 0 true ws ws (readsDone s x) with
        | (s1, some e) => complete (hubFault s1 e) x e.1
        | (s1, none) => s1.setCtx { x with
            toRead := [], reads := [], state := .running, reading := false, issuing := true, pcGraph := x.graph, pcVer := x.ver, pc := 0 }

/-- INPUT bytes that cross to the twin before the graph starts (R363). -/
def inputsExtra (ctx : Nat) (data : List (List Byte)) (s : State) : List Mirror :=
  match s.ctx? ctx with
  | none => []
  | some x =>
    match launchVersion s x with
    | some v => if x.mirror && x.state == .input && x.reading && !isRestoring s ctx && dataFits x data then
        (inputWrites v x data).map (fun p => .input ctx p.1 p.2) else []
    | none => []

/-- CRC-64 of the plan keys of a launch, the `DETAIL` of its record (R128). -/
def launchKey (x : Ctx) : DWord :=
  if x.planKeys.isEmpty then 0 else BitVec.ofNat 64 (crc64 (x.planKeys.flatMap (fun k => toLE 8 k.toNat)))

/-- GRAPH_END (R277 step 5, R291, R299): nothing is issued any more and nothing is in flight. -/
def graphEndRow (ctx : Nat) (s : State) : State :=
  match s.ctx? ctx with
  | none => s
  | some x =>
    match launchVersion s x with
    | none => s
    | some v =>
      if x.state ≠ .running ∨ x.issuing = true ∨ (inFlight s ctx).isEmpty = false ∨
          asleep s ((ofKind 1 x.descs).map (fun e => (slotVa v x e.slot, e.len))) = true then s
      else
        let x := { x with detail := launchKey x }
        match x.failure with
        | some r => complete s x r
        | none =>
          match mapE (fun e => (readBytes s (slotVa v x e.slot) e.len).map (fun b =>
              Egress.rdmaWrite x.conn e.dqp e.rkey e.va b)) (ofKind 1 x.descs) with
          | .error e => complete (hubFault s e) x e.1
          | .ok outs => (s.setCtx { x with state := .output }).emits outs

/-- OUTPUTS_ACKNOWLEDGED (R277 step 6). -/
def outputsAcknowledgedRow (ctx : Nat) (s : State) : State :=
  match s.ctx? ctx with
  | none => s
  | some x => if x.state = .output then complete s { x with outNs := s.dev.timeNs } x.finalResult else s

/-- INSTANCE_ACQUIRE (R312). -/
def instanceAcquireRow (ctx : Nat) (s : State) : State := takeInstance s ctx

/-! Abort and flush (R275, R276, R306). -/

/-- Whether a change of a context is already on its way (R362). -/
def changeBusy (s : State) (ctx : Nat) : Bool :=
  s.tlc.awaiting.any (fun a => match a.2 with
    | .finish n | .forward n _ => n == ctx
    | .row _ _ | .record _ _ => false)

/-- Whether a change has been made, and its completion waits for the twin alone (R362). -/
def changeMade (s : State) (ctx : Nat) : Bool :=
  s.tlc.awaiting.any (fun a => match a.2 with
    | .finish n => n == ctx
    | .row _ _ | .record _ _ | .forward _ _ => false)

/-- Whether a live launch of a model holds up its unload (R272). -/
def launchesOf (s : State) (model : Nat) : Bool :=
  s.ctxs.any (fun x => x.typ == 1 && (x.ver != 0 || x.state == .queued) &&
    ((s.graph? x.graph).map Graph.model) == some model)

/-- Whether a request can still be stopped: its completion is not queued (R276), and a change of it is not made yet (R362). -/
def canStop (s : State) (x : Ctx) : Bool :=
  if x.typ = 1 then x.state != .closing else !isDone s x && !changeMade s x.num

/-- Live requests of a connection that a stop reaches, but the request `self` that asks for it. -/
def stoppable (s : State) (conn self : Nat) (f : Ctx → Bool) : List Nat :=
  (s.ctxs.filter (fun x => x.conn == conn && x.num != self && canStop s x && f x)).map Ctx.num

/-- Whether a consumed item has not started (R275): a launch without its instance, a patch or an unload that waits for its
turn, a request not yet executed. -/
def notStarted (s : State) (x : Ctx) : Bool :=
  match x.typ with
  | 1 => x.state == .queued
  | 2 => byteAt (x.descs.getD 0 []) 9 == 1 && x.state == .input && launchesOf s (byteAt (x.descs.getD 0 []) 8)
  | 3 => false
  | 4 => x.state == .input &&
      (s.holds.find? (fun h => h.graph == fld (x.descs.getD 0 []) 8 0 12)).map Hold.ctx != some x.num
  | _ => x.state == .closing

/-- A live request stops with a RESULT (R275, R276): a result being written fails as it ends, any other request than a launch
completes at once; the answer to a change that it had forwarded concerns it no more. -/
def stopReq (s : State) (n : Nat) (r : Res) : State :=
  match s.ctx? n with
  | none => s
  | some x =>
    if x.typ = 1 then stopCtx s n r
    else if x.state = .output then s.setCtx (x.fail r)
    else
      let rest := s.tlc.awaiting.filter (fun a => match a.2 with
        | .forward m _ => m != n
        | .row _ _ | .record _ _ | .finish _ => true)
      endHold (complete { s with tlc := { s.tlc with awaiting := rest } } x r) n

/-- Runs a request that a ring item or a SEND brings (R267): `f` gets its context. A SEND takes a context, and
waits in a receive buffer while none is free; a malformed one, or one of another type, completes with `BAD_DESCRIPTOR`. -/
def withRequest (src : ReqSrc) (typ : Nat) (s : State) (f : State → Ctx → State) : State :=
  match src with
  | .ctx n =>
    match s.ctx? n with
    | none => s
    | some x => if x.typ = typ ∧ x.state = .closing ∧ isDone s x = false then f s x else s
  | .send conn descs =>
    match s.conn? conn with
    | none => s
    | some c =>
      let d := descs.getD 0 []
      let t := itemType d
      let small := decide (5 ≤ t ∧ t ≤ 8)
      if serving s = false ∨ c.attached = false ∨ (small = true ∧ t ≠ typ) then s
      else if 65536 ≤ s.ctxs.length then
        if c.sends.length < 64 then s.updConn conn (fun d => { d with sends := d.sends ++ [descs] })
        else s.emit (.receiverNotReady conn)
      else if small && itemSerial d == 0 && descs.length == itemLen d + 1 && itemReq d != 0xFFFFFFFF &&
          fld d 1 5 3 == 0 && itemOk c descs then
        let n := freshNum s
        let x := newCtx s n c descs
        f { s with ctxs := s.ctxs ++ [x] } x
      else enqueue s conn (bareRec (itemReq d) t (itemNotify d) .badDescriptor 0)

/-- Completes a request with `OK` and a count. -/
def completeOk (s : State) (x : Ctx) (detail : Nat) : State := complete s { x with detail := BitVec.ofNat 64 detail } .ok

/-- ABORT (R276). -/
def abortRow (src : ReqSrc) (s : State) : State :=
  withRequest src 5 s (fun s x =>
    let target := leAt (x.descs.getD 0 []) 8 4
    let hit := stoppable s x.conn x.num (fun y => y.reqId == target)
    completeOk (hit.foldl (fun s n => stopReq s n .aborted) s) x hit.length)

/-- The items and stray slots of the discarded region: headers, and the count of slots that are none. -/
def flushWalk (c : Conn) : Nat → Nat → List Unit64 × Nat
  | 0, _ => ([], 0)
  | fuel + 1, n =>
      if c.sqTail ≤ n then ([], 0)
      else
        let d := c.slot n
        if 1 ≤ itemType d ∧ itemType d ≤ 8 then
          let r := flushWalk c fuel (n + itemLen d + 1)
          (d :: r.1, r.2)
        else
          let r := flushWalk c fuel (n + 1)
          (r.1, r.2 + 1)

/-- FLUSH (R275, R306). -/
def flushRow (src : ReqSrc) (s : State) : State :=
  withRequest src 6 s (fun s x =>
    match s.conn? x.conn with
    | none => s
    | some c =>
      let r := flushWalk c (c.sqTail - c.head) c.head
      let s1 := s.updConn c.id (fun e => { e with
        head := e.sqTail
        expected := match r.1.getLast? with
          | some d => (itemSerial d + 1) % 65536
          | none => e.expected })
      let s2 := r.1.foldl (fun s d => enqueue s c.id (bareRec (itemReq d) (itemType d) (itemNotify d) .queueFlushed 0)) s1
      let s3 := if r.2 = 0 then s2 else enqueue s2 c.id (ringRec r.2)
      let waiting := stoppable s3 c.id x.num (notStarted s3)
      let s4 := waiting.foldl (fun s n => stopReq s n .queueFlushed) s3
      let s5 := if fld (x.descs.getD 0 []) 8 0 1 = 1 then
          (stoppable s4 c.id x.num (fun _ => true)).foldl (fun s n => stopReq s n .aborted) s4 else s4
      completeOk s5 x (r.1.length + waiting.length))

/-! Queries (R271). -/

/-- Writes a result to BLOB 0; the record follows once the client has acknowledged it. -/
def writeResult (s : State) (x : Ctx) (bytes : List Byte) : State :=
  match blob x.descs 0 with
  | none => s
  | some e =>
      let b := bytes.take e.len
      (s.setCtx { x with state := .output, detail := BitVec.ofNat 64 b.length }).emit
        (.rdmaWrite x.conn e.dqp e.rkey e.va b)

/-- Result of `QUERY` (R271; the progress word of `NOTIFY`: R284; layout: log 20). -/
def queryBytes (s : State) (c : Conn) (selector arg : Nat) : List Byte :=
  match selector with
  | 0 => (s.ctxs.filter (fun y => y.reqId == arg)).flatMap (fun y =>
      toLE 4 y.state.code ++ toLE 4 y.typ ++ toLE 8 y.startNs ++
      toLE 4 y.progress.1 ++ toLE 4 y.progress.2)
  | 1 => toLE 4 (devIdent s).toNat ++
      (List.range 16).flatMap (fun k => toLE 1 (((s.cluster k).present.filter id).length)) ++
      toLE 4 s.attn.pending.toNat ++ toLE 4 (modelFree s.ms) ++ toLE 4 (fcFree s.ms) ++ toLE 4 (scratchFree s.ms)
  | 2 =>
      let m := s.model? arg
      toLE 8 (bit m.isSome) ++ toLE 8 ((m.map Model.spilledBytes).getD 0) ++
      ((s.graphs.filter (fun g => g.model == arg && !g.deleted)).flatMap (fun g => toLE 2 g.id))
  | _ => toLE 8 c.head ++ toLE 8 c.sqTail ++ toLE 8 c.cqHead ++ toLE 8 c.expected ++ toLE 4 c.ignoredTail ++
      toLE 4 c.ignoredHead

/-- QUERY (R271). -/
def queryRow (src : ReqSrc) (s : State) : State :=
  withRequest src 8 s (fun s x =>
    match s.conn? x.conn with
    | none => s
    | some c =>
      let d := x.descs.getD 0 []
      writeResult s x (queryBytes s c (leAt d 8 4) (leAt d 12 4)))

/-- The live launch whose settle map a `QUERY_PLAN` uses: the one consumed first (R271). -/
def planContext (s : State) (x : Ctx) (graph req : Nat) : Option Ctx :=
  if req = 0xFFFFFFFF then none
  else s.ctxs.find? (fun y => y.conn == x.conn && y.typ == 1 && y.graph == graph && y.reqId == req)

/-- The command that a `QUERY_PLAN` plans: its units as the graph stands, the launch's registers, orbits and settle
map; an orbit level that is not open counts 0, as without a launch (R227; log 20). -/
def planCmd (s : State) (y : Option Ctx) (us : List Unit64) : Cmd :=
  match y with
  | some y => { Cmd.plain us y.sregs with
      ctx := y.num, orbitCtrs := y.orbits.map Orbit.c ++ List.replicate (4 - y.orbits.length) 0, inFull := y.inFull, frozen := frozenFor s y (us.getD 0 []), settleRef := y.settle }
  | none => { Cmd.plain us (List.replicate 64 0) with orbitCtrs := [0, 0, 0, 0] }

/-- QUERY_PLAN (R126, R271). -/
def queryPlanRow (src : ReqSrc) (s : State) : State :=
  withRequest src 7 s (fun s x =>
    let d := x.descs.getD 0 []
    let gid := fld d 8 0 12
    let off := leAt d 12 4
    match (s.graph? gid).bind (fun g => if g.deleted then none else g.version? g.cur) with
    | none => complete s x .badDescriptor
    | some v =>
      let us := ((versionCmds v.segs).find? (fun c => c.1 == off)).map Prod.snd
      match us with
      | none => complete s x .badDescriptor
      | some us =>
        let y := planContext s x gid (leAt d 16 4)
        let c := planCmd s y us
        if 0x80 ≤ c.opcode then complete s x .badDescriptor
        else match opCheck s c, planOf s c ((y.map Ctx.kept).getD []) with
          | .ok (), some p => writeResult s x (p.bytes (hdrMask c.u0) (s.enabledCores c.mask) c.frozen)
          | .error e, _ => complete s x e.1
          | .ok (), none => complete s x .badDescriptor)

/-- Consumes at the head of the ring (R268, R275). -/
def consumeRow (conn : Nat) (s : State) : State :=
  match s.conn? conn with
  | none => s
  | some c =>
    if serving s = false ∨ c.attached = false ∨ c.sqTail ≤ c.head ∨ hasRoom s c = false then s
    else
      let d := c.slot c.head
      let n := itemLen d + 1
      if decide (1 ≤ itemType d ∧ itemType d ≤ 8) && itemSerial d == c.expected then
        if c.sqTail < c.head + n ∨ 65536 ≤ s.ctxs.length then s
        else if headerOk c d then openItem s c ((List.range n).map (fun k => c.slot (c.head + k)))
        else enqueue (leaveSlots s c n (itemSerial d)) conn (bareRec (itemReq d) (itemType d) (itemNotify d) .badDescriptor 0)
      else
        let k := skipped c (c.sqTail - c.head) c.head
        enqueue (s.updConn conn (fun e => { e with head := e.head + k })) conn (ringRec k)

/-- A SEND runs as its type says (R267). -/
def sendRow (conn : Nat) (descs : List Unit64) (s : State) : State :=
  match itemType (descs.getD 0 []) with
  | 6 => flushRow (.send conn descs) s
  | 7 => queryPlanRow (.send conn descs) s
  | 8 => queryRow (.send conn descs) s
  | _ => abortRow (.send conn descs) s

/-- ITEM_CONSUME (R267, R268, R275): the SENDs that waited for a context run ahead of the ring. -/
def itemConsumeRow (conn : Nat) (s : State) : State :=
  match s.conn? conn with
  | none => s
  | some c =>
    match c.sends with
    | [] => consumeRow conn s
    | ds :: t =>
        if serving s && c.attached && decide (s.ctxs.length < 65536) then
          sendRow conn ds (s.updConn conn (fun d => { d with sends := t }))
        else s

/-! Connections (R262 to R265, R374). -/

/-- Whether a Parvon serves a front-end address: its own, of which a returned one those handed back to it, or its twin's after
a takeover (R372, R376). -/
def servesAddr (s : State) (addr : Nat) : Bool :=
  if s.tlc.away then s.tlc.handedBack.contains addr else s.tlc.ownAddrs.contains addr || s.tlc.served.contains addr

/-- Whether a Parvon accepts CM REQs at an address (R361, R373, R433). -/
def acceptsReq (s : State) (addr : Nat) : Bool :=
  serving s && servesAddr s addr &&
  (match s.tlc.pair with
    | some p => !(p.role == 1 && p.mode == 1 && s.tlc.tstate != 4 && s.tlc.tstate != 0)
    | none => true)

def isPow2 (n : Nat) : Bool := n != 0 && n &&& (n - 1) == 0

/-- Private data of R264. -/
def reqShapeOk (q : CmReq) : Bool :=
  q.supported && q.reservedOk && isPow2 q.sqSlots && decide (64 ≤ q.sqSlots ∧ q.sqSlots ≤ 4096 ∧ 1 ≤ q.dataQps ∧ q.dataQps ≤ 3) &&
  isPow2 q.cqRecords && decide (16 ≤ q.cqRecords ∧ q.cqRecords ≤ 65536) && q.cqVa % 32 == 0

/-- Limits of R263: queue pairs, connections, ring memory. -/
def fitsLimits (s : State) (q : CmReq) (fresh : Nat) : Bool :=
  let live := s.conns.filter Conn.attached
  decide ((live.map (fun c => 1 + c.dataQps)).sum + 1 + q.dataQps ≤ 4096) &&
  decide (s.conns.length + fresh ≤ 1024) &&
  decide ((live.map (fun c => 64 * c.sqSlots)).sum + 64 * q.sqSlots ≤ 0x1000000)

/-- `CONN_ID` carries the role of a paired Parvon in bit 31 (R362). -/
def connId (s : State) (n : Nat) : Nat :=
  n + (match s.tlc.pair with
    | some p => if p.role = 1 then 2 ^ 31 else 0
    | none => 0)

/-- The private data of a control QP's REP (R264). -/
def Conn.repBytes (c : Conn) : List Byte :=
  toLE 4 c.id ++ toLE 4 0 ++ toLE 8 c.sqVa ++ toLE 8 c.dbVa ++ toLE 4 c.sqRkey

/-- The REP: the addresses and the rkey are the device's choice, free values (log 8), and the connection keeps them. -/
def sendRep (s : State) (c : Conn) : State :=
  let d := { c with sqVa := Config.free s.freeCtr, dbVa := Config.free (s.freeCtr + 1), sqRkey := Config.free (s.freeCtr + 2) }
  { (s.updConn c.id (fun _ => d)).emit (.cmRep c.id d.repBytes) with freeCtr := s.freeCtr + 3 }

/-- A data QP joins the connection that its REQ names, on the connection's port (R263, R264). -/
def joinRow (k : Nat) (q : CmReq) (s : State) : State :=
  match s.conn? k with
  | none => s.emit .cmReject
  | some c =>
    if q.supported && acceptsReq s q.addr && c.attached && q.port == c.port && decide (c.joined < c.dataQps) then
      (s.updConn k (fun d => { d with joined := d.joined + 1 })).emit (.cmRep k [])
    else s.emit .cmReject

/-- A CM REQ that opens a connection or joins one (R262 to R265). -/
def connectionSetupRow (q : CmReq) (s : State) : State :=
  if serving s = false then s
  else match q.dataOf with
  | some k => joinRow k q s
  | none =>
    if q.resume = 1 then s
    else if acceptsReq s q.addr && reqShapeOk q && fitsLimits s q 1 then
      let id := connId s s.nextConn
      let c : Conn :=
        { id := id, port := q.port, addr := q.addr, joined := 0, sqVa := 0, dbVa := 0, sqRkey := 0, sends := [], sqSlots := q.sqSlots, dataQps := q.dataQps, cqRecords := q.cqRecords, cqVa := q.cqVa,
          cqRkey := q.cqRkey, ring := [], sqTail := 0, head := 0, cqHead := 0, nextSeq := 1, expected := 0,
          ignoredTail := 0, ignoredHead := 0, attached := true, mirroredPeer := false, outq := [], held := [],
          rateLimited := [] }
      sendRep { s with conns := s.conns ++ [c], nextConn := s.nextConn + 1 } c
    else s.emit .cmReject

/-- A resuming REQ (R374): the new queue pairs attach to the mirrored connection and held records are rewritten. -/
def resumeRow (q : CmReq) (s : State) : State :=
  if q.resume ≠ 1 ∨ q.dataOf.isSome = true ∨ serving s = false then s
  else match s.conn? q.resumeConn with
    | some c =>
      if c.attached || !c.mirroredPeer || !acceptsReq s q.addr || !reqShapeOk q || !fitsLimits s q 0 then s.emit .cmReject
      else
        let d : Conn := { c with
          port := q.port, addr := q.addr, joined := 0, sqSlots := q.sqSlots, dataQps := q.dataQps, cqRecords := q.cqRecords,
          cqVa := q.cqVa, cqRkey := q.cqRkey,
          ring := [], sqTail := c.head, cqHead := max c.cqHead q.resumeCqHead, attached := true, held := [] }
        let s1 := sendRep (s.updConn c.id (fun _ => d)) d
        let due := c.held.filter (fun h => decide (q.resumeCqHead < h.seq))
        drain (s1.emits (due.flatMap (fun h => .record c.id (recordVa d h.seq) h.bytes ::
          (if h.notify then [.notify c.id (h.seq % 2 ^ 32)] else [])))) c.id
    | none => s.emit .cmReject

/-- The whole connection closes (R265): no record is written; what runs stops as though aborted. -/
def closeConn (s : State) (conn : Nat) : State :=
  if (s.conn? conn).isNone then s
  else
    let s1 := ({ s with conns := s.conns.filter (fun c => c.id != conn) }).emit (.closed conn)
    (s1.ctxs.filter (fun x => x.conn == conn)).foldl (fun s x =>
      if x.state = .running then stopCtx s x.num .aborted else endHold (closeCtx s x.num) x.num) s1

/-- A connection's QP is lost or its client closes it (R265). -/
def connectionCloseRow (conn : Nat) (s : State) : State :=
  match s.conn? conn with
  | some c => if c.attached then closeConn s conn else s
  | none => s

/-- No client has come back for 60 s (R374). -/
def connectionExpiryRow (conn : Nat) (s : State) : State :=
  match s.conn? conn with
  | some c => if c.attached then s else closeConn s conn
  | none => s

/-- REMOTE_ACCESS_NAK (R262, R264). -/
def execRemoteAccessNak (conn reason : Nat) (s : State) : Host.Outcome State Fault Refusal :=
  .next (match s.conn? conn with
    | some c => if c.attached && serving s then s.emit (.nak conn reason) else s
    | none => s)

/-- CNP_RECEIVED (R262): queue pair 0 is the control QP. -/
def execCnpReceived (conn qp : Nat) (s : State) : Host.Outcome State Fault Refusal :=
  .next (match s.conn? conn with
    | some c =>
        if c.attached && serving s && decide (qp ≤ c.dataQps) then
          (s.updConn conn (fun d => { d with rateLimited := if d.rateLimited.contains qp then d.rateLimited
            else d.rateLimited ++ [qp] })).emit (.rateLimit conn qp)
        else s
    | none => s)

/-! Model and graph changes (R272, R311, R316, R362). -/

/-- Whether the twins hold one set of models and graphs: paired, and neither took over nor yielded (R362). -/
def paired (s : State) : Bool := s.tlc.pair.isSome && s.tlc.tstate != 0 && s.tlc.tstate != 4 && s.tlc.tstate != 5

/-- Whether this Parvon is the secondary of its pair (R361, R362). -/
def isSecondary (s : State) : Bool := (s.tlc.pair.map PairRec.role) == some 1 && s.tlc.tstate != 0

/-- Sends updates, and a local action waits for the last of them. -/
def sendAwait (s : State) (us : List Mirror) (a : Await) : State :=
  let s1 := sendMirror s us
  { s1 with tlc := { s1.tlc with awaiting := s1.tlc.awaiting ++ [(s1.tlc.sendSeq, a)] } }

/-- A context about to enter `CLOSING`, as the twin sees it first (R363). -/
def Ctx.closingUpdate (x : Ctx) : Mirror := .context { x.toMirror with state := CtxState.closing.code }

/-- A change of a request has been made or refused: it completes once the twin holds what `us` says and, while mirroring, the
context's change of state (R362, R363, R364). -/
def endChange (s : State) (x : Ctx) (us : List Mirror) (r : Res) (detail : Nat) : State :=
  let y := { x with toRead := [], reads := [], detail := BitVec.ofNat 64 detail, failure := if r.isOk then none else some r,
                    info := x.info ||| r.infoBit }
  let all := us ++ (if mirroring s then [y.closingUpdate] else [])
  if all.isEmpty then endHold (complete s y r) x.num else endHold (sendAwait (s.setCtx y) all (.finish x.num)) x.num

/-- Applies a change here and at the twin (R362): a secondary forwards it to the primary, or refuses it while the
link is down; a primary completes it when the twin has applied it; alone it completes at once. -/
def change (s : State) (x : Ctx) (u : Mirror) (apply : State → State × Res × Nat) : State :=
  if isSecondary s then
    if s.tlc.linkUp then sendAwait s [u] (.forward x.num u) else endChange s x [] .twinPrimaryUnreachable 0
  else
    let r := apply s
    endChange r.1 x (if paired s && s.tlc.linkUp && r.2.1.isOk then [u] else []) r.2.1 r.2.2

/-- A context of a change whose BLOBs have arrived. -/
def changeCtx (s : State) (ctx typ : Nat) : Option Ctx :=
  match s.ctx? ctx with
  | none => none
  | some x => if x.typ = typ ∧ x.state = .input ∧ changeBusy s ctx = false then some x else none

def blobFits (x : Ctx) (k : Nat) (b : List Byte) : Bool := (blob x.descs k).map Entry.len == some b.length

/-- LOAD_MODEL (R212, R272): it waits while memory that it takes is asleep (R34, R389). -/
def execLoadModel (ctx : Nat) (manifest weights : List Byte) (s : State) : Host.Outcome State Fault Refusal :=
  .next (match changeCtx s ctx 2 with
    | none => s
    | some x =>
      let d := x.descs.getD 0 []
      if byteAt d 9 = 0 ∧ blobFits x 0 manifest = true ∧ blobFits x 1 weights = true ∧
          loadAsleep s (loadModel s (byteAt d 8) manifest weights).1 = false then
        change (readsDone s x) x (.model 0 (byteAt d 8) manifest weights) (fun s => loadModel s (byteAt d 8) manifest weights)
      else s)

/-- An unload as it takes effect (R272). -/
def unloadResult (s : State) (model : Nat) : State × Res × Nat :=
  if model < 1 ∨ 63 < model then (s, .badDescriptor, 0)
  else match s.model? model with
    | none => (s, .ok, 0)
    | some m => (unloadNow s m, .ok, 0)

/-- UNLOAD_MODEL (R272): it waits for every live launch of the model. -/
def execUnloadModel (ctx : Nat) (s : State) : Host.Outcome State Fault Refusal :=
  .next (match changeCtx s ctx 2 with
    | none => s
    | some x =>
      let d := x.descs.getD 0 []
      if byteAt d 9 = 1 ∧ launchesOf s (byteAt d 8) = false then
        change s x (.model 1 (byteAt d 8) [] []) (fun s => unloadResult s (byteAt d 8))
      else s)

/-- STORE_GRAPH (R310, R311). -/
def execStoreGraph (ctx : Nat) (image : List Byte) (s : State) : Host.Outcome State Fault Refusal :=
  .next (match changeCtx s ctx 3 with
    | none => s
    | some x =>
      let d := x.descs.getD 0 []
      if blobFits x 0 image then
        change (readsDone s x) x (.graph (fld d 8 0 12) (byteAt d 10) image) (fun s => storeGraph s (fld d 8 0 12) (byteAt d 10) image)
      else s)

/-- Whether a patch's hold covers what `NUM_WRITES` of its image says (R316 step 1; log 35). -/
def holdFits (s : State) (h : Hold) (image : List Byte) : Bool :=
  (s.graph? h.graph).isNone || h.wholeModel.isSome == decide (0 < leAt image 6 2)

/-- PATCH_GRAPH (R316): patches of one graph apply in consumption order; an image that its hold does not fit is no image of that
patch (log 3), and memory asleep is waited for (R389). -/
def execPatchGraph (ctx : Nat) (image : List Byte) (s : State) : Host.Outcome State Fault Refusal :=
  .next (match changeCtx s ctx 4 with
    | none => s
    | some x =>
      let g := fld (x.descs.getD 0 []) 8 0 12
      let hold := s.holds.find? (fun h => h.graph == g)
      if blobFits x 0 image && (hold.map Hold.ctx) == some ctx && hold.all (fun h => holdFits s h image) &&
          !asleep s (patchSpans s g image) then change (readsDone s x) x (.patch g image) (fun s => patchGraph s g image)
      else s)

/-! The gated rows (R364). -/

/-- The local action of a row that waits for the twin. -/
def localAction (i : Instr) (s : State) : State :=
  match i with
  | .doorbell conn slots t h => doorbellRow conn slots t h s
  | .itemConsume conn => itemConsumeRow conn s
  | .instanceAcquire ctx => instanceAcquireRow ctx s
  | .runGraph ctx => runGraphRow ctx s
  | .inputsPlaced ctx data => inputsPlacedRow ctx data s
  | .graphEnd ctx => graphEndRow ctx s
  | .outputsAcknowledged ctx => outputsAcknowledgedRow ctx s
  | .abort src => abortRow src s
  | .flush src => flushRow src s
  | .queryPlan src => queryPlanRow src s
  | .query src => queryRow src s
  | .connectionSetup q => connectionSetupRow q s
  | .resume q => resumeRow q s
  | .connectionClose conn => connectionCloseRow conn s
  | .unattachedConnectionExpiry conn => connectionExpiryRow conn s
  | _ => s

/-- A request of this Parvon completes with the outcome of its change. -/
def finishChange (s : State) (ctx : Nat) (r : Res) (detail : Nat) : State :=
  match s.ctx? ctx with
  | none => s
  | some x => endHold (complete s { x with detail := BitVec.ofNat 64 detail } r) ctx

/-- A local action whose updates the twin holds; a row that opens a context opens it under the number promised. -/
def release (s : State) (a : Await) : State :=
  let promise (s : State) (n : Option Nat) : State := { s with tlc := { s.tlc with promised := n } }
  match a with
  | .row i n => promise (localAction i (promise s n)) none
  | .record conn seq => releaseRecord s conn seq
  | .finish ctx =>
      match s.ctx? ctx with
      | some x => finishChange s ctx x.finalResult x.detail.toNat
      | none => s
  | .forward _ _ => s

/-- The state once everything that waits for the twin has happened, in order. -/
def afterAwaited (s : State) : State :=
  (s.tlc.awaiting.map Prod.snd).foldl release { s with tlc := { s.tlc with awaiting := [] } }

/-- The connection whose messages a row brings. -/
def rowConn (i : Instr) : Option Nat :=
  match i with
  | .doorbell conn _ _ _ | .itemConsume conn | .connectionClose conn => some conn
  | .abort (.send conn _) | .flush (.send conn _) | .queryPlan (.send conn _) | .query (.send conn _) => some conn
  | _ => none

/-- Whether a row brings a message from outside: one that equals another is another. -/
def isMessage (i : Instr) : Bool :=
  match i with
  | .itemConsume _ => false
  | .connectionSetup _ | .resume _ => true
  | _ => (rowConn i).isSome

/-- Whether an awaiting action is a row that `f` picks. -/
def Await.isRow (f : Instr → Bool) (a : Await) : Bool :=
  match a with
  | .row i _ => f i
  | .record _ _ | .finish _ | .forward _ _ => false

/-- The context that a local action opens between two states. -/
def openedNum (s t : State) : Option Nat := ((t.ctxs.filter (fun x => (s.ctx? x.num).isNone)).head?).map Ctx.num

/-- A local action that waits for the acknowledgement of its updates while mirroring (R364): `MIRROR_ACKNOWLEDGEMENT` runs `f`.
Updates are those of the state in which the actions that wait already have happened; an action that sends none waits behind an
earlier message of its connection (R267). -/
def gated (i : Instr) (extra : State → List Mirror) (f : State → State) (s : State) : State :=
  if mirroring s then
    let p := afterAwaited s
    let us := mirrorDiff p (f p) ++ extra p
    let behind := (rowConn i).isSome && s.tlc.awaiting.any (fun a => a.2.isRow (fun j => rowConn j == rowConn i))
    if us.isEmpty && !behind then f s
    else if !isMessage i && s.tlc.awaiting.any (fun a => a.2.isRow (· == i)) then s
    else sendAwait s us (.row i (openedNum p (f p)))
  else f s

/-- CONNECTION_SETUP (R262 to R265). -/
def execConnectionSetup (q : CmReq) (s : State) : Host.Outcome State Fault Refusal :=
  .next (gated (.connectionSetup q) (fun _ => []) (connectionSetupRow q) s)

/-- RESUME (R374). -/
def execResume (q : CmReq) (s : State) : Host.Outcome State Fault Refusal :=
  .next (gated (.resume q) (fun _ => []) (resumeRow q) s)

/-- CONNECTION_CLOSE (R265). -/
def execConnectionClose (conn : Nat) (s : State) : Host.Outcome State Fault Refusal :=
  .next (gated (.connectionClose conn) (fun _ => []) (connectionCloseRow conn) s)

/-- UNATTACHED_CONNECTION_EXPIRY (R374). -/
def execUnattachedConnectionExpiry (conn : Nat) (s : State) : Host.Outcome State Fault Refusal :=
  .next (gated (.unattachedConnectionExpiry conn) (fun _ => []) (connectionExpiryRow conn) s)

/-- DOORBELL (R266, R267). -/
def execDoorbell (conn : Nat) (slots : List (Nat × Unit64)) (sqTail cqHead : Option Nat) (s : State) :
    Host.Outcome State Fault Refusal :=
  .next (gated (.doorbell conn slots sqTail cqHead) (fun _ => []) (doorbellRow conn slots sqTail cqHead) s)

/-- ITEM_CONSUME (R268, R275). -/
def execItemConsume (conn : Nat) (s : State) : Host.Outcome State Fault Refusal :=
  .next (gated (.itemConsume conn) (fun _ => []) (itemConsumeRow conn) s)

/-- INSTANCE_ACQUIRE (R312). -/
def execInstanceAcquire (ctx : Nat) (s : State) : Host.Outcome State Fault Refusal :=
  .next (gated (.instanceAcquire ctx) (fun _ => []) (instanceAcquireRow ctx) s)

/-- RUN_GRAPH (R277). -/
def execRunGraph (ctx : Nat) (s : State) : Host.Outcome State Fault Refusal :=
  .next (gated (.runGraph ctx) (fun _ => []) (runGraphRow ctx) s)

/-- INPUTS_PLACED (R277). -/
def execInputsPlaced (ctx : Nat) (data : List (List Byte)) (s : State) : Host.Outcome State Fault Refusal :=
  .next (gated (.inputsPlaced ctx data) (inputsExtra ctx data) (inputsPlacedRow ctx data) s)

/-- GRAPH_END (R277). -/
def execGraphEnd (ctx : Nat) (s : State) : Host.Outcome State Fault Refusal :=
  .next (gated (.graphEnd ctx) (fun _ => []) (graphEndRow ctx) s)

/-- OUTPUTS_ACKNOWLEDGED (R277). -/
def execOutputsAcknowledged (ctx : Nat) (s : State) : Host.Outcome State Fault Refusal :=
  .next (gated (.outputsAcknowledged ctx) (fun _ => []) (outputsAcknowledgedRow ctx) s)

/-- ABORT (R276). -/
def execAbort (src : ReqSrc) (s : State) : Host.Outcome State Fault Refusal :=
  .next (gated (.abort src) (fun _ => []) (abortRow src) s)

/-- FLUSH (R275). -/
def execFlush (src : ReqSrc) (s : State) : Host.Outcome State Fault Refusal :=
  .next (gated (.flush src) (fun _ => []) (flushRow src) s)

/-- QUERY_PLAN (R271). -/
def execQueryPlan (src : ReqSrc) (s : State) : Host.Outcome State Fault Refusal :=
  .next (gated (.queryPlan src) (fun _ => []) (queryPlanRow src) s)

/-- QUERY (R271). -/
def execQuery (src : ReqSrc) (s : State) : Host.Outcome State Fault Refusal :=
  .next (gated (.query src) (fun _ => []) (queryRow src) s)

end Sys2Proof.Machine
end

