-- ==== Sys2Proof/Machine/Islands.lean ====
section
/-! DEFINITION. Islands (R32 to R35, R386 to R389): page headers at boot, resets of a tile, a core site and the
hub (R381, R398), and the replay of a core's units (R383, R384). -/

namespace Sys2Proof.Machine

/-! Headers. -/

/-- A header as firmware sets it, before it is locked (R447); those of AON read as at reset until the image runs. -/
def bootHdr (p : Nat) : PageHdr :=
  let base : PageHdr := { PageHdr.reset with evmask := 0x19FF }
  if p / 256 = 5 then { base with evmask := 0x19FE, attn := 0x3 }
  else if p / 256 = 6 then { base with evmask := 0x19FC, attn := 0x22 }
  else if p = 0x1000 then { base with evmask := 0x19FE, attn := 0x2 }
  else base

/-- The pages an island holds (R452). -/
def islandPages (i : Island) : List Nat :=
  match i with
  | .aon => [0x0000, 0x0100, 0x0F00, 0x1000, 0x1100, 0x1200, 0x1300]
  | .hub => [0x0200, 0x0810, 0x0900, 0x0A00, 0x0B00, 0x0C00, 0x0D00, 0x0D01, 0x0D02, 0x0D03, 0x0D04, 0x0D05, 0x0D06,
      0x0E00]
  | .service t => (0x0300 + t) :: (List.range 4).flatMap (fun k => [0x0400 + 4 * t + k, 0x0800 + 4 * t + k])
  | .stack t => (List.range 64).map (fun k => 0x0600 + 64 * t + k)
  | .site n => [0x0500 + n]
  | .compute _ | .capMem => []

/-- Headers lost with their island, and the messages that its blocks had still to send or to receive (R32). -/
def loseHdrs (s : State) (i : Island) : State :=
  let ps := islandPages i
  { s with hdrs := s.hdrs.filter (fun h => !ps.contains h.1)
           latches := s.latches.filter (fun l => !ps.contains l.2.1)
           retryPending := s.retryPending.filter (fun r => !ps.contains r.1 && !ps.contains r.2.sender) }

/-- Headers as firmware leaves them: locked, but while the device boots (R450). -/
def bootHdrs (s : State) (i : Island) (lock : Bool) : State :=
  (islandPages i).foldl (fun s p => s.setHdr p { bootHdr p with locked := lock }) s

/-- Masks and codes that firmware sets on the pages of an island that has been up before it (R447). -/
def firmwareHdrs (s : State) (i : Island) : State :=
  (islandPages i).foldl (fun s p => s.setHdr p { s.hdr p with evmask := (bootHdr p).evmask, attn := (bootHdr p).attn }) s

/-- Firmware locks every page at the end of boot step 5 (R450). -/
def lockPages (s : State) : State := { s with hdrs := s.hdrs.map (fun h => (h.1, { h.2 with locked := true })) }

/-- The contents of a stretch of memory are lost; it reads as memory that nothing has written (log 1). -/
def MemSys.lose (ms : MemSys) (lo len : Nat) : MemSys :=
  { ms with mem := ms.mem.filter (fun c => decide (c.1 < lo ∨ lo + len ≤ c.1))
            badLines := ms.badLines.filter (fun a => decide (a < lo ∨ lo + len ≤ a)) }

/-- The LSM of a site is lost with its power (R33). -/
def loseLsm (s : State) (n : Nat) : State :=
  let ms := s.ms.lose (0x010000000000 + n * 0x400000) 0x400000
  { s with ms := { ms with lsm := ms.lsm.filter (fun x => x.1 != n), lsmKept := ms.lsmKept.filter (fun a => lsmSite a != some n) } }

/-- A site with no tile on it. -/
def Site.idle (x : Site) : Site := { x with tile := none, arr := Arr.reset }

/-- A change of `STATE` that keeps the block's registers (R447). -/
def changeIsl (s : State) (i : Island) (st : PState) : State :=
  let x := s.isl i
  if x.state = st then s
  else (islandPages i).foldl (fun s p => s.setEvent p 12) (s.setIsl i { x with state := st })

/-- An island goes OFF for a reset; its registers are lost (R32, R386). -/
def turnOff (s : State) (i : Island) : State := loseHdrs (s.setIsl i { s.isl i with state := .off }) i

/-- An island comes up: self-test passed, a new epoch, headers set (R386). -/
def powerUp (s : State) (i : Island) (lock : Bool) : State :=
  let x := s.isl i
  bootHdrs (s.setIsl i ⟨.on, x.epoch + 1⟩) i lock

/-- An island returns from OFF or reset, its pages locked (R386, R450). -/
def returnOn (s : State) (i : Island) : State := powerUp s i true

/-- Messages in flight are dropped as stale; how many is a free value (R387; log 8). -/
def noteStale (s : State) : State :=
  let r := s.takeFree
  { r.2 with pwr := { r.2.pwr with stale := r.2.pwr.stale.bump (r.1 % 2 ^ 16) } }

/-- Generators of the partitions of a stack base are seeded (R251; log 8). -/
def seedStack (s : State) (t : Nat) : State :=
  (List.range 64).foldl (fun s k =>
    { s.setPart (64 * t + k) { s.part (64 * t + k) with lfsr := BitVec.ofNat 32 (freeLfsr s.freeCtr) } with
      freeCtr := s.freeCtr + 1 }) s

/-! Units of a core dealt again (R383, R384). -/

/-- The part of a command on a cluster accepts work again, or for the first time. -/
def reopenPart (s : State) (id k : Nat) : State :=
  match (s.cmd? id).bind (fun c => c.phaseOf k) with
  | some .collected =>
      let c := s.cluster k
      (s.setCluster k { c with credits := c.credits - 1, queue := c.queue ++ [id], collector := c.collector.erase id }).updCmd
        id (Cmd.setPhase k .accepted)
  | some _ => s
  | none =>
      let c := s.cluster k
      (s.setCluster k { c with credits := c.credits - 1, queue := c.queue ++ [id] }).updCmd id (fun d =>
        { d with parts := d.parts ++ [⟨k, s.hub.epoch, .accepted⟩] })

/-- The cluster that takes the units of a cluster's absent core: itself, or the next of the mask, ascending with
wrap, that has an enabled core. -/
def redealTo (s : State) (c : Cmd) (cl : Nat) : Option Nat :=
  (cl :: c.mask.filter (fun k => decide (cl < k)) ++ c.mask.filter (fun k => decide (k < cl))).find? (fun k =>
    !(s.enabledIn k).isEmpty)

/-- Deals units of a command that were a core's of cluster `cl`. -/
def redeal (s : State) (id cl : Nat) (us : List Nat) : State :=
  match s.cmd? id with
  | none => s
  | some c =>
    if us.isEmpty && c.redo.all (fun r => r.1 != cl) then s
    else match redealTo s c cl with
      | none => s.updCmd id (Cmd.close .replayFailed)
      | some k => (reopenPart s id k).updCmd id (fun d =>
          { d with redo := d.redo.map (fun r => if r.1 = cl then (k, r.2) else r) ++ us.map (fun u => (k, u)) })

/-- An abandoned tile goes back in front of its core's units, or among those dealt again; its request was replayed
(R383 step 5). -/
def giveBack (s : State) (l cl : Nat) (ab : Option (Nat × Nat)) : State :=
  match ab with
  | none => s
  | some (id, u) => s.updCmd id (fun c =>
      let own (r : Run) : Bool := r.lcore == l && r.next == u + 1
      if c.runs.any own then
        { c with replayed := true, runs := c.runs.map (fun r => if own r then { r with next := u } else r) }
      else { c with replayed := true, redo := (cl, u) :: c.redo })

/-- A logical core has become absent: its unfinished units are dealt again (R384). -/
def dealAbsent (s : State) (l cl : Nat) : State :=
  s.cmds.foldl (fun s c =>
    let us := (c.runs.filter (fun r => r.lcore == l)).flatMap (fun r =>
      (List.range (r.stop - r.next)).map (fun k => r.next + k))
    let s1 := s.updCmd c.id (fun d => { d with runs := d.runs.filter (fun r => r.lcore != l) })
    if (c.result.map Res.isOk).getD true then redeal s1 c.id cl us else s1) s

/-! A core site fenced (R383 steps 1 and 2). -/

/-- Whether a site can be fenced: powered and not fenced yet. -/
def canFence (s : State) (n : Nat) : Bool :=
  let x := s.site n
  decide (n < 256) && !x.fenced && (x.isl.state == .on || x.isl.state == .quiescing || x.isl.state == .retention)

/-- A tile of a site will run again (R59): because it faulted there (R384), or for another reason, which 256 above the site's
number stands for. -/
def noteReplay (s : State) (n : Nat) (faulted : Bool) (tile : Option (Nat × Nat)) : State :=
  match tile with
  | some (id, u) => s.updCmd id (fun c => { c with faults := c.faults ++ [(u, if faulted then n else 256 + n)] })
  | none => s

/-- Dispatch to the site stops and its interface closes; a tile in flight is abandoned, the slots it issued stay counted
(R80). -/
def fence (s0 : State) (n : Nat) (resetting faulted : Bool) : State :=
  let s := s0.arrProgress n
  let x := s.site n
  noteReplay (s.setSite n { x.idle with fenced := true, abandoned := x.tile, resetting := resetting }) n faulted x.tile

/-- Earlier sites that a unit of a command faulted on (R384). -/
def faultedOn (s : State) (id u : Nat) : Nat :=
  ((((s.cmd? id).map Cmd.faults).getD []).filter (fun f => f.1 == u && decide (f.2 < 256))).eraseDups.length

/-- A fault in a tile (R382 to R384): the third core that a unit faults on stays in service and its command ends
with `REPLAY_FAILED`; otherwise the site is fenced for its eclipse. -/
def tileFault (s : State) (n typ detail : Nat) : State :=
  let x := s.site n
  let page := 0x0500 + n
  match x.tile with
  | some (id, u) =>
      if 2 ≤ faultedOn s id u then
        let ctx := ((s.cmd? id).map Cmd.ctx).getD 0
        let s1 := s.logError page 1 0x0F Res.replayFailed.code ctx
        let s2 := s1.arrProgress n
        (s2.setSite n (s2.site n).idle).updCmd id (Cmd.close .replayFailed)
      else fence (s.logError page 1 typ 0 detail) n false true
  | none => fence (s.logError page 1 typ 0 detail) n false true

/-! Eclipse (R383, R385). -/

/-- Whether a site with a lower id of the cluster is fenced for an eclipse: it takes the moon (R385). -/
def lowerFenced (s : State) (n : Nat) : Bool :=
  (List.range (n % 16)).any (fun k =>
    let x := s.site (n / 16 * 16 + k)
    x.fenced && !x.resetting && x.lcore.isSome)

/-- The logical id moves to the moon (R20, R383 step 4). -/
def moonTakes (s : State) (cl l : Nat) : State :=
  let c := s.cluster cl
  let s1 := s.setCluster cl { c with map := updAt c.map (l % 15) (fun _ => 15), moonFree := false }
  s1.setSite (cl * 16 + 15) { s1.site (cl * 16 + 15) with lcore := some l }

/-- The logical id becomes absent (R20, R384). -/
def becomesAbsent (s : State) (cl l : Nat) : State :=
  let c := s.cluster cl
  s.setCluster cl { c with present := updAt c.present (l % 15) (fun _ => false) }

/-- The logical id goes to the moon, with the epoch under which the core's messages go (R383 step 4; log 32), and is absent until
a moon that is off has come back (R20, R384). -/
def moonServes (s : State) (cl l : Nat) (epoch : BitVec 16) : State :=
  let s0 := moonTakes s cl l
  let m := s0.site (cl * 16 + 15)
  let s1 := s0.setSite (cl * 16 + 15) { m with isl := { m.isl with epoch := epoch } }
  if m.isl.state = .off ∨ m.isl.state = .test ∨ m.resetting = true then dealAbsent (becomesAbsent s1 cl l) l cl else s1

/-- The site is ECLIPSED for good: recorded, logged, and ATTN `ECLIPSE` raised (R383, R385, R447). A moon that is eclipsed
itself is a free moon no more: `MOON` reads 0 (DESIGN CHOICE: log 9; R98 does not say). The record names first the sites whose id
a moon took, so that the moon keeps it at the next boot. -/
def markEclipsed (s : State) (n : Nat) (graceful moon : Bool) : State :=
  let x := s.site n
  let page := 0x0500 + n
  let s1 := changeIsl s (.site n) .eclipsed
  let s2 := s1.setSite n { s1.site n with lcore := none, fenced := false, abandoned := none, resetting := false, graceful := false }
  let h := s2.hdr page
  let s3 := s2.setHdr page { h with eclipse := true, quiesce := false }
  let old := s3.dev.eclipsedFlash
  let flash := if old.contains n then old else if moon then n :: old else old ++ [n]
  let c := s3.cluster (n / 16)
  let s4 := if n % 16 = 15 then s3.setCluster (n / 16) { c with moonFree := false } else s3
  (({ s4 with dev := { s4.dev with eclipsedFlash := flash } }).logNote page 0x11
    (n + (x.lcore.getD 0xFF) * 256 + bit graceful * 65536)).setEventOnce page 0 attnECLIPSE

/-- Steps 3 to 5 of R383 for a fenced site. -/
def eclipseSite (s : State) (n : Nat) : State :=
  let x := s.site n
  let cl := n / 16
  let take := moonReady s cl && !lowerFenced s n && n % 16 != 15
  let s1 := markEclipsed s n false (take && x.lcore.isSome)
  match x.lcore with
  | none => s1
  | some l =>
      let s2 := giveBack s1 l cl x.abandoned
      if take then moonServes s2 cl l x.isl.epoch else dealAbsent (becomesAbsent s2 cl l) l cl

/-! Resets (R381, R386, R398). -/

/-- A core site is reset without its moon (R398): its id is absent until it returns; a graceful eclipse stays due (R382). -/
def resetSite (s : State) (n : Nat) : State :=
  let x := s.site n
  let cl := n / 16
  let s1 := noteReplay (loseLsm (turnOff s (.site n)) n) n false x.tile
  let y := Site.reset n
  let s2 := s1.setSite n { (s1.site n).idle with
    fenced := false, abandoned := none, resetting := true, valid := y.valid, starve := y.starve,
    block := y.block, freeze := false, cfg := 0 }
  match x.lcore with
  | none => noteStale s2
  | some l =>
      let ab := if x.abandoned.isSome then x.abandoned else x.tile
      noteStale (dealAbsent (becomesAbsent (giveBack s2 l cl ab) cl l) l cl)

/-- Commands with a part on a tile. -/
def onTile (t : Nat) (c : Cmd) : Bool := c.parts.any (fun p => p.cluster / 4 == t)

/-- A collective's command leaves without completing: its digests go, and the next command of its key starts (R344, R351). -/
def leaveColl (s : State) (c : Cmd) : State :=
  match c.coll with
  | some k => nextColl (endHandshake s c) k.group k.tag k.asTwin
  | none => s

/-- Contexts that lose parts to a tile's reset: their commands on the tile are gone, the others stop. -/
def failTile (s : State) (t : Nat) : State :=
  let hit := ((s.cmds.filter (onTile t)).map Cmd.ctx).eraseDups
  let s1 := hit.foldl (fun s n =>
    (s.cmds.filter (fun c => c.ctx == n)).foldl (fun s c =>
      if onTile t c then
        let s1 := if begun c then leaveHalf s c else s
        leaveColl (freeEngine (discardCmd s1 c) c.id) c
      else stopCmd s c .islandReset) s) s
  hit.foldl (fun s n => s.updCtx n (fun x => x.fail .islandReset)) s1

/-- A site of a tile that goes OFF with it; the eclipse of one that is fenced for it proceeds (R385). -/
def siteOff (s : State) (n : Nat) : State :=
  let x := s.site n
  let y := Site.reset n
  let s1 := if x.isl.state = .eclipsed then s else turnOff s (.site n)
  (loseLsm s1 n).setSite n { (s1.site n).idle with
    fenced := x.fenced && !x.resetting, abandoned := none, cfg := 0, valid := y.valid,
    starve := y.starve, block := y.block, freeze := false }

/-- SERVICE `t` and COMPUTE `t` go OFF: queues, caches, TLBs, core contents lost; the stack base keeps its contents in
RETENTION (R33, R381). -/
def tileOff (s : State) (t : Nat) : State :=
  let s1 := failTile s t
  let s2 := (List.range 64).foldl (fun s k => siteOff s (64 * t + k)) s1
  let s3 := (List.range 4).foldl (fun s k =>
    let c := s.cluster (4 * t + k)
    s.setCluster (4 * t + k) { c with credits := 512, queue := [], collector := [], csc := [] }) s2
  let s4 := turnOff (turnOff s3 (.service t)) (.compute t)
  let s5 := if (s4.stkIsl t).state = .on then changeIsl s4 (.stack t) .retention else s4
  noteStale { s5 with ms := clearTlbs s5.ms ((List.range 4).map (fun k => 4 * t + k)) }

/-- Whether the fabric may come up (R341): strapped coordinates inside the torus and equal to the pairing
record's. -/
def coordOk (s : State) : Bool :=
  ((coordOf s.dev.straps).zip (torusExt s)).all (fun q => decide (q.1 < q.2)) &&
  (match s.tlc.pair with
    | some p => p.ownCoord == s.dev.straps
    | none => true)

/-- Coordinates checked at boot and when the HUB returns: wrong ones are logged and raise ATTN `ERRLOG` (R341). -/
def checkCoord (s : State) : State :=
  let ok := coordOk s
  let s1 := { s with fre := { s.fre with coordValid := ok } }
  if ok then s1 else (s1.logNote 0x0B00 0x18 s.dev.straps.toNat).attnEvent attnERRLOG

/-- All that a paired Parvon discards when it returns (R376): models, graphs, mirrored state. -/
def discardModels (s : State) : State :=
  s.models.foldl unloadNow { s with graphs := [], ms := { s.ms with storeRefs := [] } }

/-- The HUB island goes OFF (R398): connections close, contexts and their commands are gone, its registers and
HSR with the command cache and the tables of levels 0 and 1 are lost (R204); a paired Parvon discards its models. Without the HUB no SERVICE island,
COMPUTE island or core site may be ON (R35), so they are OFF until they return. -/
def hubOff (s : State) : State :=
  let open' := s.conns.map Conn.id
  let s0 := s.cmds.foldl (fun s c =>
    let s1 := if begun c then leaveHalf s c else s
    freeEngine (discardCmd s1 c) c.id) s
  let s1 := (List.range 4).foldl (fun s t => if (s.svcIsl t).state = .off then s else tileOff s t) s0
  let ms := (s1.ctxs.map Ctx.num).foldl (fun ms n => dropScratch ms (keptKey n)) s1.ms
  let ms := (ms.releasing.map Prod.fst).foldl dropPage { ms with releasing := [], held := [] }
  let ms := clearTlbs { ms.lose 0x020000000000 0x4000000 with walkCache := [] } [16]
  let clusters := s1.clusters.map (fun c => (c.1, { c.2 with collector := [] }))
  let s2 := settlePins { s1 with
    ms := ms, ctxs := [], holds := [], conns := [], turns := [0, 0, 0, 0], collNext := 0, clusters := clusters, cmdCache := [] }
  let s3 := s2.emits (open'.map (fun c => .closed c))
  let t := s3.tlc
  let f := s3.fre
  let s4 := { s3 with
    tlc := { Tlc.reset with recFlash := t.recFlash, pair := t.pair, aliveIn := t.aliveIn, epoch := t.epoch,
                            ownAddrs := t.ownAddrs, twinAddrs := t.twinAddrs, protocol := t.protocol,
                            aliveOut := t.aliveOut }
    fre := { Fre.reset with torusFlash := f.torusFlash, torus := f.torus }
    vcc := { Vcc.reset with sessions := s3.vcc.sessions }
    jmpAddr := 0
    jmpJumps := Ctr48.zero }
  let s5 := noteStale (turnOff s4 .hub)
  let s6 := if s5.tlc.pair.isSome then discardModels s5 else s5
  { s6 with ms := loseTables s6.ms }

/-- A fatal error of an island (R381), without its log entry. -/
def fatalOf (s : State) (i : Island) : State :=
  match i with
  | .hub => hubOff s
  | .service t | .compute t | .stack t => tileOff s t
  | .site n => tileOff s (n / 64)
  | .aon => { s with mgc := { s.mgc with cache := [] } }
  | .capMem => hubOff s

/-- The island that takes the consequences of a control-plane error of a page. -/
def fatalIsland (p : Nat) : Island :=
  match pageIsland p with
  | some (.site n) => .service (n / 64)
  | some (.stack t) => .service t
  | some i => i
  | none => .aon

/-! Failing what cannot be reached (R389). -/

/-- A request that breaks a dependency is refused by PWR and logged (R35). -/
def refuseIsland (s : State) (p : Nat) : State := s.logNote 0x0F00 0x21 p

/-- The page that stands for an island's requests. -/
def islandPage (i : Island) : Nat :=
  match i with
  | .service t | .compute t => 0x0300 + t
  | .site n => 0x0500 + n
  | .hub => 0x0200
  | .stack t => 0x0600 + 64 * t
  | .aon | .capMem => 0x0100

/-- Whether some spans of addresses lie in the memory of an island. -/
def spansIn (s : State) (i : Island) (spans : List (Nat × Nat)) : Bool :=
  let here (pa : Nat) : Bool :=
    match i with
    | .stack t => decide (pa < 0x1000000000) && paPartition pa / 64 == t
    | .capMem => decide (0x400000000000 ≤ pa)
    | .aon | .hub | .service _ | .compute _ | .site _ => false
  s.ms.leaves.any (fun p => here (ptePa p.word) &&
    spans.any (fun x => spansMeet x (p.idx <<< levelShift p.level, 2 ^ levelShift p.level)))

/-- Commands that need an island which cannot return. -/
def needsIsland (s : State) (i : Island) (c : Cmd) : Bool :=
  match i with
  | .service t | .compute t => onTile t c
  | .aon | .hub | .stack _ | .capMem | .site _ => spansIn s i (cmdSpans s c)

/-- Memory that a launch reads or writes for its client: its inputs before its graph starts, its outputs after (R277). -/
def launchSpans (s : State) (x : Ctx) : List (Nat × Nat) :=
  match launchVersion s x with
  | none => []
  | some v =>
      let k := if x.state = .input then 0 else 1
      if (x.state == .input && x.reading) || (x.state == .running && !x.issuing) || x.state == .output then
        (ofKind k x.descs).map (fun e => (slotVa v x e.slot, e.len))
      else []

/-- What needs an island that cannot return completes with `DOMAIN_OFF`: commands, and requests whose inputs or outputs wait for
its memory (R389). -/
def failDomain (s : State) (i : Island) : State :=
  let s1 := (s.cmds.filter (fun c => c.result.isNone && needsIsland s i c)).foldl (fun s c =>
    s.updCmd c.id (Cmd.close .domainOff)) s
  (s.ctxs.filter (fun x => x.typ == 1 && spansIn s i (launchSpans s x))).foldl (fun s x => stopCtx s x.num .domainOff) s1

end Sys2Proof.Machine
end

