-- ==== Sys2Proof/Machine/Faults.lean ====
section
/-! DEFINITION. Faults, eclipses, island resets and returns, power states (R378 to R390, R398, R460). -/

namespace Sys2Proof.Machine

/-! Eclipses. -/

/-- IMMEDIATE_ECLIPSE (R379, R382, R383): a double-bit LSM error (0x02) or a parity error (0x03) fences the core.
The failing address or buffer is a free value (log 8). -/
def execImmediateEclipse (site type : Nat) (s : State) : Host.Outcome State Fault Refusal :=
  .next (
    if canFence s site && (type == 0x02 || type == 0x03) then
      let f := s.takeFree
      tileFault f.2 site type (if type = 0x03 then site + f.1 % 256 * 256
        else 0x010000000000 + site * 0x400000 + f.1 % 0x400000)
    else s)

/-- TILE_TIME_LIMIT (R382): an immediate eclipse of a core whose tile runs too long. -/
def execTileTimeLimit (site : Nat) (s : State) : Host.Outcome State Fault Refusal :=
  .next (if canFence s site && (s.site site).tile.isSome then tileFault s site 0x0E site else s)

/-- ECLIPSE_WRITES_DELIVERED (R383 steps 2 to 5, R384, R398). -/
def execEclipseWritesDelivered (site : Nat) (s : State) : Host.Outcome State Fault Refusal :=
  .next (
    let x := s.site site
    if !x.fenced then s
    else if x.resetting then resetSite s site
    else eclipseSite s site)

/-- LSM_ERROR_LIMIT (R72, R382): more than 256 single-bit errors of the LSM have been corrected within 24 h; those that have not
been seen yet (log 49) are counted and logged now (R394), at addresses that are free. -/
def execLsmErrorLimit (site : Nat) (s : State) : Host.Outcome State Fault Refusal :=
  .next (
    let x := s.site site
    if decide (site < 256) && !x.fenced && (x.isl.state == .on || x.isl.state == .quiescing || x.isl.state == .retention) then
      let f := s.takeFree
      let seen := ((s.hdr (0x0500 + site)).recent.filter (fun t => decide (s.dev.timeNs < t + dayNs))).length
      let s1 := (List.range (257 - seen)).foldl (fun s k =>
        s.logError (0x0500 + site) 0 0x01 0 (0x010000000000 + site * 0x400000 + (f.1 + k) % 0x400000)) f.2
      s1.setSite site { s1.site site with graceful := true }
    else s)

/-- Whether a site of a cluster is fenced for an immediate eclipse, which has the moon before a graceful one (R385). -/
def fencedIn (s : State) (cl : Nat) : Bool :=
  (List.range 15).any (fun k =>
    let x := s.site (cl * 16 + k)
    x.fenced && !x.resetting && x.lcore.isSome)

/-- GRACEFUL_ECLIPSE (R382, R383, R385): once its tile has finished, the core's id moves to a free moon. -/
def execGracefulEclipse (site : Nat) (s : State) : Host.Outcome State Fault Refusal :=
  .next (
    let x := s.site site
    match x.lcore with
    | none => s
    | some l =>
      if x.graceful && canFence s site && x.tile.isNone && !holdsWrite s site && moonReady s (site / 16) &&
          !fencedIn s (site / 16) && site % 16 != 15 then
        moonServes (markEclipsed s site true true) (site / 16) l x.isl.epoch
      else s)

/-! Fatal errors. -/

/-- FATAL_ERROR (R379, R381): lockstep mismatch (0x0D) of a TCC, a GFE control core or the MGC, or another fatal
cause of an island, one of R481's; core sites, stacks and capacity memory raise none. -/
def execFatalError (island : Island) (type : Nat) (s : State) : Host.Outcome State Fault Refusal :=
  .next (if type = 0 ∨ 0x25 < type then s else match island with
    | .site _ | .stack _ | .capMem => s
    | .aon => fatalOf (s.logError 0x0100 2 type 0 0x0100) .aon
    | .hub => if s.hub.state = .off then s else fatalOf (s.logError 0x0200 2 type Res.islandReset.code 0x0200) .hub
    | .service t | .compute t =>
        if 4 ≤ t ∨ (s.svcIsl t).state = .off then s
        else fatalOf (s.logError (0x0300 + t) 2 type Res.islandReset.code (0x0300 + t)) (.service t))

/-- RESULT of the requests that a fatal error of an island hits (R381, R391): an AON restart hits none. -/
def fatalResult (i : Island) : Nat := if i = .aon then 0 else Res.islandReset.code

/-- The retry buffers once a message of a sender has failed for the first time (R380): a message of that sender before it has been
delivered, since order is kept, and each buffer holds 64. -/
def keepRetry (l : List (Nat × MsgId)) (page : Nat) (m : MsgId) : List (Nat × MsgId) :=
  let mine := l.filter (fun r => r.2.sender == m.sender && !(r.1 == page && decide (r.2.seq < m.seq)))
  l.filter (fun r => r.2.sender != m.sender) ++ (mine ++ [(page, m)]).drop (mine.length - 63)

/-- MESSAGE_PARITY_ERROR (R380): the first failure of a message replays it; the failure of its replay is fatal for the
receiving island. -/
def execMessageParityError (page : Nat) (m : MsgId) (s : State) : Host.Outcome State Fault Refusal :=
  .next (
    if !pageExists page || (pageIsl s page).state == .off then s
    else if s.retryPending.contains (page, m) then
      let i := fatalIsland page
      let s1 := { s with retryPending := s.retryPending.filter (· != (page, m)) }
      fatalOf (s1.logError page 2 0x0C (fatalResult i) m.sender) i
    else
      let s1 := { s with retryPending := keepRetry s.retryPending page m }
      (s1.logError page 0 0x0B 0 m.sender).emit (.messageReplay page m))

/-- The island a PLL clocks, by its bit of `CLK_LOCK` (R26, R460). -/
def pllIsland (k : Nat) : Option Island :=
  if k < 4 then some (.compute k) else if k < 8 then some (.service (k - 4)) else if k < 12 then some .hub
  else if k = 12 then some .aon else none

/-- PLL_LOCK_LOSS (R460): the bit clears, the loss is logged and handled as a fatal error. -/
def execPllLockLoss (k : Nat) (s : State) : Host.Outcome State Fault Refusal :=
  .next (match pllIsland k with
    | none => s
    | some i =>
      if !s.dev.clkLock.getLsbD k then s
      else
        let s1 := { s with dev := { s.dev with clkLock := s.dev.clkLock &&& ~~~(BitVec.ofNat 14 (2 ^ k)) } }
        fatalOf ((s1.logError 0x1000 2 0x17 (fatalResult i) k).setEvent 0x1000 0) i)

/-! Returns. -/

/-- Dependencies of R35. -/
def dependsOk (s : State) (i : Island) : Bool :=
  match i with
  | .service _ => s.hub.state == .on
  | .compute t => (s.svcIsl t).state == .on && (s.stkIsl t).state == .on
  | .site n => (s.compIsl (n / 64)).state == .on
  | .aon | .hub | .stack _ | .capMem => true

def setLocks (s : State) (ks : List Nat) : State :=
  { s with dev := { s.dev with clkLock := ks.foldl (fun w k => w ||| BitVec.ofNat 14 (2 ^ k)) s.dev.clkLock } }

/-- A core site returns, its rounding generator seeded anew (R251; log 8), and its logical id is present again. -/
def siteBack (s : State) (n : Nat) : State :=
  let f := s.takeFree
  let s1 := returnOn f.2 (.site n)
  let x := s1.site n
  let s2 := s1.setSite n { x with resetting := false, lfsr := BitVec.ofNat 32 (max 1 (f.1 % 2 ^ 32)) }
  match x.lcore with
  | none => s2
  | some l =>
      let c := s2.cluster (n / 16)
      s2.setCluster (n / 16) { c with present := updAt c.present (l % 15) (fun _ => true) }

/-- A site that fails self-test is eclipsed (R382). -/
def siteFails (s : State) (n : Nat) : State :=
  eclipseSite (s.logError (0x0500 + n) 1 0x10 0 (0x0500 + n)) n

/-- Sites of a tile that are OFF return by their self-tests, those that pass first: which fail is a free choice (R382; log 32). A
site that is fenced stays for its eclipse. -/
def sitesBack (s : State) (t : Nat) : State :=
  let off (s : State) (n : Nat) : Bool := (s.site n).isl.state == .off && !(s.site n).fenced
  let bad (n : Nat) : Bool := Config.free (s.freeCtr + n % 64) % 2 == 1
  let sites := (List.range 64).map (64 * t + ·)
  let s1 := sites.foldl (fun s n => if off s n && !bad n then siteBack s n else s) { s with freeCtr := s.freeCtr + 64 }
  sites.foldl (fun s n => if off s n && bad n then siteFails s n else s) s1

/-- COMPUTE `t` with the sites of its tile, but those eclipsed. -/
def computeBack (s : State) (t : Nat) : State := sitesBack (setLocks (returnOn s (.compute t)) [t]) t

/-- A failed self-test is logged, and commands that need the island get `DOMAIN_OFF` (R389). -/
def failsTest (s : State) (i : Island) (page : Nat) : State := failDomain (s.logError page 1 0x10 0 page) i

/-- The HUB returns (R398): a paired Parvon returns as R376 says, without an address until one is handed back; HSR has its tables again (R204). -/
def hubBack (s : State) : State :=
  let s1 := setLocks (returnOn { s with ms := reloadTables s.ms } .hub) [8, 9, 10, 11]
  let s2 := checkCoord s1
  if s2.tlc.pair.isSome then { s2 with tlc := { s2.tlc with tstate := 1, away := true, handedBack := [] } } else s2

/-- An island that was OFF returns after its self-test (R386, R389); a return that breaks a dependency is refused (R35), and what
needs the island gets `DOMAIN_OFF` (R389). -/
def comeBack (s : State) (i : Island) (ok : Bool) : State :=
  if (s.isl i).state ≠ .off ∧ (s.isl i).state ≠ .test then s
  else if dependsOk s i = false then failDomain (refuseIsland s (islandPage i)) i
  else match i with
    | .hub => if ok then hubBack s else failsTest s .hub 0x0200
    | .service t =>
        if 4 ≤ t then s
        else if ok then
          let s1 := setLocks (returnOn s (.service t)) [4 + t]
          let s2 := if (s1.stkIsl t).state = .retention then changeIsl s1 (.stack t) .on else s1
          computeBack s2 t
        else failsTest s (.service t) (0x0300 + t)
    | .compute t => if 4 ≤ t then s else if ok then computeBack s t else failsTest s (.compute t) (0x0300 + t)
    | .site n => if 256 ≤ n then s else if ok then siteBack s n else siteFails s n
    | .aon | .stack _ | .capMem => s

/-- Whether `PG_CTRL` lets an island be ON (R445): `ENABLE` of its CORE page, or of its tile's TCC page. -/
def enabledByCtrl (s : State) (i : Island) : Bool :=
  match i with
  | .site n => (s.hdr (0x0500 + n)).enable && (s.hdr (0x0300 + n / 64)).enable
  | .service t | .compute t => (s.hdr (0x0300 + t)).enable
  | .aon | .hub | .stack _ | .capMem => true

/-- ISLAND_RETURN (R386): after a reset, or once `ENABLE` asks for it. -/
def execIslandReturn (island : Island) (selfTestOk : Bool) (s : State) : Host.Outcome State Fault Refusal :=
  .next (if s.dev.ready && enabledByCtrl s island then comeBack s island selfTestOk else s)

/-- The sites of a tile in RETENTION are on again. -/
def wakeSites (s : State) (t : Nat) : State :=
  (List.range 64).foldl (fun s k =>
    if (s.site (64 * t + k)).isl.state = .retention then changeIsl s (.site (64 * t + k)) .on else s) s

/-- A tile's rail has the voltage of its frequency again. -/
def unpark (s : State) (t : Nat) : State :=
  { s with pwr := { s.pwr with vcur := updAt s.pwr.vcur t (fun _ => s.pwr.vrun.getD t 750) } }

/-- WAKE_COMPLETE (R34, R386, R389): from RETENTION contents and epoch stay, and a tile's voltage is that of its frequency
again; checkpoints that waited for the memory are taken (R365); a unit that cannot return leaves the
commands that need it with `DOMAIN_OFF`. -/
def execWakeComplete (island : Island) (ok : Bool) (s : State) : Host.Outcome State Fault Refusal :=
  .next (match (s.isl island).state with
    | .retention =>
        if ok && dependsOk s island then
          let s1 := changeIsl s island .on
          let s2 := match island with
            | .compute t => unpark (wakeSites s1 t) t
            | .aon | .hub | .service _ | .site _ | .stack _ | .capMem => s1
          (s2.ctxs.map Ctx.num).foldl takeSnapshot s2
        else failDomain (if dependsOk s island then s else refuseIsland s (islandPage island)) island
    | .off => if s.dev.ready then comeBack s island ok else failDomain s island
    | .on | .quiescing | .eclipsed | .test => s)

/-! Quiescing and parking. -/

/-- Whether a tile has no work in flight and its TCC holds no fault (R188). -/
def tileIdle (s : State) (t : Nat) : Bool :=
  (List.range 64).all (fun k => (s.site (64 * t + k)).tile.isNone && !holdsWrite s (64 * t + k)) &&
  s.cmds.all (fun c => c.parts.all (fun p => p.cluster / 4 != t || p.phase != .started))

/-- QUIESCE_TIMEOUT (R388): the site returns to ON and the event is logged. -/
def execQuiesceTimeout (site : Nat) (s : State) : Host.Outcome State Fault Refusal :=
  .next (
    if site < 256 ∧ (s.site site).isl.state = .quiescing ∧ (s.site site).fenced = false ∧ dependsOk s (.site site) = true then
      let page := 0x0500 + site
      let s1 := changeIsl s (.site site) .on
      (s1.setHdr page { s1.hdr page with enable := true, quiesce := false, softReset := false }).logError page 0 0x20 0 page
    else s)

/-- PARK (R34, R390): a COMPUTE island that has been idle long enough enters RETENTION with its sites, its rail held at
0.60 V. -/
def execPark (tile : Nat) (s : State) : Host.Outcome State Fault Refusal :=
  .next (
    if tile < 4 ∧ (s.compIsl tile).state = .on ∧ s.pwr.park10 ≠ 0 ∧ 10 * s.pwr.park10 ≤ s.pwr.idleMs.getD tile 0 ∧
        tileIdle s tile = true then
      let s0 := changeIsl s (.compute tile) .retention
      let s1 := { s0 with pwr := { s0.pwr with vcur := updAt s0.pwr.vcur tile (fun _ => 600) } }
      (List.range 64).foldl (fun s k =>
        if (s.site (64 * tile + k)).isl.state = .on then changeIsl s (.site (64 * tile + k)) .retention else s) s1
    else s)

end Sys2Proof.Machine
end

