-- ==== Sys2Proof/Machine/Twin.lean ====
section
/-! DEFINITION. The twin pair (R359 to R376): mirrored updates and their acknowledgement, liveness, takeover,
yielding, and rejoining. -/

namespace Sys2Proof.Machine

/-! Mirrored state received (R363). -/

def setMctx (l : List TwinCtx) (c : MirCtx) : List TwinCtx :=
  if l.any (fun t => t.ctx.num == c.num) then l.map (fun t => if t.ctx.num = c.num then { t with ctx := c } else t)
  else l ++ [⟨c, [], [], none, none⟩]

def updMctx (l : List TwinCtx) (n : Nat) (f : TwinCtx → TwinCtx) : List TwinCtx :=
  l.map (fun t => if t.ctx.num = n then f t else t)

def setMconn (l : List MirConn) (k : Nat) (f : MirConn → MirConn) : List MirConn :=
  if l.any (fun m => m.conn == k) then l.map (fun m => if m.conn = k then f m else m)
  else l ++ [f ⟨k, 0, 0, 0, 0, 1, []⟩]

def updTlc (s : State) (f : Tlc → Tlc) : State := { s with tlc := f s.tlc }

/-- A model or graph change applied as it arrives from the twin (R362); none while it must wait, for launches (R272) or for
memory that is asleep (R34, R389). -/
def applyChange (s : State) (u : Mirror) : Option (State × Res × Nat) :=
  match u with
  | .model op id manifest weights =>
      if op = 0 then
        let r := loadModel s id manifest weights
        if loadAsleep s r.1 then none else some r
      else if launchesOf s id then none
      else some (unloadResult s id)
  | .graph id model image => some (storeGraph s id model image)
  | .patch id image => if asleep s (patchSpans s id image) then none else some (patchGraph s id image)
  | _ => none

def isChange (u : Mirror) : Bool :=
  match u with
  | .model _ _ _ _ | .graph _ _ _ | .patch _ _ => true
  | _ => false

/-- The first of this secondary's forwarded changes that an update answers. -/
def forwarded (s : State) (u : Mirror) : Option (Nat × Nat) :=
  s.tlc.awaiting.findSome? (fun a => match a.2 with
    | .forward ctx v => if v = u then some (a.1, ctx) else none
    | .row _ _ | .record _ _ | .finish _ => none)

/-- A change from the twin: the primary applies a forwarded one and returns it; the secondary applies what the
primary sends, which completes its own request when it had forwarded it (R362). -/
def receiveChange (s : State) (u : Mirror) : Option State :=
  (applyChange s u).map (fun r =>
    if (s.tlc.pair.map PairRec.role) == some 0 then sendMirror r.1 [u]
    else match forwarded s u with
      | some (q, ctx) =>
          let s1 := updTlc r.1 (fun t => { t with awaiting := t.awaiting.filter (fun a => !(a.1 == q && a.2 == .forward ctx u)) })
          match s1.ctx? ctx with
          | some x => endChange s1 x [] r.2.1 r.2.2
          | none => s1
      | none => r.1)

/-! Full copies (R375, R376). -/

/-- The models with their weights, and the graph store, as the other twin takes them. -/
def fullCopy (s : State) : List Mirror :=
  s.models.map (fun m => .modelCopy m (weightImage s m)) ++ s.graphs.map (fun g => .graphCopy g) ++
  [.copyEnd (s.models.map Model.id) (s.graphs.map Graph.id)]

/-- Whether two models are the same but for what spilled. -/
def sameModel (a b : Model) : Bool :=
  let shape (m : Model) : List (Nat × Nat × Nat × Nat) := m.tensors.map (fun t => (t.va, t.bytes, t.srcOff, t.hint))
  a.ranges == b.ranges && shape a == shape b

/-- A copied model: the weights of one that stands here are written anew; any other is loaded in its place. -/
def takeModel (s : State) (m : Model) (weights : List Byte) : State :=
  let load (s : State) : State := (placeModel s m.id ⟨m.ranges, m.tensors⟩ weights).1
  match s.model? m.id with
  | none => load s
  | some old =>
      if sameModel old m then
        let ws := m.tensors.flatMap (fun t => spread t.va (slice weights t.srcOff t.bytes))
        let crc (t : Tensor) : Tensor :=
          if t.spilled then { t with crc := BitVec.ofNat 32 (crc32c (slice weights t.srcOff t.bytes)) } else t
        match firmwareWrite ws ws s with
        | .ok s1 => { s1 with models := s1.models.map (fun x => if x.id = m.id then { x with tensors := x.tensors.map crc } else x) }
        | .error _ => s
      else load (unloadNow s old)

/-- A copied graph with its versions, beside those that own launches still pin. -/
def takeGraph (s : State) (g : Graph) : State :=
  let old := ((s.graph? g.id).map Graph.versions).getD []
  let kept := old.filter (fun v => isPinned s g.id v.num && !g.versions.any (fun w => w.num == v.num))
  let refs := dropRefs s.ms.storeRefs (old.flatMap (storeKeys g.id))
  let g1 := { g with versions := g.versions ++ kept }
  let s1 := { s with
    graphs := s.graphs.filter (fun h => h.id != g.id) ++ [g1]
    ms := { s.ms with storeRefs := addRefs refs (g1.versions.flatMap (storeKeys g.id)) } }
  restage (settlePins s1) g.model

/-- The copy is whole: what it does not hold goes, a model once no launch of it is live. -/
def endCopy (s : State) (models graphs : List Nat) : State :=
  let s1 := settlePins { s with graphs := s.graphs.map (fun g => if graphs.contains g.id then g else { g with deleted := true }) }
  (s1.models.filter (fun m => !models.contains m.id && !launchesOf s1 m.id)).foldl unloadNow s1

/-- A part of a full copy. -/
def receiveCopy (s : State) (u : Mirror) : Option State :=
  match u with
  | .modelCopy m w =>
      let t := takeModel s m w
      if loadAsleep s t || asleep s (m.tensors.map (fun x => (x.va, x.bytes))) then none else some t
  | .graphCopy g => some (takeGraph s g)
  | .copyEnd models graphs => some (endCopy s models graphs)
  | _ => none

def isCopy (u : Mirror) : Bool :=
  match u with
  | .modelCopy _ _ | .graphCopy _ | .copyEnd _ _ => true
  | _ => false

/-- An update that only adds to the mirrored state. -/
def receiveState (t : Tlc) (u : Mirror) : Tlc :=
  match u with
  | .context c => { t with mctxs := setMctx t.mctxs c }
  | .contextClosed n => { t with mctxs := t.mctxs.filter (fun x => x.ctx.num != n) }
  | .ring k head exp tail cq next => { t with mconns := setMconn t.mconns k (fun m =>
      { m with head := head, expected := exp, sqTail := tail, cqHead := cq, nextSeq := next,
               records := m.records.filter (fun r => decide (cq < r.seq)) }) }
  | .record k seq notify b => { t with mconns := setMconn t.mconns k (fun m =>
      { m with records := m.records ++ [⟨seq, b, notify, none⟩] }) }
  | .input n va b => { t with mctxs := updMctx t.mctxs n (fun x => { x with inputs := x.inputs ++ [(va, b)] }) }
  | .image n va b => { t with mctxs := updMctx t.mctxs n (fun x =>
      { x with images := x.images.filter (fun i => i.1 != va) ++ [(va, b)] }) }
  | .snapshot n sn => { t with
      mctxs := updMctx t.mctxs n (fun x => { x with snap := some sn })
      ckpt := t.ckpt.bump 1 }
  | .ringClosed k => { t with mconns := t.mconns.filter (fun m => m.conn != k) }
  | .model _ _ _ _ | .graph _ _ _ | .patch _ _ | .modelCopy _ _ | .graphCopy _ | .copyEnd _ _ => t

/-- MIRROR_UPDATE (R362, R363): applied in the order sent, then acknowledged. -/
def execMirrorUpdate (seq : Nat) (update : Mirror) (s : State) : Host.Outcome State Fault Refusal :=
  .next (
    if !paired s || !s.tlc.linkUp || s.hub.state != .on || seq != s.tlc.applied + 1 then s
    else
      let done (s : State) : State := (updTlc s (fun t => { t with applied := seq })).emit (.mirrorAck seq)
      if isChange update || isCopy update then
        match (if isCopy update then receiveCopy s update else receiveChange s update) with
        | some s1 => done s1
        | none => s
      else done (updTlc s (fun t => receiveState t update)))

/-! Acknowledgement (R364). -/

def isForward (a : Await) : Bool :=
  match a with
  | .forward _ _ => true
  | .row _ _ | .record _ _ | .finish _ => false

/-- Whether an awaiting action is the writing of a record. -/
def isRecord (a : Await) : Bool :=
  match a with
  | .record _ _ => true
  | .row _ _ | .finish _ | .forward _ _ => false

/-- MIRROR_ACKNOWLEDGEMENT (R364): everything that waited for updates up to this one happens, in order. -/
def execMirrorAcknowledgement (seq : Nat) (s : State) : Host.Outcome State Fault Refusal :=
  .next (
    if s.tlc.sendSeq < seq ∨ s.tlc.linkUp = false then s
    else
      let due (a : Nat × Await) : Bool := decide (a.1 ≤ seq) && !isForward a.2
      let now := (s.tlc.awaiting.filter due).map Prod.snd
      now.foldl release (updTlc s (fun t => { t with awaiting := t.awaiting.filter (fun a => !due a) })))

/-! The end of mirroring (R367, R371, R375). -/

/-- Mirroring stops: what waited for the twin happens now, records that have their `SEQ` first (R273); forwarded changes cannot be
made, copies are stale, checkpoints that have not committed are abandoned. -/
def stopMirroring (s : State) (st : Nat) : State :=
  let waits := s.tlc.awaiting.map Prod.snd
  let s1 := updTlc s (fun t => { t with tstate := st, awaiting := [], stale := true })
  let s2 := { s1 with ctxs := s1.ctxs.map (fun x =>
    if x.mirror then { x with stale := true, ckptPending := none, ckptCmd := none, ckptImages := [] } else x) }
  (waits.filter isRecord ++ waits.filter (fun a => !isRecord a)).foldl (fun s a => match a with
    | .forward ctx _ => finishChange s ctx .twinPrimaryUnreachable 0
    | .row _ _ | .record _ _ | .finish _ => release s a) s2

/-- The link is down and the pair serves on: each twin alone, ATTN `TWIN_DEGRADED`. -/
def degrade (s : State) : State :=
  if s.tlc.tstate = 1 ∨ s.tlc.tstate = 2 then (stopMirroring s 3).attnOn attnTWIN else s

/-! Takeover (R372). -/

/-- A connection of the twin, unattached until its client returns (R374). -/
def twinConn (stale : Bool) (m : MirConn) : Conn :=
  { id := m.conn, port := 0, addr := 0, joined := 0, sqVa := 0, dbVa := 0, sqRkey := 0, sends := [], sqSlots := 64, dataQps := 0, cqRecords := 65536, cqVa := 0, cqRkey := 0, ring := [],
    sqTail := m.head, head := m.head, cqHead := m.cqHead, nextSeq := m.nextSeq, expected := m.expected,
    ignoredTail := 0, ignoredHead := 0, attached := false, mirroredPeer := !stale, outq := [],
    held := m.records.filter (fun r => decide (m.cqHead < r.seq)), rateLimited := [] }

/-- A twin context with a committed checkpoint enters `INPUT` here (R372). -/
def restoredCtx (s : State) (n : Nat) (c : MirCtx) (sn : Snapshot) : Ctx :=
  { num := n, conn := c.conn, reqId := c.reqId, typ := c.typ, state := .input, notify := c.notify, mirror := c.mirror,
    descs := c.descs, graph := c.graph, ver := c.ver, inst := c.inst, sregs := sn.sregs, preds := sn.preds,
    orbits := sn.orbits, calls := sn.calls,
    pins := ((sn.graph, sn.ver) :: sn.calls.map (fun f => (f.graph, f.ver))).eraseDups.filter (fun p => p.1 != c.graph),
    pcGraph := sn.graph, pcVer := sn.ver, pc := sn.unit, events := sn.events, lateSignals := [], progress := (0, 0),
    info := sn.info, failure := none, detail := 0, issuing := false, settle := none, inFull := true, fullStep := false, kept := [], planKeys := [],
    toRead := [], reads := [], reading := true, taken := true, ckptCmd := none, ckptImages := [], sentImages := [], ckptPending := none,
    ckptDone := some sn, stale := false, resent := false, asTwin := true, consumedNs := s.dev.timeNs, startNs := s.dev.timeNs, outNs := 0 }

/-- One twin context at takeover. -/
def takeContext (s : State) (t : TwinCtx) : State :=
  match (if s.tlc.stale then none else t.snap) with
  | some sn =>
      let n := freshNum s
      let s1 := { s with ctxs := s.ctxs ++ [restoredCtx s n t.ctx sn] }
      repin (updTlc s1 (fun q => { q with mctxs := updMctx q.mctxs t.ctx.num (fun x => { x with restoring := some n }) }))
  | none =>
      enqueue (updTlc s (fun q => { q with mctxs := q.mctxs.filter (fun x => x.ctx.num != t.ctx.num) })) t.ctx.conn
        (bareRec t.ctx.reqId t.ctx.typ t.ctx.notify .twinLostNotMirrored 0)

/-- The front-end addresses of both twins, two each, are known from here on: free values (log 8), of which one below 2^32 is
IPv4. -/
def learnAddrs (s : State) : State :=
  let a (k : Nat) : Nat := Config.free (s.freeCtr + k) % 2 ^ 128
  { updTlc s (fun t => { t with
      ownAddrs := if t.ownAddrs.isEmpty then [a 0, a 1] else t.ownAddrs
      twinAddrs := if t.twinAddrs.isEmpty then [a 2, a 3] else t.twinAddrs }) with freeCtr := s.freeCtr + 4 }

/-- Addresses announced on both ports: by gratuitous ARP, those of IPv6 by unsolicited neighbour advertisement (R372). -/
def announceAll (addrs : List Nat) : List Egress :=
  addrs.flatMap (fun a => [0, 1].map (fun port => .announce port a (decide (2 ^ 32 ≤ a))))

/-- TAKEOVER (R372): ATTN, alias, addresses, connections, contexts. -/
def takeover (s : State) : State :=
  let wasStale := s.tlc.stale
  let s1 := updTlc (learnAddrs (stopMirroring s 4)) (fun t => { t with stale := wasStale, served := t.twinAddrs })
  let s2 := s1.attnEvent attnTAKEOVER
  let twin := ((s.tlc.pair.map PairRec.twinCoord).getD 0).toNat
  let own := s.dev.straps.toNat
  let s3 := installAlias (s2.emit (.aliasFlood twin own)) twin own
  let s4 := s3.emits (announceAll s3.tlc.twinAddrs)
  let s5 := { s4 with conns := s4.conns ++ s4.tlc.mconns.map (twinConn wasStale) }
  updTlc (s5.tlc.mctxs.foldl takeContext s5) (fun t => { t with mconns := [] })

/-- Link and sideband are both lost: takeover, but a primary in active-standby is degraded only (R361, R371). -/
def twinLost (s : State) : State :=
  match s.tlc.pair with
  | none => s
  | some p =>
      if s.tlc.tstate = 0 ∨ 4 ≤ s.tlc.tstate ∨ s.hub.state ≠ .on then s
      else if p.mode = 1 ∧ p.role = 0 then degrade s
      else takeover s

/-- WORK memory that a resumed request's graphs name (R368). -/
def resumeSpans (s : State) (x : Ctx) : List (Nat × Nat) :=
  let versions := ((x.graph, x.ver) :: x.pins).filterMap (fun p => (s.graph? p.1).bind (fun g => g.version? p.2))
  (versions.flatMap (fun v => (versionCmds v.segs).flatMap (fun c => cmdSpans s (Cmd.plain c.2 x.sregs)))).filter (fun a =>
    ((rangeOf s.models a.1).map (fun r => r.2.kind)) == some 1)

/-- The bytes of a span read as zero, as in pages that nothing has written (R210). -/
def zeroSpan (ms : MemSys) (a : Nat × Nat) : MemSys :=
  (ms.leaves.filter (fun p => pteKind p.word == 0)).foldl (fun ms p =>
    let base := p.idx <<< levelShift p.level
    let lo := max base a.1
    let hi := min (base + 2 ^ levelShift p.level) (a.1 + a.2)
    if lo < hi then { ms with mem := memClear ms.mem (leafPa p lo) (hi - lo) } else ms) ms

/-- RESTORE_COMPLETE (R368, R372): inputs and images are in place, the rest of its WORK memory reads as zero, and the context
reissues from its snapshot, with no active settle map. -/
def execRestoreComplete (ctx : Nat) (s : State) : Host.Outcome State Fault Refusal :=
  .next (match s.ctx? ctx, s.tlc.mctxs.find? (fun t => t.restoring == some ctx) with
    | some x, some t =>
      let places := t.inputs ++ t.images
      let zeros := resumeSpans s x
      if x.state ≠ .input ∨ asleep s (zeros ++ places.map (fun p => (p.1, p.2.length))) = true ∨
          s.ctxs.any (fun y => y.num != ctx && y.typ == 1 && y.graph == x.graph && y.taken && y.inst == x.inst) = true then s
      else
        let s0 := { s with ms := zeros.foldl zeroSpan s.ms }
        let s1 := updTlc s0 (fun q => { q with mctxs := q.mctxs.filter (fun y => y.restoring != some ctx) })
        let ws := places.flatMap (fun p => spread p.1 p.2)
        match writeAll 0 true ws ws s1 with
        | (s2, some e) => complete (hubFault s2 e) x e.1
        | (s2, none) => s2.setCtx { x with state := .running, reading := false, issuing := true }
    | _, _ => s)

/-! Liveness (R371). -/

/-- HEARTBEAT (R371): every 20 µs while the HUB is ON; one more than 40 µs late is counted (R377). -/
def execHeartbeat (s : State) : Host.Outcome State Fault Refusal :=
  .next (
    if s.tlc.pair.isNone ∨ s.hub.state ≠ .on then s
    else
      let late := if s.tlc.lastHbNs ≠ 0 ∧ s.tlc.lastHbNs + 60000 < s.dev.timeNs then 1 else 0
      (updTlc s (fun t => { t with
        hbLate := t.hbLate.bump late, lastHbNs := s.dev.timeNs, aliveOut := !t.aliveOut })).emit .heartbeat)

/-- LINK_LOSS (R371). -/
def execLinkLoss (s : State) : Host.Outcome State Fault Refusal :=
  .next (
    if s.tlc.linkUp then
      let s1 := updTlc s (fun t => { t with linkUp := false })
      if s.tlc.aliveIn then degrade s1 else twinLost s1
    else s)

/-- SIDEBAND_LOSS (R371): with the link present mirroring goes on and the loss is logged. -/
def execSidebandLoss (s : State) : Host.Outcome State Fault Refusal :=
  .next (
    if s.tlc.aliveIn then
      let s1 := updTlc s (fun t => { t with aliveIn := false })
      if s.tlc.linkUp then (s1.logError 0x0C00 0 0x1F 0 0).attnEvent attnERRLOG else twinLost s1
    else s)

/-- SIDEBAND_RETURN (R371). -/
def execSidebandReturn (s : State) : Host.Outcome State Fault Refusal :=
  .next (updTlc s (fun t => { t with aliveIn := true }))

/-! Yielding (R373). -/

/-- The Parvon closes every connection, stops consuming and resets its HUB. -/
def yieldNow (s : State) : State := updTlc (hubOff s) (fun t => { t with tstate := 5 })

/-- ADDRESS_CONFLICT (R373): the link is lost and the twin announces an own address; a primary announces its own again. -/
def execAddressConflict (addr : Nat) (s : State) : Host.Outcome State Fault Refusal :=
  .next (match s.tlc.pair with
    | none => s
    | some p =>
        if s.tlc.linkUp ∨ s.hub.state ≠ .on ∨ s.tlc.tstate = 0 ∨ s.tlc.ownAddrs.contains addr = false then s
        else if p.role = 1 then yieldNow s
        else s.emits (announceAll s.tlc.ownAddrs))

/-- YIELD (R373), whatever the pair's state. -/
def execYieldMsg (s : State) : Host.Outcome State Fault Refusal :=
  .next (if s.tlc.pair.isSome && s.tlc.tstate != 0 && s.tlc.linkUp && s.hub.state == .on then yieldNow s else s)

/-! Rejoining (R375, R376, R432). -/

/-- Twins that name each other by serial, with opposite roles and equal modes (R360). -/
def pairFits (p : PairRec) (serial names : DWord) (role mode : Nat) : Bool :=
  p.twinSerial == serial && names == p.ownSerial && p.role != role && p.mode == mode

/-- A record that is invalid or does not match the twin's: unpaired, and logged (R360). -/
def runsUnpaired (s : State) : State :=
  (updTlc s (fun t => { t with pair := none, tstate := 0 })).logNote 0x0C00 0x1E 0

/-- The INPUT bytes of a mirrored request, sent once in a new epoch (R367). -/
def inputsAgain (s : State) (x : Ctx) : List Mirror :=
  match launchVersion s x with
  | some v => if x.mirror && (x.state == .running || x.state == .output) then
      (ofKind 0 x.descs).filterMap (fun e => match readBytes s (slotVa v x e.slot) e.len with
        | .ok b => some (.input x.num (slotVa v x e.slot) b)
        | .error _ => none) else []
  | none => []

/-- Actions that waited in the epoch before: a forwarded change is forwarded again, any other waits for the last update. -/
def awaitAgain (s : State) (l : List Await) : State :=
  l.foldl (fun s a => match a with
    | .forward _ u => sendAwait s [u] a
    | .row _ _ | .record _ _ | .finish _ => sendAwait s [] a) s

/-- A new mirror epoch (R375, R376): a twin that the other copies sends its models and graphs; then connection and context state
cross, which also serves the other's resync read; mirrored requests send their INPUT bytes again (R367); the twin plays its own
coordinates again (R356). -/
def openEpoch (s : State) (peerEpoch : Nat) (copy : Bool) (tstate : Nat) : State :=
  let e := BitVec.ofNat 32 (max s.tlc.epoch.toNat peerEpoch + 1)
  let waits := s.tlc.awaiting.map Prod.snd
  let s1 := updTlc s (fun t => { t with
    tstate := tstate, epoch := e, peerEpoch := peerEpoch, stale := false, sendSeq := 0, applied := 0, awaiting := [],
    mctxs := t.mctxs.filter (fun x => x.restoring.isSome), mconns := [], resyncBusy := false, resyncRefused := false })
  let back := ((s.tlc.pair.map PairRec.twinCoord).getD 0).toNat
  let s2 := { s1 with fre := { s1.fre with aliases := s1.fre.aliases.filter (fun a => a.1 != back) } }
  let s3 := { s2 with ctxs := s2.ctxs.map (fun x => { x with stale := false, resent := true, sentImages := [] }) }
  let us := (if copy then fullCopy s3 else []) ++ s3.ctxs.flatMap (fun x => .context x.toMirror :: inputsAgain s3 x) ++
    s3.conns.map Conn.ringUpdate
  awaitAgain (sendMirror s3 us) waits

/-- Mirroring is in force. -/
def mirrors (s : State) : State := s.attnOff attnTWIN

/-- The slot of the image that runs. -/
def State.runningSlot (s : State) : FwSlot := if s.mgc.image = 0 then s.mgc.slotA else s.mgc.slotB

/-- The highest protocol of both images (R432). -/
def commonProtocol (x : FwSlot) (lo hi : Nat) : Option Nat :=
  let top := min x.mirrorMax hi
  if x.mirrorMin ≤ top ∧ lo ≤ top then some top else none

/-- The twins resync (R370, R375, R376). The one that kept its state sends a full copy, of two that did the primary. Each issues a
resync read, which the other serves as it opens the epoch; of two at once the primary's is served first, and the secondary's,
refused with a retry notice, is issued again by `RESYNC_READ_RETRY`. -/
def resync (s : State) (p : PairRec) (twin : TwinHello) : State :=
  let copy := if twin.returned then true else if s.tlc.away then false else p.role == 0
  if p.role = 1 ∧ twin.reading = true then
    updTlc (openEpoch (s.emit .resyncRead) twin.epoch copy 1) (fun t => { t with resyncBusy := true, resyncRefused := true })
  else
    let s1 := if p.role = 0 ∧ twin.reading = true then s.emits [.resyncRead, .retryNotice] else s.emit .resyncRead
    mirrors (openEpoch s1 twin.epoch copy 2)

/-- LINK_RETURN (R360, R370, R375, R376, R432): a twin that does not match is no pair; the protocol is chosen anew from both
images' ranges, and without a common one mirroring stays suspended. -/
def execLinkReturn (twin : TwinHello) (s : State) : Host.Outcome State Fault Refusal :=
  .next (
    if s.tlc.linkUp ∨ s.hub.state ≠ .on then s
    else
      let proto := commonProtocol s.runningSlot twin.mirrorMin twin.mirrorMax
      let s1 := updTlc s (fun t => { t with linkUp := true, protocol := proto })
      match s.tlc.pair with
      | none => s1
      | some p =>
          if s.tlc.tstate = 0 ∨ s.tlc.tstate = 2 ∨ s.tlc.tstate = 5 then s1
          else if !pairFits p twin.serial twin.names twin.role twin.mode then runsUnpaired s1
          else if proto.isNone then (updTlc s1 (fun t => { t with tstate := 3 })).attnOn attnTWIN
          else resync s1 p twin)

/-- RESYNC_READ_RETRY (R370): the primary's read is complete, the refused read is issued again and served, and mirroring
resumes. -/
def execResyncReadRetry (s : State) : Host.Outcome State Fault Refusal :=
  .next (
    if s.tlc.resyncRefused && s.tlc.resyncBusy && s.tlc.linkUp then
      mirrors (updTlc (s.emit .resyncRead) (fun t => { t with tstate := 2, resyncBusy := false, resyncRefused := false }))
    else s)

/-- ADDRESS_HAND_BACK (R376): the running twin hands an address back when no attached connection remains on it; a returned twin
announces an own address handed back to it, and serves all again once it has them all. -/
def execAddressHandBack (addr : Nat) (s : State) : Host.Outcome State Fault Refusal :=
  .next (
    if !s.tlc.linkUp || s.hub.state != .on || s.tlc.pair.isNone then s
    else if s.tlc.away then
      if !s.tlc.ownAddrs.contains addr || s.tlc.handedBack.contains addr then s
      else
        let l := s.tlc.handedBack ++ [addr]
        (updTlc s (fun t => { t with handedBack := l, away := !t.ownAddrs.all l.contains })).emits (announceAll [addr])
    else if s.tlc.served.contains addr && s.conns.all (fun c => !(c.addr == addr && c.attached)) then
      (updTlc s (fun t => { t with served := t.served.filter (· != addr) })).emit (.handBack addr)
    else s)

end Sys2Proof.Machine
end

