-- ==== Sys2Proof/Machine/Power.lean ====
section
/-! DEFINITION. The tide governor, AVSBus and thermal limits (R31, R402, R403, R468), wear (R399 to R401), telemetry
and its thresholds (R416, R421), the shadow (R397), seal, presence and the log's clock (R392, R423 to R425). A row
that names the expiry of a timer is that expiry (log 21). -/

namespace Sys2Proof.Machine

/-! The governor (R402). -/

/-- Highest frequency step: 1.4 GHz. -/
def fMax : Nat := 16

/-- A step as a multiple of 50 MHz. -/
def fUnits (k : Nat) : Nat := k + 12

/-- v(f) of the fused curve, in mV. -/
def curveAt (c : List Nat) (k : Nat) : Nat := c.getD k (c.getLastD 750)

/-- pcore of each tile in µW: the last current read from its rail, in mA, at the rail's voltage in mV (R402, R468; log 21). -/
def coreUw (p : Pwr) : List Nat := (p.avsCurrentMa.zip p.vcur).map (fun r => r.1 * r.2)

/-- Numerator and denominator of Σ pcore[n] · (f / fcur[n]) · (v(f) / vcur[n])², in µW. -/
def corePower (k v : Nat) : List (Nat × Nat × Nat) → Nat × Nat
  | [] => (0, 1)
  | (p, fc, vc) :: t =>
      let r := corePower k v t
      let d := fUnits fc * vc * vc
      (p * fUnits k * v * v * r.2 + r.1 * d, d * r.2)

/-- Whether step `k` keeps the power at or below the limit; `other` is the power less every pcore. -/
def fitsLimit (s : State) (m : PowerSample) (k : Nat) : Bool :=
  let p := s.pwr
  let core := coreUw p
  let r := corePower k (curveAt p.vcurve k) (core.zip (p.fcur.zip p.vcur))
  decide (100000 * m.powerDw * r.2 + r.1 ≤ (1000000 * p.limitW + core.sum) * r.2)

/-- The shared frequency after a tick. -/
def nextF (s : State) (m : PowerSample) : Nat :=
  let p := s.pwr
  let cur := p.fcur.foldl max 0
  if 10 * p.limitW < m.powerDw then ((List.range (cur + 1)).reverse.find? (fitsLimit s m)).getD 0
  else if m.powerDw + 100 < 10 * p.limitW then min fMax (cur + 1)
  else cur

/-- A tile's thermal cap after a tick, in steps above 0.5 GHz: 100 MHz below the tile's frequency, or 50 MHz up. -/
def nextCap (p : Pwr) (tj n : Nat) : Nat :=
  let t := 10 * p.throttleC
  let cap := p.cap.getD n (fMax + 2)
  if t ≤ tj then p.fcur.getD n 0
  else if tj + 30 < t then min (fMax + 2) (cap + 1)
  else cap

/-- A cap as a frequency step, clamped to 0.6 GHz. -/
def capStep (c : Nat) : Nat := c - 2

/-- The settings a tile passes through from one frequency step to another (R31): 50 MHz at a time, the voltage raised before
the frequency goes up and lowered after it has come down. -/
def tclkSteps (curve : List Nat) : Nat → Nat → Nat → List (Nat × Nat)
  | 0, k, _ => [(k, curveAt curve k)]
  | n + 1, k, g =>
      if k < g then (k, curveAt curve (k + 1)) :: (k + 1, curveAt curve (k + 1)) :: tclkSteps curve n (k + 1) g
      else if g < k then (k - 1, curveAt curve k) :: (k - 1, curveAt curve (k - 1)) :: tclkSteps curve n (k - 1) g
      else [(k, curveAt curve k)]

/-- Where those steps end within a tick. -/
def tclkEnd (curve : List Nat) (k g : Nat) : Nat × Nat := (tclkSteps curve 32 k g).getLastD (k, curveAt curve k)

/-- Every tile taken to its goal, by those steps; the rail of a parked tile keeps its voltage (R34). -/
def setTclk (s : State) (goal : List Nat) : Pwr :=
  let p := s.pwr
  let ends := (List.range 4).map (fun n => tclkEnd p.vcurve (p.fcur.getD n 0) (goal.getD n 0))
  let vs := ends.map Prod.snd
  { p with
    fcur := ends.map Prod.fst
    vcur := (List.range 4).map (fun n => if (s.compIsl n).state = PState.retention then p.vcur.getD n 0 else vs.getD n 0)
    vrun := vs }

/-- `PWR_ALERT_N` (R403, R468). -/
def alertNow (p : Pwr) (m : PowerSample) (fs : List Nat) : Bool :=
  (decide (10 * p.limitW < m.powerDw) && fs.all (· == 0)) || (m.hubTjDc :: m.tjDc).any (fun t => decide (1050 < t)) || p.avsHold

/-- Ticks of the last second in which a tile ran below its maximum. -/
def slowTicks (l : List (List Bool)) (n : Nat) : Nat := (l.filter (fun r => r.getD n false)).length

/-- TIDE_GOVERNOR_TICK (R402, R403, R468): one loop of the governor. -/
def execTideGovernorTick (m : PowerSample) (s : State) : Host.Outcome State Fault Refusal :=
  .next (
    if s.dev.porstLow then s
    else
      let p := s.pwr
      let ticks := if p.avsHold && p.avsGood.all id then p.avsTicks + 1 else 0
      let hold := p.avsHold && decide (ticks < 10)
      let f := nextF s m
      let caps := (List.range 4).map (fun n => nextCap p (m.tjDc.getD n 0) n)
      let goal := if hold then [0, 0, 0, 0] else caps.map (fun c => min (min f (capStep c)) fMax)
      let set := setTclk s goal
      let slow := p.fcur.map (fun k => decide (k < fMax))
      let hist := (slow :: p.slowMs).take 1000
      let q := { set with
        cap := caps
        tjDc := m.tjDc.take 4
        hubTjDc := m.hubTjDc
        powerDw := m.powerDw
        tjMaxDc := (m.hubTjDc :: m.tjDc).foldl max 0
        throttle := p.throttle.bump (if slow.any id then 1000 else 0)
        avsHold := hold
        avsGood := [false, false, false, false]
        avsTicks := ticks
        slowMs := hist
        idleMs := p.idleMs.zipIdx.map (fun (i : Nat × Nat) => if tileIdle s i.2 then i.1 + 1 else 0) }
      let s1 := { s with pwr := { q with alert := alertNow q m q.fcur } }
      if (List.range 4).any (fun n => decide (100 ≤ slowTicks hist n)) then s1.attnOn attnTHERMAL
      else if hist.all (fun r => r.all (fun b => !b)) then s1.attnOff attnTHERMAL
      else s1)

/-- AVS_CURRENT_READ (R402, R468): one transaction with a rail; the third failure on end of a selector makes the
governor take all tiles to 0.6 GHz, step by step (R31), and hold them there. -/
def execAvsCurrentRead (rail : Nat) (ok : Bool) (currentMa : Nat) (s : State) : Host.Outcome State Fault Refusal :=
  .next (
    if 4 ≤ rail ∨ s.dev.porstLow = true then s
    else
      let p := s.pwr
      if ok then
        { s with pwr := { p with
            avsCurrentMa := updAt p.avsCurrentMa rail (fun _ => currentMa)
            avsFails := updAt p.avsFails rail (fun _ => 0)
            avsGood := updAt p.avsGood rail (fun _ => true) } }
      else if p.avsFails.getD rail 0 < 2 then
        { s with pwr := { p with avsFails := updAt p.avsFails rail (· + 1) } }
      else
        let q := { setTclk s [0, 0, 0, 0] with
          avsFails := updAt p.avsFails rail (fun _ => 0)
          avsHold := true
          avsTicks := 0
          alert := true }
        (({ s with pwr := q }).logError 0x0F00 0 0x24 0 rail).attnEvent attnERRLOG)

/-- THERMTRIP (R403): the comparator stops every PLL but those of ACLK and GCLK until `PORST_N`. -/
def execThermtrip (s : State) : Host.Outcome State Fault Refusal :=
  .next (
    if s.dev.porstLow then s
    else { s with dev := { s.dev with thermtrip := true, clkLock := s.dev.clkLock &&& 0x3000 } })

/-! Telemetry (R416). -/

/-- fp32 of a number of tenths. -/
def tenths (n : Nat) : Nat := toF32 (rdiv (Val.ofInt n) (Val.ofInt 10))

/-- An item's 8 bytes as two words, and whether the first is fp32; none when unknown. -/
def telemetry (s : State) (item arg : Nat) : Option (Nat × Nat × Bool) :=
  match item with
  | 0x0001 => if arg = 0 then some (tenths s.pwr.powerDw, 0, true) else none
  | 0x0002 =>
      if arg < 4 then some (tenths (s.pwr.tjDc.getD arg 0), 0, true)
      else if arg = 4 then some (tenths s.pwr.hubTjDc, 0, true) else none
  | 0x0003 => if arg < 4 then some (50 * fUnits (s.pwr.fcur.getD arg 0), 0, false) else none
  | 0x0004 => if arg = 0 then some (s.pwr.throttle.count % 2 ^ 32, s.pwr.throttle.count / 2 ^ 32, false) else none
  | 0x0005 =>
      if arg / 2048 ≠ 0 ∨ 4 < arg / 256 then none
      else match s.wear.units.find? (fun u => u.kind == arg / 256 && u.index == arg % 256) with
        | some u => some (u.lo, u.hi, false)
        | none => if wearKnown (arg / 256) (arg % 256) then some (0xFFFF, 0xFFFF, false) else none
  | 0x0006 => if arg < 16 then some (((s.cluster arg).present.filter id).length, 0, false) else none
  | 0x0007 => if pageExists arg then
      some ((if answers s arg then headerWord s arg 0x01C else shadowWord s arg 0x01C).toNat, 0, false) else none
  | _ => none
where
  /-- Units of R400 by kind: clusters, partitions, lanes, the hub, core sites. -/
  wearKnown (kind index : Nat) : Bool :=
    match kind with
    | 0 => decide (index < 16)
    | 1 | 4 => decide (index < 256)
    | 2 => decide (index < 36)
    | _ => index == 0

/-- Whether a threshold's comparison is true now (R435). -/
def thresholdTrue (s : State) (t : Threshold) : Bool :=
  let w := t.item.toNat
  if w % 65536 = 0 then false
  else match telemetry s (w % 65536) (w / 65536 % 2 ^ 14) with
    | none => false
    | some (a, _, isF) =>
        let v := if isF then f32 a else Val.ofInt a
        let th := f32 t.value.toNat
        if w / 2 ^ 30 % 2 = 1 then v.lt th else th.lt v

/-- TELEMETRY_THRESHOLD (R421, R435): one threshold compared at a 1 ms tick. -/
def execTelemetryThreshold (k : Nat) (s : State) : Host.Outcome State Fault Refusal :=
  .next (match s.mgc.thresholds[k]? with
    | none => s
    | some t =>
        let now := thresholdTrue s t
        let s1 := { s with mgc := { s.mgc with thresholds := updAt s.mgc.thresholds k (fun t => { t with last := now }) } }
        if now && !t.last then s1.attnEvent attnTELEMETRY else s1)

/-! The shadow (R397, R451). -/

/-- Every page of the index. -/
def allPages : List Nat :=
  (List.range 0x14).flatMap (fun c => ((List.range 256).map (fun i => 256 * c + i)).filter pageExists)

/-- The 13 header words of a page. -/
def shadowOf (s : State) (p : Nat) : List Word := (List.range 13).map (fun k => headerWord s p (4 * k))

/-- SHADOW_REFRESH (R397): pages that answer; `silent` ones do not within 100 µs. -/
def execShadowRefresh (silent : List Nat) (s : State) : Host.Outcome State Fault Refusal :=
  .next (
    if s.dev.porstLow then s
    else
      let live := allPages.filter (fun p => powered s p && !silent.contains p)
      { s with shadow := live.foldl (fun l p => alSet p (shadowOf s p) l) s.shadow })

/-! Seal and presence (R422 to R426). -/

/-- An entry of the presence record, a ring of 256 (R426); `ADMITTED` counts its sealed commands (R435). -/
def addPresence (m : Mgc) (e : PresEntry) : Mgc :=
  let l := (m.presence ++ [e]).drop (m.presence.length + 1 - 256)
  { m with presence := l, admitted := (l.filter (fun x => x.op != 0)).length }

/-- SEAL_CHECK (R425): after 10 consecutive open checks the fuse is programmed for good. -/
def execSealCheck (closed : Bool) (s : State) : Host.Outcome State Fault Refusal :=
  .next (
    if s.dev.porstLow then s
    else
      let run := if closed then 0 else s.mgc.sealOpenRun + 1
      let s1 := { s with mgc := { s.mgc with sealClosed := closed, sealOpenRun := run } }
      if 10 ≤ run ∧ s.dev.sealBroken = false then
        let s2 := { s1 with
          dev := { s1.dev with sealBroken := true }
          mgc := addPresence s1.mgc ⟨s1.dev.timeNs, 0, 0, 2, 0⟩ }
        (s2.logNote 0x0100 0x1B 0).attnEvent attnSEAL
      else s1)

/-- PRESENCE_WINDOW_OPEN (R423): the button low for 20 ms; one press opens one window. -/
def execPresenceWindowOpen (s : State) : Host.Outcome State Fault Refusal :=
  .next (
    if s.dev.porstLow || !s.mgc.btnArmed then s
    else if s.mgc.windowOpen then { s with mgc := { s.mgc with btnArmed := false } }
    else { s with mgc := { s.mgc with windowOpen := true, windowNs := s.dev.timeNs, btnArmed := false } })

/-- PRESENCE_BTN_RELEASE (R423). -/
def execPresenceBtnRelease (s : State) : Host.Outcome State Fault Refusal :=
  .next { s with mgc := { s.mgc with btnArmed := true } }

/-- PRESENCE_WINDOW_EXPIRY (R423). -/
def execPresenceWindowExpiry (s : State) : Host.Outcome State Fault Refusal :=
  .next { s with mgc := { s.mgc with windowOpen := false } }

/-- LAB_JMP_CHANGE (R424). -/
def execLabJmpChange (fitted : Bool) (s : State) : Host.Outcome State Fault Refusal :=
  .next { s with mgc := { s.mgc with labJmp := fitted } }

/-! Logs and wear. -/

/-- The earliest first time among the open entries of a log. -/
def Log.firstOpen (l : Log) : Option Nat :=
  ((l.opened.filterMap (fun i => l.slots[i]?)).map LogEntry.firstNs).min?

/-- LOG_ENTRY_CLOSE (R392): 1 ms is past since the first time of an open entry of a domain; each open entry for which
that holds closes (log 21). -/
def execLogEntryClose (domain : Nat) (s : State) : Host.Outcome State Fault Refusal :=
  .next (match s.logs[domain]? with
    | none => s
    | some l =>
      match l.firstOpen with
      | none => s
      | some first =>
        let s1 := timeReaches s (first + 1000001)
        { s1 with logs := updAt s1.logs domain (fun l =>
            { l with opened := l.opened.filter (fun i => match l.slots[i]? with
                | some e => decide (s1.dev.timeNs ≤ e.firstNs + 1000000)
                | none => false) }) })

/-- RING_OSCILLATOR_MEASURE (R399): between tiles, on a site that is ON. -/
def execRingOscillatorMeasure (site ppm : Nat) (s : State) : Host.Outcome State Fault Refusal :=
  .next (
    let x := s.site site
    if site < 256 ∧ x.tile = none ∧ x.isl.state = .on then (s.setSite site { x with ringPpm := ppm }).addMargin 4 site ppm
    else s)

/-- EYE_MARGIN_MEASURE (R399). -/
def execEyeMarginMeasure (lane height width : Nat) (s : State) : Host.Outcome State Fault Refusal :=
  .next (
    if lane < 36 ∧ s.hub.state = .on then
      let s1 : State := { s with wear := { s.wear with eye := s.wear.eye.filter (fun e => e.1 != lane) ++ [(lane, height, width)] } }
      (s1.addMargin 2 lane height).addMargin 2 lane width
    else s)

/-- Corrected errors of the last 24 h that the pages of a unit hold (R399): a core site's, a partition's, the hub's. -/
def unitRate (s : State) (kind index : Nat) : Nat :=
  let pages := if kind = 4 then [0x0500 + index] else if kind = 1 then [0x0600 + index] else [0x0200, 0x0810, 0x0900, 0x0A00, 0x0B00, 0x0C00]
  ((pages.flatMap (fun p => (s.hdr p).recent)).filter (fun t => decide (s.dev.timeNs < t + dayNs))).length

/-- Days since the first margin of a unit (R400). -/
def historyDays (s : State) (kind index : Nat) : Nat :=
  match ((s.wear.history.filter (fun m => m.kind == kind && m.index == index)).map Margin.ns).min? with
  | some t => (s.wear.pastNs + s.dev.timeNs - t) / dayNs
  | none => 0

/-- Whether a SerDes lane is in use (R14, R400): the front end's four, those of an axis that the torus has, and the eight of
the twin link when paired; numbered in R14's order (log 44). -/
def laneUsed (s : State) (lane : Nat) : Bool :=
  if lane < 4 then true
  else if lane < 28 then decide (1 < (torusExt s).getD ((lane - 4) / 8) 1)
  else decide (lane < 36) && s.tlc.pair.isSome

/-- Bounds of a unit as stored: 0xFFFF with less than 30 days of history or above 65,534 (R400, R406). -/
def codedUnit (u : WearUnit) : WearUnit :=
  let code (d : Nat) : Nat := if u.historyDays < 30 ∨ 65534 < d then 0xFFFF else d
  { u with lo := code u.lo, hi := code u.hi }

/-- Inserts by lower bound. -/
def insertLo (u : WearUnit) : List WearUnit → List WearUnit
  | [] => [u]
  | v :: t => if u.lo < v.lo then u :: v :: t else v :: insertLo u t

/-- A cluster's figure: the second-smallest core prediction while its moon is free, the smallest once it is not. -/
def clusterUnit (s : State) (us : List WearUnit) (cl : Nat) : Option WearUnit :=
  let cores := (us.filter (fun u => u.kind == 4 && u.index / 16 == cl && (s.site u.index).isl.state != .eclipsed)).foldl
    (fun l u => insertLo u l) []
  (cores[if (s.cluster cl).moonFree then 1 else 0]?).map (fun u => { u with kind := 0, index := cl })

/-- WEAR_PREDICTION (R382, R400, R401, R406): the bounds that firmware fitted (log 44), with the history that each unit has;
the corrected-error rate of each of them joins its history (R399). -/
def execWearPrediction (units : List WearUnit) (s : State) : Host.Outcome State Fault Refusal :=
  .next (
    let s := units.foldl (fun s u =>
      if u.kind = 0 ∨ u.kind = 2 then s else s.addMargin u.kind u.index (unitRate s u.kind u.index)) s
    let own := (units.filter (fun u => u.kind != 0)).map (fun u =>
      codedUnit { u with historyDays := historyDays s u.kind u.index })
    let all := (List.range 16).filterMap (clusterUnit s own) ++ own
    let least := (all.filter (fun u => decide (u.kind ≤ 3) && (u.kind != 2 || laneUsed s u.index))).foldl (fun b u => match b with
      | none => some u
      | some v => if u.lo < v.lo then some u else some v) (none : Option WearUnit)
    let w : Wear := match least with
      | some u => { s.wear with devLo := u.lo, devHi := u.hi, limitIndex := u.index, limitKind := u.kind, units := all }
      | none => { s.wear with units := all }
    let due := own.filter (fun u => u.kind == 4 && decide (u.index < 256 ∧ u.lo < 30) && (s.cluster (u.index / 16)).moonFree &&
      (s.site u.index).isl.state != .eclipsed)
    let s1 := due.foldl (fun s u => s.setSite u.index { s.site u.index with graceful := true }) { s with wear := w }
    if w.devLo < 180 then s1.attnOn attnWEAR else s1.attnOff attnWEAR)

/-- HOUR_COUNTER_SAVE (R401). -/
def execHourCounterSave (s : State) : Host.Outcome State Fault Refusal :=
  .next { s with sites := s.sites.map (fun p => (p.1, { p.2 with savedHours := (p.2.poweredHours, p.2.hotHours) })) }

/-- WEAR_HOUR_COUNT (R401, R459): each powered site counts, and the hours since each partition's last pass. -/
def execWearHourCount (tjDc : List Nat) (s : State) : Host.Outcome State Fault Refusal :=
  .next (
    let s1 := (List.range 256).foldl (fun s n =>
      let x := s.site n
      if x.isl.state = .off then s
      else s.setSite n { x with
        poweredHours := satInc32 x.poweredHours
        hotHours := if 900 < tjDc.getD (n / 64) 0 then satInc32 x.hotHours else x.hotHours }) s
    { s1 with parts := s1.parts.map (fun p => (p.1, { p.2 with lastPassH := min 0xFFFF (p.2.lastPassH + 1) })) })

end Sys2Proof.Machine
end

