-- ==== Sys2Proof/Machine/Pages.lean ====
section
/-! DEFINITION. Writing registers (R437 to R441, R445, R447, R451, R453): the fields of every register, the fields
the operator may write, and what a write does. -/

namespace Sys2Proof.Machine

/-! Fields. -/

/-- Bits of a header register that are not reserved (R443 to R450). -/
def headerMask (p off : Nat) : Word :=
  match off with
  | 0x000 => 0xFFFFFFFF
  | 0x004 => 0x7000FFFF
  | 0x008 => if isCorePage p then 0xF else 0x7
  | 0x00C => 0xFFFF000F
  | 0x010 => 0x1FFF
  | 0x014 => 0x1FFF
  | 0x018 => 0xFFFFFFFF
  | 0x01C => 0xFFFFFFFF
  | 0x020 => 0xFFFFFFFF
  | 0x024 => 0x83FFFFFF
  | 0x028 => 0xFFFFFFFF
  | 0x02C => 0x83FFFFFF
  | 0x030 => 0x1
  | _ => 0

/-- Bits of the two words of a counter (R102). -/
def ctrMask (high : Bool) : Word := if high then 0x8000FFFF else 0xFFFFFFFF

/-- Bits of a block's register that are not reserved. -/
def blockMask (p off : Nat) : Word :=
  match p / 256 with
  | 0x00 => match off with
    | 0x040 | 0x048 | 0x04C | 0x050 | 0x054 | 0x05C => 0xFFFFFFFF
    | 0x058 => 0xFFFF
    | _ => 0
  | 0x01 => match off with
    | 0x040 => 0xFFFF00FF
    | 0x044 => 0xFFFF07FF
    | 0x048 => 0xFFFFFF07
    | 0x04C => 0xFFFFFFFF
    | _ => if 0x080 ≤ off ∧ off < 0x0C0 then (if off % 8 = 0 then 0x7FFFFFFF else 0xFFFFFFFF) else 0
  | 0x04 => match off with
    | 0x040 => 0xFFFFFFFF
    | 0x044 => 0x0FFFFFFF
    | 0x048 => 0x1F7FFF
    | 0x04C => 0x3FF
    | _ => 0
  | 0x05 => match off with
    | 0x040 => 0x1FFFF
    | 0x044 => 0xFFFF77
    | 0x048 => 0x7F
    | 0x04C => 0x3
    | 0x050 | 0x058 | 0x060 => ctrMask false
    | 0x054 | 0x05C | 0x064 => ctrMask true
    | 0x068 => 0xFFFFFFFF
    | _ => 0
  | 0x06 => match off with
    | 0x040 => 0x3FF
    | 0x044 => 0xFFFF00FF
    | _ => 0
  | 0x08 => if p = 0x0810 then (match off with
      | 0x040 => 0xFFFF
      | 0x044 => 0xFFFFFFFF
      | 0x048 => 0xFFFF
      | _ => 0) else 0
  | 0x0B => match off with
    | 0x040 => 0x801F1F1F
    | 0x044 => 0x1F1F1F
    | 0x048 => 0xFFFFFF
    | 0x04C => 0x777777
    | 0x050 | 0x058 => ctrMask false
    | 0x054 | 0x05C => ctrMask true
    | 0x060 => 0x3F
    | _ => 0
  | 0x0C => match off with
    | 0x040 => 0x7F
    | 0x044 => 0xFFFFFFFF
    | 0x048 | 0x050 => ctrMask false
    | 0x04C | 0x054 => ctrMask true
    | _ => 0
  | 0x0D => if p % 256 < 6 then (match off with
      | 0x040 => 0xF
      | 0x048 | 0x050 | 0x058 => ctrMask false
      | 0x04C | 0x054 | 0x05C => ctrMask true
      | 0x060 => 0xFFFFFFFF
      | _ => 0) else 0
  | 0x0E => match off with
    | 0x040 => 0x3FFF
    | 0x044 => 0xFFFFFFFF
    | 0x048 => ctrMask false
    | 0x04C => ctrMask true
    | _ => 0
  | 0x0F => match off with
    | 0x040 => 0xFF7F01FF
    | 0x044 => 0x01FFFFFF
    | 0x048 => 0xFFFFFFFF
    | 0x050 | 0x058 => ctrMask false
    | 0x054 | 0x05C => ctrMask true
    | _ => 0
  | 0x10 => if off = 0x040 then 0x3FFF else 0
  | 0x11 => if off = 0x040 then 0xFFFFFFFF else if off = 0x044 then 0x3FF else 0
  | 0x13 => if off = 0x040 ∨ off = 0x044 then 0x7FE else if 0x048 ≤ off ∧ off < 0x070 then 0xFFFFFFFF else 0
  | _ => 0

/-- Bits of a word that hold fields. -/
def fieldMask (p off : Nat) : Word := if off < 0x040 then headerMask p off else blockMask p off

/-- Bits the operator may write (R453). -/
def operatorMask (p off : Nat) : Word :=
  if isCorePage p && off == 0x04C then 0x3
  else if p = 0x0810 ∧ off = 0x040 then 0xFFFF
  else if p = 0x0E00 ∧ off = 0x040 then 0x3FFF
  else if p = 0x0B00 ∧ off = 0x044 then 0x1F1F1F
  else if p = 0x0B00 ∧ off = 0x048 then 0xFFFFFF
  else if p = 0x0F00 ∧ off = 0x040 then 0xFF7F01FF
  else if p = 0x0100 ∧ 0x080 ≤ off ∧ off < 0x0C0 then blockMask p off
  else 0

/-! The operator-writable registers. -/

/-- `CLEAR` of `CORE_ARR_CTR_CTRL` (R101). -/
def clearCounters (x : Site) : Site := { x with valid := Ctr48.zero, starve := Ctr48.zero, block := Ctr48.zero }

/-- `CORE_ARR_CTR_CTRL` written (R101). -/
def writeCtrCtrl (s0 : State) (n : Nat) (v : Word) : State :=
  let s := s0.arrProgress n
  let x := s.site n
  let y := { x with freeze := v.getLsbD 1 }
  s.setSite n (if v.getLsbD 0 then clearCounters y else y)

/-- `PWR_GOV_CFG` written, each field clamped to its range (R405). -/
def writeGov (p : Pwr) (v : Word) : Pwr :=
  { p with
    limitW := max 150 (min 350 (v.toNat % 512))
    throttleC := max 80 (min 100 (v.toNat / 2 ^ 16 % 128))
    park10 := v.toNat / 2 ^ 24 }

/-- A threshold register written (R435). -/
def writeThreshold (m : Mgc) (off : Nat) (v : Word) : Mgc :=
  { m with thresholds := updAt m.thresholds ((off - 0x080) / 8) (fun t =>
      if off % 8 = 0 then { t with item := v &&& 0x7FFFFFFF } else { t with value := v }) }

/-- A write of a register that the operator may write; `ATU_POOL_CFG` and `FRE_TORUS_CFG` go to boot flash. -/
def writeOpen (s : State) (p off : Nat) (v : Word) : State :=
  if isCorePage p then writeCtrCtrl s (p % 256) v
  else match p with
    | 0x0810 => { s with dev := { s.dev with poolFlash := some (v &&& 0xFFFF) } }
    | 0x0E00 => { s with jmpAddr := v &&& 0x3FFF }
    | 0x0B00 =>
        if off = 0x044 then { s with fre := { s.fre with torusFlash := some (v &&& 0x1F1F1F) } }
        else { s with fre := { s.fre with timeout := v &&& 0xFFFFFF } }
    | 0x0F00 => { s with pwr := writeGov s.pwr v }
    | 0x0100 => { s with mgc := writeThreshold s.mgc off v }
    | _ => s

/-! `PG_CTRL` (R445). -/

/-- A tile's sites, COMPUTE and SERVICE begin to drain, or return to ON, in the order that R35 requires; one whose dependency is
not ON is refused and logged, and a site that its own `PG_CTRL` holds stays QUIESCING. -/
def moveTile (s : State) (t : Nat) (a b : PState) : State :=
  let held (s : State) (i : Island) : Bool :=
    match i with
    | .site n => (s.hdr (0x0500 + n)).quiesce || !(s.hdr (0x0500 + n)).enable
    | _ => false
  let move (s : State) (i : Island) : State :=
    if (s.isl i).state ≠ a then s
    else if b = .on then
      if held s i then s else if !dependsOk s i then refuseIsland s (islandPage i) else changeIsl s i b
    else changeIsl s i b
  let sites := (List.range 64).map (fun k => Island.site (64 * t + k))
  if b = .on then sites.foldl move (move (move s (.service t)) (.compute t))
  else move (move (sites.foldl move s) (.compute t)) (.service t)

/-- Block registers, and the generators of a stack base's partitions (R251), that a soft reset of a block without an island of its own returns to their reset values. -/
def resetBlock (s : State) (p : Nat) : State :=
  match p / 256 with
  | 0x0B => { s with fre := { s.fre with timeout := Fre.reset.timeout, residue := Ctr48.zero, mismatch := Ctr48.zero } }
  | 0x0C => { s with tlc := { s.tlc with hbLate := Ctr48.zero, ckpt := Ctr48.zero } }
  | 0x0D => { s with vcc := { s.vcc with engines := updAt s.vcc.engines (p % 256) (fun e =>
      { e with frames := Ctr48.zero, conceal := Ctr48.zero, abort := Ctr48.zero, boundsHits := 0 }) } }
  | 0x0E => { s with jmpAddr := 0, jmpJumps := Ctr48.zero }
  | 0x01 => { s with mgc := { s.mgc with thresholds := List.replicate 8 Threshold.reset } }
  | 0x06 => seedStack s (p % 256 / 64)
  | 0x0F => { s with pwr := { s.pwr with limitW := 350, throttleC := 100, park10 := 0, throttle := Ctr48.zero,
                                         stale := Ctr48.zero } }
  | _ => s

/-- A soft reset at once (R386, R387, R445): a core site, a tile, or a block inside another island, whose error counts,
captures and lock stay until that island is reset (R448 to R450). -/
def softResetNow (s : State) (p : Nat) : State :=
  let mark (s1 : State) : State := s1.setHdr p { s1.hdr p with softReset := true }
  if isCorePage p then mark (resetSite s (p % 256))
  else if isTccPage p then mark (tileOff s (p % 256))
  else match pageIsland p with
    | none => s
    | some i =>
        let x := s.isl i
        let h := s.hdr p
        noteStale ((resetBlock s p).setIsl i ⟨x.state, x.epoch + 1⟩ |>.setHdr p { bootHdr p with
          attn := h.attn, corrected := h.corrected, uncorrected := h.uncorrected, first := h.first, last := h.last,
          locked := h.locked })

/-- The power requests of a gateable page with its fields as now written: OFF through QUIESCING, a hold, ON again; a core
site that may come on is in TEST until its self-test has ended (R33, R446). -/
def movePower (s : State) (p : Nat) : State :=
  let h := s.hdr p
  let drain := !h.enable || h.quiesce
  match pageIsland p with
  | none => s
  | some i =>
      match (s.isl i).state with
      | .on => if drain then (if isCorePage p then changeIsl s i .quiescing else moveTile s (p % 256) .on .quiescing) else s
      | .quiescing =>
          if drain || h.softReset then s
          else if !dependsOk s i then refuseIsland s p
          else if isCorePage p then changeIsl s i .on else moveTile s (p % 256) .quiescing .on
      | .retention => if drain then changeIsl s i .quiescing else s
      | .off =>
          if !h.enable then s
          else if !dependsOk s i then refuseIsland s p
          else if isCorePage p then s.setIsl i { s.isl i with state := .test }
          else s
      | .eclipsed | .test => s

/-- A write of `PG_CTRL`. An island that is OFF takes `ENABLE` alone, held by PWR; a block that does not answer takes
nothing (R451). -/
def ctrlWrite (s : State) (p : Nat) (en q sr ec : Bool) : State :=
  let gate := isCorePage p || isTccPage p
  let st := (pageIsl s p).state
  let h := s.hdr p
  if !pageExists p then s
  else if st = .off then
    if gate then movePower (s.setHdr p { h with enable := en }) p else s
  else if st = .eclipsed ∨ (isCorePage p = true ∧ (s.site (p % 256)).fenced = true) then s
  else
    let s1 := s.setHdr p { h with enable := en, quiesce := q, softReset := h.softReset || (sr && q) }
    if ec && isCorePage p then
      if canFence s1 (p % 256) then
        let s2 := fence s1 (p % 256) false false
        s2.setHdr p { s2.hdr p with eclipse := true }
      else s1
    else if sr && !q then softResetNow s1 p
    else if gate then movePower s1 p else s1

/-- QUIESCE_COMPLETE (R388, R445): a drained block goes OFF, or is reset, as its `PG_CTRL` asks; with `QUIESCE_REQ`
alone it is held. A block inside another island, which has no QUIESCING (R33), is reset where both bits ask for it. -/
def execQuiesceComplete (page : Nat) (s : State) : Host.Outcome State Fault Refusal :=
  .next (
    let h := s.hdr page
    let keep (s1 : State) : State := s1.setHdr page { s1.hdr page with
      enable := h.enable, softReset := h.softReset, quiesce := h.quiesce }
    if isCorePage page = false ∧ isTccPage page = false then
      (if h.quiesce && h.softReset && answers s page then
        let s1 := softResetNow s page
        s1.setHdr page { s1.hdr page with enable := h.enable, quiesce := true } else s)
    else if (pageIsl s page).state ≠ .quiescing ∨ (h.enable = true ∧ h.softReset = false) then s
    else if isCorePage page then
      if (s.site (page % 256)).tile.isNone && !(s.site (page % 256)).fenced && !holdsWrite s (page % 256) then keep (resetSite s (page % 256)) else s
    else if isTccPage page then
      if tileIdle s (page % 256) then keep (tileOff s (page % 256)) else s
    else s)

/-! Any register. -/

/-- A 32-bit write by firmware (R437 to R441): a misaligned one is refused and logged, one to a locked RWL field is
ignored and logged, one to a page that does not exist or does not answer writes nothing. -/
def pageWrite (s : State) (p off : Nat) (v : Word) : State :=
  if !pageExists p || decide (0xFFF < off) then s
  else if off % 4 ≠ 0 then s.logNote 0x0200 0x23 (p + off * 2 ^ 16)
  else if off = 0x008 then ctrlWrite s p (v.getLsbD 0) (v.getLsbD 1) (v.getLsbD 2) (v.getLsbD 3)
  else if !answers s p then s
  else
    let h := s.hdr p
    match off with
    | 0x010 => s.setHdr p { h with event := h.event &&& ~~~(v.setWidth 13) }
    | 0x014 => s.setHdr p { h with evmask := v.setWidth 13 }
    | 0x018 => if h.locked then s.logNote p 0x22 (p + off * 2 ^ 16) else s.setHdr p { h with attn := v }
    | _ => if operatorMask p off = 0 then s else writeOpen s p off v

/-- `WRITE_REG` (R415, R451): the masked value, or the RESULT that refuses it. -/
def operatorWrite (s : State) (p off : Nat) (v m : Word) : State × Res :=
  if !pageExists p then (s, .badAddress)
  else if m &&& fieldMask p off &&& ~~~(operatorMask p off) ≠ 0 then (s, .writeDenied)
  else
    let a := respondsNow s p
    if !a.1 || !answers s p then (a.2, .domainOff)
    else if operatorMask p off = 0 then (a.2, .ok)
    else (writeOpen a.2 p off ((liveWord s p off &&& ~~~m) ||| (v &&& m)), .ok)

/-! The rows. -/

/-- CORE_ARR_CTR_CLEAR (R101). -/
def execCoreArrCtrClear (site : Nat) (s : State) : Host.Outcome State Fault Refusal :=
  .next (if site < 256 ∧ answers s (0x0500 + site) = true then
    let s1 := s.arrProgress site
    s1.setSite site (clearCounters (s1.site site)) else s)

/-- CORE_ARR_CTR_FREEZE (R101). -/
def execCoreArrCtrFreeze (site : Nat) (value : Bool) (s : State) : Host.Outcome State Fault Refusal :=
  .next (if site < 256 ∧ answers s (0x0500 + site) = true then
    let s1 := s.arrProgress site
    s1.setSite site { s1.site site with freeze := value } else s)

/-- PG_CTRL_ENABLE (R445): the other fields keep their values. -/
def execPgCtrlEnable (page : Nat) (value : Bool) (s : State) : Host.Outcome State Fault Refusal :=
  .next (ctrlWrite s page value (s.hdr page).quiesce false false)

/-- QUIESCE_REQ (R445). -/
def execQuiesceReq (page : Nat) (value : Bool) (s : State) : Host.Outcome State Fault Refusal :=
  .next (ctrlWrite s page (s.hdr page).enable value false false)

/-- SOFT_RESET (R445): with `QUIESCE_REQ` set the block is quiesced first. -/
def execSoftReset (page : Nat) (s : State) : Host.Outcome State Fault Refusal :=
  .next (ctrlWrite s page (s.hdr page).enable (s.hdr page).quiesce true false)

/-- ECLIPSE (R383, R445). -/
def execEclipse (page : Nat) (s : State) : Host.Outcome State Fault Refusal :=
  .next (ctrlWrite s page (s.hdr page).enable (s.hdr page).quiesce false true)

/-- PG_EVENT_CLEAR (R447): an ATTN condition stays. -/
def execPgEventClear (page : Nat) (value : Word) (s : State) : Host.Outcome State Fault Refusal :=
  .next (pageWrite s page 0x010 value)

/-- ATU_POOL_CFG_WRITE (R215). -/
def execAtuPoolCfgWrite (value : Word) (s : State) : Host.Outcome State Fault Refusal :=
  .next (pageWrite s 0x0810 0x040 value)

/-- FRE_TORUS_CFG_WRITE (R358). -/
def execFreTorusCfgWrite (value : Word) (s : State) : Host.Outcome State Fault Refusal :=
  .next (pageWrite s 0x0B00 0x044 value)

/-- LOW_WORD_READ (R439): the high word is latched for the requester; a misaligned access is refused and logged
(R438). -/
def execLowWordRead (requester page offset : Nat) (s : State) : Host.Outcome State Fault Refusal :=
  .next (
    if !pageExists page || decide (0xFFF < offset) then s
    else if offset % 4 ≠ 0 then s.logNote 0x0200 0x23 (page + offset * 2 ^ 16)
    else match readWord s (powered s page) requester page offset with
      | some r => r.2.2
      | none => s)

/-- REGISTER_WRITE (R438 to R441). -/
def execRegisterWrite (page offset : Nat) (value : Word) (s : State) : Host.Outcome State Fault Refusal :=
  .next (pageWrite s page offset value)

end Sys2Proof.Machine
end

