-- ==== Sys2Proof/Machine/Mmp.lean ====
section
/-! DEFINITION. The management protocol (R407 to R430): messages, the reply cache, the open operations, physical
presence and the sealed commands, staging of firmware. -/

namespace Sys2Proof.Machine

/-! Messages (R409 to R413). -/

/-- What an operation leaves and replies: state, RESULT, whether a value came from a shadow, reply payload. -/
structure MmpOut where
  st : State
  res : Res
  shadow : Bool
  pay : List Byte

def MmpOut.plain (s : State) (r : Res) : MmpOut := ⟨s, r, false, []⟩

/-- The layout of an operation's payload (R412, R413); false for an unknown operation. -/
def layoutOk (op : Nat) (p : List Byte) : Bool :=
  let n := p.length
  match op with
  | 0x01 => n == 8 && allZero p 6 2
  | 0x02 => n == 16 && allZero p 4 4
  | 0x03 => n % 4 == 0 && decide (4 ≤ n ∧ n ≤ 256)
  | 0x04 => n == 8 && allZero p 6 2
  | 0x05 => n % 8 == 0 && decide (8 ≤ n ∧ n ≤ 80) && (List.range (n / 8)).all (fun k => allZero p (8 * k + 1) 3)
  | 0x06 => n == 2
  | 0x07 => n == 0
  | 0x08 => decide (9 ≤ n ∧ n ≤ 1024) && allZero p 4 4
  | 0x09 => n == 0
  | 0x0A => n == 0
  | 0x40 => n == 4
  | 0x41 => n == 0
  | 0x42 => n == 12
  | 0x43 => n == 0
  | 0x44 => n == 8 && allZero p 1 3
  | 0x45 => n == 0
  | 0x46 => n == 0
  | _ => false

/-- The island that `RESET_ISLAND` names (R418). -/
def islandArg (v : Nat) : Option Island :=
  if v = 0 then some .hub
  else if 0x0010 ≤ v ∧ v < 0x0014 then some (.service (v - 0x0010))
  else if 0x0020 ≤ v ∧ v < 0x0024 then some (.compute (v - 0x0020))
  else if 0x0100 ≤ v ∧ v < 0x0200 then some (.site (v - 0x0100))
  else none

/-- Values of a payload that break its operation's layout (R414, R415, R417, R418, R421, R427). -/
def valuesOk (op : Nat) (p : List Byte) : Bool :=
  match op with
  | 0x01 => leAt p 2 2 % 4 == 0 && decide (1 ≤ leAt p 4 2 ∧ leAt p 4 2 ≤ 64 ∧ leAt p 2 2 + 4 * (leAt p 4 2 - 1) ≤ 0xFFC)
  | 0x02 => leAt p 2 2 % 4 == 0 && decide (leAt p 2 2 ≤ 0xFFC)
  | 0x04 => decide (byteAt p 0 ≤ 5 ∧ byteAt p 1 ≤ 1)
  | 0x05 => (List.range (p.length / 8)).all (fun k => decide (1 ≤ byteAt p (8 * k) ∧ byteAt p (8 * k) ≤ 10))
  | 0x06 => (islandArg (leAt p 0 2)).isSome
  | 0x40 => decide (4096 ≤ leAt p 0 4 ∧ leAt p 0 4 ≤ 29360128)
  | 0x42 => decide (byteAt p 0 ≤ 1 ∧ byteAt p 1 ≤ 1 ∧ leAt p 2 2 < 2 ^ 15)
  | 0x44 => decide (byteAt p 0 ≤ 3)
  | _ => true

/-- The form checks of R409, R410 and R412. -/
def mmpForm (m : List Byte) : Bool :=
  byteAt m 0 == 1 && leAt m 4 2 == 0 && byteAt m 6 / 8 == 0 && byteAt m 7 == 0 && allZero m 10 6 &&
  decide (leAt m 8 2 = m.length - 16 ∧ leAt m 8 2 ≤ 1024) && layoutOk (byteAt m 1) (m.drop 16) &&
  valuesOk (byteAt m 1) (m.drop 16)

def mmpTag (m : List Byte) : Nat := leAt m 2 2

/-- A reply (R409, R410): operation and tag echoed, STATUS as it stands now. -/
def replyBytes (s : State) (m : List Byte) (r : Res) (shadow : Bool) (pay : List Byte) : List Byte :=
  [1, m.getD 1 0] ++ toLE 2 (mmpTag m) ++ toLE 2 (s.status r) ++
  [BitVec.ofNat 8 (1 + 2 * bit s.mgc.labJmp + 4 * bit shadow), 0] ++ toLE 2 pay.length ++ List.replicate 6 0 ++ pay

/-- The cache with a reply (R411): 64 entries, the oldest leaves. -/
def remember (l : List Cached) (e : Cached) : List Cached :=
  let rest := l.filter (fun c => !(decide (c.src = e.src) && c.tag == e.tag))
  (rest ++ [e]).drop (rest.length + 1 - 64)

def cachedReply (s : State) (src : MmpSrc) (m : List Byte) : Option (List Byte) :=
  (s.mgc.cache.find? (fun c => decide (c.src = src) && c.tag == mmpTag m && decide (c.req = m))).map Cached.reply

/-- What the MGC answers in recovery (R431). -/
def recoveryServes (m : List Byte) : Bool :=
  match byteAt m 1 with
  | 0x01 => leAt m 16 2 == 0x0100
  | 0x04 | 0x08 | 0x09 | 0x0A | 0x40 | 0x41 => true
  | _ => false

/-- One request (R410, R411): a reply as request is dropped; a repeat gets the cached reply; every other is executed,
answered once and remembered. A message shorter than its header is dropped. -/
def mmpAnswer (src : MmpSrc) (m : List Byte) (body : List Byte → State → MmpOut) (s : State) : State :=
  if s.dev.porstLow || decide (m.length < 16) || byteAt m 6 % 2 == 1 then s
  else match cachedReply s src m with
  | some r => s.emit (.mmpReply src r)
  | none =>
      let o : MmpOut :=
        if !mmpForm m then .plain s .mmpMalformed
        else if s.mgc.recovery && !recoveryServes m then .plain s .domainOff
        else body (m.drop 16) s
      let r := replyBytes o.st m o.res o.shadow o.pay
      let s1 := o.st
      ({ s1 with mgc := { s1.mgc with cache := remember s1.mgc.cache ⟨src, mmpTag m, m, r, s1.dev.timeNs⟩ } }).emit
        (.mmpReply src r)

/-- A row's operation, for messages that carry its `OP`. -/
def mmpRow (op : Nat) (src : MmpSrc) (m : List Byte) (body : List Byte → State → MmpOut) (s : State) : State :=
  if byteAt m 1 = op then mmpAnswer src m body s else s

/-- MMP_MALFORMED (R410): a message that breaks its form, or one that is itself a reply. -/
def execMmpMalformed (src : MmpSrc) (msg : List Byte) (s : State) : Host.Outcome State Fault Refusal :=
  .next (if mmpForm msg then s else mmpAnswer src msg (fun _ s => .plain s .mmpMalformed) s)

/-- MANAGEMENT_PORT_FRAME (R408): ARP (0), neighbour discovery (1) and ICMP echo (2) are answered. -/
def execManagementPortFrame (kind : Nat) (s : State) : Host.Outcome State Fault Refusal :=
  .next (if s.dev.porstLow then s else if kind < 3 then s.emit (.mgmtReply kind) else s)

/-- REPLY_CACHE_EXPIRY (R411). -/
def execReplyCacheExpiry (src : MmpSrc) (tag : Nat) (s : State) : Host.Outcome State Fault Refusal :=
  .next { s with mgc := { s.mgc with cache := s.mgc.cache.filter (fun c => !(decide (c.src = src) && c.tag == tag)) } }

/-! Registers (R414, R415). -/

/-- Words in order, as the MGC reads them from a block that answers or does not; none when one is not to be had. -/
def readWords (live : Bool) (p : Nat) : Nat → Nat → State → Option (List Byte × Bool × State)
  | 0, _, s => some ([], false, s)
  | n + 1, off, s =>
      match readWord s live 0 p off with
      | none => none
      | some w =>
        match readWords live p n (off + 4) w.2.2 with
        | none => none
        | some r => some (toLE 4 w.1.toNat ++ r.1, w.2.1 || r.2.1, r.2.2)

def readRegBody (p : List Byte) (s : State) : MmpOut :=
  let page := leAt p 0 2
  if !pageExists page then .plain s .badAddress
  else
    let a := respondsNow s page
    match readWords a.1 page (leAt p 4 2) (leAt p 2 2) a.2 with
    | some r => ⟨r.2.2, .ok, r.2.1, r.1⟩
    | none => .plain a.2 .domainOff

/-- READ_REG (R414). -/
def execReadReg (src : MmpSrc) (msg : List Byte) (s : State) : Host.Outcome State Fault Refusal :=
  .next (mmpRow 0x01 src msg readRegBody s)

def writeRegBody (p : List Byte) (s : State) : MmpOut :=
  let r := operatorWrite s (leAt p 0 2) (leAt p 2 2) (word (leAt p 8 4)) (word (leAt p 12 4))
  .plain r.1 r.2

/-- WRITE_REG (R415). -/
def execWriteReg (src : MmpSrc) (msg : List Byte) (s : State) : Host.Outcome State Fault Refusal :=
  .next (mmpRow 0x02 src msg writeRegBody s)

/-! Telemetry and logs (R416, R417). -/

def itemBytes (s : State) (item arg : Nat) : List Byte :=
  match telemetry s item arg with
  | some v => toLE 4 v.1 ++ toLE 4 v.2.1
  | none => List.replicate 8 0xFF

def readTelemetryBody (p : List Byte) (s : State) : MmpOut :=
  let items := (List.range (p.length / 4)).map (fun k => (leAt p (4 * k) 2, leAt p (4 * k + 2) 2))
  ⟨s, .ok, items.any (fun i => i.1 == 0x0007 && pageExists i.2 && !answers s i.2),
    items.flatMap (fun i => itemBytes s i.1 i.2)⟩

/-- READ_TELEMETRY (R416). -/
def execReadTelemetry (src : MmpSrc) (msg : List Byte) (s : State) : Host.Outcome State Fault Refusal :=
  .next (mmpRow 0x03 src msg readTelemetryBody s)

/-- A log entry (R391). -/
def entryBytes (e : LogEntry) : List Byte :=
  toLE 8 e.firstNs ++ toLE 8 e.lastNs ++ toLE 2 e.source ++ toLE 1 e.cls ++ toLE 1 e.typ ++ toLE 2 e.rep ++
  toLE 2 e.result ++ toLE 8 e.detail

def readLogBody (p : List Byte) (s : State) : MmpOut :=
  let d := byteAt p 0
  let l := s.logs.getD d Log.empty
  let es := (l.slots.drop (leAt p 2 2)).take (min 31 (leAt p 4 2))
  let s1 := if byteAt p 1 = 1 then { s with logs := updAt s.logs d (fun _ => Log.empty) } else s
  ⟨s1, .ok, false, toLE 4 l.slots.length ++ toLE 4 l.dropped ++ es.flatMap entryBytes⟩

/-- READ_LOG (R417). -/
def execReadLog (src : MmpSrc) (msg : List Byte) (s : State) : Host.Outcome State Fault Refusal :=
  .next (mmpRow 0x04 src msg readLogBody s)

/-! Attention (R420, R421). -/

def isLevel (n : Nat) : Bool := n == attnWEAR || n == attnTHERMAL || n == attnTWIN || n == attnFIRMWARE

/-- An entry acts when its count is the code's count and the code is pending: an event clears, a level is masked
until its cause ends. -/
def ackOne (a : Attn) (n count : Nat) : Attn × Bool :=
  if a.pending.getLsbD n && decide ((a.counts.getD n 0).toNat = count) then
    let b := a.clearEvent n
    (if isLevel n then { b with masked := b.masked ||| BitVec.ofNat 16 (2 ^ n) } else b, true)
  else (a, false)

/-- The entries in order. -/
def ackAll (p : List Byte) : Nat → Nat → Attn → Attn × List Byte
  | 0, _, a => (a, [])
  | n + 1, k, a =>
      let r := ackOne a (byteAt p (8 * k)) (leAt p (8 * k + 4) 4)
      let t := ackAll p n (k + 1) r.1
      (t.1, (if r.2 then 1 else 0) :: t.2)

def ackAttnBody (p : List Byte) (s : State) : MmpOut :=
  let r := ackAll p (p.length / 8) 0 s.attn
  let models := if r.1.pending.getLsbD attnPLAN then s.models else s.models.map (fun m => { m with planOpen := false })
  ⟨{ s with attn := r.1, models := models }, .ok, false, r.2⟩

/-- ACK_ATTN (R421). -/
def execAckAttn (src : MmpSrc) (msg : List Byte) (s : State) : Host.Outcome State Fault Refusal :=
  .next (mmpRow 0x05 src msg ackAttnBody s)

/-! Islands and takeover (R373, R398, R418). -/

/-- `RESET_ISLAND` of one island: the start of its reset, or `BUSY` while it is resetting. An eclipsed site stays
eclipsed. -/
def resetIslandNow (s : State) (i : Island) : State × Res :=
  match i with
  | .hub => if s.hub.state = .off then (s, .busy) else (hubOff s, .ok)
  | .service t => if (s.svcIsl t).state = .off then (s, .busy) else (tileOff s t, .ok)
  | .compute t => if (s.compIsl t).state = .off then (s, .busy) else (tileOff s t, .ok)
  | .site n =>
      let x := s.site n
      if x.resetting || x.isl.state == .off then (s, .busy)
      else if canFence s n then (fence s n true false, .ok) else (s, .ok)
  | .aon | .stack _ | .capMem => (s, .mmpMalformed)

def resetIslandBody (p : List Byte) (s : State) : MmpOut :=
  match islandArg (leAt p 0 2) with
  | some i => let r := resetIslandNow s i; .plain r.1 r.2
  | none => .plain s .mmpMalformed

/-- RESET_ISLAND (R398, R418). -/
def execResetIsland (src : MmpSrc) (msg : List Byte) (s : State) : Host.Outcome State Fault Refusal :=
  .next (mmpRow 0x06 src msg resetIslandBody s)

/-- A takeover by request; a HUB that does not answer the MGC within 100 µs leaves all as it is (R373). -/
def forceTakeoverBody (_ : List Byte) (s : State) : MmpOut :=
  if s.tlc.pair.isNone then .plain s .notPaired
  else
    let a := respondsNow s 0x0C00
    if !a.1 then .plain a.2 .domainOff
    else
      let s1 := if s.tlc.linkUp then a.2.emit .yieldMsg else a.2
      .plain (if 1 ≤ s.tlc.tstate ∧ s.tlc.tstate ≤ 3 then takeover s1 else s1) .ok

/-- FORCE_TAKEOVER (R373, R418). -/
def execForceTakeover (src : MmpSrc) (msg : List Byte) (s : State) : Host.Outcome State Fault Refusal :=
  .next (mmpRow 0x07 src msg forceTakeoverBody s)

/-! Staging (R427, R430). `stage`: 0 IDLE, 1 ERASING, 2 RECEIVING, 3 VERIFYING, 4 STAGED, 5 REJECTED. -/

/-- The slot that is not running. -/
def inactive (m : Mgc) : Nat := 1 - m.image

def Mgc.slot (m : Mgc) (k : Nat) : FwSlot := if k = 0 then m.slotA else m.slotB
def Mgc.setSlot (m : Mgc) (k : Nat) (x : FwSlot) : Mgc := if k = 0 then { m with slotA := x } else { m with slotB := x }

/-- Number of 1 bits of `ROLLBACK`: the rollback floor (R427). -/
def rollbackFloor (d : Dev) : Nat := ((List.range 64).filter (fun k => d.rollback.getLsbD k)).length

/-- Ends a session or staged image. -/
def unstage (s : State) : State :=
  ({ s with mgc := { s.mgc with stage := 0, stageBytes := 0, received := [], erasing := false, stagedSlot := none } }).attnOff
    attnFIRMWARE

def stageDataBody (p : List Byte) (s : State) : MmpOut :=
  let m := s.mgc
  let b := p.drop 8
  if m.stage = 1 then .plain s .busy
  else if m.stage ≠ 2 ∨ leAt p 0 4 ≠ m.received.length ∨ m.stageBytes < m.received.length + b.length then .plain s .stageState
  else .plain { s with mgc := { m with received := m.received ++ b } } .ok

/-- STAGE_DATA (R430). -/
def execStageData (src : MmpSrc) (msg : List Byte) (s : State) : Host.Outcome State Fault Refusal :=
  .next (mmpRow 0x08 src msg stageDataBody s)

def stageFinishBody (_ : List Byte) (s : State) : MmpOut :=
  let m := s.mgc
  if m.stage = 2 ∧ m.received.length = m.stageBytes then .plain { s with mgc := { m with stage := 3 } } .ok
  else .plain s .stageState

/-- STAGE_FINISH (R430). -/
def execStageFinish (src : MmpSrc) (msg : List Byte) (s : State) : Host.Outcome State Fault Refusal :=
  .next (mmpRow 0x09 src msg stageFinishBody s)

/-- A discarded image cannot boot. -/
def discardStagedBody (_ : List Byte) (s : State) : MmpOut :=
  let m := s.mgc
  let gone := m.stage = 4
  let s1 := if gone then { s with mgc := m.setSlot (inactive m) { m.slot (inactive m) with verifies := false } } else s
  .plain (unstage s1) .ok

/-- DISCARD_STAGED (R430). -/
def execDiscardStaged (src : MmpSrc) (msg : List Byte) (s : State) : Host.Outcome State Fault Refusal :=
  .next (mmpRow 0x0A src msg discardStagedBody s)

/-- ERASE_COMPLETE (R427, R430). -/
def execEraseComplete (s : State) : Host.Outcome State Fault Refusal :=
  .next (if s.mgc.stage = 1 then { s with mgc := { s.mgc with stage := 2, erasing := false } } else s)

/-- Header checks of a received image (R429, R430). -/
def imageOk (d : Dev) (m : Mgc) : Bool :=
  let b := m.received
  leAt b 0 2 == 1 && decide (byteAt b 2 ≤ 64 ∧ rollbackFloor d ≤ byteAt b 2) && byteAt b 3 == 0 &&
  leAt b 8 4 == m.stageBytes && allZero b 14 50

/-- VERIFICATION_COMPLETE (R430): STAGED with ATTN `FIRMWARE`, or REJECTED. -/
def execVerificationComplete (signatureOk : Bool) (s : State) : Host.Outcome State Fault Refusal :=
  .next (
    let m := s.mgc
    if m.stage ≠ 3 then s
    else if signatureOk && imageOk s.dev m then
      let b := m.received
      let x : FwSlot := ⟨true, byteAt b 2, leAt b 4 4, byteAt b 12, byteAt b 13, 0⟩
      let n : Mgc := { m.setSlot (inactive m) x with stage := 4, stagedSlot := some x }
      ({ s with mgc := n }).attnOn attnFIRMWARE
    else { s with mgc := { m with stage := 5 } })

/-! Sealed commands (R422, R426, R427). -/

/-- The rule of R422: the presence kind that admits a command, button (0) or jumper (1), or the refusal. -/
def admission (s : State) (op : Nat) : Except Res Nat :=
  let lab := s.mgc.labJmp
  let broken := s.dev.sealBroken
  if op = 0x44 ∧ broken = true then .error .sealedLocked
  else if op = 0x42 ∧ lab = true then .error .presenceRequired
  else if s.mgc.windowOpen then .ok 0
  else if lab && !broken then .ok 1
  else if lab then .error .sealedLocked
  else .error .presenceRequired

def transportOf : MmpSrc → Nat
  | .udp _ => 0
  | .mctp _ => 1

/-- A sealed command: admitted, done, written to the presence record; only one that succeeds takes the window. -/
def sealedBody (op : Nat) (src : MmpSrc) (act : List Byte → State → State × Res) (p : List Byte) (s : State) : MmpOut :=
  match admission s op with
  | .error r => .plain s r
  | .ok kind =>
      let r := act p s
      let s1 := if r.2 = .ok ∧ kind = 0 then { r.1 with mgc := { r.1.mgc with windowOpen := false } } else r.1
      .plain { s1 with mgc := addPresence s1.mgc ⟨s1.dev.timeNs, op, transportOf src, kind, r.2.code⟩ } r.2

/-- `STAGE_FIRMWARE`: any staged image goes, the inactive slot is erased. -/
def stageFirmwareAct (p : List Byte) (s : State) : State × Res :=
  if s.mgc.captureBusy then (s, .busy)
  else
    let s1 := unstage s
    let m := s1.mgc
    let x := { m.slot (inactive m) with verifies := false }
    ({ s1 with mgc := { m.setSlot (inactive m) x with stage := 1, stageBytes := leAt p 0 4, erasing := true } }, .ok)

/-- STAGE_FIRMWARE (R427). -/
def execStageFirmware (src : MmpSrc) (msg : List Byte) (s : State) : Host.Outcome State Fault Refusal :=
  .next (mmpRow 0x40 src msg (sealedBody 0x40 src stageFirmwareAct) s)

def commitAct (_ : List Byte) (s : State) : State × Res :=
  if s.mgc.stage = 4 then (({ s with mgc := { s.mgc with preferred := inactive s.mgc } }).attnOff attnFIRMWARE, .ok)
  else (s, .stageState)

/-- COMMIT_FIRMWARE (R427). -/
def execCommitFirmware (src : MmpSrc) (msg : List Byte) (s : State) : Host.Outcome State Fault Refusal :=
  .next (mmpRow 0x41 src msg (sealedBody 0x41 src commitAct) s)

/-- The 60 bytes of a pairing record that its CRC covers (R359). -/
def PairRec.head (p : PairRec) : List Byte :=
  toLE 2 1 ++ toLE 1 p.role ++ toLE 1 p.mode ++ toLE 8 p.ownSerial.toNat ++ toLE 8 p.twinSerial.toNat ++
  toLE 2 p.ownCoord.toNat ++ toLE 2 p.twinCoord.toNat ++ List.replicate 36 0

/-- The pairing record as boot flash holds it. -/
def PairRec.bytes (p : PairRec) : List Byte := p.head ++ toLE 4 (crc32c p.head)

/-- A record read from boot flash; none when its version, reserved bytes or CRC are wrong. -/
def parseRec (b : List Byte) : Option PairRec :=
  if b.length = 64 ∧ leAt b 0 2 = 1 ∧ allZero b 24 36 = true ∧ leAt b 60 4 = crc32c (b.take 60) then
    some { role := byteAt b 2, mode := byteAt b 3, ownSerial := BitVec.ofNat 64 (leAt b 4 8),
           twinSerial := BitVec.ofNat 64 (leAt b 12 8), ownCoord := BitVec.ofNat 15 (leAt b 20 2),
           twinCoord := BitVec.ofNat 15 (leAt b 22 2) }
  else none

def pairAct (p : List Byte) (s : State) : State × Res :=
  let rec' : PairRec :=
    { role := byteAt p 0, mode := byteAt p 1, ownSerial := s.dev.serial, twinSerial := BitVec.ofNat 64 (leAt p 4 8),
      ownCoord := s.dev.straps, twinCoord := BitVec.ofNat 15 (leAt p 2 2) }
  ({ s with tlc := { s.tlc with recFlash := some rec'.bytes } }, .ok)

/-- PAIR_TWIN (R359, R427). -/
def execPairTwin (src : MmpSrc) (msg : List Byte) (s : State) : Host.Outcome State Fault Refusal :=
  .next (mmpRow 0x42 src msg (sealedBody 0x42 src pairAct) s)

def unpairAct (_ : List Byte) (s : State) : State × Res := ({ s with tlc := { s.tlc with recFlash := none } }, .ok)

/-- UNPAIR (R427). -/
def execUnpair (src : MmpSrc) (msg : List Byte) (s : State) : Host.Outcome State Fault Refusal :=
  .next (mmpRow 0x43 src msg (sealedBody 0x43 src unpairAct) s)

/-- Bits set in one 32-bit half of a fuse field. -/
def burn (d : DWord) (high : Bool) (v : Nat) : DWord := d ||| BitVec.ofNat 64 (if high then v * 2 ^ 32 else v)

def fusesAct (p : List Byte) (s : State) : State × Res :=
  let w := byteAt p 0
  let v := leAt p 4 4
  (if w < 2 then { s with dev := { s.dev with assetTag := burn s.dev.assetTag (w == 1) v } }
   else { s with dev := { s.dev with rollback := burn s.dev.rollback (w == 3) v } }, .ok)

/-- PROGRAM_FUSES (R427). -/
def execProgramFuses (src : MmpSrc) (msg : List Byte) (s : State) : Host.Outcome State Fault Refusal :=
  .next (mmpRow 0x44 src msg (sealedBody 0x44 src fusesAct) s)

/-- What a capture holds (R404). -/
def captureOf (s : State) : Capture :=
  { logs := s.logs, units := s.wear.units, history := s.wear.history, hours := s.sites.map (fun x => (x.1, x.2.poweredHours, x.2.hotHours)),
    eclipses := s.dev.eclipsedFlash, sealBroken := s.dev.sealBroken, assetTag := s.dev.assetTag,
    rollback := s.dev.rollback, bootCount := s.dev.bootCount, imageA := s.mgc.slotA, imageB := s.mgc.slotB }

def freezeAct (_ : List Byte) (s : State) : State × Res :=
  if s.mgc.captureBusy then (s, .busy)
  else ({ s with mgc := { s.mgc with captureBusy := true, capture := some (captureOf s) } }, .ok)

/-- FREEZE_CAPTURE (R404, R427). -/
def execFreezeCapture (src : MmpSrc) (msg : List Byte) (s : State) : Host.Outcome State Fault Refusal :=
  .next (mmpRow 0x45 src msg (sealedBody 0x45 src freezeAct) s)

/-- CAPTURE_WRITTEN (R404): the logs take entries again. -/
def execCaptureWritten (s : State) : Host.Outcome State Fault Refusal :=
  .next { s with mgc := { s.mgc with captureBusy := false } }

def clearRecordAct (_ : List Byte) (s : State) : State × Res :=
  ({ s with mgc := { s.mgc with presence := [], admitted := 0 } }, .ok)

/-- CLEAR_PRESENCE_RECORD (R426): the command becomes the first entry of the new record. -/
def execClearPresenceRecord (src : MmpSrc) (msg : List Byte) (s : State) : Host.Outcome State Fault Refusal :=
  .next (mmpRow 0x46 src msg (sealedBody 0x46 src clearRecordAct) s)

end Sys2Proof.Machine
end

