-- ==== Sys2Proof/Machine/Boot.lean ====
section
/-! DEFINITION. Resets and boot (R431 to R434, R471, R472): what `PORST_N` and `WARMRST_N` reset, what flash, fuses
and pins keep, and the boot steps up to READY. A boot is one command; its length is part of its report (log 36). -/

namespace Sys2Proof.Machine

/-! Resets (R471). -/

/-- What a site keeps in boot flash. -/
def keptSite (n : Nat) (x : Site) : Site := { Site.reset n with savedHours := x.savedHours }

/-- Everything reset, with what boot flash, fuses, straps and pins keep (R402, R425 to R428, R467); an unfinished return
capture reads as none. -/
def powerOnState (s : State) : State :=
  let d := s.dev
  let m := s.mgc
  let t := s.tlc
  let dev : Dev := { Dev.reset with
    revMinor := d.revMinor, revMajor := d.revMajor, capMem := d.capMem, stkSize := d.stkSize, grade := d.grade,
    serial := d.serial, bootCount := d.bootCount, strapPins := d.strapPins, sealBroken := d.sealBroken,
    assetTag := d.assetTag, rollback := d.rollback, eclipsedFlash := d.eclipsedFlash, poolFlash := d.poolFlash }
  let mgc : Mgc := { Mgc.reset with
    slotA := m.slotA, slotB := m.slotB, preferred := m.preferred, presence := m.presence, admitted := m.admitted,
    capture := if m.captureBusy then none else m.capture, btnArmed := m.btnArmed, labJmp := m.labJmp,
    sealClosed := m.sealClosed }
  { State.reset with
    pending := s.pending
    freeCtr := s.freeCtr
    egress := s.egress
    dev := dev
    mgc := mgc
    sites := s.sites.map (fun x => (x.1, keptSite x.1 x.2))
    parts := s.parts.map (fun x => (x.1, { Partition.reset with dieFailed := x.2.dieFailed }))
    fre := { Fre.reset with torusFlash := s.fre.torusFlash }
    tlc := { Tlc.reset with
      recFlash := t.recFlash, epoch := t.epoch, aliveIn := t.aliveIn, ownAddrs := t.ownAddrs, twinAddrs := t.twinAddrs }
    pwr := { Pwr.reset with
      vcurve := s.pwr.vcurve, vcur := List.replicate 4 (curveAt s.pwr.vcurve 0), vrun := List.replicate 4 (curveAt s.pwr.vcurve 0) }
    wear := { Wear.reset with history := s.wear.history, pastNs := s.wear.pastNs + s.dev.timeNs } }

/-- PORST_N (R471). -/
def execPorstN (s : State) : Host.Outcome State Fault Refusal := .next (powerOnState s)

/-- An island OFF with the epoch it had. -/
def offIsl (x : Isl) : Isl := { x with state := .off }

/-- A site at a warm reset: its hours are AON's; an eclipsed site stays so. -/
def warmSite (n : Nat) (x : Site) : Site :=
  let y := { Site.reset n with
    savedHours := x.savedHours, poweredHours := x.poweredHours, hotHours := x.hotHours, ringPpm := x.ringPpm, lcore := x.lcore }
  { y with isl := if x.isl.state = .eclipsed then x.isl else offIsl x.isl }

/-- Every island but AON reset; contents of every memory lost (R471). `TWIN_ALIVE_OUT` is held still. -/
def warmState (s : State) : State :=
  let t := s.tlc
  { s with
    dev := { s.dev with warmLow := true, ready := false, clkLock := s.dev.clkLock &&& 0x3000 }
    ms := { MemSys.reset with scratchGib := s.ms.scratchGib, fcGib := s.ms.fcGib }
    hub := offIsl s.hub
    svc := s.svc.map offIsl
    comp := s.comp.map offIsl
    stk := s.stk.map offIsl
    capMem := offIsl s.capMem
    sites := s.sites.map (fun x => (x.1, warmSite x.1 x.2))
    parts := s.parts.map (fun x => (x.1, { Partition.reset with dieFailed := x.2.dieFailed }))
    clusters := s.clusters.map (fun c => (c.1, { c.2 with credits := 512, queue := [], collector := [], csc := [] }))
    hdrs := s.hdrs.filter (fun h => (islandPages .aon).contains h.1)
    latches := s.latches.filter (fun l => (islandPages .aon).contains l.2.1)
    conns := []
    ctxs := []
    cmds := []
    models := []
    graphs := []
    holds := []
    fre := { Fre.reset with torusFlash := s.fre.torusFlash, torus := s.fre.torus }
    tlc := { Tlc.reset with
      recFlash := t.recFlash, pair := t.pair, epoch := t.epoch, aliveIn := t.aliveIn, ownAddrs := t.ownAddrs,
      twinAddrs := t.twinAddrs, protocol := t.protocol, aliveOut := t.aliveOut }
    vcc := Vcc.reset
    jmpAddr := 0
    jmpJumps := Ctr48.zero
    retryPending := []
    cmdCache := []
    turns := [0, 0, 0, 0]
    collNext := 0 }

/-- WARMRST_N (R471): shorter than 1 µs, under `PORST_N` or after a thermal trip it is ignored. -/
def execWarmrstN (lowNs : Nat) (s : State) : Host.Outcome State Fault Refusal :=
  .next (if lowNs < 1000 ∨ s.dev.porstLow = true ∨ s.dev.thermtrip = true then s else warmState s)

/-! Boot steps (R433, R434). -/

/-- A failed attempt at a step is logged (R481). -/
def logStep (s : State) (k attempt : Nat) : State := s.logNote 0x0100 0x1C (k + attempt * 16)

/-- Reaches step `k`: false when it fails twice, which halts the boot there with ATTN `ERRLOG`. -/
def enterStep (r : BootReport) (k : Nat) (s : State) : State × Bool :=
  let s1 := { s with mgc := { s.mgc with step := k } }
  let fails := if k = 5 ∨ k = 7 then 0 else if k = 4 ∧ (s.dev.capMem = 0 ∨ 3 ≤ s.dev.capMem) then 2 else r.stepFailures.getD k 0
  if fails = 0 then (s1, true)
  else
    let s2 := logStep s1 k 1
    if fails = 1 then (s2, true)
    else
      let s3 := (logStep s2 k 2).attnEvent attnERRLOG
      let m := s3.mgc
      let x := m.slot m.image
      let n := if 3 ≤ k then m.setSlot m.image { x with failedBoots := x.failedBoots + 1 } else m
      ({ s3 with mgc := { n with halted := true } }, false)

/-! Step 2: the image (R428, R431). -/

/-- Whether a slot's image verifies: signature and rollback floor. -/
def slotVerifies (s : State) (r : BootReport) (k : Nat) : Bool :=
  let x := s.mgc.slot k
  x.verifies && (if k = 0 then r.slotAVerifies else r.slotBVerifies) && decide (rollbackFloor s.dev ≤ x.secEpoch)

/-- The slot that boots; none when neither verifies. A slot that failed to reach READY twice in succession is skipped
for one that verifies. -/
def chooseSlot (s : State) (r : BootReport) : Option Nat :=
  let p := s.mgc.preferred
  let good (k : Nat) : Bool := slotVerifies s r k && decide ((s.mgc.slot k).failedBoots < 2)
  if good p then some p
  else if slotVerifies s r (1 - p) then some (1 - p)
  else if slotVerifies s r p then some p
  else none

/-- The chosen image runs; a skipped slot is logged with ATTN `ERRLOG`. -/
def runImage (s : State) (k : Nat) : State :=
  let skipped := k ≠ s.mgc.preferred
  let s1 := { s with mgc := { s.mgc with image := k, fallback := decide skipped, fwVersion := word (s.mgc.slot k).fwVersion } }
  if skipped then (s1.logNote 0x0100 0x1D s.mgc.preferred).attnEvent attnERRLOG else s1

/-! Steps 3 to 5. -/

/-- Pool sizes at a cold boot (R215): out of range they are logged and the defaults apply. -/
def loadPools (s : State) : State :=
  let w := (poolCfg s).toNat
  let sc := w % 256
  let fc := w / 256 % 256
  if 1 ≤ sc ∧ sc ≤ 16 ∧ fc ≤ 48 ∧ sc + fc ≤ 56 then { s with ms := { s.ms with scratchGib := sc, fcGib := fc } }
  else { s.logNote 0x0810 0x25 w with ms := { s.ms with scratchGib := 4, fcGib := 8 } }

/-- Step 3: the hub with its PLLs. -/
def bootHub (s : State) : State := powerUp (setLocks s [8, 9, 11]) .hub false

/-- Step 4: stacks, SERVICE islands, capacity memory. -/
def bootStacks (s : State) : State :=
  let s1 := (List.range 4).foldl (fun s t =>
    powerUp (setLocks (seedStack (powerUp s (.stack t) false) t) [4 + t]) (.service t) false) s
  powerUp s1 .capMem false

/-- An eclipse recorded in flash: the site stays ECLIPSED, its moon keeps the logical id (R385). -/
def loadEclipse (s : State) (n : Nat) : State :=
  let x := s.site n
  let cl := n / 16
  let s1 := s.setSite n { x with isl := { x.isl with state := .eclipsed }, lcore := none }
  let s2 := s1.setHdr (0x0500 + n) { bootHdr (0x0500 + n) with eclipse := true }
  let c := s2.cluster cl
  let s3 := if n % 16 = 15 then s2.setCluster cl { c with moonFree := false } else s2
  match x.lcore with
  | none => s3
  | some l => if n % 16 ≠ 15 ∧ c.moonFree = true then moonTakes s3 cl l else becomesAbsent s3 cl l

/-- Step 5: the recorded eclipses, then every other site that passes its self-test, then those that fail it (R382). -/
def bootSites (s : State) (failed : List Nat) : State :=
  let fresh := (List.range 256).foldl (fun s n =>
    s.setSite n { s.site n with lcore := (Site.reset n).lcore, isl := offIsl (s.site n).isl }) { s with clusters := [] }
  let s1 := s.dev.eclipsedFlash.foldl loadEclipse fresh
  let s2 := (List.range 4).foldl (fun s t => setLocks (returnOn s (.compute t)) [t]) s1
  let bad (n : Nat) : Bool := failed.contains n
  let off (s : State) (n : Nat) : Bool := (s.site n).isl.state == .off
  let s3 := (List.range 256).foldl (fun s n => if off s n && !bad n then siteBack s n else s) s2
  (List.range 256).foldl (fun s n => if off s n && bad n then siteFails s n else s) s3

/-! Step 7: the twin (R359, R360, R376, R432, R434). -/

/-- The handshake with a twin that answers and matches. -/
def handshake (s : State) (r : BootReport) (p : PairRec) : State :=
  let proto := commonProtocol (s.runningSlot) r.twinMirrorMin r.twinMirrorMax
  let s1 := updTlc s (fun t => { t with pair := some p, protocol := proto, aliveIn := true, handedBack := [] })
  if proto.isNone then (updTlc s1 (fun t => { t with tstate := 3, linkUp := true, away := r.twinWasRunning })).attnOn attnTWIN
  else if r.twinWasRunning then updTlc s1 (fun t => { t with tstate := 1, away := true })
  else updTlc s1 (fun t => { t with tstate := 2, linkUp := true, epoch := t.epoch + 1 })

/-- Whether the record names this Parvon. -/
def recordValid (s : State) (p : PairRec) : Bool := p.ownSerial == s.dev.serial && decide (p.role ≤ 1 ∧ p.mode ≤ 1)

/-- READY (R433): CM REQs are accepted at the front-end addresses, which are known from here on; the slot's failed-boot count
returns to 0. -/
def makeReady (s0 : State) : State :=
  let s := learnAddrs s0
  let m := s.mgc
  { s with
    dev := { s.dev with ready := true }
    mgc := { m.setSlot m.image { m.slot m.image with failedBoots := 0 } with step := 8, readyMs := min 65535 (s.dev.timeNs / 1000000) } }

/-- Time passes. -/
def spend (s : State) (ns : Nat) : State := { s with dev := { s.dev with timeNs := s.dev.timeNs + ns } }

/-- Steps 7 and 8. With a valid record and no answer the boot waits at step 7 for `TWIN_HANDSHAKE_TIMEOUT`. -/
def bootTwin (s : State) (r : BootReport) : State :=
  let s1 := { s with mgc := { s.mgc with step := 7 } }
  let finish (s : State) : State := makeReady (spend (checkCoord s) (1000000 * r.readyMs))
  match s1.tlc.recFlash, s1.tlc.recFlash.bind parseRec with
  | none, _ => finish (updTlc s1 (fun t => { t with pair := none, tstate := 0 }))
  | some _, none => finish (runsUnpaired s1)
  | some _, some p =>
      if !recordValid s1 p then finish (runsUnpaired s1)
      else if !r.twinAnswers then updTlc s1 (fun t => { t with pair := some p })
      else if pairFits p r.twinSerial r.twinNames r.twinRole r.twinMode then finish (handshake s1 r p)
      else finish (runsUnpaired s1)

/-- TWIN_HANDSHAKE_TIMEOUT (R434): the Parvon serves alone with ATTN `TWIN_DEGRADED`. -/
def execTwinHandshakeTimeout (s : State) : Host.Outcome State Fault Refusal :=
  .next (
    if s.mgc.step = 7 ∧ s.dev.ready = false ∧ s.mgc.halted = false then
      (makeReady (spend (checkCoord (updTlc s (fun t => { t with tstate := 3 }))) 1500000000)).attnOn attnTWIN
    else s)

/-- Steps 3 to 8. -/
def bootFrom3 (s : State) (r : BootReport) : State :=
  match enterStep r 3 s with
  | (s1, false) => s1
  | (s1, true) =>
    match enterStep r 4 (bootHub s1) with
    | (s2, false) => s2
    | (s2, true) =>
      let s3 := lockPages (bootSites (enterStep r 5 (bootStacks s2)).1 r.failedSites)
      match enterStep r 6 s3 with
      | (s4, false) => s4
      | (s4, true) => bootTwin (setLocks s4 [10]) r

/-- COLD_BOOT (R433, R472): at the release of `PORST_N` the straps are sampled, time starts at 0, AON comes up. -/
def execColdBoot (report : BootReport) (s : State) : Host.Outcome State Fault Refusal :=
  .next (
    if s.dev.porstLow = false then s
    else
      let d := s.dev
      let s0 := { s with dev := { d with porstLow := false, timeNs := 0, straps := d.strapPins, bootCount := satInc32 d.bootCount } }
      let hours := s0.sites.map (fun x => (x.1, { x.2 with poweredHours := x.2.savedHours.1, hotHours := x.2.savedHours.2 }))
      let s1 := { s0 with sites := hours, aonEpoch := s0.aonEpoch + 1 }
      match enterStep report 0 (setLocks s1 [13]) with
      | (s2, false) => s2
      | (s2, true) =>
        match enterStep report 1 (setLocks s2 [12]) with
        | (s3, false) => s3
        | (s3, true) =>
          match enterStep report 2 s3 with
          | (s4, false) => s4
          | (s4, true) =>
            match chooseSlot s4 report with
            | none => { s4 with mgc := { s4.mgc with recovery := true } }
            | some k =>
                let s5 := loadPools (firmwareHdrs (runImage s4 k) .aon)
                bootFrom3 { s5 with fre := { s5.fre with torus := s5.fre.torusFlash.getD 0 } } report)

/-- WARM_BOOT_START (R471): boot from step 3, with the image that runs. -/
def execWarmBootStart (report : BootReport) (s : State) : Host.Outcome State Fault Refusal :=
  .next (
    if s.dev.warmLow = false ∨ s.dev.porstLow = true then s
    else
      let s1 := { s with dev := { s.dev with warmLow := false } }
      if s1.mgc.recovery ∨ (s1.mgc.halted = true ∧ s1.mgc.step < 3) then s1
      else bootFrom3 { s1 with mgc := { s1.mgc with halted := false } } report)

end Sys2Proof.Machine
end

