-- ==== Sys2Proof/Machine/Ambient.lean ====
section
/-! DEFINITION. What comes of itself and no command brings: errors that the codes correct or report as memory is read, and the
marks of congestion on received packets (R72, R192, R195, R198, R262, R379). An idle cycle takes one by free choice, or none
(log 49). -/

namespace Sys2Proof.Machine

/-- The entry of a list that a free number picks. -/
def pick {α : Type} (l : List α) (n : Nat) : Option α := l[n % max 1 l.length]?

/-- A single-bit error of an LSM, corrected (R72). -/
def lsmError (s : State) (n at' : Nat) : State :=
  if answers s (0x0500 + n) then s.logError (0x0500 + n) 0 0x01 0 (0x010000000000 + n * 0x400000 + at' % 0x400000) else s

/-- An error in a line of a CSC: a single bit is corrected; a line with two is dropped and fetched again, which counts as
corrected (R379). -/
def cscError (s : State) (cl at' : Nat) (double : Bool) : State :=
  let c := s.cluster cl
  match pick c.csc at' with
  | some l =>
      if answers s (0x0400 + cl) = false then s
      else
        let s1 := s.logError (0x0400 + cl) 0 (if double then 0x02 else 0x01) 0 (l * 128)
        if double then s1.setCluster cl { c with csc := c.csc.filter (· != l) } else s1
  | none => s

/-- A slot of a submission ring that no longer passes the header check (R275, R379). -/
def Conn.spoil (c : Conn) (k : Nat) : Conn :=
  { c with ring := c.ring.map (fun r => if r.1 = k then (k, List.replicate 64 0) else r) }

/-- A double-bit error in HSR (R379): segments of the command cache and copies of tables are loaded again, a slot of a ring is lost,
and a request whose context it hits ends. -/
def hsrDouble (s : State) (place which : Nat) : State :=
  let pa := 0x020000000000 + which % 0x4000000
  match place % 4 with
  | 0 => if s.cmdCache.isEmpty then s else s.logError 0x0200 0 0x02 0 pa
  | 1 => { (s.logError 0x0810 0 0x02 0 pa) with ms := reloadTables s.ms }
  | 2 =>
      match pick (s.conns.flatMap (fun c => c.ring.map (fun r => (c.id, r.1)))) which with
      | some (k, slot) => (s.logError 0x0200 1 0x02 0 pa).updConn k (fun c => c.spoil slot)
      | none => s
  | _ =>
      match pick s.ctxs which with
      | some x => stopReq (s.logError 0x0200 1 0x02 Res.memoryUncorrected.code pa) x.num .memoryUncorrected
      | none => s

/-- An error in HSR. -/
def hsrError (s : State) (double : Bool) (place which : Nat) : State :=
  if s.hub.state ≠ .on then s
  else if double then hsrDouble s place which
  else s.logError 0x0200 0 0x01 0 (0x020000000000 + which % 0x4000000)

/-- A line of stacked memory read with symbol errors that the code corrects (R195). -/
def stackError (s : State) (at' die n : Nat) : State :=
  let line := at' % 0x1000000000 / 64 * 64
  let p := paPartition line
  let e : LineErr := ⟨line, [(die % 10, n % 8 + 1)]⟩
  if (s.stkIsl (p / 64)).state = .on ∧ correctable (s.part p).dieFailed e = true ∧ s.ms.badLines.contains line = false then
    correctLine s p e
  else s

/-- A link error of capacity memory (R198): a retry mends it, or it persists and the accesses of its line fail, until the link
carries the line again. -/
def capError (s : State) (at' kind : Nat) : State :=
  let size := capEnd s.dev.capMem - 0x400000000000
  let line := 0x400000000000 + at' % size / 64 * 64
  let log (s : State) (pa : Nat) : State := s.logError 0x0900 0 0x07 0 pa
  if s.hub.state ≠ .on ∨ s.capMem.state ≠ .on ∨ size = 0 then s
  else match kind % 3 with
    | 0 => log s line
    | 1 => if s.ms.badLines.contains line then s
           else { (log s line) with ms := { s.ms with badLines := s.ms.badLines ++ [line] } }
    | _ =>
        match pick (s.ms.badLines.filter (fun l => decide (0x400000000000 ≤ l))) at' with
        | some l => { (log s l) with ms := { s.ms with badLines := s.ms.badLines.filter (· != l) } }
        | none => s

/-- A packet with an ECN mark on a queue pair: the Parvon returns a CNP (R262). -/
def ecnMark (s : State) (which : Nat) : State :=
  match pick ((s.conns.filter Conn.attached).flatMap (fun c => (List.range (1 + c.joined)).map (fun q => (c.id, q)))) which with
  | some (k, q) => if s.hub.state = .on then s.emit (.cnp k q) else s
  | none => s

/-- One of these, or nothing, by free choice. -/
def ambient (s : State) : State :=
  let a (k : Nat) : Nat := Config.free (s.freeCtr + k)
  let s0 := { s with freeCtr := s.freeCtr + 4 }
  match a 0 % 9 with
  | 0 => lsmError s0 (a 1 % 256) (a 2)
  | 1 => cscError s0 (a 1 % 16) (a 2) false
  | 2 => cscError s0 (a 1 % 16) (a 2) true
  | 3 => hsrError s0 false 0 (a 1)
  | 4 => hsrError s0 true (a 1) (a 2)
  | 5 => stackError s0 (a 1) (a 2) (a 3)
  | 6 => capError s0 (a 1) (a 2)
  | 7 => ecnMark s0 (a 1)
  | _ => s0

/-- An idle cycle: time passes, and what comes of itself may come; in power-on reset nothing does. -/
def idleCycle (s : State) : State := if s.dev.porstLow then s else ambient (idleTick s)

end Sys2Proof.Machine
end

