-- ==== Sys2Proof/Machine/Dispatch.lean ====
section
/-! DEFINITION. The meaning of every command, one arm each. -/

namespace Sys2Proof.Machine

/-- A command's effect on everything but the queue. -/
def exec (i : Instr) (s : State) : Host.Outcome State Fault Refusal :=
  match i with
  | .matmul cmd => Sys2Proof.Machine.execMatmul cmd s
  | .conv cmd => Sys2Proof.Machine.execConv cmd s
  | .pool cmd => Sys2Proof.Machine.execPool cmd s
  | .attnFwd cmd => Sys2Proof.Machine.execAttnFwd cmd s
  | .attnBwd cmd => Sys2Proof.Machine.execAttnBwd cmd s
  | .norm cmd => Sys2Proof.Machine.execNorm cmd s
  | .softmax cmd => Sys2Proof.Machine.execSoftmax cmd s
  | .vecChain cmd => Sys2Proof.Machine.execVecChain cmd s
  | .sampleStep cmd => Sys2Proof.Machine.execSampleStep cmd s
  | .rngFill cmd => Sys2Proof.Machine.execRngFill cmd s
  | .sampleTokens cmd => Sys2Proof.Machine.execSampleTokens cmd s
  | .boxDecode cmd => Sys2Proof.Machine.execBoxDecode cmd s
  | .nms cmd => Sys2Proof.Machine.execNms cmd s
  | .kvScatter cmd => Sys2Proof.Machine.execKvScatter cmd s
  | .fork cmd => Sys2Proof.Machine.execFork cmd s
  | .release cmd => Sys2Proof.Machine.execRelease cmd s
  | .copy cmd => Sys2Proof.Machine.execCopy cmd s
  | .gatherRows cmd => Sys2Proof.Machine.execGatherRows cmd s
  | .allReduce cmd => Sys2Proof.Machine.execAllReduce cmd s
  | .reduceScatter cmd => Sys2Proof.Machine.execReduceScatter cmd s
  | .allGather cmd => Sys2Proof.Machine.execAllGather cmd s
  | .allToAll cmd => Sys2Proof.Machine.execAllToAll cmd s
  | .broadcast cmd => Sys2Proof.Machine.execBroadcast cmd s
  | .barrier cmd => Sys2Proof.Machine.execBarrier cmd s
  | .codecDec cmd pic => Sys2Proof.Machine.execCodecDec cmd pic s
  | .codecEnc cmd coded => Sys2Proof.Machine.execCodecEnc cmd coded s
  | .nop ctx => Sys2Proof.Machine.execNop ctx s
  | .orbitBegin ctx => Sys2Proof.Machine.execOrbitBegin ctx s
  | .orbitEnd ctx => Sys2Proof.Machine.execOrbitEnd ctx s
  | .setPred ctx => Sys2Proof.Machine.execSetPred ctx s
  | .jumpIf ctx => Sys2Proof.Machine.execJumpIf ctx s
  | .waitEvent ctx => Sys2Proof.Machine.execWaitEvent ctx s
  | .signalEvent ctx => Sys2Proof.Machine.execSignalEvent ctx s
  | .callGraph ctx => Sys2Proof.Machine.execCallGraph ctx s
  | .ret ctx => Sys2Proof.Machine.execRet ctx s
  | .prefetch ctx => Sys2Proof.Machine.execPrefetch ctx s
  | .fence ctx => Sys2Proof.Machine.execFence ctx s
  | .scalarOp ctx => Sys2Proof.Machine.execScalarOp ctx s
  | .timestamp ctx => Sys2Proof.Machine.execTimestamp ctx s
  | .commandIssue ctx => Sys2Proof.Machine.execCommandIssue ctx s
  | .partCommit cmd cluster => Sys2Proof.Machine.execPartCommit cmd cluster s
  | .tileDispatch site => Sys2Proof.Machine.execTileDispatch site s
  | .tileComplete site valid starve block => Sys2Proof.Machine.execTileComplete site valid starve block s
  | .partComplete cmd cluster => Sys2Proof.Machine.execPartComplete cmd cluster s
  | .commandComplete cmd => Sys2Proof.Machine.execCommandComplete cmd s
  | .checkpointCommit ctx => Sys2Proof.Machine.execCheckpointCommit ctx s
  | .runGraph ctx => Sys2Proof.Machine.execRunGraph ctx s
  | .inputsPlaced ctx data => Sys2Proof.Machine.execInputsPlaced ctx data s
  | .graphEnd ctx => Sys2Proof.Machine.execGraphEnd ctx s
  | .outputsAcknowledged ctx => Sys2Proof.Machine.execOutputsAcknowledged ctx s
  | .instanceAcquire ctx => Sys2Proof.Machine.execInstanceAcquire ctx s
  | .loadModel ctx manifest weights => Sys2Proof.Machine.execLoadModel ctx manifest weights s
  | .unloadModel ctx => Sys2Proof.Machine.execUnloadModel ctx s
  | .storeGraph ctx image => Sys2Proof.Machine.execStoreGraph ctx image s
  | .patchGraph ctx image => Sys2Proof.Machine.execPatchGraph ctx image s
  | .abort src => Sys2Proof.Machine.execAbort src s
  | .flush src => Sys2Proof.Machine.execFlush src s
  | .queryPlan src => Sys2Proof.Machine.execQueryPlan src s
  | .query src => Sys2Proof.Machine.execQuery src s
  | .doorbell conn slots sqTail cqHead => Sys2Proof.Machine.execDoorbell conn slots sqTail cqHead s
  | .itemConsume conn => Sys2Proof.Machine.execItemConsume conn s
  | .connectionSetup req => Sys2Proof.Machine.execConnectionSetup req s
  | .resume req => Sys2Proof.Machine.execResume req s
  | .connectionClose conn => Sys2Proof.Machine.execConnectionClose conn s
  | .unattachedConnectionExpiry conn => Sys2Proof.Machine.execUnattachedConnectionExpiry conn s
  | .copyComplete cmd va => Sys2Proof.Machine.execCopyComplete cmd va s
  | .workPageMapped cmd va => Sys2Proof.Machine.execWorkPageMapped cmd va s
  | .walkComplete tlb va write => Sys2Proof.Machine.execWalkComplete tlb va write s
  | .stagingCopyComplete cmd => Sys2Proof.Machine.execStagingCopyComplete cmd s
  | .poolPageZeroFill page => Sys2Proof.Machine.execPoolPageZeroFill page s
  | .scrub partition corrected uncorrectable marginPct => Sys2Proof.Machine.execScrub partition corrected uncorrectable marginPct s
  | .dieMarkedFailed partition die => Sys2Proof.Machine.execDieMarkedFailed partition die s
  | .reductionSlotGrant cmd => Sys2Proof.Machine.execReductionSlotGrant cmd s
  | .codecEngineStart encode => Sys2Proof.Machine.execCodecEngineStart encode s
  | .ctuBudgetExpiry engine => Sys2Proof.Machine.execCtuBudgetExpiry engine s
  | .frameBudgetExpiry engine => Sys2Proof.Machine.execFrameBudgetExpiry engine s
  | .frameBoundary cmd => Sys2Proof.Machine.execFrameBoundary cmd s
  | .holdDeadline cmd layer => Sys2Proof.Machine.execHoldDeadline cmd layer s
  | .digest group tag rank value => Sys2Proof.Machine.execDigest group tag rank value s
  | .go group tag inputs residue => Sys2Proof.Machine.execGo group tag inputs residue s
  | .mismatch group tag => Sys2Proof.Machine.execMismatch group tag s
  | .abandon group tag => Sys2Proof.Machine.execAbandon group tag s
  | .handshakeTimeout group tag => Sys2Proof.Machine.execHandshakeTimeout group tag s
  | .dataTimeout group tag => Sys2Proof.Machine.execDataTimeout group tag s
  | .collectiveAbort group tag code => Sys2Proof.Machine.execCollectiveAbort group tag code s
  | .frameCrcError link frame => Sys2Proof.Machine.execFrameCrcError link frame s
  | .linkTraining link far => Sys2Proof.Machine.execLinkTraining link far s
  | .aliasAnnouncement failed survivor => Sys2Proof.Machine.execAliasAnnouncement failed survivor s
  | .heartbeat => Sys2Proof.Machine.execHeartbeat s
  | .linkLoss => Sys2Proof.Machine.execLinkLoss s
  | .sidebandLoss => Sys2Proof.Machine.execSidebandLoss s
  | .restoreComplete ctx => Sys2Proof.Machine.execRestoreComplete ctx s
  | .addressConflict addr => Sys2Proof.Machine.execAddressConflict addr s
  | .yieldMsg => Sys2Proof.Machine.execYieldMsg s
  | .linkReturn twin => Sys2Proof.Machine.execLinkReturn twin s
  | .resyncReadRetry => Sys2Proof.Machine.execResyncReadRetry s
  | .addressHandBack addr => Sys2Proof.Machine.execAddressHandBack addr s
  | .immediateEclipse site type => Sys2Proof.Machine.execImmediateEclipse site type s
  | .eclipseWritesDelivered site => Sys2Proof.Machine.execEclipseWritesDelivered site s
  | .tileTimeLimit site => Sys2Proof.Machine.execTileTimeLimit site s
  | .lsmErrorLimit site => Sys2Proof.Machine.execLsmErrorLimit site s
  | .gracefulEclipse site => Sys2Proof.Machine.execGracefulEclipse site s
  | .fatalError island type => Sys2Proof.Machine.execFatalError island type s
  | .messageParityError page sender => Sys2Proof.Machine.execMessageParityError page sender s
  | .islandReturn island selfTestOk => Sys2Proof.Machine.execIslandReturn island selfTestOk s
  | .quiesceComplete page => Sys2Proof.Machine.execQuiesceComplete page s
  | .quiesceTimeout site => Sys2Proof.Machine.execQuiesceTimeout site s
  | .wakeComplete island ok => Sys2Proof.Machine.execWakeComplete island ok s
  | .park tile => Sys2Proof.Machine.execPark tile s
  | .pllLockLoss bit => Sys2Proof.Machine.execPllLockLoss bit s
  | .tideGovernorTick sample => Sys2Proof.Machine.execTideGovernorTick sample s
  | .avsCurrentRead rail ok currentMa => Sys2Proof.Machine.execAvsCurrentRead rail ok currentMa s
  | .thermtrip => Sys2Proof.Machine.execThermtrip s
  | .telemetryThreshold k => Sys2Proof.Machine.execTelemetryThreshold k s
  | .shadowRefresh silent => Sys2Proof.Machine.execShadowRefresh silent s
  | .sealCheck closed => Sys2Proof.Machine.execSealCheck closed s
  | .presenceWindowOpen => Sys2Proof.Machine.execPresenceWindowOpen s
  | .presenceWindowExpiry => Sys2Proof.Machine.execPresenceWindowExpiry s
  | .labJmpChange fitted => Sys2Proof.Machine.execLabJmpChange fitted s
  | .logEntryClose domain => Sys2Proof.Machine.execLogEntryClose domain s
  | .ringOscillatorMeasure site ppm => Sys2Proof.Machine.execRingOscillatorMeasure site ppm s
  | .eyeMarginMeasure lane height width => Sys2Proof.Machine.execEyeMarginMeasure lane height width s
  | .wearPrediction units => Sys2Proof.Machine.execWearPrediction units s
  | .hourCounterSave => Sys2Proof.Machine.execHourCounterSave s
  | .readReg src msg => Sys2Proof.Machine.execReadReg src msg s
  | .writeReg src msg => Sys2Proof.Machine.execWriteReg src msg s
  | .readTelemetry src msg => Sys2Proof.Machine.execReadTelemetry src msg s
  | .readLog src msg => Sys2Proof.Machine.execReadLog src msg s
  | .ackAttn src msg => Sys2Proof.Machine.execAckAttn src msg s
  | .resetIsland src msg => Sys2Proof.Machine.execResetIsland src msg s
  | .forceTakeover src msg => Sys2Proof.Machine.execForceTakeover src msg s
  | .stageData src msg => Sys2Proof.Machine.execStageData src msg s
  | .stageFinish src msg => Sys2Proof.Machine.execStageFinish src msg s
  | .discardStaged src msg => Sys2Proof.Machine.execDiscardStaged src msg s
  | .stageFirmware src msg => Sys2Proof.Machine.execStageFirmware src msg s
  | .eraseComplete => Sys2Proof.Machine.execEraseComplete s
  | .verificationComplete signatureOk => Sys2Proof.Machine.execVerificationComplete signatureOk s
  | .commitFirmware src msg => Sys2Proof.Machine.execCommitFirmware src msg s
  | .pairTwin src msg => Sys2Proof.Machine.execPairTwin src msg s
  | .unpair src msg => Sys2Proof.Machine.execUnpair src msg s
  | .programFuses src msg => Sys2Proof.Machine.execProgramFuses src msg s
  | .freezeCapture src msg => Sys2Proof.Machine.execFreezeCapture src msg s
  | .captureWritten => Sys2Proof.Machine.execCaptureWritten s
  | .clearPresenceRecord src msg => Sys2Proof.Machine.execClearPresenceRecord src msg s
  | .coreArrCtrClear site => Sys2Proof.Machine.execCoreArrCtrClear site s
  | .coreArrCtrFreeze site value => Sys2Proof.Machine.execCoreArrCtrFreeze site value s
  | .pgCtrlEnable page value => Sys2Proof.Machine.execPgCtrlEnable page value s
  | .quiesceReq page value => Sys2Proof.Machine.execQuiesceReq page value s
  | .softReset page => Sys2Proof.Machine.execSoftReset page s
  | .eclipse page => Sys2Proof.Machine.execEclipse page s
  | .pgEventClear page value => Sys2Proof.Machine.execPgEventClear page value s
  | .atuPoolCfgWrite value => Sys2Proof.Machine.execAtuPoolCfgWrite value s
  | .freTorusCfgWrite value => Sys2Proof.Machine.execFreTorusCfgWrite value s
  | .lowWordRead requester page offset => Sys2Proof.Machine.execLowWordRead requester page offset s
  | .registerWrite page offset value => Sys2Proof.Machine.execRegisterWrite page offset value s
  | .coldBoot report => Sys2Proof.Machine.execColdBoot report s
  | .twinHandshakeTimeout => Sys2Proof.Machine.execTwinHandshakeTimeout s
  | .porstN => Sys2Proof.Machine.execPorstN s
  | .warmrstN lowNs => Sys2Proof.Machine.execWarmrstN lowNs s
  | .mirrorUpdate seq update => Sys2Proof.Machine.execMirrorUpdate seq update s
  | .mirrorAcknowledgement seq => Sys2Proof.Machine.execMirrorAcknowledgement seq s
  | .sidebandReturn => Sys2Proof.Machine.execSidebandReturn s
  | .laneLoss link lanesLost => Sys2Proof.Machine.execLaneLoss link lanesLost s
  | .aliasRemoval failed => Sys2Proof.Machine.execAliasRemoval failed s
  | .mmpMalformed src msg => Sys2Proof.Machine.execMmpMalformed src msg s
  | .managementPortFrame kind => Sys2Proof.Machine.execManagementPortFrame kind s
  | .presenceBtnRelease => Sys2Proof.Machine.execPresenceBtnRelease s
  | .replyCacheExpiry src tag => Sys2Proof.Machine.execReplyCacheExpiry src tag s
  | .wearHourCount tjDc => Sys2Proof.Machine.execWearHourCount tjDc s
  | .warmBootStart report => Sys2Proof.Machine.execWarmBootStart report s
  | .remoteAccessNak conn reason => Sys2Proof.Machine.execRemoteAccessNak conn reason s
  | .cnpReceived conn qp => Sys2Proof.Machine.execCnpReceived conn qp s

end Sys2Proof.Machine
end

