-- ==== Sys2Proof/Safety.lean ====
section
/-! DEFINITION. The terms the statements use: an outcome that is a next state with a property, canonical memory, marks
that never go away, and what stays as it was. -/

namespace Sys2Proof.Machine

/-- The outcome is a next state, and that state has `P`. -/
def Gives (o : Host.Outcome State Fault Refusal) (P : State → Prop) : Prop := ∃ t, o = .next t ∧ P t

/-- The memory keeps its canonical form. -/
def State.MemOk (s : State) : Prop := Memory.wf s.ms.mem = true

/-- Every byte of memory reads in `t` as in `s`. -/
def SameBytes (s t : State) : Prop := ∀ a, memGet t.ms.mem a = memGet s.ms.mem a

/-- Every byte outside `[lo, lo + n)` reads in `t` as in `s`. -/
def SameBytesOutside (s t : State) (lo n : Nat) : Prop :=
  ∀ a, ¬(lo ≤ a ∧ a < lo + n) → memGet t.ms.mem a = memGet s.ms.mem a

/-- Marks for the life of the part: the broken seal, fuse bits, recorded eclipses (R385, R425, R427). -/
structure MarksStay (s t : State) : Prop where
  broken : s.dev.sealBroken = true → t.dev.sealBroken = true
  asset : ∀ k, s.dev.assetTag.getLsbD k = true → t.dev.assetTag.getLsbD k = true
  rollback : ∀ k, s.dev.rollback.getLsbD k = true → t.dev.rollback.getLsbD k = true
  eclipses : ∀ n, n ∈ s.dev.eclipsedFlash → n ∈ t.dev.eclipsedFlash

/-- Context `n` is `y` in `t`; every other context is as in `s`, and nothing but the context table differs. -/
structure CtxBecomes (s t : State) (n : Nat) (y : Ctx) : Prop where
  now : t.ctx? n = some y
  others : ∀ m, m ≠ n → t.ctx? m = s.ctx? m
  frame : t = { s with ctxs := t.ctxs }

/-- Context `n` is `y` in `t`, its core's round goes on after it and the command cache holds its segments (R303), and nothing
but the context table differs. -/
structure CtxTurned (s t : State) (n : Nat) (y : Ctx) : Prop where
  now : t.ctx? n = some y
  others : ∀ m, m ≠ n → t.ctx? m = s.ctx? m
  turn : t.turns = (s.turned n).turns
  cache : t.cmdCache = (s.turned n).cmdCache
  frame : t = { s with ctxs := t.ctxs, turns := t.turns, cmdCache := t.cmdCache }

/-- The context of a control command that may run now, and its first unit: the next command of context `n` has the
opcode `op`. -/
def NextIs (s : State) (n op : Nat) (x : Ctx) (v : Version) (u : Unit64) : Prop :=
  ∃ us, nextOf s n = some (x, v, us) ∧ us.getD 0 [] = u ∧ hdrOpcode u = op

/-- The rows of the operator commands that run on cores and near-bank units, with their opcodes. -/
def operatorRows : List (Nat × (Nat → Instr)) :=
  [(0x01, .matmul), (0x02, .conv), (0x03, .pool), (0x04, .attnFwd), (0x05, .attnBwd), (0x06, .norm),
   (0x07, .softmax), (0x08, .vecChain), (0x09, .sampleStep), (0x0A, .rngFill), (0x15, .sampleTokens),
   (0x0B, .boxDecode), (0x0C, .nms), (0x0D, .kvScatter), (0x0E, .copy), (0x14, .gatherRows)]

/-- The operator rows with one shared course, each with its opcode and its body: the checks, and what it computes from the
operands it reads before any write (R70). -/
def bodyRows : List (Nat × (Nat → Instr) × (State → Cmd → State × Except Err OpOut)) :=
  [(0x01, .matmul, pureBody mmBody), (0x02, .conv, pureBody cvBody), (0x03, .pool, pureBody poolBody),
   (0x04, .attnFwd, pureBody atBody), (0x05, .attnBwd, pureBody abBody), (0x06, .norm, pureBody nrBody),
   (0x07, .softmax, pureBody smBody), (0x08, .vecChain, pureBody vcBody), (0x0A, .rngFill, pureBody rfBody),
   (0x15, .sampleTokens, pureBody stBody), (0x0B, .boxDecode, pureBody boxBody), (0x0C, .nms, pureBody nmsBody),
   (0x0D, .kvScatter, kvBody), (0x0E, .copy, pureBody copyBody), (0x14, .gatherRows, pureBody gatherBody)]

/-- The writes `ws`, made from state `s`, stand in the memory of `t`: at every address written the last write, and every
other byte as before outside the pages taken on the way (R183, R206). -/
structure WritesLanded (s t : State) (ws : List (Nat × Byte)) : Prop where
  written : ∀ (i : Nat) (w : Nat × Byte) (a : Nat), ws[i]? = some w → writeTarget s w.1 = .pa a →
    (∀ (j : Nat) (q : Nat × Byte), i < j → ws[j]? = some q → writeTarget s q.1 ≠ .pa a) → memGet t.ms.mem a = w.2
  kept : ∀ a, (∀ w ∈ ws, writeTarget s w.1 ≠ .pa a) →
    (a / 0x200000 ∈ t.ms.usedPages → a / 0x200000 ∈ s.ms.usedPages) → memGet t.ms.mem a = memGet s.ms.mem a

/-- Every address of the writes is mapped and writable, no line is uncorrectable, and memory is canonical. -/
structure CanWrite (s : State) (ws : List (Nat × Byte)) : Prop where
  mapped : ∀ w ∈ ws, ∃ a, writeTarget s w.1 = .pa a
  lines : s.ms.badLines = []
  canonical : s.MemOk

/-- Nothing that the command reads is being written meanwhile, by its own tiles or by another command (R70). -/
structure Quiet (s : State) (c : Cmd) (o : OpOut) : Prop where
  own : ∀ w ∈ o.writes, racesAt s c w.1 = false
  others : staleBytes s c = []

/-- The rows of `COLLECTIVE`, with their `OP`. -/
def collectiveRows : List (Nat × (Nat → Instr)) :=
  [(0, .allReduce), (1, .reduceScatter), (2, .allGather), (3, .allToAll), (4, .broadcast), (5, .barrier)]

/-- Command `id` has a result, and no other command and no context, connection, model, graph or register page of the
hub has changed. -/
structure CommandRan (s t : State) (id : Nat) : Prop where
  result : ∃ d r, t.cmd? id = some d ∧ d.result = some r
  others : ∀ n, n ≠ id → t.cmd? n = s.cmd? n
  conns : t.conns = s.conns
  models : t.models = s.models
  graphs : t.graphs = s.graphs
  tlc : t.tlc = s.tlc
  fre : t.fre = s.fre
  pwr : t.pwr = s.pwr
  mgc : t.mgc = s.mgc
  dev : t.dev = s.dev

/-- An MMP request that the MGC executes: power on, a header of 16 bytes that is no reply, well formed, not in the
reply cache, the MGC not in recovery. -/
structure MmpRuns (s : State) (src : MmpSrc) (m : List Byte) (op : Nat) : Prop where
  op : byteAt m 1 = op
  long : 16 ≤ m.length
  request : byteAt m 6 % 2 = 0
  form : mmpForm m = true
  fresh : cachedReply s src m = none
  on : s.dev.porstLow = false
  running : s.mgc.recovery = false

/-- The last thing that left the block is the reply to `m` with the RESULT `r` and the payload `pay`, under the ATTN
field of `t`. -/
def Replied (t : State) (src : MmpSrc) (m : List Byte) (r : Res) (shadow : Bool) (pay : List Byte) : Prop :=
  t.egress.getLast? = some (.mmpReply src (replyBytes t m r shadow pay))

/-- Context `n` may complete now: its connection is attached, has nothing waiting and has room in its completion ring,
and no acknowledgement of a twin is awaited. -/
structure CanComplete (s : State) (x : Ctx) (c : Conn) : Prop where
  conn : s.conn? x.conn = some c
  attached : c.attached = true
  idle : c.outq = []
  room : c.nextSeq - 1 - c.cqHead < c.cqRecords
  alone : mirroring s = false

/-- The record of context `x` with RESULT `r` has reached the client on connection `c`, the next of its sequence, and
the context is closed (R268, R273). -/
structure RecordSent (t : State) (x : Ctx) (c : Conn) (r : Res) : Prop where
  sent : ∃ o : OutRec, o.reqId = x.reqId ∧ o.typ = x.typ ∧ o.res = r ∧
    Egress.record c.id (recordVa c c.nextSeq) (recordBytes t c.nextSeq o) ∈ t.egress
  closed : t.ctx? x.num = none
  next : ∃ d, t.conn? x.conn = some d ∧ c.nextSeq < d.nextSeq

/-- A codec command has its result and its engine is free; nothing but this command, its context's registers, memory,
the codec complex and what an error records has changed. -/
structure FrameClosed (s t : State) (id : Nat) : Prop where
  result : ∃ d r, t.cmd? id = some d ∧ d.result = some r
  engine : ∀ e ∈ t.vcc.engines, e.cmd ≠ some id
  others : ∀ n, n ≠ id → t.cmd? n = s.cmd? n
  ctxs : ∀ n, (∀ c, s.cmd? id = some c → c.ctx ≠ n) → t.ctx? n = s.ctx? n
  conns : t.conns = s.conns
  models : t.models = s.models
  graphs : t.graphs = s.graphs

/-- The rows that may wait for the twin's acknowledgement (R364). -/
def isGatedRow (i : Instr) : Bool :=
  match i with
  | .doorbell _ _ _ _ | .itemConsume _ | .instanceAcquire _ | .runGraph _ | .inputsPlaced _ _ | .graphEnd _
  | .outputsAcknowledged _ | .abort _ | .flush _ | .queryPlan _ | .query _ | .connectionSetup _ | .resume _
  | .connectionClose _ | .unattachedConnectionExpiry _ => true
  | _ => false

/-- A takeover has happened: the twin's addresses and connections are served here, its alias and its addresses are
announced, and ATTN `TAKEOVER` is pending (R372). -/
structure TookOver (s t : State) (p : PairRec) : Prop where
  state : t.tlc.tstate = 4
  attn : t.attn.pending.getLsbD attnTAKEOVER = true
  known : s.tlc.twinAddrs ≠ [] → t.tlc.twinAddrs = s.tlc.twinAddrs
  served : t.tlc.served = t.tlc.twinAddrs ∧ t.tlc.twinAddrs ≠ []
  flood : Egress.aliasFlood p.twinCoord.toNat s.dev.straps.toNat ∈ t.egress
  announced : ∀ a ∈ t.tlc.twinAddrs, ∀ port, port < 2 → Egress.announce port a (decide (2 ^ 32 ≤ a)) ∈ t.egress
  conns : ∀ m ∈ s.tlc.mconns, ∃ c ∈ t.conns, c.id = m.conn ∧ c.attached = false

/-- A mirror epoch has opened: both twins mirror, nothing is stale, and ATTN `TWIN_DEGRADED` has ended (R367, R375). -/
structure EpochOpened (t : State) (e : Nat) : Prop where
  state : t.tlc.tstate = 2
  epoch : t.tlc.epoch = BitVec.ofNat 32 e
  link : t.tlc.linkUp = true
  fresh : t.tlc.stale = false ∧ ∀ x ∈ t.ctxs, x.stale = false
  attn : t.attn.cause.getLsbD attnTWIN = false

/-- The rows of the MMP operations with their `OP` (R412, R413). -/
def mmpRows : List (Nat × (MmpSrc → List Byte → Instr)) :=
  [(0x01, .readReg), (0x02, .writeReg), (0x03, .readTelemetry), (0x04, .readLog), (0x05, .ackAttn),
   (0x06, .resetIsland), (0x07, .forceTakeover), (0x08, .stageData), (0x09, .stageFinish), (0x0A, .discardStaged),
   (0x40, .stageFirmware), (0x41, .commitFirmware), (0x42, .pairTwin), (0x43, .unpair), (0x44, .programFuses),
   (0x45, .freezeCapture), (0x46, .clearPresenceRecord)]

/-- The sealed ones (R422). -/
def sealedRows : List (Nat × (MmpSrc → List Byte → Instr)) :=
  [(0x40, .stageFirmware), (0x41, .commitFirmware), (0x42, .pairTwin), (0x43, .unpair), (0x44, .programFuses),
   (0x45, .freezeCapture), (0x46, .clearPresenceRecord)]

/-- A sealed command was admitted and succeeded: it ends the presence record, took the window when the button admitted
it, and was answered `OK` (R422, R426). -/
structure Admitted (s t : State) (src : MmpSrc) (m : List Byte) (op kind : Nat) : Prop where
  record : t.mgc.presence.getLast? = some ⟨s.dev.timeNs, op, transportOf src, kind, 0⟩
  window : kind = 0 → t.mgc.windowOpen = false
  reply : Replied t src m .ok false []

end Sys2Proof.Machine
end

