-- ==== Sys2Proof/Certificates/Slice0/Obligations.lean ====
section
/-! DEFINITION. The statements. -/

open Sys2Proof Sys2Proof.Machine

/-- O1. A step runs the command at the front of the queue. With command c at the front of the queue, step is exec of c on the
state with the queue's rest. (R411, R25) -/
def Obligations.StepRunsTheFrontCommand : Prop :=
  ∀ (c : Instr) (rest : List Instr) (s : State),
    step { s with pending := c :: rest } = exec c { s with pending := rest }

/-- O2. An idle step is one ACLK cycle of device time. With an empty queue a step adds 20 ns to DEV_TIME once the ACLK doubler
has locked, 40 ns before, and nothing in power-on reset. That an idle step is one cycle is the model's choice (log 4);
the two periods are R456's. What else an idle cycle may bring of itself (log 49, the model's choice) leaves the power,
management, wear and site registers and the pair as they are. (R456, R27) -/
def Obligations.IdleStepAdvancesDeviceTime : Prop :=
  ∀ s : State, s.pending = [] →
    (s.dev.porstLow = true → step s = .next s) ∧
    (s.dev.porstLow = false → Gives (step s) (fun t =>
      t.dev.timeNs = s.dev.timeNs + (if s.dev.clkLock.getLsbD 13 then 20 else 40) ∧
      t.dev = { s.dev with timeNs := t.dev.timeNs } ∧ t.pending = [] ∧ t.pwr = s.pwr ∧ t.mgc = s.mgc ∧ t.wear = s.wear ∧
      t.sites = s.sites ∧ t.tlc.pair = s.tlc.pair))

/-- O3. Every step keeps memory in its canonical form. For every state whose memory has strictly rising addresses and no
listed zero byte, any step to a next state gives such a memory again. The zero of an unlisted byte is the model's
choice (log 1). (R37, R183, R206) -/
def Obligations.MemoryStaysCanonical : Prop :=
  ∀ s t : State, s.MemOk → step s = .next t → t.MemOk

/-- O4. Memory at reset is canonical and empty. The memory of State.reset has the canonical form, and no command waits. (R471,
R37) -/
def Obligations.ResetMemoryIsCanonical : Prop :=
  State.reset.MemOk ∧ State.reset.pending = [] ∧ State.reset.dev.porstLow = true

/-- O5. No step takes back a broken seal, a fuse bit or a recorded eclipse. Whatever the command, a step to a next state keeps
SEAL_BROKEN once it is set, every 1 bit of ASSET_TAG and ROLLBACK, and every recorded eclipse. (R385, R425, R427) -/
def Obligations.PermanentMarksStay : Prop :=
  ∀ s t : State, step s = .next t → MarksStay s t

/-- O6. No command changes the queue of waiting commands. Every command of the table gives a next state whose queue is the one
it was given. (R411) -/
def Obligations.CommandsLeaveTheQueueAlone : Prop :=
  ∀ (c : Instr) (s : State), Gives (exec c s) (fun t => t.pending = s.pending)

/-- O7. An operator command runs once, gets a result, and changes nothing outside memory and its context. For each of MATMUL,
CONV, POOL, ATTN_FWD, ATTN_BWD, NORM, SOFTMAX, VEC_CHAIN, SAMPLE_STEP, RNG_FILL, SAMPLE_TOKENS, BOX_DECODE, NMS,
KV_SCATTER, COPY and GATHER_ROWS, and for KV_FORK under the row of its OP bit (FORK 0, RELEASE 1): an issued command
of that opcode without a result, staged and with its memory awake, completes its work with a result; every other
command, the connections, models, graphs, twin, fabric, power, management and device registers are as before. A
command that has a result does not run again. (R290, R291, R206, R70, R187) -/
def Obligations.OperatorCommandsRunOnce : Prop :=
  (∀ r ∈ operatorRows, ∀ (s : State) (id : Nat) (c : Cmd),
      (opReady s id r.1 = some c → Gives (exec (r.2 id) s) (fun t => CommandRan s t id)) ∧
      (∀ res, s.cmd? id = some c → c.result = some res → exec (r.2 id) s = .next s)) ∧
    (∀ (s : State) (id : Nat) (c : Cmd), opReady s id 0x13 = some c →
      ((parseFk c.u0).release = false →
        Gives (exec (.fork id) s) (fun t => CommandRan s t id) ∧ exec (.release id) s = .next s) ∧
      ((parseFk c.u0).release = true →
        Gives (exec (.release id) s) (fun t => CommandRan s t id) ∧ exec (.fork id) s = .next s))

/-- O8. A COLLECTIVE command starts: it joins its handshake, or completes when it is a group of one. For ALL_REDUCE,
REDUCE_SCATTER, ALL_GATHER, ALL_TO_ALL, BROADCAST and BARRIER: a ready command of that OP that has not started gets
its collective record; a group of one gets a result at once when it may take its slots and waits for them otherwise;
while an earlier collective of its key and role is in flight it waits for the key. The queue of commands is otherwise
unchanged in length. (R344, R349, R351, R343) -/
def Obligations.CollectivesStartTheirHandshake : Prop :=
  ∀ r ∈ collectiveRows, ∀ (s : State) (id : Nat) (c : Cmd), opReady s id 0x10 = some c →
    (parseCol c.u0).op = r.1 → c.coll = none →
    Gives (exec (r.2 id) s) (fun t => (∃ d, t.cmd? id = some d ∧
        (keyBusy s c = true → d.phaseIs .waitingKey = true ∧ d.result = none) ∧
        (keyBusy s c = false → colP (parseCol c.u0) = 1 → slotTurn s c = true → d.result.isSome = true) ∧
        (keyBusy s c = false → colP (parseCol c.u0) = 1 → d.result.isSome = true ∨ d.phaseIs .wantSlots = true) ∧
        (keyBusy s c = false → colP (parseCol c.u0) ≠ 1 → d.phaseIs .handshake = true ∧ d.result = none)) ∧
      t.cmds.length = s.cmds.length)

/-- O9. Every unit of every band goes to exactly one core. The stretches that a command's bands give its cores cover every
unit number below the total, each by exactly one stretch, and every stretch belongs to one of the cores. (R122, R304) -/
def Obligations.UnitsAreDealtExactlyOnce : Prop :=
  ∀ (cores bands : List Nat), cores ≠ [] → cores.Nodup → ∀ u, u < bands.sum →
    ∃ r ∈ bandRuns cores bands 0, (r.next ≤ u ∧ u < r.stop ∧ r.lcore ∈ cores) ∧
      ∀ q ∈ bandRuns cores bands 0, q.next ≤ u → u < q.stop → q = r

/-- O10. A computed start state equals the state reached by single steps. For every 128-bit generator state and every distance
below 2^128, the square-and-multiply jump gives the state that many single steps give. (R241, R243) -/
def Obligations.JumpEqualsSteps : Prop :=
  ∀ d st : Nat, d < 2 ^ 128 → st < 2 ^ 128 → xsJump 128 xsMatrix d st = xsStep^[d] st

/-- O11. A plan that reads spilled tensors predicts at least their staging copy. The plan of a command that reads b bytes of
spilled tensors predicts the larger of its own total and ceil(b × 1.4 / 546) cycles, for every command that has a
plan. (R214) -/
def Obligations.SpilledReadsPredictTheirStaging : Prop :=
  ∀ (s : State) (c : Cmd) (kept : List Nat) (p : Plan), basePlan s c kept = some p → spilledBytesRead s c ≠ 0 →
    ∃ q, planOf s c kept = some q ∧ ∃ b k : Nat, b = spilledBytesRead s c ∧
      14 * b ≤ 5460 * k ∧ 5460 * k < 14 * b + 5460 ∧ q.predCycles = max p.predCycles k

/-- O12. NOP, WAIT_EVENT, FENCE, SIGNAL_EVENT and RETURN move their context as R294 says. NOP advances. WAIT_EVENT advances
once all its events are satisfied and holds issue until then; FENCE once no earlier command is in flight. SIGNAL_EVENT
always advances and signals at once only when no earlier command is in flight, else it waits for them. RETURN goes
back through the calls. Only the context and the round of its core (R303) change. (R294, R293, R290, R299) -/
def Obligations.NopsWaitsAndFencesAdvance : Prop :=
  ∀ (s : State) (n : Nat) (x : Ctx) (v : Version) (u : Unit64),
    (NextIs s n 0x80 x v u →
      Gives (exec (.nop n) s) (fun t => CtxTurned s t n ((x.step v).bumpEvent (hdrSignal u) 1 1))) ∧
    (NextIs s n 0x85 x v u → (∀ k < 4, x.satisfied (leAt u (8 + 2 * k) 2) = true) →
      Gives (exec (.waitEvent n) s) (fun t => CtxTurned s t n ((x.step v).bumpEvent (hdrSignal u) 1 1))) ∧
    (NextIs s n 0x85 x v u → (∃ k < 4, x.satisfied (leAt u (8 + 2 * k) 2) = false) →
      exec (.waitEvent n) s = .next s) ∧
    (NextIs s n 0x8A x v u → inFlight s n = [] →
      Gives (exec (.fence n) s) (fun t => CtxTurned s t n ((x.step v).bumpEvent (hdrSignal u) 1 1))) ∧
    (NextIs s n 0x8A x v u → inFlight s n ≠ [] → exec (.fence n) s = .next s) ∧
    (NextIs s n 0x86 x v u → inFlight s n = [] →
      Gives (exec (.signalEvent n) s) (fun t => CtxTurned s t n ((x.step v).bumpEvent (hdrSignal u) 1 1))) ∧
    (NextIs s n 0x86 x v u → inFlight s n ≠ [] →
      Gives (exec (.signalEvent n) s) (fun t => ∃ y, y = (x.step v).bumpEvent (hdrSignal u) 1 0 ∧
        CtxTurned s t n { y with lateSignals := y.lateSignals ++ [(hdrSignal u, inFlight s n)] })) ∧
    (NextIs s n 0x88 x v u →
      Gives (exec (.ret n) s) (fun t => CtxTurned s t n ((unwind x.calls x).bumpEvent (hdrSignal u) 1 1)))

/-- O13. ORBIT_BEGIN and ORBIT_END follow the pseudo-code of R295. ORBIT_BEGIN fails with BAD_DESCRIPTOR at depth 4 or above
1,048,576 passes, jumps past its body for 0 passes, and else opens a level with counter 0. ORBIT_END raises the
counter, notes an early exit, and either leaves the level or goes back to the body; the orbit step that a resumed
launch ran in full ends with it (log 38, the model's reading). Only the context and the round of its core (R303)
change. (R295) -/
def Obligations.OrbitsLoop : Prop :=
  ∀ (s : State) (n : Nat) (x : Ctx) (v : Version) (u : Unit64),
    (NextIs s n 0x81 x v u → ∀ k, k = (if fld u 8 21 1 = 1 then (x.sreg (fld u 12 0 6)).toNat else fld u 8 0 21) →
      ((4 ≤ x.orbits.length ∨ 1048576 < k) →
        Gives (exec (.orbitBegin n) s) (fun t => CtxTurned s t n (x.fail .badDescriptor))) ∧
      (x.orbits.length < 4 → k = 0 → Gives (exec (.orbitBegin n) s) (fun t => CtxTurned s t n
        ((x.goto (afterOrbit v ((versionCmds v.segs).filter (fun c => decide (x.pc < c.1))) 0)).bumpEvent (hdrSignal u) 1 1))) ∧
      (x.orbits.length < 4 → 1 ≤ k → k ≤ 1048576 → ∀ body, v.next x.pc = some body →
        Gives (exec (.orbitBegin n) s) (fun t => CtxTurned s t n
          ({ (x : Ctx) with pc := body, orbits := x.orbits ++ [Orbit.mk k 0 body] }.bumpEvent (hdrSignal u) 1 1)))) ∧
    (NextIs s n 0x82 x v u → ∀ o, x.orbits.getLast? = some o →
      ∀ quit, quit = (fld u 8 3 1 == 1 && (x.pred (fld u 8 0 3) != (fld u 8 4 1 == 1))) →
      ∀ y, y = (if x.fullStep = true then { x with inFull := false, fullStep := false } else x) →
      (quit = true → o.c + 1 < o.n → Gives (exec (.orbitEnd n) s) (fun t => CtxTurned s t n
        (({ (y.note .okEarlyExit) with orbits := y.orbits.dropLast }.step v).bumpEvent (hdrSignal u) 1 1))) ∧
      (o.c + 1 = o.n → Gives (exec (.orbitEnd n) s) (fun t => CtxTurned s t n
        (({ y with orbits := y.orbits.dropLast }.step v).bumpEvent (hdrSignal u) 1 1))) ∧
      (quit = false → o.c + 1 ≠ o.n → Gives (exec (.orbitEnd n) s) (fun t => CtxTurned s t n
        ({ y with pc := o.body, orbits := y.orbits.dropLast ++ [{ o with c := o.c + 1 }] }.bumpEvent (hdrSignal u) 1 1))))

/-- O14. SET_PRED compares A with B and combines the result into DST. SET_PRED writes DST := r, DST AND r, or DST OR r, where r
compares A with B as signed, unsigned or fp32 numbers; a NaN operand makes every fp32 comparison but NE false. Only
the context and the round of its core (R303) change. (R296) -/
def Obligations.SetPredComparesAndCombines : Prop :=
  (∀ (s : State) (n : Nat) (x : Ctx) (v : Version) (u : Unit64) (a b : DWord), NextIs s n 0x83 x v u →
      x.src (byteAt u 12) (BitVec.ofNat 64 (leAt u 16 8)) = some a →
      x.src (byteAt u 13) (BitVec.ofNat 64 (leAt u 16 8)) = some b →
      ∀ r, r = predTest (fld u 8 6 2) (fld u 8 3 3) a b →
      Gives (exec (.setPred n) s) (fun t => CtxTurned s t n (((x.setPred (fld u 8 0 3)
        (match fld u 8 8 2 with
          | 0 => r
          | 1 => x.pred (fld u 8 0 3) && r
          | _ => x.pred (fld u 8 0 3) || r)).step v).bumpEvent (hdrSignal u) 1 1))) ∧
    (∀ a b : DWord,
      predTest 0 0 a b = decide (a.toInt = b.toInt) ∧ predTest 0 1 a b = decide (a.toInt ≠ b.toInt) ∧
      predTest 0 2 a b = decide (a.toInt < b.toInt) ∧ predTest 0 3 a b = decide (a.toInt ≤ b.toInt) ∧
      predTest 0 4 a b = decide (b.toInt < a.toInt) ∧ predTest 0 5 a b = decide (b.toInt ≤ a.toInt)) ∧
    (∀ a b : DWord,
      predTest 1 0 a b = decide (a.toNat = b.toNat) ∧ predTest 1 1 a b = decide (a.toNat ≠ b.toNat) ∧
      predTest 1 2 a b = decide (a.toNat < b.toNat) ∧ predTest 1 3 a b = decide (a.toNat ≤ b.toNat) ∧
      predTest 1 4 a b = decide (b.toNat < a.toNat) ∧ predTest 1 5 a b = decide (b.toNat ≤ a.toNat)) ∧
    (∀ (a b : DWord) (cmp : Nat), cmp < 6 → (lowF32 a = .nan ∨ lowF32 b = .nan) →
      predTest 2 cmp a b = decide (cmp = 1)) ∧
    (∀ (a b : DWord), lowF32 a ≠ .nan → lowF32 b ≠ .nan →
      predTest 2 1 a b = !predTest 2 0 a b ∧ predTest 2 4 a b = predTest 2 2 b a ∧ predTest 2 5 a b = predTest 2 3 b a ∧
      predTest 2 3 a b = (predTest 2 2 a b || predTest 2 0 a b))

/-- O15. SCALAR_OP and TIMESTAMP write one scalar register; an orbit level that is not open fails the request. SCALAR_OP writes
DST := A op B and advances, TIMESTAMP writes the nanoseconds since cold boot; a src of SCALAR_OP or SET_PRED that
names an orbit level that is not open fails the request with BAD_DESCRIPTOR. The integer operations are modulo 2^64,
MIN and MAX are signed, MINU and MAXU unsigned. Only the context and the round of its core (R303) change. (R297, R294) -/
def Obligations.ScalarOpsWriteTheirRegister : Prop :=
  (∀ (s : State) (n : Nat) (x : Ctx) (v : Version) (u : Unit64) (imm : DWord), imm = BitVec.ofNat 64 (leAt u 16 8) →
      (NextIs s n 0x8B x v u → ∀ a b, x.src (byteAt u 10) imm = some a → x.src (byteAt u 11) imm = some b →
        Gives (exec (.scalarOp n) s) (fun t => CtxTurned s t n
          (((x.setSreg (fld u 9 0 6) (scalarFn (fld u 8 0 5) a b)).step v).bumpEvent (hdrSignal u) 1 1))) ∧
      (NextIs s n 0x8B x v u → (x.src (byteAt u 10) imm = none ∨ x.src (byteAt u 11) imm = none) →
        Gives (exec (.scalarOp n) s) (fun t => CtxTurned s t n (x.fail .badDescriptor))) ∧
      (NextIs s n 0x83 x v u → (x.src (byteAt u 12) imm = none ∨ x.src (byteAt u 13) imm = none) →
        Gives (exec (.setPred n) s) (fun t => CtxTurned s t n (x.fail .badDescriptor))) ∧
      (NextIs s n 0x8C x v u → Gives (exec (.timestamp n) s) (fun t => CtxTurned s t n
        (((x.setSreg (fld u 8 0 6) (BitVec.ofNat 64 s.dev.timeNs)).step v).bumpEvent (hdrSignal u) 1 1)))) ∧
    (∀ a b : DWord, (scalarFn 1 a b).toNat = (a.toNat + b.toNat) % 2 ^ 64 ∧
      (scalarFn 3 a b).toNat = a.toNat * b.toNat % 2 ^ 64 ∧
      (scalarFn 10 a b).toInt = min a.toInt b.toInt ∧ (scalarFn 11 a b).toInt = max a.toInt b.toInt ∧
      (scalarFn 12 a b).toNat = min a.toNat b.toNat ∧ (scalarFn 13 a b).toNat = max a.toNat b.toNat ∧
      (scalarFn 2 a b).toNat = (a.toNat + (2 ^ 64 - b.toNat)) % 2 ^ 64)

/-- O16. JUMP_IF, CALL_GRAPH and PREFETCH. JUMP_IF goes OFFSET units ahead when its condition holds and advances otherwise.
CALL_GRAPH starts the callee at its unit 0 with the caller's registers, predicates and orbits and remembers where to
return; at depth 4, or with no callee of the model, it fails with BAD_DESCRIPTOR. PREFETCH advances and changes
nothing but translations held by TLBs and the command cache. (R298, R299, R300) -/
def Obligations.JumpsCallsAndPrefetch : Prop :=
  ∀ (s : State) (n : Nat) (x : Ctx) (v : Version) (u : Unit64),
    (NextIs s n 0x84 x v u →
      (fld u 8 3 2 = 0 ∨ (fld u 8 3 2 = 1 ∧ x.pred (fld u 8 0 3) = true) ∨ (fld u 8 3 2 = 2 ∧ x.pred (fld u 8 0 3) = false)) →
      Gives (exec (.jumpIf n) s) (fun t => CtxTurned s t n
        ((x.goto (unitAhead v.lens x.pc (leAt u 12 3))).bumpEvent (hdrSignal u) 1 1))) ∧
    (NextIs s n 0x84 x v u →
      ((fld u 8 3 2 = 1 ∧ x.pred (fld u 8 0 3) = false) ∨ (fld u 8 3 2 = 2 ∧ x.pred (fld u 8 0 3) = true)) →
      Gives (exec (.jumpIf n) s) (fun t => CtxTurned s t n ((x.step v).bumpEvent (hdrSignal u) 1 1))) ∧
    (NextIs s n 0x87 x v u → x.calls.length < 4 → ∀ m, calleeVersion s x (fld u 8 0 12) = some m →
      Gives (exec (.callGraph n) s) (fun t => ∃ y, t.ctx? n = some y ∧ y.pcGraph = fld u 8 0 12 ∧ y.pcVer = m ∧
        y.pc = 0 ∧ y.sregs = x.sregs ∧ y.preds = x.preds ∧ y.orbits = x.orbits ∧
        y.calls = ⟨x.pcGraph, x.pcVer, (v.next x.pc).getD endPc, x.orbits.length⟩ :: x.calls ∧
        (∀ k, k ≠ n → t.ctx? k = s.ctx? k) ∧ SameBytes s t ∧ t.graphs = s.graphs ∧ t.conns = s.conns ∧ t.cmds = s.cmds)) ∧
    (NextIs s n 0x87 x v u → (4 ≤ x.calls.length ∨ calleeVersion s x (fld u 8 0 12) = none) →
      Gives (exec (.callGraph n) s) (fun t => t.ctx? n = some (x.fail .badDescriptor) ∧ t.graphs = s.graphs)) ∧
    (NextIs s n 0x89 x v u → Gives (exec (.prefetch n) s) (fun t =>
      t.ctx? n = some ((x.step v).bumpEvent (hdrSignal u) 1 1) ∧ (∀ k, k ≠ n → t.ctx? k = s.ctx? k) ∧
      t.turns = (s.turned n).turns ∧ (fld u 8 0 1 = 0 → t.cmdCache = (s.turned n).cmdCache) ∧
      t = { s with ctxs := t.ctxs, turns := t.turns, freeCtr := t.freeCtr, cmdCache := t.cmdCache, ms := { s.ms with tlbs := t.ms.tlbs } }))

/-- O17. COMMAND_ISSUE and PART_COMMIT, and the round of a core's contexts. A context in its turn whose next command is an
operator that may issue: the command joins the commands in flight under a new number, with its signal counted as
issued, a part sent to each masked cluster in service and one credit of each taken, and the round goes on after the
context. While a masked cluster has no free credit nothing issues, and a context that may not run its next command is
left as it is. Some context of a core has the turn while any of its contexts can go on, and a context that has had its
turn comes after every other one of its core that can go on. PART_COMMIT moves a sent part into the queue of its
sequencer; a part under an old epoch is dropped and counted as stale, and one whose SERVICE island is not ON stays
sent. (R288, R289, R303, R304, R305, R387, R388) -/
def Obligations.IssueTakesCreditsAndQueues : Prop :=
  (∀ (s : State) (n : Nat), nextOf s n = none → exec (.commandIssue n) s = .next s) ∧
    (∀ (s : State) (n : Nat) (x : Ctx) (v : Version) (us : List Unit64), nextOf s n = some (x, v, us) →
      hdrOpcode (us.getD 0 []) < 0x80 →
      ∀ ks, ks = partClusters s (maskClusters (hdrMask (us.getD 0 []))) →
      (canIssue s x us = true → Gives (exec (.commandIssue n) s) (fun t => (∃ c, t.cmds = s.cmds ++ [c] ∧
          c.id = s.nextCmd ∧ c.ctx = n ∧ c.units = us ∧ c.result = none ∧ c.unit = x.pc ∧ c.sregs = x.sregs ∧
          (∀ k, c.phaseOf k = some .sent ↔ k ∈ ks)) ∧
        (∃ y, t.ctx? n = some y ∧ y = { (x.step v).bumpEvent (hdrSignal (us.getD 0 [])) 1 0 with planKeys := y.planKeys }) ∧
        (∀ m, m ≠ n → t.ctx? m = s.ctx? m) ∧
        (∀ k ∈ ks, t.cluster k = { s.cluster k with credits := (s.cluster k).credits - 1 }) ∧
        (∀ k, k ∉ ks → t.cluster k = s.cluster k) ∧ t.turns = (s.turned n).turns ∧ t.nextCmd = s.nextCmd + 1 ∧
        t = { s with clusters := t.clusters, ctxs := t.ctxs, cmds := t.cmds, nextCmd := t.nextCmd, vcc := t.vcc, turns := t.turns,
                     cmdCache := (s.turned n).cmdCache })) ∧
      ((∃ k ∈ ks, (s.cluster k).credits = 0) → exec (.commandIssue n) s = .next s)) ∧
    (∀ (s : State) (n : Nat), canGo s n = true → ∃ m, m % 4 = n % 4 ∧ canGo s m = true ∧ inTurn s m = true) ∧
    (∀ (s : State) (n m : Nat), s.turns.length = 4 → n < 65536 → m < 65536 → n ≠ m → n % 4 = m % 4 →
      canGo (s.turned n) m = true → inTurn (s.turned n) n = false) ∧
    (∀ (s : State) (id k : Nat) (c : Cmd), s.cmd? id = some c → c.phaseOf k = some .sent →
      (c.staleAt s k = false → (s.svcIsl (k / 4)).state = .on →
        Gives (exec (.partCommit id k) s) (fun t => (t.cluster k).queue = (s.cluster k).queue ++ [id] ∧
          (t.cmd? id).bind (fun d => d.phaseOf k) = some .accepted ∧
          (∀ j, j ≠ k → t.cluster j = s.cluster j) ∧ t = { s with clusters := t.clusters, cmds := t.cmds })) ∧
      (c.staleAt s k = true → exec (.partCommit id k) s = .next s.dropStale) ∧
      (c.staleAt s k = false → (s.svcIsl (k / 4)).state ≠ .on → exec (.partCommit id k) s = .next s))

/-- O18. TILE_DISPATCH and TILE_COMPLETE. A free site whose core has a next unit takes it: the site holds that tile with its
array assigned, its part has started, and with the first tile of a command the cluster's cache is empty; nothing in
memory changes. When a tile completes its site is free, its last slots have counted unless FREEZE is 1, and its output
stands in memory. While that memory is in RETENTION, or a write of the tile waits for a page of its own, it does not
complete. (R304, R73, R80, R101, R194, R34, R188) -/
def Obligations.TilesRunOnTheirSite : Prop :=
  (∀ (s : State) (n l : Nat) (p : Pick) (c : Cmd), (s.site n).lcore = some l → siteFree s n = true →
      nextUnit s (n / 16) l = some p → (p.redo = true → lowestFree s (n / 16) l = true) → s.cmd? p.cmd = some c →
      ∀ u, u = c.work.getD p.unit noUnit →
      Gives (exec (.tileDispatch n) s) (fun t => t.site n = { s.site n with
          tile := some (p.cmd, p.unit), cfg := arrCfg c u, arr := (s.site n).arr.assign c u } ∧
        (u.slots ≠ 0 → (s.site n).arr.banks.length = 2 →
          (t.site n).arrStatus.getLsbD 6 = true ∧ (t.site n).arr.bankState (t.site n).arr.bank = 1) ∧
        (∀ k, k ≠ n → t.site k = s.site k) ∧
        (c.phaseOf (n / 16) = some .accepted → t.cluster (n / 16) = { s.cluster (n / 16) with csc := [] }) ∧
        (c.phaseOf (n / 16) ≠ some .accepted → t.cluster (n / 16) = s.cluster (n / 16)) ∧
        (∀ k, k ≠ n / 16 → t.cluster k = s.cluster k) ∧
        ((c.phaseOf (n / 16)).isSome = true → (t.cmd? p.cmd).bind (fun d => d.phaseOf (n / 16)) = some .started) ∧
        (∀ m, m ≠ p.cmd → t.cmd? m = s.cmd? m) ∧
        t = { s with sites := t.sites, clusters := t.clusters, cmds := t.cmds, pwr := { s.pwr with idleMs := t.pwr.idleMs } })) ∧
    (∀ (s : State) (n b d id u : Nat), (s.site n).tile = some (id, u) → (s.site n).fenced = false → holdsWrite s n = false →
      asleep s ((s.siteWrites n).map (fun w => (w.1, 1))) = false →
      (∀ c w, s.tileUnit n = some (c, w) → CanWrite ((s.slotsEnter n (s.site n).arr.total b d).accessing c) (s.siteWrites n)) →
      Gives (exec (.tileComplete n (s.site n).arr.total b d) s) (fun t => (t.site n).tile = none ∧ (∀ k, k ≠ n → t.site k = s.site k) ∧
        (∀ c w, s.tileUnit n = some (c, w) → (s.site n).arr.issued < (s.site n).arr.total →
          ((s.site n).freeze = false → (t.site n).valid = (s.site n).valid.bump ((s.site n).arr.total - (s.site n).arr.issued) ∧
            (t.site n).starve = (s.site n).starve.bump b ∧ (t.site n).block = (s.site n).block.bump d) ∧
          ((s.site n).freeze = true → (t.site n).valid = (s.site n).valid ∧
            (t.site n).starve = (s.site n).starve ∧ (t.site n).block = (s.site n).block)) ∧
        ((s.site n).arr.total ≤ (s.site n).arr.issued →
          (t.site n).valid = (s.site n).valid ∧ (t.site n).starve = (s.site n).starve ∧ (t.site n).block = (s.site n).block) ∧
        (∀ c w, s.tileUnit n = some (c, w) →
          WritesLanded ((s.slotsEnter n (s.site n).arr.total b d).accessing c) t (s.siteWrites n)))) ∧
    (∀ (s : State) (n v b d : Nat), ((s.site n).tile = none ∨ (s.site n).fenced = true ∨ holdsWrite s n = true ∨
        v ≠ (s.site n).arr.total ∨ asleep s ((s.siteWrites n).map (fun w => (w.1, 1))) = true) → exec (.tileComplete n v b d) s = .next s)

/-- O19. PART_COMPLETE, COMMAND_COMPLETE and CHECKPOINT_COMMIT. A part with nothing left to do (of work outside the cores, only
the lowest masked cluster's part waits for it) enters its collector and returns its credit, and the collector takes
one entry. A command whose parts are all collected leaves the commands in flight, and its context has its failure or
notes and its event counted as completed. A checkpoint commits when the twin has acknowledged its snapshot. (R290,
R291, R304, R305, R307, R365) -/
def Obligations.CompletionCollectsAndSignals : Prop :=
  (∀ (s : State) (id k : Nat) (c : Cmd), s.cmd? id = some c →
      c.staleAt s k = false → (c.phaseOf k = some .accepted ∨ c.phaseOf k = some .started) →
      (reportsWork c k = false ∨ (c.result.isSome = true ∧ clusterDone s c k = true ∧ ∀ h ∈ s.ms.held, h.cmd ≠ c.id)) →
      Gives (exec (.partComplete id k) s) (fun t => (t.cluster k).credits = (s.cluster k).credits + 1 ∧
        (t.cluster k).queue = (s.cluster k).queue.filter (· != id) ∧
        id ∈ (t.cluster k).collector ∧ (t.cmd? id).bind (fun d => d.phaseOf k) = some .collected ∧
        ((∀ j < 16, (s.cluster j).collector = []) → k < 16 → (t.cluster k).collector = [id] ∧ ∀ j, j ≠ k → t.cluster j = s.cluster j) ∧
        (∀ m, m ≠ id → t.cmd? m = s.cmd? m) ∧
        t = { s with clusters := t.clusters, cmds := t.cmds, collNext := t.collNext })) ∧
    (∀ (s : State) (id : Nat) (c : Cmd) (r : Res) (x : Ctx), s.cmd? id = some c → c.result = some r →
      s.ctx? c.ctx = some x → (c.parts.all (fun p => p.phase == .collected)) = true →
      (∀ h ∈ s.ms.held, h.cmd ≠ id) →
      isBoundary s x c = false → x.ckptCmd = none → c.coll = none →
      Gives (exec (.commandComplete id) s) (fun t => t.cmd? id = none ∧ t.ctx? c.ctx = some (x.afterCmd c r) ∧
        t.conns = s.conns ∧ t.graphs = s.graphs ∧ t.models = s.models)) ∧
    (∀ (s : State) (n : Nat) (x : Ctx) (sn : Snapshot), s.ctx? n = some x → x.ckptPending = some sn →
      Gives (exec (.checkpointCommit n) s) (fun t => CtxBecomes s t n { x with ckptPending := none, ckptDone := some sn }))

/-- O20. A codec command on its engine finishes its frame. CODEC_DEC runs once its command has an engine; CODEC_ENC also needs
its layers sampled and none held. The command gets a result, its engine is free, and no other command, connection,
context, graph or model changes. (R323, R329, R333, R337, R338) -/
def Obligations.CodecFramesFinish : Prop :=
  (∀ (s : State) (id : Nat) (pic : Picture) (c : Cmd) (e : Nat), opReady s id 0x11 = some c → c.codec.bind CodecRun.engine = some e →
      Gives (exec (.codecDec id pic) s) (fun t => FrameClosed s t id)) ∧
    (∀ (s : State) (id : Nat) (coded : Coded) (c : Cmd) (r : CodecRun), opReady s id 0x12 = some c → c.codec = some r →
      r.engine.isSome = true → r.sampled = true → r.holding = [] →
      Gives (exec (.codecEnc id coded) s) (fun t => FrameClosed s t id))

/-- O21. CODEC_ENGINE_START, CTU_BUDGET_EXPIRY, FRAME_BUDGET_EXPIRY, FRAME_BOUNDARY and HOLD_DEADLINE. The first queued codec
command that no earlier one of its session blocks takes the lowest idle engine of its direction and leaves its queue.
A guard that fires on a decode engine with a frame in progress notes its reason, the first reason stands. At its
boundary an encode command samples its layers once: those whose event is not satisfied are late, and the late ones
with policy HOLD are held; when the HOLD_US of a held layer has passed it leaves the hold without becoming ready.
Nothing but the command and the codec complex changes, and DEV_TIME, which has come to the event's time (log 21, the
model's reading). (R321, R328, R333, R338) -/
def Obligations.CodecEnginesGuardsAndLayers : Prop :=
  (∀ (s : State) (encode : Bool) (c : Cmd) (e : Nat), s.vcc.engines.length = 6 → nextCodec s encode = some c → idleEngine s encode = some e →
      Gives (exec (.codecEngineStart encode) s) (fun t => (t.vcc.engines.getD e Engine.reset).busy = true ∧
        (t.vcc.engines.getD e Engine.reset).cmd = some c.id ∧
        c.id ∉ (if encode then t.vcc.encQueue else t.vcc.decQueue) ∧
        (∀ k, k ≠ e → t.vcc.engines.getD k Engine.reset = s.vcc.engines.getD k Engine.reset) ∧
        t = { s with cmds := t.cmds, vcc := { s.vcc with engines := t.vcc.engines, decQueue := t.vcc.decQueue, encQueue := t.vcc.encQueue } })) ∧
    (∀ (s : State) (e id : Nat) (c : Cmd) (r : CodecRun), e < 4 → (s.vcc.engines.getD e Engine.reset).cmd = some id →
      s.cmd? id = some c → c.codec = some r →
      Gives (exec (.ctuBudgetExpiry e) s) (fun t => t = { s with cmds := t.cmds } ∧
        t.cmd? id = some { c with codec := some { r with abortReason := if r.abortReason = 0 then 1 else r.abortReason } }) ∧
      Gives (exec (.frameBudgetExpiry e) s) (fun t => t = { s with cmds := t.cmds } ∧
        t.cmd? id = some { c with codec := some { r with abortReason := if r.abortReason = 0 then 2 else r.abortReason } })) ∧
    (∀ (s : State) (id : Nat) (c : Cmd) (r : CodecRun) (x : Ctx), s.cmd? id = some c → c.opcode = 0x12 → c.codec = some r →
      c.result = none → r.sampled = false → s.ctx? c.ctx = some x →
      Gives (exec (.frameBoundary id) s) (fun t => ∃ d q, t.cmd? id = some d ∧ d.codec = some q ∧ q.sampled = true ∧
        (∀ j, j ∈ q.late ↔ ∃ l, (encLayers c)[j]? = some l ∧ x.satisfied l.event = false) ∧
        (∀ j, j ∈ q.holding ↔ ∃ l, (encLayers c)[j]? = some l ∧ x.satisfied l.event = false ∧ l.policy = 2) ∧
        q.boundaryNs = boundaryNs s c ∧ (∀ k, k ≠ id → t.cmd? k = s.cmd? k) ∧ t = { s with cmds := t.cmds, vcc := t.vcc, dev := { s.dev with timeNs := max s.dev.timeNs (boundaryNs s c) } })) ∧
    (∀ (s : State) (id j : Nat) (c : Cmd) (r : CodecRun) (l : Layer), s.cmd? id = some c → c.opcode = 0x12 → c.codec = some r →
      (encLayers c)[j]? = some l → j ∈ r.holding →
      Gives (exec (.holdDeadline id j) s) (fun t => ∃ d q, t.cmd? id = some d ∧ d.codec = some q ∧
        q.holding = r.holding.filter (· != j) ∧ q.ready = r.ready ∧ q.late = r.late ∧
        (∀ k, k ≠ id → t.cmd? k = s.cmd? k) ∧ t = { s with cmds := t.cmds, vcc := t.vcc, dev := { s.dev with timeNs := max s.dev.timeNs (r.boundaryNs + l.holdUs * 1000) } }))

/-- O22. While mirroring, a local action whose updates must cross first waits for their acknowledgement. For each row whose
effect R364 gates: while mirroring, when its action, taken after those that already wait, changes what the twin holds,
the updates are sent, the action is noted as waiting for the last of them under the number of the context it will
open, and no context, connection, command or byte of memory changes yet. A row that brings a message waits however
many like it wait already; another waits once. (R363, R364) -/
def Obligations.GatedRowsWaitForTheTwin : Prop :=
  ∀ (i : Instr) (s p : State), isGatedRow i = true → mirroring s = true → p = afterAwaited s → mirrorDiff p (localAction i p) ≠ [] →
    (isMessage i = true ∨ s.tlc.awaiting.any (fun a => a.2.isRow (· == i)) = false) →
    Gives (exec i s) (fun t => s.tlc.sendSeq < t.tlc.sendSeq ∧
      t.tlc.awaiting = s.tlc.awaiting ++ [(t.tlc.sendSeq, .row i (openedNum p (localAction i p)))] ∧
      t = { s with egress := t.egress, tlc := { s.tlc with sendSeq := t.tlc.sendSeq, awaiting := t.tlc.awaiting } })

/-- O23. DOORBELL writes ring slots and moves the two counts, or ignores and counts a value out of place. SQ_TAIL moves to a
value between itself and head + SQ_SLOTS, CQ_HEAD to one between itself and the last SEQ written to the client,
records still held for the twin not counted; another value is ignored and counted. A written slot holds its 64 bytes.
(R266, R267) -/
def Obligations.DoorbellsMoveTheCounts : Prop :=
  ∀ (s : State) (n : Nat) (c : Conn) (slots : List (Nat × Unit64)) (t h : Option Nat), s.conn? n = some c → c.attached = true →
    serving s = true → mirroring s = false → c.outq = [] →
    Gives (exec (.doorbell n slots t h) s) (fun u => ∃ d, u.conn? n = some d ∧ u = { s with conns := u.conns } ∧
      (∀ v, t = some v → c.sqTail ≤ v → v ≤ c.head + c.sqSlots → d.sqTail = v ∧ d.ignoredTail = c.ignoredTail) ∧
      (∀ v, t = some v → (v < c.sqTail ∨ c.head + c.sqSlots < v) → d.sqTail = c.sqTail ∧ d.ignoredTail = c.ignoredTail + 1) ∧
      (∀ v, h = some v → c.cqHead ≤ v → v ≤ c.lastWritten → d.cqHead = v ∧ d.ignoredHead = c.ignoredHead) ∧
      (∀ v, h = some v → (v < c.cqHead ∨ c.lastWritten < v) → d.cqHead = c.cqHead ∧ d.ignoredHead = c.ignoredHead + 1) ∧
      (t = none → d.sqTail = c.sqTail ∧ d.ignoredTail = c.ignoredTail) ∧ (h = none → d.cqHead = c.cqHead ∧ d.ignoredHead = c.ignoredHead) ∧
      (∀ k w, slots.getLast? = some (k, w) → w.length = 64 → d.slot k = w) ∧
      (∀ m, m ≠ n → u.conn? m = s.conn? m) ∧ d.head = c.head ∧ d.expected = c.expected ∧ d.nextSeq = c.nextSeq)

/-- O24. ITEM_CONSUME takes the item at the head, or reports the slots it skips; SENDs that wait for a context come first. With
all descriptors below SQ_TAIL, a free context and room in the completion ring, a well-formed header consumes its item:
the head moves past it and the next serial is expected, and a well-formed item other than a launch has its context. A
header whose type and serial are right and whose other bits are not is consumed with BAD_DESCRIPTOR. A header with the
wrong serial or type takes the slots up to the next good header and writes a ring record with RING_RESYNC. While SENDs
stand in the receive buffers, the first of them runs instead once a context is free. (R267, R268, R275) -/
def Obligations.ItemsAreConsumedInOrder : Prop :=
  ∀ (s : State) (n : Nat) (c : Conn), s.conn? n = some c → c.attached = true → serving s = true → mirroring s = false →
    s.tlc.promised = none → s.tlc.awaiting = [] →
    (∀ ds rest, c.sends = ds :: rest →
      (s.ctxs.length < 65536 → exec (.itemConsume n) s = .next (sendRow n ds (s.updConn n (fun d => { d with sends := rest })))) ∧
      (65536 ≤ s.ctxs.length → exec (.itemConsume n) s = .next s)) ∧
    (c.sends = [] → c.head < c.sqTail → c.outq = [] → hasRoom s c = true →
    (headerOk c (c.slot c.head) = true → c.head + itemLen (c.slot c.head) + 1 ≤ c.sqTail → s.ctxs.length < 65536 →
      ∀ descs, descs = (List.range (itemLen (c.slot c.head) + 1)).map (fun k => c.slot (c.head + k)) →
      Gives (exec (.itemConsume n) s) (fun t => ∃ d, t.conn? n = some d ∧ d.head = c.head + itemLen (c.slot c.head) + 1 ∧
        d.expected = (c.expected + 1) % 65536 ∧ d.sqTail = c.sqTail ∧
        (itemOk c descs = true → itemType (c.slot c.head) ≠ 1 → ∃ x, t.ctx? (lowestFree' (s.ctxs.map Ctx.num)) = some x ∧
          x.conn = n ∧ x.reqId = itemReq (c.slot c.head) ∧ x.typ = itemType (c.slot c.head) ∧ x.descs = descs) ∧
        SameBytes s t ∧ t.models = s.models ∧ t.cmds = s.cmds)) ∧
    (1 ≤ itemType (c.slot c.head) → itemType (c.slot c.head) ≤ 8 → itemSerial (c.slot c.head) = c.expected →
      headerOk c (c.slot c.head) = false → c.head + itemLen (c.slot c.head) + 1 ≤ c.sqTail → s.ctxs.length < 65536 →
      Gives (exec (.itemConsume n) s) (fun t => ∃ d o, t.conn? n = some d ∧ d.head = c.head + itemLen (c.slot c.head) + 1 ∧
        d.expected = (c.expected + 1) % 65536 ∧ d.nextSeq = c.nextSeq + 1 ∧
        o.res = .badDescriptor ∧ o.reqId = itemReq (c.slot c.head) ∧ o.typ = itemType (c.slot c.head) ∧
        Egress.record n (recordVa c c.nextSeq) (recordBytes s c.nextSeq o) ∈ t.egress ∧ t.ctxs = s.ctxs)) ∧
    ((c.sqTail < c.head + itemLen (c.slot c.head) + 1 ∨ 65536 ≤ s.ctxs.length) → headerOk c (c.slot c.head) = true →
      exec (.itemConsume n) s = .next s) ∧
    ((itemSerial (c.slot c.head) ≠ c.expected ∨ itemType (c.slot c.head) = 0 ∨ 8 < itemType (c.slot c.head)) →
      Gives (exec (.itemConsume n) s) (fun t => ∃ d o, t.conn? n = some d ∧
        d.head = c.head + skipped c (c.sqTail - c.head) c.head ∧ d.expected = c.expected ∧ d.nextSeq = c.nextSeq + 1 ∧
        o.res = .ringResync ∧ o.reqId = 0xFFFFFFFF ∧ o.typ = 0xFF ∧
        Egress.record n (recordVa c c.nextSeq) (recordBytes s c.nextSeq o) ∈ t.egress ∧ t.ctxs = s.ctxs)))

/-- O25. INSTANCE_ACQUIRE, RUN_GRAPH, INPUTS_PLACED, GRAPH_END and OUTPUTS_ACKNOWLEDGED. A queued launch that has pinned its
version takes the lowest free instance. With good entries it takes its scalars and instance offset and asks for its
inputs, in READs of at most 1 MiB, in order, one more only while fewer than 16 of its queue pair are outstanding.
Placed inputs lie at their slots and the graph starts at unit 0. A graph that has ended with nothing in flight and no
failure writes its outputs; one that failed completes with its first failure. Acknowledged outputs complete the launch
with its final RESULT. (R277, R291, R292, R299, R312, R280) -/
def Obligations.LaunchesRunFromInputToOutput : Prop :=
  (∀ (s : State) (n j : Nat) (x : Ctx), mirroring s = false → s.ctx? n = some x → x.typ = 1 → x.state = .queued → x.ver ≠ 0 →
      freeInstance s x = some j →
      Gives (exec (.instanceAcquire n) s) (fun t => CtxBecomes s t n { x with state := .input, inst := j, taken := true, startNs := s.dev.timeNs })) ∧
    (∀ (s : State) (n : Nat) (x : Ctx) (v : Version) (c : Conn), mirroring s = false → s.ctx? n = some x → launchVersion s x = some v →
      s.conn? x.conn = some c → x.typ = 1 → x.state = .input → x.reading = false →
      entryFailure c v (entriesOf x.descs) = none →
      ∃ y, exec (.runGraph n) s = .next (beginReads s y (ofKind 0 x.descs)) ∧ y = { x with sregs := y.sregs, reading := true } ∧
        (1 < v.instances → v.instReg < x.sregs.length → y.sreg v.instReg = BitVec.ofNat 64 (x.inst * v.instStride)) ∧
        (∀ e, ofKind 2 x.descs = [e] → (v.instances ≤ 1 ∨ e.slot ≠ v.instReg) → e.slot < x.sregs.length → y.sreg e.slot = BitVec.ofNat 64 e.va)) ∧
    (∀ (s t : State) (x z : Ctx) (es : List Entry) (ps : List (Nat × Nat × Nat × Nat)), s.ctx? x.num = some z →
      ps = es.flatMap readPieces → t = beginReads s x es → (∀ p ∈ ps, p.2.2.2 ≤ 0x100000) ∧
      ∃ k, t.ctx? x.num = some { x with toRead := ps.drop k, reads := (ps.take k).map Prod.fst } ∧ (∀ m, m ≠ x.num → t.ctx? m = s.ctx? m) ∧
        t = { s with ctxs := t.ctxs, egress := s.egress ++ (ps.take k).map (fun p => Egress.rdmaRead x.conn p.1 p.2.1 p.2.2.1 p.2.2.2) } ∧
        (∀ d, ((ps.take k).map Prod.fst).count d ≠ 0 →
          readsOut (s.setCtx { x with reads := [] }) x.conn d + ((ps.take k).map Prod.fst).count d ≤ 16) ∧
        (∀ p, ps[k]? = some p → 16 ≤ readsOut t x.conn p.1)) ∧
    (∀ (s : State) (n : Nat) (x : Ctx) (v : Version) (c : Conn) (r : Res), CanComplete s x c → s.ctx? n = some x → launchVersion s x = some v →
      x.typ = 1 → x.state = .input → x.reading = false → entryFailure c v (entriesOf x.descs) = some r →
      Gives (exec (.runGraph n) s) (fun t => RecordSent t x c r)) ∧
    (∀ (s q : State) (n : Nat) (data : List (List Byte)) (x : Ctx) (v : Version), mirroring s = false → s.ctx? n = some x →
      launchVersion s x = some v → x.state = .input → x.reading = true → isRestoring s n = false → dataFits x data = true →
      asleep s ((inputWrites v x data).map (fun p => (p.1, p.2.length))) = false →
      q = readsDone s x → ∀ ws, ws = (inputWrites v x data).flatMap (fun p => spread p.1 p.2) → (writeAll 0 true ws ws q).2 = none →
      Gives (exec (.inputsPlaced n data) s) (fun t => t.ctx? n = some { x with
          toRead := [], reads := [], state := .running, reading := false, issuing := true, pcGraph := x.graph, pcVer := x.ver, pc := 0 } ∧
        t.ms = (writeAll 0 true ws ws q).1.ms ∧ (∀ m, m ≠ n → t.ctx? m = s.ctx? m) ∧ t.conns = s.conns ∧ t.graphs = s.graphs ∧
        t.cmds = s.cmds ∧ t.egress = s.egress ++ x.toRead.map (fun p => Egress.rdmaRead x.conn p.1 p.2.1 p.2.2.1 p.2.2.2))) ∧
    (∀ (s : State) (n : Nat) (x : Ctx) (v : Version), mirroring s = false → s.ctx? n = some x → launchVersion s x = some v →
      x.state = .running → x.issuing = false → inFlight s n = [] →
      asleep s ((ofKind 1 x.descs).map (fun e => (slotVa v x e.slot, e.len))) = false → x.failure = none →
      ∀ outs : List (List Byte), (ofKind 1 x.descs).map (fun e => readBytes s (slotVa v x e.slot) e.len) = outs.map Except.ok →
      Gives (exec (.graphEnd n) s) (fun t => t.ctx? n = some { x with state := .output, detail := launchKey x } ∧
        t = { s with ctxs := t.ctxs, egress := s.egress ++
          List.zipWith (fun e b => Egress.rdmaWrite x.conn e.dqp e.rkey e.va b) (ofKind 1 x.descs) outs })) ∧
    (∀ (s : State) (n : Nat) (x : Ctx) (v : Version) (c : Conn) (r : Res), CanComplete s x c → s.ctx? n = some x → launchVersion s x = some v →
      x.state = .running → x.issuing = false → inFlight s n = [] →
      asleep s ((ofKind 1 x.descs).map (fun e => (slotVa v x e.slot, e.len))) = false → x.failure = some r →
      Gives (exec (.graphEnd n) s) (fun t => RecordSent t x c r)) ∧
    (∀ (s : State) (n : Nat) (x : Ctx) (c : Conn), CanComplete s x c → s.ctx? n = some x → x.state = .output →
      Gives (exec (.outputsAcknowledged n) s) (fun t => RecordSent t x c x.finalResult))

/-- O26. ABORT, FLUSH, QUERY and QUERY_PLAN. ABORT stops every live request with the target's REQ_ID: a running launch issues
no more and fails with ABORTED, any other but one whose result is being written completes, and one whose result is
being written fails. FLUSH moves the head to SQ_TAIL, completes the consumed items that have not started, and under
ABORT_RUNNING also stops what runs. QUERY and QUERY_PLAN write their result to BLOB 0. A SEND that carries one of them
acts as the ring item does on the context it opens; it waits in one of 64 receive buffers while no context is free,
meets receiver-not-ready when they are full, and completes with BAD_DESCRIPTOR when its type is none of the four.
(R267, R271, R275, R276, R126) -/
def Obligations.ControlRequestsAnswer : Prop :=
  (∀ (s : State) (n : Nat) (x : Ctx) (c : Conn), CanComplete s x c → s.ctx? n = some x → x.typ = 5 → x.state = .closing → isDone s x = false →
      ∀ hit, hit = stoppable s x.conn n (fun y => y.reqId == leAt (x.descs.getD 0 []) 8 4) →
      Gives (exec (.abort (.ctx n)) s) (fun t => (hit = [] → RecordSent t x c .ok) ∧
        (∀ m ∈ hit, ∀ y, s.ctx? m = some y →
          (y.typ = 1 → y.state = .running → ∃ z, t.ctx? m = some z ∧ z.failure = some (y.failure.getD .aborted) ∧ z.issuing = false) ∧
          (y.state = .output → ∃ z, t.ctx? m = some z ∧ z.failure = some (y.failure.getD .aborted)) ∧
          ((y.state = .queued ∨ y.state = .input ∨ (y.typ ≠ 1 ∧ y.state ≠ .output)) → ∀ z, t.ctx? m = some z → z.state = .closing)) ∧
        t.models = s.models)) ∧
    (∀ (s : State) (n : Nat) (x : Ctx) (c : Conn), CanComplete s x c → s.ctx? n = some x → x.typ = 6 → x.state = .closing → isDone s x = false →
      ∀ waiting runs, waiting = stoppable s x.conn n (notStarted s) → runs = stoppable s x.conn n (fun _ => true) →
      Gives (exec (.flush (.ctx n)) s) (fun t => (∃ d, t.conn? x.conn = some d ∧ d.head = c.sqTail) ∧
        (c.sqTail ≤ c.head → waiting = [] → (fld (x.descs.getD 0 []) 8 0 1 = 1 → runs = []) → RecordSent t x c .ok) ∧
        (∀ m ∈ waiting, ∀ y, s.ctx? m = some y → notStarted s y = true → ∀ z, t.ctx? m = some z → z.state = .closing) ∧
        (fld (x.descs.getD 0 []) 8 0 1 = 1 → ∀ m ∈ runs, m ∉ waiting → ∀ y, s.ctx? m = some y → y.typ = 1 → y.state = .running →
          ∃ z, t.ctx? m = some z ∧ z.failure = some (y.failure.getD .aborted) ∧ z.issuing = false) ∧ t.models = s.models)) ∧
    (∀ (s : State) (n : Nat) (x : Ctx) (c : Conn) (e : Entry), mirroring s = false → s.ctx? n = some x → s.conn? x.conn = some c →
      x.typ = 8 → x.state = .closing → isDone s x = false → blob x.descs 0 = some e →
      ∀ b, b = (queryBytes s c (leAt (x.descs.getD 0 []) 8 4) (leAt (x.descs.getD 0 []) 12 4)).take e.len →
      Gives (exec (.query (.ctx n)) s) (fun t => t.ctx? n = some { x with state := .output, detail := BitVec.ofNat 64 b.length } ∧
        t = { s with ctxs := t.ctxs, egress := s.egress ++ [.rdmaWrite x.conn e.dqp e.rkey e.va b] })) ∧
    (∀ (s : State) (n : Nat) (x : Ctx) (d : Unit64) (g : Graph) (v : Version) (us : List Unit64) (p : Plan) (e : Entry) (k : Cmd),
      mirroring s = false → s.ctx? n = some x → x.typ = 7 → x.state = .closing → isDone s x = false → blob x.descs 0 = some e →
      x.descs.getD 0 [] = d → s.graph? (fld d 8 0 12) = some g → g.deleted = false → g.version? g.cur = some v →
      (versionCmds v.segs).find? (fun c => c.1 == leAt d 12 4) = some (leAt d 12 4, us) →
      planCmd s (planContext s x (fld d 8 0 12) (leAt d 16 4)) us = k → k.opcode < 0x80 → opCheck s k = .ok () →
      planOf s k (((planContext s x (fld d 8 0 12) (leAt d 16 4)).map Ctx.kept).getD []) = some p →
      Gives (exec (.queryPlan (.ctx n)) s) (fun t => t.egress = s.egress ++ [.rdmaWrite x.conn e.dqp e.rkey e.va
          ((p.bytes (hdrMask k.u0) (s.enabledCores k.mask) k.frozen).take e.len)] ∧
        t = { s with ctxs := t.ctxs, egress := t.egress } ∧ ∃ y, t.ctx? n = some y ∧ y.state = .output)) ∧
    (∀ (s : State) (conn : Nat) (c : Conn) (descs : List Unit64) (d : Unit64), mirroring s = false → s.conn? conn = some c → c.attached = true →
      serving s = true → s.tlc.promised = none → s.tlc.awaiting = [] → s.ctxs.length < 65536 → c.outq = [] → c.held = [] → descs.getD 0 [] = d →
      itemSerial d = 0 → descs.length = itemLen d + 1 → itemReq d ≠ 0xFFFFFFFF → fld d 1 5 3 = 0 → itemOk c descs = true →
      ∀ m, m = lowestFree' (s.ctxs.map Ctx.num) →
      ∀ q, q = { s with ctxs := s.ctxs ++ [newCtx s m c descs] } →
      (itemType d = 5 → exec (.abort (.send conn descs)) s = exec (.abort (.ctx m)) q) ∧
      (itemType d = 6 → exec (.flush (.send conn descs)) s = exec (.flush (.ctx m)) q) ∧
      (itemType d = 7 → exec (.queryPlan (.send conn descs)) s = exec (.queryPlan (.ctx m)) q) ∧
      (itemType d = 8 → exec (.query (.send conn descs)) s = exec (.query (.ctx m)) q)) ∧
    (∀ (s : State) (conn : Nat) (c : Conn) (descs : List Unit64) (d : Unit64), mirroring s = false → s.conn? conn = some c → c.attached = true →
      serving s = true → descs.getD 0 [] = d →
      (65536 ≤ s.ctxs.length → ∀ i ∈ [(5, Instr.abort (.send conn descs)), (6, .flush (.send conn descs)), (7, .queryPlan (.send conn descs)),
          (8, .query (.send conn descs))], itemType d = i.1 →
        (c.sends.length < 64 → exec i.2 s = .next (s.updConn conn (fun e => { e with sends := e.sends ++ [descs] }))) ∧
        (64 ≤ c.sends.length → exec i.2 s = .next (s.emit (.receiverNotReady conn)))) ∧
      (s.ctxs.length < 65536 → (itemType d < 5 ∨ 8 < itemType d) → c.outq = [] → c.nextSeq - 1 - c.cqHead < c.cqRecords →
        Gives (exec (.abort (.send conn descs)) s) (fun t => t.ctxs = s.ctxs ∧ Egress.record conn (recordVa c c.nextSeq)
          (recordBytes s c.nextSeq (bareRec (itemReq d) (itemType d) (itemNotify d) .badDescriptor 0)) ∈ t.egress)))

/-- O27. LOAD_MODEL, UNLOAD_MODEL, STORE_GRAPH and PATCH_GRAPH on a Parvon that acts alone. With their BLOBs read and the
memory they take awake, the change takes effect and the request completes with its RESULT: the models are those after
the load, an unloaded model is gone, a stored or patched graph has its new current version. (R272, R311, R313, R316) -/
def Obligations.ModelAndGraphChangesComplete : Prop :=
  ∀ (s q : State) (n : Nat) (x : Ctx) (c : Conn) (d : Unit64), CanComplete s x c → paired s = false → isSecondary s = false → s.ctx? n = some x → x.descs.getD 0 [] = d →
    q = readsDone s x →
    x.state = .input → changeBusy s n = false →
    (∀ man w, x.typ = 2 → byteAt d 9 = 0 → blobFits x 0 man = true → blobFits x 1 w = true →
      loadAsleep s (loadModel s (byteAt d 8) man w).1 = false →
      Gives (exec (.loadModel n man w) s) (fun t => RecordSent t x c (loadModel q (byteAt d 8) man w).2.1 ∧
        t.models = (loadModel q (byteAt d 8) man w).1.models)) ∧
    (x.typ = 2 → byteAt d 9 = 1 → launchesOf s (byteAt d 8) = false →
      Gives (exec (.unloadModel n) s) (fun t => RecordSent t x c (if 1 ≤ byteAt d 8 ∧ byteAt d 8 ≤ 63 then .ok else .badDescriptor) ∧
        (1 ≤ byteAt d 8 → byteAt d 8 ≤ 63 → t.model? (byteAt d 8) = none) ∧
        (∀ k, k ≠ byteAt d 8 → t.model? k = s.model? k))) ∧
    (∀ img, x.typ = 3 → blobFits x 0 img = true →
      Gives (exec (.storeGraph n img) s) (fun t => RecordSent t x c (storeGraph q (fld d 8 0 12) (byteAt d 10) img).2.1 ∧
        (img ≠ [] → (storeGraph q (fld d 8 0 12) (byteAt d 10) img).2.1 = .ok →
          (t.graph? (fld d 8 0 12)).map Graph.cur = some (nextVersion (s.graph? (fld d 8 0 12)))) ∧ t.models = s.models)) ∧
    (∀ img g h, x.typ = 4 → blobFits x 0 img = true → s.holds.find? (fun h => h.graph == fld d 8 0 12) = some h → h.ctx = n →
      holdFits s h img = true → asleep s (patchSpans s (fld d 8 0 12) img) = false → s.graph? (fld d 8 0 12) = some g →
      Gives (exec (.patchGraph n img) s) (fun t => RecordSent t x c (patchGraph q (fld d 8 0 12) img).2.1 ∧
        ((patchGraph q (fld d 8 0 12) img).2.1 = .ok → (t.graph? (fld d 8 0 12)).map Graph.cur = some (g.cur + 1))))

/-- O28. CONNECTION_SETUP, RESUME, CONNECTION_CLOSE, UNATTACHED_CONNECTION_EXPIRY, REMOTE_ACCESS_NAK and CNP_RECEIVED. A good
CM REQ within the limits opens a connection with empty rings and serial 0, on the REQ's port, and its REP carries the
private data; any other is rejected. A data queue pair's REQ joins the connection it names on that connection's port
while one of its data queue pairs is missing, and is rejected otherwise. RESUME reattaches a mirrored connection and
rewrites the records above the client's CQ_HEAD with their notifications; an unknown, attached or unmirrored
connection is rejected. Closing removes the connection. A NAK and a rate limit leave the block on an attached
connection. While mirroring, the first four wait for the twin (GatedRowsWaitForTheTwin). (R262, R263, R264, R265,
R374) -/
def Obligations.ConnectionsOpenAndClose : Prop :=
  (∀ (s : State) (q : CmReq), q.resume = 0 → q.dataOf = none → serving s = true → mirroring s = false →
      (acceptsReq s q.addr = true → reqShapeOk q = true → fitsLimits s q 1 = true → s.conn? (connId s s.nextConn) = none →
        Gives (exec (.connectionSetup q) s) (fun t => ∃ c, t.conns = s.conns ++ [c] ∧ c.attached = true ∧ c.sqSlots = q.sqSlots ∧
          c.cqRecords = q.cqRecords ∧ c.cqVa = q.cqVa ∧ c.cqRkey = q.cqRkey ∧ c.port = q.port ∧ c.addr = q.addr ∧ c.dataQps = q.dataQps ∧ c.joined = 0 ∧
          c.head = 0 ∧ c.sqTail = 0 ∧ c.cqHead = 0 ∧ c.nextSeq = 1 ∧ c.expected = 0 ∧ c.id = connId s s.nextConn ∧
          t = { s with conns := t.conns, nextConn := s.nextConn + 1, egress := s.egress ++ [.cmRep c.id c.repBytes],
                       freeCtr := t.freeCtr })) ∧
      ((acceptsReq s q.addr = false ∨ reqShapeOk q = false ∨ fitsLimits s q 1 = false) →
        Gives (exec (.connectionSetup q) s) (fun t => t = { s with egress := s.egress ++ [.cmReject] }))) ∧
    (∀ (s : State) (q : CmReq) (k : Nat), q.dataOf = some k → serving s = true → mirroring s = false →
      (∀ c, s.conn? k = some c → q.supported = true → acceptsReq s q.addr = true → c.attached = true → q.port = c.port → c.joined < c.dataQps →
        Gives (exec (.connectionSetup q) s) (fun t => t.conn? k = some { c with joined := c.joined + 1 } ∧ (∀ m, m ≠ k → t.conn? m = s.conn? m) ∧
          t = { s with conns := t.conns, egress := s.egress ++ [.cmRep k []] })) ∧
      ((∀ c, s.conn? k = some c → (q.supported = false ∨ acceptsReq s q.addr = false ∨ c.attached = false ∨ q.port ≠ c.port ∨ c.dataQps ≤ c.joined)) →
        Gives (exec (.connectionSetup q) s) (fun t => t = { s with egress := s.egress ++ [.cmReject] }))) ∧
    (∀ (s : State) (q : CmReq), q.resume = 1 → q.dataOf = none → serving s = true → mirroring s = false →
      (∀ c, s.conn? q.resumeConn = some c → c.attached = false → c.mirroredPeer = true → acceptsReq s q.addr = true → reqShapeOk q = true →
        fitsLimits s q 0 = true → c.outq = [] →
        Gives (exec (.resume q) s) (fun t => ∃ d, t.conn? q.resumeConn = some d ∧ d.attached = true ∧ d.head = c.head ∧ d.sqTail = c.head ∧
          d.cqHead = max c.cqHead q.resumeCqHead ∧ d.held = [] ∧ d.nextSeq = c.nextSeq ∧ d.expected = c.expected ∧ d.port = q.port ∧ d.addr = q.addr ∧
          d.joined = 0 ∧ d.sqSlots = q.sqSlots ∧ d.cqVa = q.cqVa ∧ d.cqRecords = q.cqRecords ∧ Egress.cmRep c.id d.repBytes ∈ t.egress ∧
          (∀ h ∈ c.held, q.resumeCqHead < h.seq → Egress.record c.id (recordVa d h.seq) h.bytes ∈ t.egress ∧
            (h.notify = true → Egress.notify c.id (h.seq % 2 ^ 32) ∈ t.egress)) ∧ t.ctxs = s.ctxs)) ∧
      ((∀ c, s.conn? q.resumeConn = some c → (c.attached = true ∨ c.mirroredPeer = false ∨ acceptsReq s q.addr = false ∨ reqShapeOk q = false ∨
          fitsLimits s q 0 = false)) →
        Gives (exec (.resume q) s) (fun t => t = { s with egress := s.egress ++ [.cmReject] }))) ∧
    (∀ (s : State) (n : Nat) (c : Conn), s.conn? n = some c →
      (c.attached = true → mirroring s = false → Gives (exec (.connectionClose n) s) (fun t => t.conn? n = none ∧ Egress.closed n ∈ t.egress ∧ t.models = s.models)) ∧
      (c.attached = false → mirroring s = false → Gives (exec (.unattachedConnectionExpiry n) s) (fun t =>
        t.conn? n = none ∧ Egress.closed n ∈ t.egress ∧ t.models = s.models)) ∧
      (c.attached = true → serving s = true → ∀ k, Gives (exec (.remoteAccessNak n k) s) (fun t => t = { s with egress := s.egress ++ [.nak n k] })) ∧
      (c.attached = true → serving s = true → ∀ k, k ≤ c.dataQps → Gives (exec (.cnpReceived n k) s) (fun t =>
        (∃ d, t.conn? n = some d ∧ k ∈ d.rateLimited ∧ d = { c with rateLimited := d.rateLimited }) ∧
        t = { s with conns := t.conns, egress := s.egress ++ [.rateLimit n k] })))

/-- O29. COPY_COMPLETE and WORK_PAGE_MAPPED serve a held write. A WORK page that a held write waits for is mapped writable and
not copy-on-write, and the write is tried again; a write whose memory is asleep waits. When a copy is complete and the
page is still shared, the writer's entry maps the new page without copy-on-write; when it is no longer shared, the
entry keeps its page and the page taken for the copy goes back to be zero-filled. A line of the old page that cannot
be read ends the command with MEMORY_UNCORRECTED. A fault that waits for another's lock, or for memory that is asleep,
does nothing. (R188, R189, R196, R210, R211, R34) -/
def Obligations.HeldWritesFinish : Prop :=
  (∀ (s : State) (cmd va page level : Nat) (h : Held) (m : Model) (r : Range) (q : Nat × MemSys), pageBase s va = page →
      heldOf s cmd page false = some h →
      (pageAsleep (mapWork s page (workHome s h)) page = true → exec (.workPageMapped cmd va) s = .next s) ∧
      (leafOf s.ms.ptes page = none → rangeOf s.models page = some (m, r) →
      r.pageOf page = some (level, page) → placeModelPage s.ms m level page (workHome s h) = some q →
      pageAsleep (mapWork s page (workHome s h)) page = false →
      Gives (exec (.workPageMapped cmd va) s) (fun t => (∃ p, pteAt t.ms.ptes level (page >>> levelShift level) = some p ∧
        pteW p.word = true ∧ pteCow p.word = false) ∧ t.models = s.models ∧ t.conns = s.conns ∧
        t.graphs = s.graphs ∧ (∀ n, n ≠ h.cmd → t.cmd? n = s.cmd? n)))) ∧
    (∀ (s : State) (cmd va page : Nat) (h : Held), pageBase s va = page → heldOf s cmd page true = some h →
      (h.newPa = 0 ∨ pageAsleep s page = true ∨ paAsleep s h.newPa = true) → exec (.copyComplete cmd va) s = .next s) ∧
    (∀ (s : State) (cmd va page : Nat) (h : Held) (p : Pte), pageBase s va = page → heldOf s cmd page true = some h →
      h.newPa ≠ 0 → pageAsleep s page = false → paAsleep s h.newPa = false → leafOf s.ms.ptes page = some p → pteCow p.word = true →
      (∀ l c, 2 ≤ pteRef p.word → badIn s.ms h.lock 0x200000 = some l → s.cmd? cmd = some c → s.ms.held = [h] →
        Gives (exec (.copyComplete cmd va) s) (fun t => (t.cmd? cmd).map Cmd.result = some (some .memoryUncorrected) ∧
          t.ms.ptes = s.ms.ptes ∧ SameBytes s t)) ∧
      (2 ≤ pteRef p.word → badIn s.ms h.lock 0x200000 = none → h.newPa % 0x10000 = 0 → h.newPa < 2 ^ 48 →
        Gives (exec (.copyComplete cmd va) s) (fun t => (∃ q, pteAt t.ms.ptes p.level p.idx = some q ∧ ptePa q.word = h.newPa ∧
          pteCow q.word = false) ∧ t.models = s.models ∧ t.conns = s.conns ∧
          (∀ n, n ≠ h.cmd → (∀ k ∈ s.ms.held, k.cmd ≠ n) → t.cmd? n = s.cmd? n))) ∧
      (pteRef p.word ≤ 1 →
        Gives (exec (.copyComplete cmd va) s) (fun t => (∃ q, pteAt t.ms.ptes p.level p.idx = some q ∧ ptePa q.word = ptePa p.word ∧
          pteCow q.word = false) ∧ t.models = s.models ∧ t.conns = s.conns ∧
          (s.ms.usedPages.contains (h.newPa / 0x200000) = true → s.ms.held = [h] → s.ms.tlbs = [] →
            (∀ w ∈ h.writes, leafOf s.ms.ptes w.1 = some p) → h.newPa / 0x200000 ∈ t.ms.zeroing))))

/-- O30. WALK_COMPLETE fills its TLB or records the fault. A well-formed entry that permits the access enters the TLB, the
pointers met enter the walk cache, and nothing else changes; a WORK page not yet mapped is no fault. A missing entry
outside WORK ranges, or a malformed one, is logged as a translation fault on the TLB's page; a write without W as a
protection fault. A walk of a TLB that is OFF, or while the hub's is, does nothing. (R203, R204, R206) -/
def Obligations.WalksFillOrFault : Prop :=
  ∀ (s : State) (tlb va : Nat) (w : Bool), tlb ≤ 16 →
    ((tlbUp s tlb = false ∨ tlbUp s 16 = false) → exec (.walkComplete tlb va w) s = .next s) ∧
    (tlbUp s tlb = true → tlbUp s 16 = true →
    (∀ p, leafOf s.ms.ptes va = some p → pteMalformed p = false → (w = false ∨ pteW p.word = true) →
      Gives (exec (.walkComplete tlb va w) s) (fun t => p ∈ (alFind tlb t.ms.tlbs).getD [] ∧
        (∀ n, n ≠ tlb → alFind n t.ms.tlbs = alFind n s.ms.tlbs) ∧ t = { s with freeCtr := t.freeCtr, ms := { s.ms with tlbs := t.ms.tlbs, walkCache := t.ms.walkCache } })) ∧
    (leafOf s.ms.ptes va = none → (∃ m r, rangeOf s.models va = some (m, r) ∧ r.kind = 1) →
      Gives (exec (.walkComplete tlb va w) s) (fun t => t = { s with freeCtr := t.freeCtr, ms := { s.ms with walkCache := t.ms.walkCache } })) ∧
    (((∃ p, leafOf s.ms.ptes va = some p ∧ pteMalformed p = true) ∨
        (leafOf s.ms.ptes va = none ∧ ∀ m r, rangeOf s.models va = some (m, r) → r.kind ≠ 1)) →
      Gives (exec (.walkComplete tlb va w) s) (fun t => t.ms = { s.ms with walkCache := t.ms.walkCache } ∧
        (t.hdr (tlbPage tlb)).last = captureWord 1 0x14 va ∧ (t.hdr (tlbPage tlb)).uncorrected = satInc16 (s.hdr (tlbPage tlb)).uncorrected)) ∧
    (∀ p, leafOf s.ms.ptes va = some p → pteMalformed p = false → w = true → pteW p.word = false →
      Gives (exec (.walkComplete tlb va w) s) (fun t => SameBytes s t ∧ t.ms.ptes = s.ms.ptes ∧
        (t.hdr (tlbPage tlb)).last = captureWord 1 0x15 va)))

/-- O31. STAGING_COPY_COMPLETE, POOL_PAGE_ZERO_FILL, SCRUB and DIE_MARKED_FAILED. A good staging copy marks its command staged,
with the bytes it copied; one that fails, or fails its CRC twice, ends the command; one whose memory is asleep, or
with no free staging buffer, waits. A page that waits for its zero-fill reads 0 throughout afterwards and every other
byte reads as before; a page that is asleep waits. A scrub pass over a stack base that is ON ends at 100 per cent with
every uncorrectable line of the partition known and its margin noted, and changes no byte outside lines beyond the
code's bounds; over another it changes nothing. A die with corrected errors on more than 1,024 lines within 24 h is
marked failed in its partition and raises one ERRLOG onset; any other is not. (R183, R195, R196, R213, R394, R399,
R459) -/
def Obligations.MemoryHousekeeping : Prop :=
  (∀ (s : State) (id : Nat) (c : Cmd), s.cmd? id = some c → c.needsStaging = true → c.staged = false → c.result = none →
      ((asleep s ((spilledRead s c).map (fun t => (t.2.va, t.2.bytes))) = true ∨ bufferFree s c = false) →
        exec (.stagingCopyComplete id) s = .next s) ∧
      (asleep s ((spilledRead s c).map (fun t => (t.2.va, t.2.bytes))) = false → bufferFree s c = true →
      (stagingFault s c = none → (∀ i, copyFails s c ≠ some (i, true)) → Gives (exec (.stagingCopyComplete id) s) (fun t =>
        t.cmd? id = some { c with staged := true, stagedData := stagingCopy s c } ∧ (∀ n, n ≠ id → t.cmd? n = s.cmd? n) ∧ t.ms = s.ms ∧
        (copyFails s c = none → t = { s with cmds := t.cmds, freeCtr := t.freeCtr }))) ∧
      ((stagingFault s c ≠ none ∨ ∃ i, copyFails s c = some (i, true)) → Gives (exec (.stagingCopyComplete id) s) (fun t =>
        (∃ d r, t.cmd? id = some d ∧ d.result = some r) ∧ t.ms = s.ms ∧ t.conns = s.conns)))) ∧
    (∀ (s : State) (page : Nat), s.ms.zeroing.contains page = true →
      (paAsleep s (page * 0x200000) = true → exec (.poolPageZeroFill page) s = .next s) ∧
      (paAsleep s (page * 0x200000) = false → Gives (exec (.poolPageZeroFill page) s) (fun t => page ∉ t.ms.zeroing ∧
        (∀ a, page * 0x200000 ≤ a → a < page * 0x200000 + 0x200000 → memGet t.ms.mem a = 0) ∧
        SameBytesOutside s t (page * 0x200000) 0x200000 ∧
        (∀ l, l ∈ t.ms.badLines ↔ l ∈ s.ms.badLines ∧ ¬(page * 0x200000 ≤ l ∧ l < page * 0x200000 + 0x200000)) ∧
        t = { s with ms := { s.ms with zeroing := t.ms.zeroing, mem := t.ms.mem, badLines := t.ms.badLines } }))) ∧
    (∀ (s : State) (p margin : Nat) (n : List LineErr) (bad : List Nat), p < 256 →
      ((s.stkIsl (p / 64)).state ≠ .on → exec (.scrub p n bad margin) s = .next s) ∧
      ((s.stkIsl (p / 64)).state = .on →
      Gives (exec (.scrub p n bad margin) s) (fun t => (t.part p).scrubPercent = 100 ∧ (t.part p).lastPassH = 0 ∧
        (t.part p).marginPct = margin ∧ (t.part p).dieFailed = (s.part p).dieFailed ∧ (∀ q, q ≠ p → t.part q = s.part q) ∧
        (∀ a ∈ bad, a / 64 * 64 < 0x1000000000 → paPartition (a / 64 * 64) = p → a / 64 * 64 ∈ t.ms.badLines) ∧
        (∀ a ∈ s.ms.badLines, a ∈ t.ms.badLines) ∧
        t.wear.history = ⟨1, p, s.wear.pastNs + s.dev.timeNs, margin⟩ :: s.wear.history ∧
        (∀ a, (∀ e ∈ n, correctable (s.part p).dieFailed e = false → a / 64 ≠ e.line / 64) → memGet t.ms.mem a = memGet s.ms.mem a)))) ∧
    (∀ (s : State) (p d : Nat), dieErrors s p d ≤ 1024 → exec (.dieMarkedFailed p d) s = .next s) ∧
    (∀ (s : State) (p d : Nat), p < 256 → d < 10 → 1024 < dieErrors s p d → s.attn.counts.length = 11 →
      Gives (exec (.dieMarkedFailed p d) s) (fun t => (t.part p).dieFailed.getLsbD d = true ∧ (∀ q, q ≠ p → t.part q = s.part q) ∧
        t.attn.counts.getD attnERRLOG 0 = s.attn.counts.getD attnERRLOG 0 + 1 ∧ t.ms = s.ms))

/-- O32. What raises an onset of ATTN ERRLOG. Every uncorrected-contained or fatal error raises exactly one onset of ERRLOG
whether it folds or opens an entry; so do a die marking, a link retrain and a refused alias entry. A corrected error
is only counted, under the event mask of R447. (R394) -/
def Obligations.ErrorsRaiseOneOnset : Prop :=
  ∀ s : State, s.attn.counts.length = 11 →
    (∀ page cls typ result detail : Nat, (cls = 1 ∨ cls = 2) →
      (s.logError page cls typ result detail).attn.counts.getD attnERRLOG 0 = s.attn.counts.getD attnERRLOG 0 + 1 ∧
      (s.logError page cls typ result detail).attn.pending.getLsbD attnERRLOG = true) ∧
    (∀ page typ result detail : Nat, (s.hdr page).evmask.getLsbD 8 = true →
      (s.logError page 0 typ result detail).attn = s.attn ∧
      ((s.logError page 0 typ result detail).hdr page).corrected = satInc16 (s.hdr page).corrected) ∧
    (∀ p d, p < 256 → d < 10 → 1024 < dieErrors s p d → Gives (exec (.dieMarkedFailed p d) s) (fun t =>
      t.attn.counts.getD attnERRLOG 0 = s.attn.counts.getD attnERRLOG 0 + 1)) ∧
    (∀ link frame : Nat, (s.hdr (if link < 6 then 0x0B00 else 0x0C00)).evmask.getLsbD 8 = true →
      (s.fre.links.getD link Link.reset).lastFrame = frame → (s.fre.links.getD link Link.reset).replays = 15 →
      Gives (exec (.frameCrcError link frame) s) (fun t =>
        t.attn.counts.getD attnERRLOG 0 = s.attn.counts.getD attnERRLOG 0 + 1)) ∧
    (∀ failed survivor : Nat, (s.hdr 0x0B00).evmask.getLsbD 8 = true → alFind failed s.fre.aliases = none → 32 ≤ s.fre.aliases.length →
      Gives (exec (.aliasAnnouncement failed survivor) s) (fun t =>
        t.attn.counts.getD attnERRLOG 0 = s.attn.counts.getD attnERRLOG 0 + 1 ∧ t.fre = s.fre))

/-- O33. DIGEST, GO, MISMATCH, ABANDON and HANDSHAKE_TIMEOUT. Rank 0 keeps a digest until all are there and then sends every
rank GO when they agree and MISMATCH when they do not. Each message goes by its way to the rank's coordinates (R342).
GO moves the data of a member that passed its checks and whose turn for slots it is, and makes it wait otherwise;
MISMATCH ends a member with its own failure or COLLECTIVE_MISMATCH and is counted; ABANDON and the timeout end it with
FABRIC_TIMEOUT. (R342, R349, R351) -/
def Obligations.CollectiveVerdicts : Prop :=
  (∀ (s : State) (g tag rank : Nat) (v : DWord) (c : Cmd) (k : Coll) (q : State), q = putDigest s ⟨g, tag, rank, v⟩ →
      rankZeroCmd q g tag = some c → c.coll = some k →
      (∀ r < k.p, ∃ d ∈ digestsOf q g tag, d.rank = r) →
      ((∀ d ∈ digestsOf q g tag, ∀ e ∈ digestsOf q g tag, d.value = e.value) →
        Gives (exec (.digest g tag rank v) s) (fun t => t.egress = s.egress ++ toRanks q c k (List.range k.p) (fun w r => .go w g tag r) ∧
          digestsOf t g tag = [] ∧ t = { s with fre := { s.fre with digests := t.fre.digests }, egress := t.egress })) ∧
      ((∃ r < k.p, ((digestsOf q g tag).find? (fun d => d.rank == r)).map DigestRec.value ≠
          ((digestsOf q g tag).find? (fun d => d.rank == 0)).map DigestRec.value) →
        Gives (exec (.digest g tag rank v) s) (fun t =>
          t.egress = s.egress ++ toRanks q c k (List.range k.p) (fun w r => .mismatch w g tag r)))) ∧
    (∀ (s : State) (g tag : Nat) (c : Cmd) (k : Coll), awaiting s g tag = some c → c.coll = some k →
      (∀ inp res, k.localCheck = none → slotTurn s c = true →
        Gives (exec (.go g tag inp res) s) (fun t => ∃ d r, t.cmd? c.id = some d ∧ d.result = some r)) ∧
      (∀ inp res r, k.localCheck = some r → Gives (exec (.go g tag inp res) s) (fun t =>
        ((t.cmd? c.id).map Cmd.result) = some (some r) ∧ t = { s with cmds := t.cmds })) ∧
      (∀ inp res, k.localCheck = none → slotTurn s c = false →
        Gives (exec (.go g tag inp res) s) (fun t => t = { s with cmds := t.cmds } ∧ t.cmd? c.id =
          (s.cmd? c.id).map (fun d => { d with coll := some { k with phase := .wantSlots, inputs := inp, residue := res } }))) ∧
      Gives (exec (.mismatch g tag) s) (fun t => t.fre.mismatch = s.fre.mismatch.bump 1 ∧
        ((t.cmd? c.id).map Cmd.result) = some (some (k.localCheck.getD .collectiveMismatch)) ∧ (∀ n, n ≠ c.id → t.cmd? n = s.cmd? n) ∧
        t.ms = s.ms ∧ t.egress = s.egress) ∧
      Gives (exec (.abandon g tag) s) (fun t => ((t.cmd? c.id).map Cmd.result) = some (some .fabricTimeout) ∧ t = { s with cmds := t.cmds }) ∧
      Gives (exec (.handshakeTimeout g tag) s) (fun t => ((t.cmd? c.id).map Cmd.result) = some (some .fabricTimeout) ∧
        (k.rank = 0 → t.egress = s.egress ++ toRanks s c k ((List.range k.p).drop 1) (fun w r => .abandon w g tag r)) ∧
        (k.rank ≠ 0 → t.egress = s.egress) ∧ t.ms = s.ms ∧ t.conns = s.conns))

/-- O34. REDUCTION_SLOT_GRANT, DATA_TIMEOUT and COLLECTIVE_ABORT. A waiter takes slots once they are free and no collective
issued before it still wants its own, and its data moves. A data timeout ends the collective with FABRIC_TIMEOUT and
tells the other ranks; an abort ends it with the abort's code, also while it still awaits its verdict. Its slots are
free again. (R349, R350, R351) -/
def Obligations.CollectiveDataEnds : Prop :=
  (∀ (s : State) (c : Cmd) (k : Coll), s.cmd? c.id = some c → c.coll = some k → k.phase = .wantSlots → c.result = none →
      slotTurn s c = true → Gives (exec (.reductionSlotGrant c.id) s) (fun t => (∃ d r, t.cmd? c.id = some d ∧ d.result = some r) ∧
        (∀ n, n ≠ c.id → t.cmd? n = s.cmd? n) ∧ t.conns = s.conns ∧ t.models = s.models)) ∧
    (∀ (s : State) (g tag : Nat) (c : Cmd) (k : Coll), started s g tag = some c → s.cmd? c.id = some c → c.coll = some k →
      Gives (exec (.dataTimeout g tag) s) (fun t => (∃ d, t.cmd? c.id = some d ∧ d.result = some .fabricTimeout ∧
          d.coll.map Coll.slots = some 0) ∧
        t.egress = s.egress ++ toRanks s c k ((List.range k.p).filter (· != k.rank)) (fun w r => .collAbort w k.group k.tag r 0x202) ∧
        (∀ n, n ≠ c.id → t.cmd? n = s.cmd? n)) ∧
      (∀ code, Gives (exec (.collectiveAbort g tag code) s) (fun t => ∃ d, t.cmd? c.id = some d ∧
        d.result = some (if code = 0x201 then .reduceCheck else .fabricTimeout) ∧ d.coll.map Coll.slots = some 0))) ∧
    (∀ (s : State) (g tag code : Nat) (c : Cmd), started s g tag = none → awaiting s g tag = some c →
      Gives (exec (.collectiveAbort g tag code) s) (fun t =>
        t = { s with cmds := t.cmds, fre := { s.fre with digests := t.fre.digests } } ∧
        (t.cmd? c.id).map Cmd.result = some (some (if code = 0x201 then .reduceCheck else .fabricTimeout))))

/-- O35. FRAME_CRC_ERROR, LINK_TRAINING, LANE_LOSS, ALIAS_ANNOUNCEMENT and ALIAS_REMOVAL. A bad frame is replayed and counted
as consecutive for the same frame only; the sixteenth sends the link to retrain. A used link comes up in the state of
its lanes when the far end is the neighbour the torus gives; otherwise it is marked bad. A lane loss leaves the link
on two lanes while two are left, and down with fewer. An alias is installed and removed. (R340, R341, R355, R356,
R358) -/
def Obligations.LinksTrainReplayAndLoseLanes : Prop :=
  (∀ (s : State) (i frame : Nat) (l : Link), s.fre.links[i]? = some l →
      ∀ n, n = (if l.lastFrame = frame ∧ l.replays ≠ 0 then l.replays + 1 else 1) →
      (n < 16 → Gives (exec (.frameCrcError i frame) s) (fun t => t.fre.links[i]? = some { l with replays := n, lastFrame := frame } ∧
        t.egress = s.egress ++ [.frameReplay i frame])) ∧
      (16 ≤ n → Gives (exec (.frameCrcError i frame) s) (fun t =>
        t.fre.links[i]? = some { l with replays := 0, lastFrame := frame, state := 0 } ∧
        t.egress = s.egress ++ [.frameReplay i frame, .retrain i]))) ∧
    (∀ (s : State) (i : Nat) (l : Link) (f : FarEnd), s.fre.links[i]? = some l → s.fre.coordValid = true → i < 6 →
      1 < (torusExt s).getD (i / 2) 1 →
      (([f.coord.1, f.coord.2.1, f.coord.2.2] = neighbourOf s i ∧ [f.extents.1, f.extents.2.1, f.extents.2.2] = torusExt s) →
        Gives (exec (.linkTraining i f) s) (fun t =>
          t.fre.links[i]? = some { l with lanes := min f.lanes 4, state := laneState f.lanes, bad := false, replays := 0 } ∧
          t = { s with fre := { s.fre with links := t.fre.links } })) ∧
      (([f.coord.1, f.coord.2.1, f.coord.2.2] ≠ neighbourOf s i ∨ [f.extents.1, f.extents.2.1, f.extents.2.2] ≠ torusExt s) →
        Gives (exec (.linkTraining i f) s) (fun t => t.fre.links[i]? = some { l with state := 0, bad := true } ∧ t.ms = s.ms))) ∧
    (∀ (s : State) (i k : Nat) (l : Link), s.fre.links[i]? = some l → l.state ≠ 0 → 1 ≤ k →
      Gives (exec (.laneLoss i k) s) (fun t => t.fre.links[i]? = some { l with
          lanes := l.lanes - k, state := if 4 ≤ l.lanes - k then 2 else if 2 ≤ l.lanes - k then 1 else 0 } ∧
        (∀ j, j ≠ i → t.fre.links[j]? = s.fre.links[j]?) ∧ t = { s with fre := { s.fre with links := t.fre.links } })) ∧
    (∀ (s : State) (a b : Nat), (alFind a s.fre.aliases ≠ none ∨ s.fre.aliases.length < 32) →
      Gives (exec (.aliasAnnouncement a b) s) (fun t => alFind a t.fre.aliases = some b ∧
        (∀ x, x ≠ a → alFind x t.fre.aliases = alFind x s.fre.aliases))) ∧
    (∀ (s : State) (a : Nat), Gives (exec (.aliasRemoval a) s) (fun t => alFind a t.fre.aliases = none ∧
        (∀ x, x ≠ a → alFind x t.fre.aliases = alFind x s.fre.aliases) ∧ t = { s with fre := { s.fre with aliases := t.fre.aliases } }))

/-- O36. MIRROR_UPDATE and MIRROR_ACKNOWLEDGEMENT. The next update in order is applied to the mirrored state, or to the models
and graphs when it changes or copies them, and acknowledged; one out of order changes nothing. An acknowledgement ends
the wait of everything sent up to it: a record that waited reaches the client, and an action that waited happens.
(R362, R363, R364, R375, R376) -/
def Obligations.TwinUpdatesCrossInOrder : Prop :=
  (∀ (s : State) (u : Mirror), paired s = true → s.tlc.linkUp = true → s.hub.state = .on → isChange u = false → isCopy u = false →
      Gives (exec (.mirrorUpdate (s.tlc.applied + 1) u) s) (fun t => t.tlc = { receiveState s.tlc u with applied := s.tlc.applied + 1 } ∧
        t = { s with tlc := t.tlc, egress := s.egress ++ [.mirrorAck (s.tlc.applied + 1)] })) ∧
    (∀ (s : State) (u : Mirror) (r : State × Res × Nat), paired s = true → s.tlc.linkUp = true → s.hub.state = .on → isChange u = true →
      (s.tlc.pair.map PairRec.role) = some 0 → applyChange s u = some r →
      Gives (exec (.mirrorUpdate (s.tlc.applied + 1) u) s) (fun t => t.models = r.1.models ∧ t.graphs = r.1.graphs ∧ t.ms = r.1.ms ∧
        t.tlc.applied = s.tlc.applied + 1 ∧ Egress.mirrorAck (s.tlc.applied + 1) ∈ t.egress)) ∧
    (∀ (s q : State) (u : Mirror), paired s = true → s.tlc.linkUp = true → s.hub.state = .on → isCopy u = true → receiveCopy s u = some q →
      Gives (exec (.mirrorUpdate (s.tlc.applied + 1) u) s) (fun t => t.models = q.models ∧ t.graphs = q.graphs ∧ t.ms = q.ms ∧
        t.tlc.applied = s.tlc.applied + 1 ∧ t.egress = q.egress ++ [.mirrorAck (s.tlc.applied + 1)])) ∧
    (∀ (s : State) (u : Mirror) (n : Nat), n ≠ s.tlc.applied + 1 → exec (.mirrorUpdate n u) s = .next s) ∧
    (∀ (s q : State) (n : Nat) (i : Instr) (m : Option Nat), n ≤ s.tlc.sendSeq → s.tlc.linkUp = true → s.tlc.awaiting = [(n, .row i m)] →
      q = localAction i { s with tlc := { s.tlc with awaiting := [], promised := m } } →
      exec (.mirrorAcknowledgement n) s = .next { q with tlc := { q.tlc with promised := none } }) ∧
    (∀ (s : State) (n k seq : Nat) (c : Conn) (h : HeldRec), n ≤ s.tlc.sendSeq → s.tlc.linkUp = true →
      s.tlc.awaiting = [(n, .record k seq)] → s.conn? k = some c → c.attached = true → c.held.find? (fun x => x.seq == seq) = some h →
      Gives (exec (.mirrorAcknowledgement n) s) (fun t => t.tlc.awaiting = [] ∧
        Egress.record c.id (recordVa c h.seq) h.bytes ∈ t.egress))

/-- O37. HEARTBEAT, LINK_LOSS, SIDEBAND_LOSS and SIDEBAND_RETURN. A heartbeat leaves every time it is due while the HUB is ON,
and the sideband output toggles. A link lost with the sideband alive degrades a serving pair with ATTN TWIN_DEGRADED;
a sideband lost with the link up is logged; both lost is a takeover with its alias, its announcements and one ATTN
TAKEOVER, but a primary in active-standby is only degraded. (R361, R371, R372, R377) -/
def Obligations.TwinLivenessAndLoss : Prop :=
  (∀ s : State, s.tlc.pair.isSome = true → s.hub.state = .on → Gives (exec .heartbeat s) (fun t =>
      t.tlc.lastHbNs = s.dev.timeNs ∧ t.tlc.aliveOut = !s.tlc.aliveOut ∧
      t.tlc.hbLate = s.tlc.hbLate.bump (if s.tlc.lastHbNs ≠ 0 ∧ s.tlc.lastHbNs + 60000 < s.dev.timeNs then 1 else 0) ∧
      t = { s with egress := s.egress ++ [.heartbeat], tlc := { s.tlc with hbLate := t.tlc.hbLate, lastHbNs := t.tlc.lastHbNs, aliveOut := t.tlc.aliveOut } })) ∧
    (∀ s : State, s.tlc.linkUp = true → s.tlc.aliveIn = true → (s.tlc.tstate = 1 ∨ s.tlc.tstate = 2) → s.tlc.awaiting = [] →
      Gives (exec .linkLoss s) (fun t => t.tlc.linkUp = false ∧ t.tlc.tstate = 3 ∧ t.tlc.stale = true ∧
        t.attn.cause.getLsbD attnTWIN = true ∧ t.conns = s.conns ∧ t.ms = s.ms ∧ (∀ x ∈ t.ctxs, x.mirror = true → x.stale = true))) ∧
    (∀ s : State, s.tlc.linkUp = true → s.tlc.aliveIn = true → Gives (exec .sidebandLoss s) (fun t => t.tlc.aliveIn = false ∧
        t.tlc.tstate = s.tlc.tstate ∧ t.attn.pending.getLsbD attnERRLOG = true ∧ t.conns = s.conns ∧ t.ms = s.ms)) ∧
    (∀ (s : State) (p : PairRec), s.tlc.pair = some p → 1 ≤ s.tlc.tstate → s.tlc.tstate ≤ 3 → s.hub.state = .on →
      (p.mode = 0 ∨ p.role = 1) → p.mode ≤ 1 →
      (s.tlc.linkUp = true → s.tlc.aliveIn = false → Gives (exec .linkLoss s) (fun t => TookOver s t p)) ∧
      (s.tlc.linkUp = false → s.tlc.aliveIn = true → Gives (exec .sidebandLoss s) (fun t => TookOver s t p))) ∧
    (∀ (s : State) (p : PairRec), s.tlc.pair = some p → p.mode = 1 → p.role = 0 → s.tlc.linkUp = false → s.tlc.aliveIn = true →
      1 ≤ s.tlc.tstate → s.tlc.tstate ≤ 3 → s.hub.state = .on → Gives (exec .sidebandLoss s) (fun t => t.tlc.tstate = 3)) ∧
    (∀ s : State, Gives (exec .sidebandReturn s) (fun t => t = { s with tlc := { s.tlc with aliveIn := true } }))

/-- O38. ADDRESS_CONFLICT, YIELD, LINK_RETURN, RESYNC_READ_RETRY, ADDRESS_HAND_BACK and RESTORE_COMPLETE. A secondary that sees
a conflict with the link down yields, its HUB goes OFF; a primary announces its own addresses again. A YIELD makes a
paired Parvon yield. When the link returns a twin that does not match ends the pair; else the highest common protocol
is chosen, and with one a new mirror epoch opens one above both, but a secondary whose twin reads as well first has
its resync read refused, and the retry brings mirroring; without one the pair stays degraded. An address goes back
once no attached connection remains on it. A restored context reissues from its snapshot with its inputs and images in
place and the rest of its WORK memory zero. (R360, R367, R368, R370, R372, R373, R375, R376, R432) -/
def Obligations.TwinYieldsAndRejoins : Prop :=
  (∀ (s : State) (p : PairRec) (a : Nat), s.tlc.pair = some p → s.tlc.linkUp = false → s.hub.state = .on → s.tlc.tstate ≠ 0 →
      (s.tlc.ownAddrs.contains a = true → p.role = 1 → Gives (exec (.addressConflict a) s) (fun t => t.tlc.tstate = 5 ∧ t.hub.state = .off ∧ t.conns = [] ∧ t.ctxs = [])) ∧
      (s.tlc.ownAddrs.contains a = true → p.role ≠ 1 → Gives (exec (.addressConflict a) s) (fun t =>
        t = { s with egress := s.egress ++ s.tlc.ownAddrs.flatMap (fun b =>
          [.announce 0 b (decide (2 ^ 32 ≤ b)), .announce 1 b (decide (2 ^ 32 ≤ b))]) })) ∧
      (s.tlc.ownAddrs.contains a = false → exec (.addressConflict a) s = .next s)) ∧
    (∀ s : State, s.tlc.pair.isSome = true → s.tlc.tstate ≠ 0 → s.tlc.linkUp = true → s.hub.state = .on →
      Gives (exec .yieldMsg s) (fun t => t.tlc.tstate = 5 ∧ t.hub.state = .off ∧ t.conns = [] ∧ t.ctxs = [])) ∧
    (∀ (s : State) (p : PairRec) (w : TwinHello), s.tlc.linkUp = false → s.hub.state = .on → s.tlc.pair = some p →
      (s.tlc.tstate = 1 ∨ s.tlc.tstate = 3 ∨ s.tlc.tstate = 4) →
      ∀ fits, fits = (w.serial = p.twinSerial ∧ w.names = p.ownSerial ∧ p.role ≠ w.role ∧ p.mode = w.mode) →
      (¬fits → Gives (exec (.linkReturn w) s) (fun t => t.tlc.pair = none ∧ t.tlc.tstate = 0 ∧ t.tlc.linkUp = true ∧
        t.conns = s.conns ∧ t.ctxs = s.ctxs ∧ t.egress = s.egress)) ∧
      (∀ v, fits → commonProtocol s.runningSlot w.mirrorMin w.mirrorMax = some v → (p.role = 1 ∧ w.reading = true) →
        Gives (exec (.linkReturn w) s) (fun t => t.tlc.linkUp = true ∧ t.tlc.tstate = 1 ∧ t.tlc.protocol = some v ∧
        t.tlc.resyncRefused = true ∧ t.tlc.epoch = BitVec.ofNat 32 (max s.tlc.epoch.toNat w.epoch + 1) ∧
        ∃ l, t.egress = s.egress ++ .resyncRead :: l)) ∧
      (∀ v, fits → commonProtocol s.runningSlot w.mirrorMin w.mirrorMax = some v → ¬(p.role = 1 ∧ w.reading = true) →
        Gives (exec (.linkReturn w) s) (fun t => EpochOpened t (max s.tlc.epoch.toNat w.epoch + 1) ∧ t.tlc.protocol = some v ∧
          (w.reading = true → Egress.retryNotice ∈ t.egress))) ∧
      (fits → commonProtocol s.runningSlot w.mirrorMin w.mirrorMax = none → Gives (exec (.linkReturn w) s) (fun t => t.tlc.linkUp = true ∧ t.tlc.tstate = 3 ∧
        t.tlc.protocol = none ∧ t.attn.cause.getLsbD attnTWIN = true ∧ t.conns = s.conns ∧ t.ctxs = s.ctxs ∧ t.ms = s.ms))) ∧
    (∀ (x : FwSlot) (lo hi v : Nat), commonProtocol x lo hi = some v ↔
      (x.mirrorMin ≤ v ∧ v ≤ x.mirrorMax ∧ lo ≤ v ∧ v ≤ hi ∧ ∀ w, x.mirrorMin ≤ w → w ≤ x.mirrorMax → lo ≤ w → w ≤ hi → w ≤ v)) ∧
    (∀ s : State, s.tlc.resyncRefused = true → s.tlc.resyncBusy = true → s.tlc.linkUp = true →
      Gives (exec .resyncReadRetry s) (fun t => t.tlc.tstate = 2 ∧ t.tlc.resyncRefused = false ∧ t.tlc.resyncBusy = false ∧
        t.tlc.epoch = s.tlc.epoch ∧ t.attn.cause.getLsbD attnTWIN = false ∧ t.egress = s.egress ++ [.resyncRead] ∧
        t.conns = s.conns ∧ t.ctxs = s.ctxs ∧ t.ms = s.ms)) ∧
    (∀ (s : State) (a : Nat), s.tlc.linkUp = true → s.hub.state = .on → s.tlc.pair.isSome = true →
      (s.tlc.away = true → s.tlc.ownAddrs.contains a = true → s.tlc.handedBack.contains a = false →
        Gives (exec (.addressHandBack a) s) (fun t => t.tlc.handedBack = s.tlc.handedBack ++ [a] ∧
          (t.tlc.away = false ↔ ∀ b ∈ s.tlc.ownAddrs, b ∈ t.tlc.handedBack) ∧
          t.egress = s.egress ++ [.announce 0 a (decide (2 ^ 32 ≤ a)), .announce 1 a (decide (2 ^ 32 ≤ a))])) ∧
      (s.tlc.away = false → s.tlc.served.contains a = true → (∃ c ∈ s.conns, c.addr = a ∧ c.attached = true) →
        exec (.addressHandBack a) s = .next s) ∧
      (s.tlc.away = false → s.tlc.served.contains a = true → (∀ c ∈ s.conns, ¬(c.addr = a ∧ c.attached = true)) →
        Gives (exec (.addressHandBack a) s) (fun t => a ∉ t.tlc.served ∧ t.egress = s.egress ++ [.handBack a] ∧ t.conns = s.conns))) ∧
    (∀ (s q : State) (n : Nat) (x : Ctx) (m : TwinCtx), s.ctx? n = some x → s.tlc.mctxs.find? (fun t => t.restoring == some n) = some m →
      x.state = .input → asleep s (resumeSpans s x ++ (m.inputs ++ m.images).map (fun p => (p.1, p.2.length))) = false →
      (∀ y ∈ s.ctxs, ¬(y.num ≠ n ∧ y.typ = 1 ∧ y.graph = x.graph ∧ y.taken = true ∧ y.inst = x.inst)) →
      q = { s with ms := (resumeSpans s x).foldl zeroSpan s.ms, tlc := { s.tlc with mctxs := s.tlc.mctxs.filter (fun y => y.restoring != some n) } } →
      ∀ ws, ws = (m.inputs ++ m.images).flatMap (fun p => spread p.1 p.2) → (writeAll 0 true ws ws q).2 = none →
      Gives (exec (.restoreComplete n) s) (fun t => t.ctx? n = some { x with state := .running, reading := false, issuing := true } ∧
        t.ms = (writeAll 0 true ws ws q).1.ms ∧ (∀ y ∈ t.tlc.mctxs, y.restoring ≠ some n) ∧ t.conns = s.conns))

/-- O39. IMMEDIATE_ECLIPSE, TILE_TIME_LIMIT, LSM_ERROR_LIMIT and GRACEFUL_ECLIPSE. A double-bit error, a parity error or a tile
that runs too long fences a core in service: it keeps the tile it had as abandoned and takes no other, unless the unit
has faulted on two earlier cores, when the core stays in service and the command gets REPLAY_FAILED. Too many
corrected errors are counted, those not seen yet as well, and ask for a graceful eclipse, which once no tile runs and
no core of its cluster is fenced gives the logical core to the moon under its epoch, present at once unless the moon
itself is still off. No byte of memory changes; what the LSMs hold of a tile under way is free. (R382, R383, R384,
R385) -/
def Obligations.FaultsFenceACore : Prop :=
  (∀ (s : State) (n typ : Nat), canFence s n = true →
      (∀ tl, (s.site n).tile = tl → (∀ id u, tl = some (id, u) → faultedOn s id u < 2) →
        ((typ = 0x02 ∨ typ = 0x03) → Gives (exec (.immediateEclipse n typ) s) (fun t => (t.site n).fenced = true ∧ (t.site n).tile = none ∧
          (t.site n).abandoned = tl ∧ (∀ k, k ≠ n → t.site k = s.site k) ∧
          t.ms = { s.ms with lsm := t.ms.lsm, lsmKept := t.ms.lsmKept } ∧ t.clusters = s.clusters)) ∧
        (tl ≠ none → Gives (exec (.tileTimeLimit n) s) (fun t => (t.site n).fenced = true ∧ (t.site n).tile = none ∧
          (t.site n).abandoned = tl ∧ (∀ k, k ≠ n → t.site k = s.site k) ∧
          t.ms = { s.ms with lsm := t.ms.lsm, lsmKept := t.ms.lsmKept } ∧ t.clusters = s.clusters))) ∧
      (∀ id u c, (s.site n).tile = some (id, u) → s.cmd? id = some c → 2 ≤ faultedOn s id u →
        Gives (exec (.tileTimeLimit n) s) (fun t => (t.site n).tile = none ∧ (t.site n).fenced = false ∧
          ((t.cmd? id).map Cmd.result) = some (some .replayFailed) ∧
          t.ms = { s.ms with lsm := t.ms.lsm, lsmKept := t.ms.lsmKept }))) ∧
    (∀ (s : State) (n : Nat), n < 256 → (s.site n).fenced = false → 
      ((s.site n).isl.state = .on ∨ (s.site n).isl.state = .quiescing ∨ (s.site n).isl.state = .retention) →
      Gives (exec (.lsmErrorLimit n) s) (fun t => t.site n = { s.site n with graceful := true } ∧ (∀ k, k ≠ n → t.site k = s.site k) ∧
        (∀ seen, seen = ((s.hdr (0x0500 + n)).recent.filter (fun a => decide (s.dev.timeNs < a + dayNs))).length →
          (t.hdr (0x0500 + n)).corrected.toNat = min 65535 ((s.hdr (0x0500 + n)).corrected.toNat + (257 - seen))) ∧
        t.ms = s.ms ∧ t.cmds = s.cmds ∧ t.clusters = s.clusters ∧ t.ctxs = s.ctxs)) ∧
    (∀ (s : State) (n l : Nat), (s.site n).lcore = some l → (s.site n).graceful = true → canFence s n = true → (s.site n).tile = none →
      moonReady s (n / 16) = true → n % 16 ≠ 15 → holdsWrite s n = false → fencedIn s (n / 16) = false →
      Gives (exec (.gracefulEclipse n) s) (fun t => (t.site n).isl.state = .eclipsed ∧ (t.site n).lcore = none ∧
        (t.site (n / 16 * 16 + 15)).lcore = some l ∧ (t.site (n / 16 * 16 + 15)).isl.epoch = (s.site n).isl.epoch ∧ (t.cluster (n / 16)).moonFree = false ∧ n ∈ t.dev.eclipsedFlash ∧ t.ms = s.ms ∧
        ∀ m, m = s.site (n / 16 * 16 + 15) →
          ((m.isl.state ≠ .off ∧ m.isl.state ≠ .test ∧ m.resetting = false) → t.cmds = s.cmds ∧
            (t.cluster (n / 16)).present = (s.cluster (n / 16)).present) ∧
          ((m.isl.state = .off ∨ m.isl.state = .test ∨ m.resetting = true) →
            (t.cluster (n / 16)).present.getD (l % 15) false = false)))

/-- O40. ECLIPSE_WRITES_DELIVERED completes an eclipse. Once the writes of a fenced core are delivered the site is ECLIPSED,
recorded for good, and ATTN ECLIPSE counts once. A free moon of its cluster takes its logical core under its epoch
(log 32), absent until the moon is back where it is off; without one the logical core becomes absent. Memory is
unchanged. (R20, R383, R384, R385) -/
def Obligations.EclipsesFollowTheirSteps : Prop :=
  ∀ (s : State) (n l : Nat), (s.site n).fenced = true → (s.site n).resetting = false → (s.site n).lcore = some l → s.attn.counts.length = 11 →
    Gives (exec (.eclipseWritesDelivered n) s) (fun t => (t.site n).isl.state = .eclipsed ∧ (t.site n).lcore = none ∧ (t.site n).fenced = false ∧
      n ∈ t.dev.eclipsedFlash ∧ (∀ k ∈ s.dev.eclipsedFlash, k ∈ t.dev.eclipsedFlash) ∧
      t.attn.counts.getD attnECLIPSE 0 = s.attn.counts.getD attnECLIPSE 0 + 1 ∧ t.ms = s.ms ∧
      (moonReady s (n / 16) = true → lowerFenced s n = false → n % 16 ≠ 15 →
        (t.site (n / 16 * 16 + 15)).lcore = some l ∧ (t.site (n / 16 * 16 + 15)).isl.epoch = (s.site n).isl.epoch ∧
        (t.cluster (n / 16)).moonFree = false ∧
        (l % 15 < (s.cluster (n / 16)).map.length → (t.cluster (n / 16)).map.getD (l % 15) 0 = 15) ∧
        ∀ m, m = s.site (n / 16 * 16 + 15) → (m.isl.state = .off ∨ m.isl.state = .test ∨ m.resetting = true) →
          (t.cluster (n / 16)).present.getD (l % 15) false = false) ∧
      ((moonReady s (n / 16) = false ∨ lowerFenced s n = true ∨ n % 16 = 15) → (t.cluster (n / 16)).present.getD (l % 15) false = false))

/-- O41. FATAL_ERROR, MESSAGE_PARITY_ERROR and PLL_LOCK_LOSS. A fatal error of a tile takes SERVICE and COMPUTE OFF; one of the
HUB closes every connection and takes the HUB OFF, and with it what depends on it; one of AON is logged; a TYPE that
R481 does not give is none. The first parity failure of a message replays it, the second is fatal for the receiving
island. A PLL that loses lock clears its bit and does the same for the island it clocks. (R380, R381, R398, R460,
R481) -/
def Obligations.FatalErrorsTakeTheirIsland : Prop :=
  (∀ (s : State) (t : Nat) (typ : Nat), 1 ≤ typ → typ ≤ 0x25 → t < 4 → s.svc.length = 4 → s.comp.length = 4 → (s.svcIsl t).state ≠ .off →
      Gives (exec (.fatalError (.service t) typ) s) (fun u => (u.svcIsl t).state = .off ∧ (u.compIsl t).state = .off ∧ u.hub = s.hub) ∧
      Gives (exec (.fatalError (.compute t) typ) s) (fun u => (u.svcIsl t).state = .off ∧ (u.compIsl t).state = .off ∧ u.hub = s.hub)) ∧
    (∀ (s : State) (typ : Nat), 1 ≤ typ → typ ≤ 0x25 → s.hub.state ≠ .off → Gives (exec (.fatalError .hub typ) s) (fun u => u.hub.state = .off ∧ u.conns = [] ∧
      u.ctxs = [] ∧ u.cmds = [] ∧ (∀ c ∈ s.conns, Egress.closed c.id ∈ u.egress) ∧ (∀ k < 4, (u.svcIsl k).state = .off) ∧
      (∀ k < 4, s.comp.length = 4 → (s.svcIsl k).state ≠ .off → (u.compIsl k).state = .off))) ∧
    (∀ (s : State) (i : Island) (typ : Nat), (typ = 0 ∨ 0x25 < typ) → exec (.fatalError i typ) s = .next s) ∧
    (∀ (s : State) (typ : Nat), 1 ≤ typ → typ ≤ 0x25 → Gives (exec (.fatalError .aon typ) s) (fun u => u.attn.pending.getLsbD attnERRLOG = true ∧
      u.ms = s.ms ∧ u.conns = s.conns ∧ u.hub = s.hub)) ∧
    (∀ (s : State) (p : Nat) (k : MsgId), pageExists p = true → (pageIsl s p).state ≠ .off →
      (s.retryPending.contains (p, k) = false → Gives (exec (.messageParityError p k) s) (fun u =>
        u.egress = s.egress ++ [.messageReplay p k] ∧ u.retryPending = keepRetry s.retryPending p k ∧ (p, k) ∈ u.retryPending ∧ u.ms = s.ms ∧ u.conns = s.conns)) ∧
      (s.retryPending.contains (p, k) = true → fatalIsland p = .hub → Gives (exec (.messageParityError p k) s) (fun u =>
        u.hub.state = .off ∧ u.conns = []))) ∧
    (∀ (s : State) (k : Nat), s.dev.clkLock.getLsbD k = true →
      (k < 13 → Gives (exec (.pllLockLoss k) s) (fun u => u.dev.clkLock.getLsbD k = false)) ∧
      (8 ≤ k → k < 12 → Gives (exec (.pllLockLoss k) s) (fun u => u.hub.state = .off ∧ u.conns = [])) ∧
      (k < 4 → s.svc.length = 4 → s.comp.length = 4 → Gives (exec (.pllLockLoss k) s) (fun u => (u.compIsl k).state = .off)))

/-- O42. ISLAND_RETURN, WAKE_COMPLETE, PARK, QUIESCE_COMPLETE and QUIESCE_TIMEOUT. An island that is OFF, asked for and with
its dependencies ON, returns with a new epoch. From RETENTION it wakes with its epoch, its rail at the voltage of its
frequency. An idle tile parks at 0.60 V. A drained block goes OFF; a quiesce that lasts too long returns to ON and is
logged. (R34, R35, R386, R388, R390, R445) -/
def Obligations.IslandsReturnWakeAndPark : Prop :=
  (∀ (s : State) (n : Nat), n < 256 → s.dev.ready = true →
      ((s.site n).isl.state = .off ∨ (s.site n).isl.state = .test) → enabledByCtrl s (.site n) = true →
      dependsOk s (.site n) = true → Gives (exec (.islandReturn (.site n) true) s) (fun t => (t.site n).isl = ⟨.on, (s.site n).isl.epoch + 1⟩ ∧
        (t.site n).lfsr ≠ 0 ∧ (∀ k, k ≠ n → t.site k = s.site k) ∧ t.ms = s.ms ∧ t.conns = s.conns ∧
        (∀ l, (s.site n).lcore = some l → l % 15 < (s.cluster (n / 16)).present.length → (t.cluster (n / 16)).present.getD (l % 15) false = true))) ∧
    (∀ s : State, s.dev.ready = true → s.hub.state = .off → Gives (exec (.islandReturn .hub true) s) (fun t =>
      t.hub = ⟨.on, s.hub.epoch + 1⟩ ∧ (s.tlc.pair.isSome = true → t.tlc.away = true ∧ t.tlc.tstate = 1))) ∧
    (∀ (s : State) (i : Nat), s.comp.length = 4 → s.pwr.vcur.length = 4 → i < 4 → (s.compIsl i).state = .retention → dependsOk s (.compute i) = true →
      Gives (exec (.wakeComplete (.compute i) true) s) (fun t => t.compIsl i = ⟨.on, (s.compIsl i).epoch⟩ ∧ t.ms = s.ms ∧
        t.pwr.vcur.getD i 0 = s.pwr.vrun.getD i 750 ∧
        (∀ k < 64, (s.site (64 * i + k)).isl.state = .retention → (t.site (64 * i + k)).isl.state = .on))) ∧
    (∀ (s : State) (i : Nat), s.comp.length = 4 → s.pwr.vcur.length = 4 → i < 4 → (s.compIsl i).state = .on → s.pwr.park10 ≠ 0 →
      10 * s.pwr.park10 ≤ s.pwr.idleMs.getD i 0 → tileIdle s i = true →
      Gives (exec (.park i) s) (fun t => t.compIsl i = ⟨.retention, (s.compIsl i).epoch⟩ ∧ t.ms = s.ms ∧ t.pwr.vcur.getD i 0 = 600 ∧
        (∀ k < 64, (s.site (64 * i + k)).isl.state = .on → (t.site (64 * i + k)).isl.state = .retention))) ∧
    (∀ (s : State) (n : Nat), n < 256 → (s.site n).isl.state = .quiescing →
      ((s.site n).tile = none → (s.site n).fenced = false → holdsWrite s n = false → ((s.hdr (0x0500 + n)).enable = false ∨ (s.hdr (0x0500 + n)).softReset = true) →
        Gives (exec (.quiesceComplete (0x0500 + n)) s) (fun t => (t.site n).isl.state = .off ∧ (t.site n).tile = none)) ∧
      ((s.site n).fenced = false → dependsOk s (.site n) = true → Gives (exec (.quiesceTimeout n) s) (fun t =>
        t.site n = { s.site n with isl := ⟨.on, (s.site n).isl.epoch⟩ } ∧ (t.hdr (0x0500 + n)).enable = true ∧
        (t.hdr (0x0500 + n)).last = captureWord 0 0x20 (0x0500 + n) ∧ t.ms = s.ms)))

/-- O43. TIDE_GOVERNOR_TICK, AVS_CURRENT_READ and THERMTRIP. Outside power-on reset a tick takes the sample, raises no tile by
more than one step, and keeps every tile at or below the maximum, and at 0.6 GHz while AVS holds; each rail that is
not parked ends at the voltage of its frequency, and on the way the frequency moves by single steps, its voltage never
below the curve. A good current read is stored and clears the failures; the third failure on end takes all tiles to
0.6 GHz, their rails to its voltage, holds them there and raises ERRLOG. A thermal trip leaves only the two locks of
ACLK and GCLK. (R31, R402, R403, R468) -/
def Obligations.GovernorHoldsItsLimits : Prop :=
  (∀ (s : State) (m : PowerSample), s.dev.porstLow = false → s.pwr.fcur.length = 4 → (∀ k ∈ s.pwr.fcur, k ≤ 16) →
      Gives (exec (.tideGovernorTick m) s) (fun t => t.pwr.powerDw = m.powerDw ∧ t.pwr.hubTjDc = m.hubTjDc ∧ t.pwr.tjDc = m.tjDc.take 4 ∧
        t.pwr.fcur.length = 4 ∧ (∀ k ∈ t.pwr.fcur, k ≤ 16 ∧ k ≤ s.pwr.fcur.foldl max 0 + 1) ∧
        (t.pwr.avsHold = true → t.pwr.fcur = [0, 0, 0, 0]) ∧ t.pwr.limitW = s.pwr.limitW ∧
        (10 * s.pwr.limitW < m.powerDw → ∀ k ∈ t.pwr.fcur, k ≤ s.pwr.fcur.foldl max 0) ∧
        (∀ n < 4, t.pwr.vcur.getD n 0 = if (s.compIsl n).state = PState.retention then s.pwr.vcur.getD n 0
          else curveAt s.pwr.vcurve (t.pwr.fcur.getD n 0)) ∧
        t = { s with pwr := t.pwr, attn := t.attn })) ∧
    (∀ (c : List Nat) (n k g : Nat), (∀ a b, a ≤ b → curveAt c a ≤ curveAt c b) →
      (∀ p ∈ tclkSteps c n k g, curveAt c p.1 ≤ p.2) ∧
      (∀ i p q, (tclkSteps c n k g)[i]? = some p → (tclkSteps c n k g)[i + 1]? = some q → p.1 ≤ q.1 + 1 ∧ q.1 ≤ p.1 + 1)) ∧
    (∀ (s : State) (r ma : Nat), r < 4 → s.dev.porstLow = false → s.pwr.avsFails.length = 4 → s.pwr.avsCurrentMa.length = 4 →
      Gives (exec (.avsCurrentRead r true ma) s) (fun t => t.pwr.avsCurrentMa.getD r 0 = ma ∧ t.pwr.avsFails.getD r 1 = 0 ∧ t = { s with pwr := t.pwr }) ∧
      (s.pwr.avsFails.getD r 0 < 2 → Gives (exec (.avsCurrentRead r false ma) s) (fun t =>
        t.pwr.avsFails.getD r 0 = s.pwr.avsFails.getD r 0 + 1 ∧ t.pwr.fcur = s.pwr.fcur ∧ t = { s with pwr := t.pwr })) ∧
      (2 ≤ s.pwr.avsFails.getD r 0 → (∀ k ∈ s.pwr.fcur, k ≤ 16) → Gives (exec (.avsCurrentRead r false ma) s) (fun t => t.pwr.avsHold = true ∧
        t.pwr.fcur = [0, 0, 0, 0] ∧ (∀ n < 4, t.pwr.vcur.getD n 0 =
          if (s.compIsl n).state = PState.retention then s.pwr.vcur.getD n 0 else curveAt s.pwr.vcurve 0) ∧ t.pwr.alert = true ∧ t.attn.pending.getLsbD attnERRLOG = true ∧ t.ms = s.ms))) ∧
    (∀ s : State, s.dev.porstLow = false → Gives (exec .thermtrip s) (fun t => t.dev.thermtrip = true ∧
      (∀ k, t.dev.clkLock.getLsbD k = (s.dev.clkLock.getLsbD k && decide (k = 12 ∨ k = 13))) ∧
      t = { s with dev := { s.dev with thermtrip := true, clkLock := t.dev.clkLock } }))

/-- O44. SEAL_CHECK, PRESENCE_WINDOW_OPEN, PRESENCE_WINDOW_EXPIRY, PRESENCE_BTN_RELEASE and LAB_JMP_CHANGE. The tenth open
check in succession breaks the seal for good, once, with ATTN SEAL. A press opens one window until the button is
released; a press while a window is open opens none. The window ends at its expiry. (R423, R424, R425) -/
def Obligations.PresenceAndSeal : Prop :=
  (∀ s : State, s.dev.porstLow = false →
      Gives (exec (.sealCheck true) s) (fun t => t.mgc.sealOpenRun = 0 ∧ t.mgc.sealClosed = true ∧ t.dev = s.dev ∧ t.attn = s.attn) ∧
      (s.mgc.sealOpenRun + 1 < 10 → Gives (exec (.sealCheck false) s) (fun t => t.mgc.sealOpenRun = s.mgc.sealOpenRun + 1 ∧
        t.mgc.sealClosed = false ∧ t.dev = s.dev ∧ t.attn = s.attn)) ∧
      (10 ≤ s.mgc.sealOpenRun + 1 → s.dev.sealBroken = false → Gives (exec (.sealCheck false) s) (fun t => t.dev.sealBroken = true ∧
        t.attn = s.attn.event attnSEAL ∧ t.dev = { s.dev with sealBroken := true } ∧ t.mgc.presence.getLast? = some ⟨s.dev.timeNs, 0, 0, 2, 0⟩)) ∧
      (s.dev.sealBroken = true → Gives (exec (.sealCheck false) s) (fun t => t.dev = s.dev ∧ t.attn = s.attn)) ∧
      (s.mgc.btnArmed = true → s.mgc.windowOpen = false → Gives (exec .presenceWindowOpen s) (fun t =>
        t = { s with mgc := { s.mgc with windowOpen := true, windowNs := s.dev.timeNs, btnArmed := false } })) ∧
      (s.mgc.btnArmed = true → s.mgc.windowOpen = true → Gives (exec .presenceWindowOpen s) (fun t =>
        t = { s with mgc := { s.mgc with btnArmed := false } })) ∧
      (s.mgc.btnArmed = false → exec .presenceWindowOpen s = .next s)) ∧
    (∀ (s : State) (b : Bool),
      Gives (exec .presenceWindowExpiry s) (fun t => t = { s with mgc := { s.mgc with windowOpen := false } }) ∧
      Gives (exec .presenceBtnRelease s) (fun t => t = { s with mgc := { s.mgc with btnArmed := true } }) ∧
      Gives (exec (.labJmpChange b) s) (fun t => t = { s with mgc := { s.mgc with labJmp := b } }))

/-- O45. TELEMETRY_THRESHOLD, SHADOW_REFRESH and LOG_ENTRY_CLOSE. A threshold raises ATTN TELEMETRY only at the tick at which
its comparison becomes true. A refresh takes the 13 header words of every page that is powered and answers, and keeps
the rest. LOG_ENTRY_CLOSE says that 1 ms has passed since the first time of the earliest open entry of a domain (log
21): DEV_TIME has come past it, that entry and every other one whose 1 ms is past close, and no slot is lost; with no
entry open nothing changes. (R392, R397, R421, R435, R451) -/
def Obligations.TelemetryShadowAndLogs : Prop :=
  (∀ (s : State) (k : Nat) (h : Threshold), s.mgc.thresholds[k]? = some h →
      Gives (exec (.telemetryThreshold k) s) (fun t => t.mgc.thresholds[k]? = some { h with last := thresholdTrue s h } ∧
        t.attn = (if thresholdTrue s h = true ∧ h.last = false then s.attn.event attnTELEMETRY else s.attn) ∧
        t = { s with mgc := { s.mgc with thresholds := t.mgc.thresholds }, attn := t.attn })) ∧
    (∀ (s : State) (silent : List Nat) (p : Nat), s.dev.porstLow = false → p ∈ allPages →
      Gives (exec (.shadowRefresh silent) s) (fun t => t = { s with shadow := t.shadow } ∧
        (powered s p = true → p ∉ silent → alFind p t.shadow = some (shadowOf s p)) ∧
        ((powered s p = false ∨ p ∈ silent) → alFind p t.shadow = alFind p s.shadow))) ∧
    (∀ (s : State) (d i : Nat) (l : Log) (e : LogEntry), s.logs[d]? = some l → i ∈ l.opened → l.slots[i]? = some e →
      (∀ j f, j ∈ l.opened → l.slots[j]? = some f → e.firstNs ≤ f.firstNs) →
      Gives (exec (.logEntryClose d) s) (fun t => ∃ q, t.logs[d]? = some q ∧ q.slots = l.slots ∧ q.dropped = l.dropped ∧ i ∉ q.opened ∧
        (∀ j f, l.slots[j]? = some f → (j ∈ q.opened ↔ j ∈ l.opened ∧ t.dev.timeNs ≤ f.firstNs + 1000000)) ∧
        t.dev = { s.dev with timeNs := max s.dev.timeNs (e.firstNs + 1000001) } ∧
        (∀ k, k ≠ d → t.logs[k]? = s.logs[k]?) ∧ t = { s with logs := t.logs, dev := t.dev })) ∧
    (∀ (s : State) (d : Nat) (l : Log), s.logs[d]? = some l → l.opened = [] → exec (.logEntryClose d) s = .next s)

/-- O46. RING_OSCILLATOR_MEASURE, EYE_MARGIN_MEASURE, WEAR_PREDICTION, HOUR_COUNTER_SAVE and WEAR_HOUR_COUNT. A measurement is
stored with its unit and joins its history. A prediction stores its units, with the days of history that each has, and
sets the WEAR condition exactly when the device's lower bound is below 180 days. An hour is counted on every powered
site, as a hot one above 90 degrees, and saved counts are those of the moment. (R382, R399, R400, R401, R406) -/
def Obligations.WearIsMeasuredAndKept : Prop :=
  (∀ (s : State) (n ppm : Nat), n < 256 → (s.site n).tile = none → (s.site n).isl.state = .on →
      Gives (exec (.ringOscillatorMeasure n ppm) s) (fun t => t.site n = { s.site n with ringPpm := ppm } ∧
        (∀ k, k ≠ n → t.site k = s.site k) ∧ t = { s with sites := t.sites, wear := { s.wear with
          history := ⟨4, n, s.wear.pastNs + s.dev.timeNs, ppm⟩ :: s.wear.history } })) ∧
    (∀ (s : State) (l a b : Nat), l < 36 → s.hub.state = .on → Gives (exec (.eyeMarginMeasure l a b) s) (fun t => (l, a, b) ∈ t.wear.eye ∧
      (∀ e ∈ t.wear.eye, e.1 = l → e = (l, a, b)) ∧ (∀ e ∈ s.wear.eye, e.1 ≠ l → e ∈ t.wear.eye) ∧
      t = { s with wear := { s.wear with eye := t.wear.eye, history :=
        ⟨2, l, s.wear.pastNs + s.dev.timeNs, b⟩ :: ⟨2, l, s.wear.pastNs + s.dev.timeNs, a⟩ :: s.wear.history } })) ∧
    (∀ (s : State) (us : List WearUnit), Gives (exec (.wearPrediction us) s) (fun t =>
      (∀ u ∈ us, u.kind ≠ 0 → codedUnit { u with historyDays := historyDays t u.kind u.index } ∈ t.wear.units) ∧ (t.wear.devLo < 180 ↔ t.attn.cause.getLsbD attnWEAR = true) ∧
      (∀ u ∈ us, u.kind = 4 → u.index < 256 →
        (codedUnit { u with historyDays := historyDays t u.kind u.index }).lo < 30 → (s.cluster (u.index / 16)).moonFree = true →
        (s.site u.index).isl.state ≠ .eclipsed → (t.site u.index).graceful = true) ∧ t.ms = s.ms ∧ t.cmds = s.cmds)) ∧
    (∀ s : State, Gives (exec .hourCounterSave s) (fun t => (∀ n x, alFind n s.sites = some x →
      t.site n = { x with savedHours := (x.poweredHours, x.hotHours) }) ∧ t = { s with sites := t.sites })) ∧
    (∀ (s : State) (tj : List Nat) (n : Nat), n < 256 → Gives (exec (.wearHourCount tj) s) (fun t =>
      ((s.site n).isl.state = .off → t.site n = s.site n) ∧
      ((s.site n).isl.state ≠ .off → ∀ hot, hot = (if 900 < tj.getD (n / 64) 0 then satInc32 (s.site n).hotHours else (s.site n).hotHours) →
        t.site n = { s.site n with poweredHours := satInc32 (s.site n).poweredHours, hotHours := hot }) ∧
      t = { s with sites := t.sites, parts := t.parts }))

/-- O47. An MMP request is executed once; a repeat gets the cached reply; malformed requests, port frames and cache expiry. For
every MMP operation: a request that the MGC executes is answered last of all that leaves, and its reply is then in the
cache; the same bytes from the same source with the same tag get that reply and change nothing. A request that breaks
its form and is not a repeat is answered MMP_MALFORMED and changes nothing else; a reply sent as a request is dropped.
The three management frames are answered. An expired entry leaves the cache, the others stay. (R408, R410, R411) -/
def Obligations.RequestsRunOnceAndAreRemembered : Prop :=
  (∀ r ∈ mmpRows, ∀ (s : State) (src : MmpSrc) (m : List Byte),
    (MmpRuns s src m r.1 → Gives (exec (r.2 src m) s) (fun t => ∃ b, t.egress.getLast? = some (.mmpReply src b) ∧
      byteAt b 0 = 1 ∧ byteAt b 1 = r.1 ∧ leAt b 2 2 = mmpTag m ∧ byteAt b 6 % 2 = 1 ∧ cachedReply t src m = some b)) ∧
    (∀ b, byteAt m 1 = r.1 → 16 ≤ m.length → byteAt m 6 % 2 = 0 → s.dev.porstLow = false → cachedReply s src m = some b →
      Gives (exec (r.2 src m) s) (fun t => t = { s with egress := s.egress ++ [.mmpReply src b] }))) ∧
    (∀ (s : State) (src : MmpSrc) (m : List Byte), s.dev.porstLow = false → mmpForm m = false → 16 ≤ m.length →
      (byteAt m 6 % 2 = 0 → cachedReply s src m = none → Gives (exec (.mmpMalformed src m) s) (fun t =>
        Replied t src m .mmpMalformed false [] ∧ t = { s with mgc := { s.mgc with cache := t.mgc.cache }, egress := t.egress })) ∧
      (byteAt m 6 % 2 = 1 → exec (.mmpMalformed src m) s = .next s)) ∧
    (∀ (s : State) (k : Nat), s.dev.porstLow = false → k < 3 →
      Gives (exec (.managementPortFrame k) s) (fun t => t = { s with egress := s.egress ++ [.mgmtReply k] })) ∧
    (∀ (s : State) (src : MmpSrc) (tag : Nat), Gives (exec (.replyCacheExpiry src tag) s) (fun t =>
      (∀ c ∈ t.mgc.cache, ¬(c.src = src ∧ c.tag = tag)) ∧ (∀ c ∈ s.mgc.cache, ¬(c.src = src ∧ c.tag = tag) → c ∈ t.mgc.cache) ∧
      t = { s with mgc := { s.mgc with cache := t.mgc.cache } }))

/-- O48. READ_REG, READ_TELEMETRY and READ_LOG. READ_REG replies the words in order, with SHADOW when one came from the shadow,
DOMAIN_OFF when the block does not answer (one of AON always does; another that has power may not within 100 us, a
free choice, log 40) and BAD_ADDRESS for a page that does not exist. READ_TELEMETRY replies the items. READ_LOG
replies the entries asked for and clears the log when asked. Beside the cache, the latches, the cleared log and the
progress of a core's running tile, which leaves its LSM free, nothing changes. (R414, R416, R417, R451) -/
def Obligations.ReadsAnswerWhatStands : Prop :=
  ∀ (s : State) (src : MmpSrc) (m p : List Byte), p = m.drop 16 →
    (MmpRuns s src m 0x01 → Gives (exec (.readReg src m) s) (fun t =>
      (pageExists (leAt p 0 2) = false → Replied t src m .badAddress false []) ∧
      (∀ a, a = respondsNow s (leAt p 0 2) → pageExists (leAt p 0 2) = true →
        (readWords a.1 (leAt p 0 2) (leAt p 4 2) (leAt p 2 2) a.2 = none → Replied t src m .domainOff false []) ∧
        (∀ r, readWords a.1 (leAt p 0 2) (leAt p 4 2) (leAt p 2 2) a.2 = some r → Replied t src m .ok r.2.1 r.1) ∧
        (pageIsland (leAt p 0 2) = some .aon → a = (true, s)) ∧ (powered s (leAt p 0 2) = false → pageIsland (leAt p 0 2) ≠ some .aon → a = (false, s))) ∧
      t = { s with latches := t.latches, sites := t.sites, freeCtr := t.freeCtr, ms := { s.ms with lsm := t.ms.lsm, lsmKept := t.ms.lsmKept },
                   mgc := { s.mgc with cache := t.mgc.cache }, egress := t.egress } ∧
      (isCorePage (leAt p 0 2) = false → t.sites = s.sites ∧ t.ms = s.ms))) ∧
    (MmpRuns s src m 0x03 → Gives (exec (.readTelemetry src m) s) (fun t =>
      (∃ sh, Replied t src m .ok sh ((List.range (p.length / 4)).flatMap (fun k => itemBytes s (leAt p (4 * k) 2) (leAt p (4 * k + 2) 2)))) ∧
      t = { s with mgc := { s.mgc with cache := t.mgc.cache }, egress := t.egress })) ∧
    (MmpRuns s src m 0x04 → ∀ l, s.logs[byteAt p 0]? = some l → Gives (exec (.readLog src m) s) (fun t =>
      Replied t src m .ok false (toLE 4 l.slots.length ++ toLE 4 l.dropped ++
        ((l.slots.drop (leAt p 2 2)).take (min 31 (leAt p 4 2))).flatMap entryBytes) ∧
      t.logs[byteAt p 0]? = some (if byteAt p 1 = 1 then Log.empty else l) ∧ (∀ k, k ≠ byteAt p 0 → t.logs[k]? = s.logs[k]?) ∧
      t = { s with logs := t.logs, mgc := { s.mgc with cache := t.mgc.cache }, egress := t.egress }))

/-- O49. WRITE_REG, ACK_ATTN, RESET_ISLAND and FORCE_TAKEOVER. WRITE_REG writes the masked value or replies what refuses it.
ACK_ATTN clears a pending event, and masks a pending level, whose count is the one given. RESET_ISLAND starts the
reset, or replies BUSY while one runs. FORCE_TAKEOVER without a pair replies NOT_PAIRED, with one it takes over, and
replies DOMAIN_OFF and changes nothing when the HUB does not answer. (R373, R398, R415, R418, R420, R421) -/
def Obligations.OperatorWritesAndAcks : Prop :=
  ∀ (s : State) (src : MmpSrc) (m p : List Byte), p = m.drop 16 →
    (MmpRuns s src m 0x02 → ∀ r, r = operatorWrite s (leAt p 0 2) (leAt p 2 2) (word (leAt p 8 4)) (word (leAt p 12 4)) →
      Gives (exec (.writeReg src m) s) (fun t => Replied t src m r.2 false [] ∧
        t = { r.1 with mgc := { r.1.mgc with cache := t.mgc.cache }, egress := t.egress })) ∧
    (MmpRuns s src m 0x05 → Gives (exec (.ackAttn src m) s) (fun t =>
      Replied t src m .ok false (ackAll p (p.length / 8) 0 s.attn).2 ∧ t.attn = (ackAll p (p.length / 8) 0 s.attn).1)) ∧
    (MmpRuns s src m 0x05 → p.length = 8 → ∀ n, n = byteAt p 0 →
      Gives (exec (.ackAttn src m) s) (fun t =>
        ((s.attn.pending.getLsbD n = true ∧ (s.attn.counts.getD n 0).toNat = leAt p 4 4) → Replied t src m .ok false [1] ∧
          t.attn.pending.getLsbD n = false ∧ (isLevel n = true → t.attn.masked.getLsbD n = true) ∧
          (∀ k, k ≠ n → t.attn.pending.getLsbD k = s.attn.pending.getLsbD k)) ∧
        (¬(s.attn.pending.getLsbD n = true ∧ (s.attn.counts.getD n 0).toNat = leAt p 4 4) → Replied t src m .ok false [0] ∧ t.attn = s.attn) ∧
        t.attn.counts = s.attn.counts ∧
        t.models = (if t.attn.pending.getLsbD attnPLAN = true then s.models else s.models.map (fun x => { x with planOpen := false })) ∧
        t = { s with attn := t.attn, models := t.models, mgc := { s.mgc with cache := t.mgc.cache }, egress := t.egress })) ∧
    (MmpRuns s src m 0x06 → ∀ i, islandArg (leAt p 0 2) = some i → Gives (exec (.resetIsland src m) s) (fun t =>
      Replied t src m (resetIslandNow s i).2 false [] ∧ t.ms = (resetIslandNow s i).1.ms ∧ t.sites = (resetIslandNow s i).1.sites ∧
      (i = .hub → s.hub.state ≠ .off → t.hub.state = .off ∧ t.conns = []) ∧
      (∀ n, i = .site n → canFence s n = true → (s.site n).resetting = false → (t.site n).fenced = true ∧ (t.site n).resetting = true))) ∧
    (MmpRuns s src m 0x07 → (s.tlc.pair = none → Gives (exec (.forceTakeover src m) s) (fun t => Replied t src m .notPaired false [] ∧
        t = { s with mgc := { s.mgc with cache := t.mgc.cache }, egress := t.egress })) ∧
      (∀ q, s.tlc.pair = some q → (respondsNow s 0x0C00).1 = false →
        Gives (exec (.forceTakeover src m) s) (fun t => Replied t src m .domainOff false [] ∧
          t = { s with freeCtr := t.freeCtr, mgc := { s.mgc with cache := t.mgc.cache }, egress := t.egress })) ∧
      (∀ q, s.tlc.pair = some q → s.hub.state = .on → 1 ≤ s.tlc.tstate → s.tlc.tstate ≤ 3 →
        Gives (exec (.forceTakeover src m) s) (fun t =>
          if (respondsNow s 0x0C00).1 = true then Replied t src m .ok false [] ∧ TookOver s t q ∧
            (s.tlc.linkUp = true → Egress.yieldMsg ∈ t.egress)
          else Replied t src m .domainOff false [])))

/-- O50. STAGE_DATA, STAGE_FINISH, DISCARD_STAGED, ERASE_COMPLETE and VERIFICATION_COMPLETE. Data is taken in order while
receiving; the finish needs every byte; a good image is STAGED in the other slot with ATTN FIRMWARE, another is
REJECTED; a discard ends the session and the condition, and a discarded image cannot boot. (R427, R429, R430) -/
def Obligations.StagingMovesThroughItsStates : Prop :=
  (∀ (s : State) (src : MmpSrc) (m p : List Byte), p = m.drop 16 →
      (MmpRuns s src m 0x08 → s.mgc.stage = 2 → leAt p 0 4 = s.mgc.received.length → s.mgc.received.length + (p.length - 8) ≤ s.mgc.stageBytes →
        Gives (exec (.stageData src m) s) (fun t => Replied t src m .ok false [] ∧
          t = { s with mgc := { s.mgc with received := s.mgc.received ++ p.drop 8, cache := t.mgc.cache }, egress := t.egress })) ∧
      (MmpRuns s src m 0x08 → s.mgc.stage = 1 → Gives (exec (.stageData src m) s) (fun t => Replied t src m .busy false [])) ∧
      (MmpRuns s src m 0x09 → s.mgc.stage = 2 → s.mgc.received.length = s.mgc.stageBytes →
        Gives (exec (.stageFinish src m) s) (fun t => Replied t src m .ok false [] ∧
          t = { s with mgc := { s.mgc with stage := 3, cache := t.mgc.cache }, egress := t.egress })) ∧
      (MmpRuns s src m 0x09 → (s.mgc.stage ≠ 2 ∨ s.mgc.received.length ≠ s.mgc.stageBytes) →
        Gives (exec (.stageFinish src m) s) (fun t => Replied t src m .stageState false [] ∧
          t = { s with mgc := { s.mgc with cache := t.mgc.cache }, egress := t.egress })) ∧
      (MmpRuns s src m 0x0A → Gives (exec (.discardStaged src m) s) (fun t => Replied t src m .ok false [] ∧ t.mgc.stage = 0 ∧
        t.mgc.received = [] ∧ t.attn.pending.getLsbD attnFIRMWARE = false ∧
        (s.mgc.stage = 4 → (t.mgc.slot (inactive s.mgc)).verifies = false) ∧
        t = { s with mgc := t.mgc, attn := t.attn, egress := t.egress }))) ∧
    (∀ s : State, s.mgc.stage = 1 → Gives (exec .eraseComplete s) (fun t => t = { s with mgc := { s.mgc with stage := 2, erasing := false } })) ∧
    (∀ s : State, s.mgc.stage = 3 →
      (imageOk s.dev s.mgc = true → Gives (exec (.verificationComplete true) s) (fun t => t.mgc.stage = 4 ∧
        t.attn.cause.getLsbD attnFIRMWARE = true ∧ (t.mgc.slot (inactive s.mgc)).verifies = true ∧
        (t.mgc.slot (inactive s.mgc)).fwVersion = leAt s.mgc.received 4 4 ∧ t = { s with mgc := t.mgc, attn := t.attn })) ∧
      (∀ ok, (ok = false ∨ imageOk s.dev s.mgc = false) → Gives (exec (.verificationComplete ok) s) (fun t =>
        t = { s with mgc := { s.mgc with stage := 5 } })))

/-- O51. A sealed command without admission is refused and changes nothing. For each sealed operation: PROGRAM_FUSES with a
broken seal is SEALED_LOCKED, PAIR_TWIN with the jumper is PRESENCE_REQUIRED; with neither window nor jumper it is
PRESENCE_REQUIRED, with the jumper and a broken seal SEALED_LOCKED. Beside the reply and its cache entry nothing
changes. (R422, R424) -/
def Obligations.SealedCommandsNeedPresence : Prop :=
  ∀ r ∈ sealedRows, ∀ (s : State) (src : MmpSrc) (m : List Byte), MmpRuns s src m r.1 →
    (∀ e, admission s r.1 = .error e → Gives (exec (r.2 src m) s) (fun t => Replied t src m e false [] ∧
      t = { s with mgc := { s.mgc with cache := t.mgc.cache }, egress := t.egress })) ∧
    (s.mgc.windowOpen = false → s.mgc.labJmp = false → (r.1 = 0x44 → s.dev.sealBroken = false) → admission s r.1 = .error .presenceRequired) ∧
    (s.mgc.windowOpen = false → s.mgc.labJmp = true → s.dev.sealBroken = true → r.1 ≠ 0x42 → admission s r.1 = .error .sealedLocked) ∧
    (r.1 = 0x44 → s.dev.sealBroken = true → admission s r.1 = .error .sealedLocked) ∧
    (r.1 = 0x42 → s.mgc.labJmp = true → admission s r.1 = .error .presenceRequired) ∧
    (r.1 ≠ 0x44 → r.1 ≠ 0x42 → s.mgc.windowOpen = true → admission s r.1 = .ok 0)

/-- O52. STAGE_FIRMWARE, COMMIT_FIRMWARE, PAIR_TWIN, UNPAIR, PROGRAM_FUSES, FREEZE_CAPTURE and CLEAR_PRESENCE_RECORD. An
admitted sealed command does what its row says, takes the window when the button admitted it, and is the last entry of
the presence record. CLEAR_PRESENCE_RECORD leaves itself as the only entry. Beside what it names nothing changes.
(R359, R404, R422, R426, R427) -/
def Obligations.AdmittedSealedCommandsAct : Prop :=
  ∀ (s : State) (src : MmpSrc) (m p : List Byte) (kind : Nat), p = m.drop 16 →
    (MmpRuns s src m 0x40 → admission s 0x40 = .ok kind → s.mgc.captureBusy = false → Gives (exec (.stageFirmware src m) s) (fun t =>
      Admitted s t src m 0x40 kind ∧ t.mgc.stage = 1 ∧ t.mgc.stageBytes = leAt p 0 4 ∧ t.mgc.received = [] ∧
      (t.mgc.slot (inactive s.mgc)).verifies = false ∧ t.attn.pending.getLsbD attnFIRMWARE = false ∧
      t = { s with mgc := t.mgc, attn := t.attn, egress := t.egress })) ∧
    (MmpRuns s src m 0x41 → admission s 0x41 = .ok kind → s.mgc.stage = 4 → Gives (exec (.commitFirmware src m) s) (fun t =>
      Admitted s t src m 0x41 kind ∧ t.mgc.preferred = inactive s.mgc ∧ t.attn.pending.getLsbD attnFIRMWARE = false ∧
      t = { s with mgc := t.mgc, attn := t.attn, egress := t.egress })) ∧
    (MmpRuns s src m 0x42 → admission s 0x42 = .ok kind → Gives (exec (.pairTwin src m) s) (fun t => Admitted s t src m 0x42 kind ∧
      t.tlc = { s.tlc with recFlash := some (PairRec.bytes ⟨byteAt p 0, byteAt p 1, s.dev.serial, BitVec.ofNat 64 (leAt p 4 8), s.dev.straps,
        BitVec.ofNat 15 (leAt p 2 2)⟩) } ∧ t = { s with tlc := t.tlc, mgc := t.mgc, egress := t.egress })) ∧
    (MmpRuns s src m 0x43 → admission s 0x43 = .ok kind → Gives (exec (.unpair src m) s) (fun t => Admitted s t src m 0x43 kind ∧
      t.tlc = { s.tlc with recFlash := none } ∧ t = { s with tlc := t.tlc, mgc := t.mgc, egress := t.egress })) ∧
    (MmpRuns s src m 0x44 → admission s 0x44 = .ok kind → Gives (exec (.programFuses src m) s) (fun t => Admitted s t src m 0x44 kind ∧
      (byteAt p 0 = 0 → t.dev = { s.dev with assetTag := s.dev.assetTag ||| BitVec.ofNat 64 (leAt p 4 4) }) ∧
      (byteAt p 0 = 1 → t.dev = { s.dev with assetTag := s.dev.assetTag ||| BitVec.ofNat 64 (leAt p 4 4 * 2 ^ 32) }) ∧
      (byteAt p 0 = 2 → t.dev = { s.dev with rollback := s.dev.rollback ||| BitVec.ofNat 64 (leAt p 4 4) }) ∧
      (byteAt p 0 = 3 → t.dev = { s.dev with rollback := s.dev.rollback ||| BitVec.ofNat 64 (leAt p 4 4 * 2 ^ 32) }) ∧
      t = { s with dev := t.dev, mgc := t.mgc, egress := t.egress })) ∧
    (MmpRuns s src m 0x45 → admission s 0x45 = .ok kind → s.mgc.captureBusy = false → Gives (exec (.freezeCapture src m) s) (fun t =>
      Admitted s t src m 0x45 kind ∧ t.mgc.captureBusy = true ∧ t.mgc.capture = some (captureOf s) ∧ t = { s with mgc := t.mgc, egress := t.egress })) ∧
    (MmpRuns s src m 0x46 → admission s 0x46 = .ok kind → Gives (exec (.clearPresenceRecord src m) s) (fun t =>
      Admitted s t src m 0x46 kind ∧ t.mgc.presence.length = 1 ∧ t.mgc.admitted = 1 ∧ t = { s with mgc := t.mgc, egress := t.egress })) ∧
    Gives (exec .captureWritten s) (fun t => t = { s with mgc := { s.mgc with captureBusy := false } })

/-- O53. CORE_ARR_CTR_CLEAR, CORE_ARR_CTR_FREEZE and LOW_WORD_READ. On a site that answers, CLEAR sets the three counters and
their SAT bits to 0 and FREEZE sets the bit; beside the slots that the running tile has meanwhile issued, which leave
its LSM free, nothing else changes, and nothing at all without a tile. A site that does not answer is left as it is.
After a read of a low word of a page that is powered the same requester's next read of the high word returns the word
of that moment and uses the latch up; another requester reads as before. (R80, R101, R102, R439) -/
def Obligations.CountersClearFreezeAndReadWhole : Prop :=
  (∀ (s : State) (n : Nat), n < 256 →
    (answers s (0x0500 + n) = true →
      Gives (exec (.coreArrCtrClear n) s) (fun t =>
        t.site n = { s.site n with arr := (t.site n).arr, valid := ⟨0, false⟩, starve := ⟨0, false⟩, block := ⟨0, false⟩ } ∧
        ((s.site n).tile = none → (t.site n).arr = (s.site n).arr ∧ t.freeCtr = s.freeCtr ∧ t.ms = s.ms) ∧
        (∀ k, k ≠ n → t.site k = s.site k) ∧
        t = { s with sites := t.sites, freeCtr := t.freeCtr, ms := { s.ms with lsm := t.ms.lsm, lsmKept := t.ms.lsmKept } }) ∧
      (∀ b, Gives (exec (.coreArrCtrFreeze n b) s) (fun t =>
        t.site n = { s.site n with arr := (t.site n).arr, valid := (t.site n).valid, starve := (t.site n).starve, block := (t.site n).block,
                                   freeze := b } ∧
        ((s.site n).tile = none → t.site n = { s.site n with freeze := b } ∧ t.freeCtr = s.freeCtr ∧ t.ms = s.ms) ∧
        ((s.site n).freeze = true → (t.site n).valid = (s.site n).valid ∧ (t.site n).starve = (s.site n).starve ∧
          (t.site n).block = (s.site n).block) ∧
        (∀ k, k ≠ n → t.site k = s.site k) ∧
        t = { s with sites := t.sites, freeCtr := t.freeCtr, ms := { s.ms with lsm := t.ms.lsm, lsmKept := t.ms.lsmKept } }))) ∧
    (answers s (0x0500 + n) = false → exec (.coreArrCtrClear n) s = .next s ∧ ∀ b, exec (.coreArrCtrFreeze n b) s = .next s)) ∧
    (∀ (s : State) (req p off : Nat), pageExists p = true → powered s p = true → off < 0x1000 → off % 4 = 0 → isLowWord p off = true →
    Gives (exec (.lowWordRead req p off) s) (fun t => t = { s with latches := t.latches, sites := t.sites, freeCtr := t.freeCtr, ms := { s.ms with lsm := t.ms.lsm, lsmKept := t.ms.lsmKept } } ∧
      (isCorePage p = false → t = { s with latches := t.latches }) ∧
      (isLowWord p (off + 4) = false → ∀ u, u = { t with dev := { t.dev with timeNs := t.dev.timeNs + 1 } } →
        (readLatched u req p (off + 4)).1 = liveWord t p (off + 4) ∧
        (readLatched (readLatched u req p (off + 4)).2 req p (off + 4)).1 = liveWord u p (off + 4)) ∧
      (∀ q, q ≠ req → isLowWord p (off + 4) = false →
        (readLatched t q p (off + 4)).1 = (readLatched { t with latches := s.latches } q p (off + 4)).1)))

/-- O54. REGISTER_WRITE, ATU_POOL_CFG_WRITE, FRE_TORUS_CFG_WRITE and PG_EVENT_CLEAR. A written pool or torus configuration is
stored for the next cold boot, and the pools and extents in force stay. PG_EVENT clears the bits written as 1 and
leaves ATTN. JMP_TBL_ADDR takes its 14 bits. A misaligned write changes no register, a write to a read-only or missing
offset changes nothing. (R215, R260, R358, R438, R447) -/
def Obligations.RegisterWritesReachTheirFields : Prop :=
  (∀ (s : State) (v : Word), s.hub.state = .on →
      Gives (exec (.atuPoolCfgWrite v) s) (fun t => t = { s with dev := { s.dev with poolFlash := some (v &&& 0xFFFF) } }) ∧
      Gives (exec (.freTorusCfgWrite v) s) (fun t => t = { s with fre := { s.fre with torusFlash := some (v &&& 0x1F1F1F) } }) ∧
      Gives (exec (.registerWrite 0x0E00 0x040 v) s) (fun t => t = { s with jmpAddr := v &&& 0x3FFF }) ∧
      Gives (exec (.registerWrite 0x0B00 0x048 v) s) (fun t => t = { s with fre := { s.fre with timeout := v &&& 0xFFFFFF } }) ∧
      (∀ off, off < 0x1000 → off % 4 = 0 → 0x064 ≤ off → exec (.registerWrite 0x0B00 off v) s = .next s)) ∧
    (∀ (s : State) (p : Nat) (v : Word), pageExists p = true → answers s p = true →
      Gives (exec (.pgEventClear p v) s) (fun t => t.hdr p = { s.hdr p with event := (s.hdr p).event &&& ~~~(v.setWidth 13) } ∧
        (∀ q, q ≠ p → t.hdr q = s.hdr q) ∧ t = { s with hdrs := t.hdrs })) ∧
    (∀ (s : State) (p off : Nat) (v : Word), pageExists p = true → off < 0x1000 → off % 4 ≠ 0 →
      Gives (exec (.registerWrite p off v) s) (fun t => t = { s with logs := t.logs }))

/-- O55. PG_CTRL_ENABLE, QUIESCE_REQ, SOFT_RESET and ECLIPSE on a core page. Clearing ENABLE or setting QUIESCE_REQ on a core
that is ON makes it QUIESCING. Setting ENABLE again returns it when its dependencies are ON; on a core that is OFF it
begins its self-test. SOFT_RESET without QUIESCE_REQ resets the core at once, and of memory only its LSM is lost.
ECLIPSE fences it for good. A core that is fenced takes no power request. (R33, R35, R383, R386, R388, R445) -/
def Obligations.PowerRequestsMoveIslands : Prop :=
  ∀ (s : State) (n : Nat), n < 256 →
    ((s.site n).isl.state = .on → (s.site n).fenced = false →
      Gives (exec (.pgCtrlEnable (0x0500 + n) false) s) (fun t => t.site n = { s.site n with isl := ⟨.quiescing, (s.site n).isl.epoch⟩ } ∧
        (t.hdr (0x0500 + n)).enable = false ∧ (∀ k, k ≠ n → t.site k = s.site k) ∧ t.ms = s.ms ∧ t.cmds = s.cmds) ∧
      Gives (exec (.quiesceReq (0x0500 + n) true) s) (fun t => t.site n = { s.site n with isl := ⟨.quiescing, (s.site n).isl.epoch⟩ } ∧
        (t.hdr (0x0500 + n)).quiesce = true ∧ (∀ k, k ≠ n → t.site k = s.site k) ∧ t.ms = s.ms ∧ t.cmds = s.cmds) ∧
      ((s.hdr (0x0500 + n)).quiesce = false → Gives (exec (.softReset (0x0500 + n)) s) (fun t => (t.site n).isl.state = .off ∧
        (t.site n).tile = none ∧ (t.site n).resetting = true ∧ (t.site n).valid = ⟨0, false⟩ ∧
        SameBytesOutside s t (0x010000000000 + n * 0x400000) 0x400000))) ∧
    ((s.site n).isl.state = .off → dependsOk s (.site n) = true → Gives (exec (.pgCtrlEnable (0x0500 + n) true) s) (fun t =>
      t.site n = { s.site n with isl := ⟨.test, (s.site n).isl.epoch⟩ } ∧ (t.hdr (0x0500 + n)).enable = true ∧ t.ms = s.ms ∧
      (∀ k, k ≠ n → t.site k = s.site k))) ∧
    ((s.site n).isl.state = .quiescing → (s.site n).fenced = false → (s.hdr (0x0500 + n)).quiesce = false → (s.hdr (0x0500 + n)).softReset = false →
      dependsOk s (.site n) = true → Gives (exec (.pgCtrlEnable (0x0500 + n) true) s) (fun t =>
        t.site n = { s.site n with isl := ⟨.on, (s.site n).isl.epoch⟩ } ∧ (t.hdr (0x0500 + n)).enable = true ∧ t.ms = s.ms)) ∧
    (canFence s n = true → Gives (exec (.eclipse (0x0500 + n)) s) (fun t => (t.site n).fenced = true ∧ (t.site n).tile = none ∧
      (t.site n).abandoned = (s.site n).tile ∧ (t.site n).resetting = false ∧ (t.hdr (0x0500 + n)).eclipse = true ∧
      (∀ k, k ≠ n → t.site k = s.site k) ∧ t.ms = { s.ms with lsm := t.ms.lsm, lsmKept := t.ms.lsmKept })) ∧
    (∀ (i : Instr), (s.site n).fenced = true → (s.site n).isl.state ≠ .off →
      i ∈ [Instr.pgCtrlEnable (0x0500 + n) true, .pgCtrlEnable (0x0500 + n) false, .quiesceReq (0x0500 + n) true,
        .quiesceReq (0x0500 + n) false, .softReset (0x0500 + n), .eclipse (0x0500 + n)] → exec i s = .next s)

/-- O56. PORST_N and WARMRST_N. PORST_N resets everything but what fuses, flash, straps and pins hold. A WARMRST_N of at least
1 µs takes every island but AON OFF and loses every memory; it keeps AON: fuses, logs, presence record, device time. A
shorter one, one under PORST_N and one after a thermal trip change nothing. (R471, R403) -/
def Obligations.ResetsKeepWhatFlashAndFusesHold : Prop :=
  (∀ s : State, Gives (exec .porstN s) (fun t => t.dev.porstLow = true ∧ t.dev.ready = false ∧ t.hub.state = .off ∧ t.ms = MemSys.reset ∧
      t.conns = [] ∧ t.ctxs = [] ∧ t.cmds = [] ∧ t.models = [] ∧ t.graphs = [] ∧ t.logs = State.reset.logs ∧ t.attn = Attn.reset ∧
      t.dev.serial = s.dev.serial ∧ t.dev.assetTag = s.dev.assetTag ∧ t.dev.rollback = s.dev.rollback ∧ t.dev.sealBroken = s.dev.sealBroken ∧
      t.dev.eclipsedFlash = s.dev.eclipsedFlash ∧ t.dev.bootCount = s.dev.bootCount ∧ t.tlc.recFlash = s.tlc.recFlash ∧ t.pwr.vcurve = s.pwr.vcurve ∧
      t.mgc.presence = s.mgc.presence ∧ t.mgc.slotA = s.mgc.slotA ∧ t.mgc.slotB = s.mgc.slotB ∧ t.mgc.windowOpen = false ∧ t.pending = s.pending)) ∧
    (∀ (s : State) (ns : Nat), 1000 ≤ ns → s.dev.porstLow = false → s.dev.thermtrip = false →
      Gives (exec (.warmrstN ns) s) (fun t => t.dev.ready = false ∧ t.dev.warmLow = true ∧ t.hub = ⟨.off, s.hub.epoch⟩ ∧ t.capMem.state = .off ∧
        (∀ x ∈ t.svc, x.state = .off) ∧ (∀ x ∈ t.comp, x.state = .off) ∧ (∀ x ∈ t.stk, x.state = .off) ∧ t.ms.mem = [] ∧ t.ms.ptes = [] ∧
        t.conns = [] ∧ t.ctxs = [] ∧ t.cmds = [] ∧ t.models = [] ∧ t.graphs = [] ∧ t.mgc = s.mgc ∧ t.logs = s.logs ∧ t.attn = s.attn ∧
        t.aonEpoch = s.aonEpoch ∧ t.dev = { s.dev with warmLow := true, ready := false, clkLock := t.dev.clkLock })) ∧
    (∀ (s : State) (ns : Nat), (ns < 1000 ∨ s.dev.porstLow = true ∨ s.dev.thermtrip = true) → exec (.warmrstN ns) s = .next s)

/-- O57. COLD_BOOT, WARM_BOOT_START and TWIN_HANDSHAKE_TIMEOUT. A cold boot of an unpaired Parvon with a good image and no
failing step reaches step 8, READY, unpaired, with the HUB and every tile ON, its straps sampled and its boot counted.
A first step that fails twice halts it with ATTN ERRLOG; with no image that verifies it stays in recovery. A warm boot
reaches READY with new epochs. A pair whose twin does not answer serves alone with ATTN TWIN_DEGRADED. (R431, R433,
R434, R471, R472) -/
def Obligations.BootsReachReadyOrHalt : Prop :=
  (∀ (s : State) (r : BootReport), s.dev.porstLow = true → s.svc.length = 4 → s.comp.length = 4 → s.stk.length = 4 → s.mgc.halted = false →
      (s.dev.capMem = 1 ∨ s.dev.capMem = 2) → (∀ k, r.stepFailures.getD k 0 = 0) → slotVerifies s r s.mgc.preferred = true →
      (s.mgc.slot s.mgc.preferred).failedBoots < 2 → s.tlc.recFlash = none →
      Gives (exec (.coldBoot r) s) (fun t => t.dev.ready = true ∧ t.dev.porstLow = false ∧ t.mgc.step = 8 ∧ t.mgc.halted = false ∧
        t.mgc.image = s.mgc.preferred ∧ t.hub = ⟨.on, s.hub.epoch + 1⟩ ∧ (∀ k < 4, (t.svcIsl k).state = .on ∧ (t.compIsl k).state = .on ∧
          (t.stkIsl k).state = .on) ∧ t.dev.straps = s.dev.strapPins ∧ t.dev.bootCount = satInc32 s.dev.bootCount ∧
        t.dev.timeNs = 1000000 * r.readyMs ∧ t.tlc.pair = none ∧ t.tlc.tstate = 0)) ∧
    (∀ (s : State) (r : BootReport), s.dev.porstLow = true → s.dev.ready = false → 2 ≤ r.stepFailures.getD 0 0 →
      Gives (exec (.coldBoot r) s) (fun t => t.mgc.halted = true ∧ t.mgc.step = 0 ∧ t.dev.ready = false ∧ t.attn.pending.getLsbD attnERRLOG = true)) ∧
    (∀ (s : State) (r : BootReport), s.dev.porstLow = true → s.dev.ready = false → (∀ k, r.stepFailures.getD k 0 = 0) →
      s.mgc.preferred ≤ 1 → slotVerifies s r 0 = false → slotVerifies s r 1 = false →
      Gives (exec (.coldBoot r) s) (fun t => t.mgc.recovery = true ∧ t.dev.ready = false ∧ t.mgc.step = 2)) ∧
    (∀ (s : State) (r : BootReport), s.dev.warmLow = true → s.dev.porstLow = false → s.mgc.recovery = false → s.mgc.halted = false →
      s.svc.length = 4 → s.comp.length = 4 → s.stk.length = 4 → (s.dev.capMem = 1 ∨ s.dev.capMem = 2) →
      (∀ k, r.stepFailures.getD k 0 = 0) → s.tlc.recFlash = none →
      Gives (exec (.warmBootStart r) s) (fun t => t.dev.ready = true ∧ t.dev.warmLow = false ∧ t.mgc.step = 8 ∧ t.hub = ⟨.on, s.hub.epoch + 1⟩ ∧
        (∀ k < 4, (t.svcIsl k).state = .on ∧ (t.compIsl k).state = .on) ∧ t.aonEpoch = s.aonEpoch ∧ t.dev.bootCount = s.dev.bootCount)) ∧
    (∀ s : State, s.mgc.step = 7 → s.dev.ready = false → s.mgc.halted = false →
      Gives (exec .twinHandshakeTimeout s) (fun t => t.dev.ready = true ∧ t.mgc.step = 8 ∧ t.tlc.tstate = 3 ∧
        t.attn.cause.getLsbD attnTWIN = true ∧ t.dev.timeNs = s.dev.timeNs + 1500000000))

/-- O58. Every floating pattern that is no NaN survives decoding and rounding; every NaN becomes the canonical one. For BF16,
FP32, FP16, FP8_E5M2 and FP8_E4M3, every rounding mode and every draw. (R44, R45, R57, R65) -/
def Obligations.FloatsRoundTrip : Prop :=
  ∀ L ∈ [bf16L, fp32L, fp16L, e5m2L, e4m3L], ∀ (mode : Rnd) (u bits : Nat), bits < 2 ^ (1 + L.ew + L.mw) →
    (decodeFloat L bits ≠ .nan → roundFloat L mode u (decodeFloat L bits) = bits) ∧
    (decodeFloat L bits = .nan → roundFloat L mode u (decodeFloat L bits) = canonNaN L)

/-- O59. A written byte reads back and no other byte changes. In a canonical memory, through a write at a physical address and
through a list of writes to mapped, writable addresses. (R37, R206) -/
def Obligations.WritesReadBack : Prop :=
  (∀ (m : List Host.Cell) (a : Nat) (b : Byte), Memory.wf m = true → Memory.wf (memSet m a b) = true ∧ memGet (memSet m a b) a = b ∧
      ∀ x, x ≠ a → memGet (memSet m a b) x = memGet m x) ∧
    (∀ (s : State) (cmd : Nat) (hub : Bool) (all ws : List (Nat × Byte)), s.MemOk → s.ms.badLines = [] →
      (∀ w ∈ ws, ∃ a, writeTarget s w.1 = .pa a) → ∀ t, t = (writeAll cmd hub all ws s).1 →
      (writeAll cmd hub all ws s).2 = none ∧ t = { s with ms := { s.ms with mem := t.ms.mem, lsmKept := t.ms.lsmKept } } ∧
      (∀ a, (∀ w ∈ ws, writeTarget s w.1 ≠ .pa a) → memGet t.ms.mem a = memGet s.ms.mem a) ∧
      (∀ w a, ws.getLast? = some w → writeTarget s w.1 = .pa a → memGet t.ms.mem a = w.2))

/-- O60. An operator whose checks pass completes with its RESULT and its writes stand in memory. For every operator row: when
the checks of a ready command pass, nothing that it reads is being written meanwhile (R70) and its results go to
mapped, writable memory, the command completes with the RESULT its operator gives, or that of the read fault that
ended its work after the writes before it, every address it writes holds its last value, every other byte outside
newly taken pages is as before, and its scalar registers are written. FORK and RELEASE complete with their RESULT and
the page tables of their operation. SAMPLE_STEP, CODEC_DEC and CODEC_ENC complete in the same way. (R70, R94, R140,
R142, R161, R176, R180, R187, R206, R218, R290) -/
def Obligations.OperatorResultsReachMemory : Prop :=
  (∀ r ∈ bodyRows, ∀ (s q : State) (id : Nat) (c : Cmd) (o : OpOut), opReady s id r.1 = some c → r.2.2 (s.accessing c) c = (q, .ok o) →
      CanWrite q o.writes → Quiet q c o → ∀ res, res = ((o.err.map Prod.fst).getD o.res) → Gives (exec (r.2.1 id) s) (fun t => (t.cmd? id).map Cmd.result = some (some res) ∧
        WritesLanded q t (o.byPlace.flatMap Prod.snd) ∧ (o.err = none → t.ctxs = (setSregs q c.ctx o.sregs).ctxs) ∧ (∀ n, n ≠ id → t.cmd? n = s.cmd? n))) ∧
    (∀ (s : State) (id : Nat) (c : Cmd), opReady s id 0x13 = some c →
      (∀ q o, (parseFk c.u0).release = false → forkBody (s.accessing c) c = (q, .ok o) → Gives (exec (.fork id) s) (fun t =>
        (t.cmd? id).map Cmd.result = some (some o.res) ∧ t.ms = { q.ms with view := s.ms.view, tlbs := t.ms.tlbs } ∧ t.ctxs = s.ctxs)) ∧
      (∀ q o, (parseFk c.u0).release = true → releaseBody (s.accessing c) c = (q, .ok o) → Gives (exec (.release id) s) (fun t =>
        (t.cmd? id).map Cmd.result = some (some o.res) ∧ t.ms = { q.ms with view := s.ms.view, tlbs := t.ms.tlbs } ∧ t.ctxs = s.ctxs))) ∧
    (∀ (s q : State) (id : Nat) (c : Cmd) (o : SsOut) (copies : List (Nat × Staging)), opReady s id 0x09 = some c → q = s.accessing c →
      ssBody q c (((s.ctx? c.ctx).map Ctx.kept).getD []) = .ok (o, copies) → CanWrite q o.out.writes → Quiet q c o.out →
      Gives (exec (.sampleStep id) s) (fun t => (t.cmd? id).map Cmd.result = some (some ((o.out.err.map Prod.fst).getD o.out.res)) ∧
        WritesLanded q t (o.out.byPlace.flatMap Prod.snd))) ∧
    (∀ (s q : State) (id : Nat) (c : Cmd) (pic : Picture) (o : CodecOut), opReady s id 0x11 = some c → q = s.accessing c →
      (c.codec.bind CodecRun.engine).isSome = true → decBody q c pic = .ok o → CanWrite q o.out.writes →
      Gives (exec (.codecDec id pic) s) (fun t => (t.cmd? id).map Cmd.result = some (some ((o.out.err.map Prod.fst).getD o.out.res)) ∧
        WritesLanded q t (o.out.byPlace.flatMap Prod.snd))) ∧
    (∀ (s q : State) (id : Nat) (c : Cmd) (r : CodecRun) (coded : Coded) (o : CodecOut), opReady s id 0x12 = some c → c.codec = some r →
      q = s.accessing c → r.engine.isSome = true → r.sampled = true → r.holding = [] → encBody q c coded = .ok o → CanWrite q o.out.writes →
      Gives (exec (.codecEnc id coded) s) (fun t => (t.cmd? id).map Cmd.result = some (some ((o.out.err.map Prod.fst).getD o.out.res)) ∧
        WritesLanded q t (o.out.byPlace.flatMap Prod.snd)))
end

