-- ==== Sys2Proof/Laws/Memory.lean ====
section
/-! SUPPORT. Memory in its canonical form (addresses rising, no listed zero): what a write, a zero-fill and a copy
leave, and that each of them keeps the form. -/

namespace Sys2Proof.Machine

set_option Elab.async false

theorem memWfFrom_mono : ∀ (m : List Host.Cell) {lo hi : Nat}, lo ≤ hi → memWfFrom hi m = true → memWfFrom lo m = true
  | [], _, _, _, _ => rfl
  | (a, b) :: t, lo, hi, h, w => by
      simp only [memWfFrom, Bool.and_eq_true, decide_eq_true_eq] at w ⊢
      exact ⟨⟨by omega, w.1.2⟩, w.2⟩

/-- Below its first address a canonical memory reads 0. -/
theorem memGet_below : ∀ (m : List Host.Cell) {lo a : Nat}, memWfFrom lo m = true → a < lo → memGet m a = 0
  | [], _, _, _, _ => rfl
  | (x, b) :: t, lo, a, w, h => by
      simp only [memWfFrom, Bool.and_eq_true, decide_eq_true_eq] at w
      simp only [memGet, if_neg (show ¬x = a by omega)]
      exact memGet_below t w.2 (by omega)

theorem memSet_wfFrom : ∀ (m : List Host.Cell) {lo a : Nat} (b : Byte), memWfFrom lo m = true → lo ≤ a →
    memWfFrom lo (memSet m a b) = true
  | [], lo, a, b, _, h => by
      simp only [memSet]
      split
      · rfl
      · simp_all [memWfFrom]
  | (x, y) :: t, lo, a, b, w, h => by
      simp only [memWfFrom, Bool.and_eq_true, decide_eq_true_eq] at w
      simp only [memSet]
      split
      · split
        · have := w.1.2
          simp_all [memWfFrom]
        · have := w.1.2
          simp_all [memWfFrom]
      · split
        · split
          · exact memWfFrom_mono t (by omega) w.2
          · simp_all [memWfFrom]
        · simp only [memWfFrom, Bool.and_eq_true, decide_eq_true_eq]
          exact ⟨w.1, memSet_wfFrom t b w.2 (by omega)⟩

/-- Every address reads as before a write, but the one written. -/
theorem memGet_memSet : ∀ (m : List Host.Cell) {lo : Nat} (a x : Nat) (b : Byte), memWfFrom lo m = true →
    memGet (memSet m a b) x = if x = a then b else memGet m x
  | [], _, a, x, b, _ => by
      simp only [memSet]
      split
      · rename_i hb
        split <;> simp [memGet, hb]
      · simp only [memGet]
        by_cases hx : a = x
        · simp [hx]
        · simp [hx, Ne.symm hx]
  | (k, y) :: t, lo, a, x, b, w => by
      simp only [memWfFrom, Bool.and_eq_true, decide_eq_true_eq] at w
      have ih := memGet_memSet t a x b w.2
      have low : ∀ z, z ≤ k → memGet t z = 0 := fun z hz => memGet_below t w.2 (by omega)
      simp only [memSet]
      split
      · rename_i hlt
        split
        · rename_i hb
          by_cases hx : x = a
          · subst hx
            simp [memGet, if_neg (show ¬k = x by omega), low x (by omega), hb]
          · simp [hx]
        · by_cases hx : a = x
          · simp [memGet, hx]
          · simp [memGet, hx, Ne.symm hx]
      · split
        · rename_i hk
          split
          · rename_i hb
            by_cases hx : x = a
            · simp [hx, hb, ← hk, low k (by omega)]
            · have : ¬k = x := by omega
              simp [memGet, hx, this]
          · by_cases hx : a = x
            · simp [memGet, hx]
            · have : ¬k = x := by omega
              simp [memGet, hx, Ne.symm hx, this]
        · rename_i hk
          by_cases hx : k = x
          · have : ¬x = a := by omega
            simp [memGet, hx, this]
          · simp [memGet, hx, ih]

theorem memSet_wf (m : List Host.Cell) (a : Nat) (b : Byte) (w : Memory.wf m = true) :
    Memory.wf (memSet m a b) = true := memSet_wfFrom m b w (Nat.zero_le a)

theorem memPut_wf : ∀ (bs : List Byte) (m : List Host.Cell) (a : Nat), Memory.wf m = true → Memory.wf (memPut m a bs) = true
  | [], _, _, w => w
  | b :: bs, m, a, w => memPut_wf bs _ (a + 1) (memSet_wf m a b w)

/-- Any part of a canonical memory is canonical. -/
theorem memFilter_wfFrom (p : Host.Cell → Bool) : ∀ (m : List Host.Cell) {lo : Nat}, memWfFrom lo m = true →
    memWfFrom lo (m.filter p) = true
  | [], _, _ => rfl
  | (a, b) :: t, lo, w => by
      simp only [memWfFrom, Bool.and_eq_true, decide_eq_true_eq] at w
      have ih := memFilter_wfFrom p t w.2
      simp only [List.filter_cons]
      split
      · simp only [memWfFrom, Bool.and_eq_true, decide_eq_true_eq]
        exact ⟨w.1, ih⟩
      · exact memWfFrom_mono _ (by omega) ih

theorem memClear_wf (m : List Host.Cell) (a n : Nat) (w : Memory.wf m = true) : Memory.wf (memClear m a n) = true :=
  memFilter_wfFrom _ m w

theorem memGet_memClear (m : List Host.Cell) (a n x : Nat) :
    memGet (memClear m a n) x = if a ≤ x ∧ x < a + n then 0 else memGet m x := by
  induction m with
  | nil => simp [memClear, memGet]
  | cons c t ih =>
      obtain ⟨k, b⟩ := c
      unfold memClear at ih ⊢
      rw [List.filter_cons]
      by_cases hk : k < a ∨ a + n ≤ k
      · rw [if_pos (by simpa using hk), memGet, ih, memGet]
        by_cases hx : k = x
        · rw [if_pos hx, if_pos hx, if_neg (by omega)]
        · rw [if_neg hx, if_neg hx]
      · rw [if_neg (by simpa using hk), ih, memGet]
        by_cases hx : k = x
        · rw [if_pos (show a ≤ x ∧ x < a + n by omega), if_pos (show a ≤ x ∧ x < a + n by omega)]
        · rw [if_neg hx]

theorem memCopyZeroed_wf (m : List Host.Cell) (src dst n : Nat) (w : Memory.wf m = true) :
    Memory.wf (memCopyZeroed m src dst n) = true := by
  have step : ∀ (l : List Host.Cell) (acc : List Host.Cell), Memory.wf acc = true →
      Memory.wf (l.foldl (fun acc c => memSet acc (dst + (c.1 - src)) c.2) acc) = true := by
    intro l
    induction l with
    | nil => exact fun _ h => h
    | cons c t ih => exact fun acc h => ih _ (memSet_wf acc _ _ h)
  exact step _ _ (memClear_wf m dst n w)

/-! Keyed tables. -/

theorem alFind_alSet {α : Type} (k x : Nat) (v : α) (l : List (Nat × α)) :
    alFind x (alSet k v l) = if x = k then some v else alFind x l := by
  induction l with
  | nil => by_cases h : k = x <;> simp [alSet, alFind, h, eq_comm]
  | cons c t ih =>
      obtain ⟨j, y⟩ := c
      simp only [alSet]
      split
      · by_cases h : k = x <;> simp [alFind, h, eq_comm]
      · split
        · rename_i hj
          by_cases h : k = x
          · simp [alFind, h]
          · have : ¬j = x := by omega
            simp [alFind, h, Ne.symm h, this]
        · rename_i hj
          by_cases h : j = x
          · have : ¬x = k := by omega
            simp [alFind, h, this]
          · simp [alFind, h, ih]

@[simp] theorem State.site_setSite (s : State) (n k : Nat) (x : Site) :
    (s.setSite n x).site k = if k = n then x else s.site k := by
  simp only [State.site, State.setSite, alFind_alSet]
  split <;> simp_all

@[simp] theorem State.part_setPart (s : State) (n k : Nat) (x : Partition) :
    (s.setPart n x).part k = if k = n then x else s.part k := by
  simp only [State.part, State.setPart, alFind_alSet]
  split <;> simp_all

@[simp] theorem State.cluster_setCluster (s : State) (n k : Nat) (x : Cluster) :
    (s.setCluster n x).cluster k = if k = n then x else s.cluster k := by
  simp only [State.cluster, State.setCluster, alFind_alSet]
  split <;> simp_all

@[simp] theorem State.hdr_setHdr (s : State) (n k : Nat) (x : PageHdr) :
    (s.setHdr n x).hdr k = if k = n then x else s.hdr k := by
  simp only [State.hdr, State.setHdr, alFind_alSet]
  split <;> simp_all

end Sys2Proof.Machine
end

