-- ==== Sys2Proof/Laws/Keeps.lean ====
section
/-! SUPPORT. What the shared operations keep: the queue, canonical memory and the permanent marks. `Keeps` composes;
each shared operation has one lemma, so that a row's proof cites the operations it calls. -/

namespace Sys2Proof.Machine

set_option Elab.async false

theorem MarksStay.refl (s : State) : MarksStay s s := ⟨id, fun _ h => h, fun _ h => h, fun _ h => h⟩

theorem MarksStay.trans {s t u : State} (h : MarksStay s t) (k : MarksStay t u) : MarksStay s u :=
  ⟨fun x => k.broken (h.broken x), fun n x => k.asset n (h.asset n x), fun n x => k.rollback n (h.rollback n x),
    fun n x => k.eclipses n (h.eclipses n x)⟩

theorem MarksStay.of_dev {s t : State} (h : t.dev = s.dev) : MarksStay s t := by
  constructor <;> rw [h] <;> simp

/-- The queue stays, canonical memory stays canonical, permanent marks stay. -/
structure Keeps (s t : State) : Prop where
  queue : t.pending = s.pending
  mem : s.MemOk → t.MemOk
  marks : MarksStay s t

theorem Keeps.refl (s : State) : Keeps s s := ⟨rfl, id, MarksStay.refl s⟩

theorem Keeps.trans {s t u : State} (h : Keeps s t) (k : Keeps t u) : Keeps s u :=
  ⟨k.queue.trans h.queue, fun x => k.mem (h.mem x), h.marks.trans k.marks⟩

/-- Whatever leaves queue, memory and fuses alone keeps all three. -/
theorem Keeps.plain {s t : State} (p : t.pending = s.pending) (m : t.ms.mem = s.ms.mem) (d : t.dev = s.dev) : Keeps s t :=
  ⟨p, fun h => by simpa [State.MemOk, m] using h, MarksStay.of_dev d⟩

theorem Keeps.foldl {α : Type} {f : State → α → State} (h : ∀ s x, Keeps s (f s x)) : ∀ (l : List α) (s : State),
    Keeps s (l.foldl f s)
  | [], s => Keeps.refl s
  | x :: t, s => (h s x).trans (Keeps.foldl h t (f s x))

/-! The memory system alone. -/

/-- A change of the memory system that keeps the canonical form. -/
def MsKeeps (a b : MemSys) : Prop := Memory.wf a.mem = true → Memory.wf b.mem = true

theorem MsKeeps.refl (a : MemSys) : MsKeeps a a := id
theorem MsKeeps.trans {a b c : MemSys} (h : MsKeeps a b) (k : MsKeeps b c) : MsKeeps a c := fun x => k (h x)
theorem MsKeeps.same {a b : MemSys} (h : b.mem = a.mem) : MsKeeps a b := fun x => by rw [h]; exact x
theorem MsKeeps.foldl {α : Type} {f : MemSys → α → MemSys} (h : ∀ m x, MsKeeps m (f m x)) : ∀ (l : List α) (m : MemSys),
    MsKeeps m (l.foldl f m)
  | [], m => MsKeeps.refl m
  | x :: t, m => (h m x).trans (MsKeeps.foldl h t (f m x))

theorem Keeps.ms {s : State} {ms : MemSys} (h : MsKeeps s.ms ms) : Keeps s { s with ms := ms } :=
  ⟨rfl, h, MarksStay.of_dev rfl⟩

theorem takePage_keeps {ms : MemSys} {k : Pool} {home : Nat} {q : Nat × MemSys} (h : takePage ms k home = some q) :
    MsKeeps ms q.2 := by
  simp only [takePage, Option.map_eq_some_iff] at h
  obtain ⟨p, -, rfl⟩ := h
  exact fun w => memClear_wf _ _ _ w

theorem dropPage_mem (ms : MemSys) (p : Nat) : (dropPage ms p).mem = ms.mem := by
  unfold dropPage
  split <;> rfl

theorem dropPage_keeps (ms : MemSys) (p : Nat) : MsKeeps ms (dropPage ms p) := MsKeeps.same (dropPage_mem ms p)

theorem placeModelPage_keeps {ms : MemSys} {m : Model} {level va home : Nat} {q : Nat × MemSys}
    (h : placeModelPage ms m level va home = some q) : MsKeeps ms q.2 := by
  unfold placeModelPage at h
  split at h
  · simp only [Option.map_eq_some_iff] at h
    obtain ⟨r, hr, rfl⟩ := h
    have k := takePage_keeps hr
    exact k
  · simp only at h
    split at h
    · cases h
      exact MsKeeps.refl _
    · simp only [Option.map_eq_some_iff] at h
      obtain ⟨r, hr, rfl⟩ := h
      have k := takePage_keeps hr
      exact k

theorem holdScratch_keeps (key : Nat) : ∀ (homes : List Nat) (ms : MemSys), MsKeeps ms (holdScratch ms key homes)
  | [], ms => MsKeeps.refl ms
  | home :: t, ms => by
      unfold holdScratch
      split
      · rename_i h
        exact fun w => holdScratch_keeps key t _ (takePage_keeps h w)
      · exact MsKeeps.refl ms

theorem holdPlan_keeps (s : State) (c : Cmd) (p : Plan) : MsKeeps s.ms (holdPlan s c p) :=
  (holdScratch_keeps c.id _ s.ms).trans (MsKeeps.foldl (fun m _ => holdScratch_keeps _ _ m) _ _)

theorem holdScratchIn_keeps (key p : Nat) : ∀ (n : Nat) (ms : MemSys), MsKeeps ms (holdScratchIn ms key p n)
  | 0, ms => MsKeeps.refl ms
  | n + 1, ms => by
      unfold holdScratchIn
      split
      · exact MsKeeps.trans (fun w => memClear_wf _ _ _ w) (holdScratchIn_keeps key p n _)
      · exact MsKeeps.refl ms

theorem dropScratch_keeps (ms : MemSys) (key : Nat) : MsKeeps ms (dropScratch ms key) :=
  fun w => by
    unfold dropScratch
    exact MsKeeps.foldl (fun m p => dropPage_keeps m p) _ _ w

/-! Writes. -/

theorem mapWork_keeps (s : State) (va home : Nat) : Keeps s (mapWork s va home) := by
  unfold mapWork
  split
  · exact Keeps.refl s
  · split
    · exact Keeps.refl s
    · split
      · exact Keeps.refl s
      · split
        · exact Keeps.refl s
        · rename_i h
          exact Keeps.ms ((placeModelPage_keeps h).trans (MsKeeps.same rfl))

/-- A byte stored changes that byte's place alone. -/
theorem storeByte_keeps {s t : State} {ws : List (Nat × Byte)} {pa va : Nat} {b : Byte} (h : storeByte s ws pa va b = .ok t) :
    Keeps s t := by
  unfold storeByte at h
  split at h
  · split at h
    · cases h
      exact Keeps.ms (fun w => memSet_wf _ _ _ w)
    · cases h
  · cases h
    exact Keeps.ms (fun w => memSet_wf _ _ _ w)

/-- A byte written keeps everything but that byte's place: memory stays canonical. -/
theorem writeByte_keeps {s t : State} {cmd : Nat} {hub : Bool} {ws : List (Nat × Byte)} {va : Nat} {b : Byte}
    (h : writeByte s cmd hub ws va b = .ok t) : Keeps s t := by
  unfold writeByte at h
  split at h
  · cases h
  · exact storeByte_keeps h
  · split at h
    · simp only at h
      split at h
      · exact (mapWork_keeps s va _).trans (storeByte_keeps h)
      · cases h
      · cases h
      · cases h
    · cases h
      exact Keeps.ms (MsKeeps.same rfl)
  · simp only at h
    split at h
    · exact Keeps.trans (t := { s with ms := s.ms.setPte _ }) (Keeps.ms (MsKeeps.same rfl)) (storeByte_keeps h)
    · split at h
      · cases h
        exact Keeps.ms (MsKeeps.same rfl)
      · split at h
        · cases h
        · rename_i hp
          cases h
          exact Keeps.ms ((takePage_keeps hp).trans (MsKeeps.same rfl))

theorem writeAll_keeps (cmd : Nat) (hub : Bool) (all : List (Nat × Byte)) : ∀ (ws : List (Nat × Byte)) (s : State),
    Keeps s (writeAll cmd hub all ws s).1
  | [], s => Keeps.refl s
  | (va, b) :: t, s => by
      unfold writeAll
      split
      · exact Keeps.refl s
      · rename_i h
        exact (writeByte_keeps h).trans (writeAll_keeps cmd hub all t _)

theorem firmwareWrite_keeps (all : List (Nat × Byte)) : ∀ (ws : List (Nat × Byte)) (s t : State), firmwareWrite all ws s = .ok t →
    Keeps s t
  | [], s, t, h => by
      cases h
      exact Keeps.refl s
  | (va, b) :: ws, s, t, h => by
      unfold firmwareWrite at h
      split at h
      · exact firmwareWrite_keeps all ws s t h
      · split at h
        · cases h
        · rename_i hk
          exact (storeByte_keeps hk).trans (firmwareWrite_keeps all ws _ t h)

/-! Errors. -/

theorem setEvent_frame (s : State) (p k : Nat) :
    s.setEvent p k = { s with hdrs := (s.setEvent p k).hdrs, attn := (s.setEvent p k).attn } := by
  unfold State.setEvent
  simp only
  split
  · rfl
  · split
    · rfl
    · split <;> rfl

theorem setEvent_keeps (s : State) (p k : Nat) : Keeps s (s.setEvent p k) := by
  rw [setEvent_frame]
  exact Keeps.plain rfl rfl rfl

theorem logError_frame (s : State) (p c t r d : Nat) : s.logError p c t r d =
    { s with hdrs := (s.logError p c t r d).hdrs, attn := (s.logError p c t r d).attn, logs := (s.logError p c t r d).logs } := by
  unfold State.logError
  simp only
  split
  · rw [setEvent_frame]; rfl
  · rw [setEvent_frame]; rfl

theorem logError_keeps (s : State) (p c t r d : Nat) : Keeps s (s.logError p c t r d) := by
  rw [logError_frame]
  exact Keeps.plain rfl rfl rfl

theorem logNote_keeps (s : State) (p t d : Nat) : Keeps s (s.logNote p t d) := Keeps.plain rfl rfl rfl
theorem emits_keeps (s : State) (es : List Egress) : Keeps s (s.emits es) := Keeps.plain rfl rfl rfl
theorem emit_keeps (s : State) (e : Egress) : Keeps s (s.emit e) := Keeps.plain rfl rfl rfl
theorem updCmd_keeps (s : State) (n : Nat) (f : Cmd → Cmd) : Keeps s (s.updCmd n f) := Keeps.plain rfl rfl rfl
theorem updCtx_keeps (s : State) (n : Nat) (f : Ctx → Ctx) : Keeps s (s.updCtx n f) := Keeps.plain rfl rfl rfl
theorem updConn_keeps (s : State) (n : Nat) (f : Conn → Conn) : Keeps s (s.updConn n f) := Keeps.plain rfl rfl rfl
theorem setCtx_keeps (s : State) (x : Ctx) : Keeps s (s.setCtx x) := Keeps.plain rfl rfl rfl
theorem setSite_keeps (s : State) (n : Nat) (x : Site) : Keeps s (s.setSite n x) := Keeps.plain rfl rfl rfl
theorem setPart_keeps (s : State) (n : Nat) (x : Partition) : Keeps s (s.setPart n x) := Keeps.plain rfl rfl rfl
theorem setCluster_keeps (s : State) (n : Nat) (x : Cluster) : Keeps s (s.setCluster n x) := Keeps.plain rfl rfl rfl
theorem setHdr_keeps (s : State) (n : Nat) (x : PageHdr) : Keeps s (s.setHdr n x) := Keeps.plain rfl rfl rfl
theorem attnEvent_keeps (s : State) (n : Nat) : Keeps s (s.attnEvent n) := Keeps.plain rfl rfl rfl

theorem setIsl_keeps (s : State) (i : Island) (x : Isl) : Keeps s (s.setIsl i x) := by
  cases i <;> exact Keeps.plain rfl rfl rfl

theorem setEventOnce_keeps (s : State) (p k c : Nat) : Keeps s (s.setEventOnce p k c) := by
  unfold State.setEventOnce
  simp only
  split
  · exact (setEvent_keeps s p k).trans (attnEvent_keeps _ c)
  · exact setEvent_keeps s p k

theorem captureFault_frame (s : State) (c : Cmd) (e : Err) : captureFault s c e =
    { s with freeCtr := (captureFault s c e).freeCtr, hdrs := (captureFault s c e).hdrs, attn := (captureFault s c e).attn,
             logs := (captureFault s c e).logs } := by
  unfold captureFault
  simp only
  split <;> first | rw [logError_frame] | rfl

theorem captureFault_keeps (s : State) (c : Cmd) (e : Err) : Keeps s (captureFault s c e) := by
  rw [captureFault_frame]
  exact Keeps.plain rfl rfl rfl

/-! Operator commands. -/

theorem advanceLfsr_keeps (s : State) (c : Cmd) : Keeps s (advanceLfsr s c) := by
  unfold advanceLfsr
  split
  · exact Keeps.refl s
  · split
    · refine Keeps.foldl (fun s p => ?_) _ s
      split
      · exact setPart_keeps ..
      · exact Keeps.refl _
    · exact Keeps.foldl (fun s n => setSite_keeps ..) _ s

theorem setSregs_keeps (s : State) (ctx : Nat) (l : List (Nat × DWord)) : Keeps s (setSregs s ctx l) :=
  Keeps.foldl (fun s _ => updCtx_keeps s ctx _) l s

/-- Tiles that write keep what their bytes keep. -/
theorem writeTiles_keeps (cmd : Nat) (hub : Bool) (on : Nat → Bool) : ∀ (l : List ((Place × List (Nat × Byte)) × Nat)) (s : State),
    Keeps s (writeTiles cmd hub on l s).1
  | [], s => Keeps.refl s
  | (t, k) :: ts, s => by
      unfold writeTiles
      split
      · exact (writeAll_keeps cmd hub t.2 t.2 s).trans (writeTiles_keeps cmd hub on ts _)
      · exact writeTiles_keeps cmd hub on ts s

/-- What a command draws and remembers leaves the three alone. -/
theorem beginWrites_keeps (s : State) (c : Cmd) (o : OpOut) : Keeps s (beginWrites s c o) := by
  refine Keeps.trans (t := { s with freeCtr := s.freeCtr + o.draws }) (Keeps.plain rfl rfl rfl) ?_
  refine (advanceLfsr_keeps _ c).trans ((updCmd_keeps _ c.id (fun d => { d with was := replacedBytes s o.writes })).trans ?_)
  exact Keeps.plain rfl rfl rfl

theorem applyOut_keeps (s : State) (c : Cmd) (hub : Bool) (o : OpOut) : Keeps s (applyOut s c hub o).1 := by
  have h (on : Nat → Bool) : Keeps s (writeTiles c.id hub on o.byPlace.zipIdx (beginWrites s c o)).1 :=
    (beginWrites_keeps s c o).trans (writeTiles_keeps c.id hub on _ _)
  unfold applyOut
  generalize beginWrites s c o = b at h
  simp only
  split
  · exact (h _).trans (captureFault_keeps _ c _)
  · exact (h _).trans (captureFault_keeps _ c _)
  · exact (h _).trans (setSregs_keeps _ _ _)

/-- What runs with a command's accesses in progress keeps what it keeps alone. -/
theorem during_keeps (s : State) (c : Cmd) {f : State → State} (h : ∀ t, Keeps t (f t)) : Keeps s (s.during c f) :=
  Keeps.trans (t := s.accessing c) (Keeps.plain rfl rfl rfl) ((h _).trans (Keeps.ms (MsKeeps.same rfl)))

/-- TLB entries that have been used. -/
theorem usedTlbs_keeps (s : State) (c : Cmd) : Keeps s { s with ms := usedTlbs s c } := Keeps.ms (MsKeeps.same rfl)

/-- An outcome applied keeps what its writes keep. -/
theorem finishOp_keeps (s : State) (c : Cmd) (hub : Bool) (run : State → Except Err OpOut) (o : OpOut) :
    Keeps s (finishOp s c hub run o) := by
  have h : ∀ n q, Keeps s (applyOut { s with freeCtr := n } c hub q).1 := fun n q =>
    Keeps.trans (t := { s with freeCtr := n }) (Keeps.plain rfl rfl rfl) (applyOut_keeps _ c hub q)
  unfold finishOp
  dsimp only
  refine Keeps.trans ?_ (updCmd_keeps _ _ _)
  split
  · exact h _ _
  · exact (h _ _).trans (usedTlbs_keeps _ c)

/-- An operator command whose body keeps the three keeps them. -/
theorem runOp_keeps (s : State) (id op : Nat) (hub : Bool) (body : State → Cmd → State × Except Err OpOut)
    (hb : ∀ s c, Keeps s (body s c).1) : Keeps s (runOp s id op hub body) := by
  unfold runOp
  split
  · exact Keeps.refl s
  · rename_i c _
    refine during_keeps s c (fun t => ?_)
    have k := hb t c
    split
    · rename_i heq
      rw [heq] at k
      exact (k.trans (captureFault_keeps _ c _)).trans (updCmd_keeps _ _ _)
    · rename_i s1 o heq
      rw [heq] at k
      refine k.trans (Keeps.trans ?_ (finishOp_keeps _ c hub _ o))
      split
      · split
        · exact ⟨rfl, holdPlan_keeps s1 c _, MarksStay.of_dev rfl⟩
        · exact Keeps.refl s1
      · exact Keeps.refl s1

/-- A control command changes its context, the round of its core and the command cache alone. -/
theorem runControl_frame (s : State) (n op : Nat) (f : Ctx → Version → Unit64 → Option Ctx) :
    runControl s n op f = { s with ctxs := (runControl s n op f).ctxs, turns := (runControl s n op f).turns,
                                   cmdCache := (runControl s n op f).cmdCache } := by
  unfold runControl
  split
  · rfl
  · simp only
    split
    · split <;> rfl
    · rfl

/-! Completion. -/

theorem setPte_foldl_mem (l : List Pte) (f : Pte → Pte) : ∀ ms : MemSys, (l.foldl (fun ms p => ms.setPte (f p)) ms).mem = ms.mem := by
  induction l with
  | nil => exact fun _ => rfl
  | cons p t ih => exact fun ms => (ih (ms.setPte (f p))).trans rfl

theorem repin_keeps (s : State) : Keeps s (repin s) := Keeps.ms (MsKeeps.same (setPte_foldl_mem _ _ _))

theorem settlePins_keeps (s : State) : Keeps s (settlePins s) :=
  Keeps.trans (t := retire s) (Keeps.plain rfl rfl rfl) (repin_keeps _)

theorem closeCtx_keeps (s : State) (n : Nat) : Keeps s (closeCtx s n) :=
  Keeps.trans (t := { s.dropCtx n with ms := dropScratch s.ms (keptKey n), holds := s.holds.filter (fun h => h.ctx != n) })
    ⟨rfl, dropScratch_keeps s.ms _, MarksStay.of_dev rfl⟩ (settlePins_keeps _)

theorem sendRecord_keeps (s : State) (c : Conn) (h : HeldRec) : Keeps s (sendRecord s c h) := by
  unfold sendRecord
  simp only
  have k : Keeps s (if h.notify = true then (s.emit (.record c.id (recordVa c h.seq) h.bytes)).emit (.notify c.id (h.seq % 2 ^ 32))
      else s.emit (.record c.id (recordVa c h.seq) h.bytes)) := by
    split <;> exact Keeps.plain rfl rfl rfl
  split
  · exact k.trans (closeCtx_keeps _ _)
  · exact k

theorem sendMirror_keeps (s : State) (us : List Mirror) : Keeps s (sendMirror s us) := by
  unfold sendMirror
  refine Keeps.foldl (fun t u => ?_) us s
  exact Keeps.plain rfl rfl rfl

theorem writeOne_keeps (s : State) (c : Conn) (o : OutRec) : Keeps s (writeOne s c o) := by
  unfold writeOne
  simp only
  split
  · exact (updConn_keeps s _ _).trans ((sendMirror_keeps _ _).trans (Keeps.plain rfl rfl rfl))
  · split
    · exact (updConn_keeps s _ _).trans (sendRecord_keeps _ _ _)
    · split
      · exact (updConn_keeps s _ _).trans (closeCtx_keeps _ _)
      · exact updConn_keeps s _ _

theorem drainLoop_keeps : ∀ (n conn : Nat) (s : State), Keeps s (drainLoop n conn s)
  | 0, _, s => Keeps.refl s
  | n + 1, conn, s => by
      unfold drainLoop
      split
      · exact Keeps.refl s
      · split
        · exact Keeps.refl s
        · split
          · exact (writeOne_keeps s _ _).trans (drainLoop_keeps n conn _)
          · exact Keeps.refl s

theorem enqueue_keeps (s : State) (conn : Nat) (o : OutRec) : Keeps s (enqueue s conn o) :=
  (updConn_keeps s conn _).trans (drainLoop_keeps _ _ _)

theorem complete_keeps (s : State) (x : Ctx) (r : Res) : Keeps s (complete s x r) := by
  unfold complete
  split
  · exact closeCtx_keeps s _
  · exact (setCtx_keeps s _).trans (enqueue_keeps _ _ _)

/-- A gated row keeps what its action keeps. -/
theorem gated_keeps (i : Instr) (extra : State → List Mirror) (f : State → State) (s : State) (h : Keeps s (f s)) :
    Keeps s (gated i extra f s) := by
  unfold gated
  split
  · simp only
    split
    · exact h
    · split
      · exact Keeps.refl s
      · exact (sendMirror_keeps s _).trans (Keeps.plain rfl rfl rfl)
  · exact h

/-- Alone, a gated row is its action. -/
theorem gated_alone (i : Instr) (extra : State → List Mirror) (f : State → State) (s : State) (h : mirroring s = false) :
    gated i extra f s = f s := by simp [gated, h]

/-! Management requests. -/

/-- A request keeps what its operation keeps. -/
theorem mmpAnswer_keeps (src : MmpSrc) (m : List Byte) (body : List Byte → State → MmpOut) (s : State)
    (h : Keeps s (body (m.drop 16) s).st) : Keeps s (mmpAnswer src m body s) := by
  unfold mmpAnswer
  split
  · exact Keeps.refl s
  · split
    · exact emit_keeps s _
    · simp only
      refine Keeps.trans (t := MmpOut.st (if (!mmpForm m) = true then .plain s .mmpMalformed
        else if (s.mgc.recovery && !recoveryServes m) = true then .plain s .domainOff else body (m.drop 16) s)) ?_
        (Keeps.plain rfl rfl rfl)
      split
      · exact Keeps.refl s
      · split
        · exact Keeps.refl s
        · exact h

theorem mmpRow_keeps (op : Nat) (src : MmpSrc) (m : List Byte) (body : List Byte → State → MmpOut) (s : State)
    (h : ∀ p s, Keeps s (body p s).st) : Keeps s (mmpRow op src m body s) := by
  unfold mmpRow
  split
  · exact mmpAnswer_keeps src m body s (h _ s)
  · exact Keeps.refl s

/-! Islands. -/

theorem changeIsl_keeps (s : State) (i : Island) (st : PState) : Keeps s (changeIsl s i st) := by
  unfold changeIsl
  simp only
  split
  · exact Keeps.refl s
  · exact (setIsl_keeps s i _).trans (Keeps.foldl (fun s p => setEvent_keeps s p 12) _ _)

theorem loseHdrs_keeps (s : State) (i : Island) : Keeps s (loseHdrs s i) := Keeps.plain rfl rfl rfl

theorem turnOff_keeps (s : State) (i : Island) : Keeps s (turnOff s i) :=
  (setIsl_keeps s i _).trans (loseHdrs_keeps _ i)

theorem bootHdrs_keeps (s : State) (i : Island) (lock : Bool) : Keeps s (bootHdrs s i lock) :=
  Keeps.foldl (fun s p => setHdr_keeps s p _) _ _

theorem powerUp_keeps (s : State) (i : Island) (lock : Bool) : Keeps s (powerUp s i lock) :=
  (setIsl_keeps s i _).trans (bootHdrs_keeps _ i lock)

theorem returnOn_keeps (s : State) (i : Island) : Keeps s (returnOn s i) := powerUp_keeps s i true

/-- Memory that loses a range keeps its form. -/
theorem lose_keeps (ms : MemSys) (lo len : Nat) : MsKeeps ms (ms.lose lo len) := fun w => memFilter_wfFrom _ _ w

theorem loseLsm_keeps (s : State) (n : Nat) : Keeps s (loseLsm s n) := Keeps.ms (lose_keeps _ _ _)

/-- Slots that enter a site's pipeline change that site alone. -/
theorem slotsEnter_keeps (s : State) (site n a b : Nat) : Keeps s (s.slotsEnter site n a b) := by
  unfold State.slotsEnter
  split
  · exact Keeps.refl s
  · simp only
    split
    · exact Keeps.refl s
    · exact (setSite_keeps s site _).trans (Keeps.ms (MsKeeps.same rfl))

theorem arrProgress_keeps (s : State) (site : Nat) : Keeps s (s.arrProgress site) := by
  unfold State.arrProgress
  simp only
  split
  · exact Keeps.refl s
  · exact (slotsEnter_keeps s site _ _ _).trans (Keeps.plain rfl rfl rfl)

theorem noteStale_keeps (s : State) : Keeps s (noteStale s) := Keeps.plain rfl rfl rfl

theorem noteReplay_keeps (s : State) (n : Nat) (f : Bool) (t : Option (Nat × Nat)) : Keeps s (noteReplay s n f t) := by
  unfold noteReplay
  split
  · exact updCmd_keeps _ _ _
  · exact Keeps.refl s

theorem fence_keeps (s : State) (n : Nat) (b f : Bool) : Keeps s (fence s n b f) :=
  (arrProgress_keeps s n).trans ((setSite_keeps (s.arrProgress n) n
    { (s.arrProgress n |>.site n).idle with fenced := true, abandoned := (s.arrProgress n |>.site n).tile, resetting := b }).trans
    (noteReplay_keeps _ _ _ _))

end Sys2Proof.Machine
end

