-- ==== Sys2Proof/WellFormed.lean ====
section
/-! DEFINITION. Which commands are well-formed: every number in range of what it names (R15 to R20, R302,
R317, R340, R391, R437 to R439, R452). The block accepts any command; an ill-formed one names nothing that
exists. -/

namespace Sys2Proof

/-- A number of an island. -/
def Island.wf : Island → Bool
  | .service t | .compute t | .stack t => decide (t < 4)
  | .site n => decide (n < 256)
  | .aon | .hub | .capMem => true

/-- A management message is a header of 16 bytes and at most 1,024 of payload (R409). -/
def msgWf (m : List Byte) : Bool := decide (16 ≤ m.length ∧ m.length ≤ 1040)

/-- A source of a direct request: a context number, or a SEND of 1 to 16 descriptors (R267, R302). -/
def ReqSrc.wf : ReqSrc → Bool
  | .ctx n => decide (n < 65536)
  | .send _ ds => decide (1 ≤ ds.length ∧ ds.length ≤ 16) && ds.all (fun d => decide (d.length = 64))

/-- A page number of the register window (R437). -/
def pageWf (p : Nat) : Bool := decide (p < 0x1400)
/-- An aligned offset in a page (R438). -/
def offsetWf (o : Nat) : Bool := decide (o < 0x1000) && decide (o % 4 = 0)

/-- Well-formed commands. -/
def Instr.wf : Instr → Bool
  | .matmul _ | .conv _ | .pool _ | .attnFwd _ | .attnBwd _ | .norm _ | .softmax _ | .vecChain _
  | .sampleStep _ | .rngFill _ | .sampleTokens _ | .boxDecode _ | .nms _ | .kvScatter _ | .fork _
  | .release _ | .copy _ | .gatherRows _ | .allReduce _ | .reduceScatter _ | .allGather _ | .allToAll _
  | .broadcast _ | .barrier _ | .commandComplete _ | .reductionSlotGrant _ | .frameBoundary _
  | .stagingCopyComplete _ => true
  | .codecDec _ p => decide (p.luma.length = p.geom.codedW * p.geom.codedH)
  | .codecEnc _ _ => true
  | .nop c | .orbitBegin c | .orbitEnd c | .setPred c | .jumpIf c | .waitEvent c | .signalEvent c
  | .callGraph c | .ret c | .prefetch c | .fence c | .scalarOp c | .timestamp c | .commandIssue c
  | .checkpointCommit c | .runGraph c | .graphEnd c | .outputsAcknowledged c | .instanceAcquire c
  | .unloadModel c | .restoreComplete c => decide (c < 65536)
  | .inputsPlaced c _ | .storeGraph c _ | .patchGraph c _ => decide (c < 65536)
  | .loadModel c _ _ => decide (c < 65536)
  | .partCommit _ k | .partComplete _ k => decide (k < 16)
  | .tileDispatch n | .eclipseWritesDelivered n | .tileTimeLimit n | .lsmErrorLimit n | .gracefulEclipse n
  | .quiesceTimeout n | .coreArrCtrClear n => decide (n < 256)
  | .tileComplete n _ _ _ => decide (n < 256)
  | .coreArrCtrFreeze n _ => decide (n < 256)
  | .immediateEclipse n t => decide (n < 256) && (t == 0x02 || t == 0x03)
  | .ringOscillatorMeasure n _ => decide (n < 256)
  | .abort r | .flush r | .queryPlan r | .query r => r.wf
  | .doorbell _ slots _ _ => slots.all (fun u => decide (u.2.length = 64))
  | .itemConsume _ | .connectionClose _ | .unattachedConnectionExpiry _ => true
  | .connectionSetup q | .resume q => decide (q.port < 2 ∧ q.addr < 2 ^ 128) && decide (q.priv.length = 40)
  | .copyComplete _ _ | .workPageMapped _ _ => true
  | .walkComplete t _ _ => decide (t < 17)
  | .poolPageZeroFill p => decide (p < 32768) && decide (p % 128 < 125)
  | .scrub p l _ _ => decide (p < 256) && l.all (fun e => e.dies.all (fun d => decide (d.1 < 10 ∧ d.2 ≤ 8)))
  | .dieMarkedFailed p d => decide (p < 256) && decide (d < 10)
  | .codecEngineStart _ => true
  | .ctuBudgetExpiry e | .frameBudgetExpiry e => decide (e < 4)
  | .holdDeadline _ l => decide (l < 4)
  | .digest g t r _ => decide (g < 2 ^ 32) && decide (t < 2 ^ 32) && decide (r < 32768)
  | .go g t _ _ => decide (g < 2 ^ 32) && decide (t < 2 ^ 32)
  | .mismatch g t | .abandon g t | .handshakeTimeout g t | .dataTimeout g t =>
      decide (g < 2 ^ 32) && decide (t < 2 ^ 32)
  | .collectiveAbort g t c => decide (g < 2 ^ 32) && decide (t < 2 ^ 32) && (c == 0x201 || c == 0x202)
  | .frameCrcError l _ => decide (l < 7)
  | .linkTraining l _ => decide (l < 6)
  | .laneLoss l n => decide (l < 6) && decide (n ≤ 4)
  | .aliasAnnouncement f t => decide (f < 32768) && decide (t < 32768)
  | .aliasRemoval f => decide (f < 32768)
  | .heartbeat | .linkLoss | .sidebandLoss | .sidebandReturn | .yieldMsg | .resyncReadRetry => true
  | .addressConflict a | .addressHandBack a => decide (a < 2 ^ 128)
  | .linkReturn q => decide (q.role < 2 ∧ q.mode < 2 ∧ q.epoch < 2 ^ 32 ∧ q.mirrorMin < 256 ∧ q.mirrorMax < 256)
  | .mirrorUpdate _ _ | .mirrorAcknowledgement _ => true
  | .fatalError i t => i.wf && decide (1 ≤ t ∧ t ≤ 0x25)
  | .islandReturn i _ | .wakeComplete i _ => i.wf
  | .messageParityError p q => pageWf p && pageWf q.sender
  | .quiesceComplete p | .softReset p | .eclipse p => pageWf p
  | .pgCtrlEnable p _ | .quiesceReq p _ => pageWf p
  | .pgEventClear p _ => pageWf p
  | .park t => decide (t < 4)
  | .pllLockLoss b => decide (b < 14)
  | .tideGovernorTick q => decide (q.tjDc.length = 4)
  | .avsCurrentRead r _ _ => decide (r < 4)
  | .thermtrip | .presenceWindowOpen | .presenceWindowExpiry | .presenceBtnRelease | .hourCounterSave
  | .captureWritten | .eraseComplete | .twinHandshakeTimeout | .porstN => true
  | .telemetryThreshold k => decide (k < 8)
  | .shadowRefresh l => l.all pageWf
  | .sealCheck _ | .labJmpChange _ | .verificationComplete _ => true
  | .logEntryClose d => decide (d < 6)
  | .eyeMarginMeasure l _ _ => decide (l < 36)
  | .wearPrediction l => l.all (fun u => decide (u.kind ≤ 4))
  | .readReg _ m | .writeReg _ m | .readTelemetry _ m | .readLog _ m | .ackAttn _ m | .resetIsland _ m
  | .forceTakeover _ m | .stageData _ m | .stageFinish _ m | .discardStaged _ m | .stageFirmware _ m
  | .commitFirmware _ m | .pairTwin _ m | .unpair _ m | .programFuses _ m | .freezeCapture _ m
  | .clearPresenceRecord _ m | .mmpMalformed _ m => msgWf m
  | .atuPoolCfgWrite _ | .freTorusCfgWrite _ => true
  | .lowWordRead r p o => decide (r < 9) && pageWf p && offsetWf o
  | .registerWrite p o _ => pageWf p && offsetWf o
  | .coldBoot _ | .warmBootStart _ => true
  | .warmrstN _ => true
  | .managementPortFrame _ => true
  | .replyCacheExpiry _ _ => true
  | .wearHourCount l => decide (l.length = 4)
  | .remoteAccessNak _ _ | .cnpReceived _ _ => true

/-- Core sites a command names by number. -/
def Instr.sites : Instr → List Nat
  | .tileDispatch n | .eclipseWritesDelivered n | .tileTimeLimit n | .lsmErrorLimit n | .gracefulEclipse n
  | .quiesceTimeout n | .coreArrCtrClear n | .tileComplete n _ _ _ | .coreArrCtrFreeze n _
  | .immediateEclipse n _ | .ringOscillatorMeasure n _ => [n]
  | .fatalError (.site n) _ | .islandReturn (.site n) _ | .wakeComplete (.site n) _ => [n]
  | _ => []

end Sys2Proof
end

