-- ==== Sys2Proof/Laws/PerInstr.lean ====
section
/-! SUPPORT. Per-constructor lemmas: a well-formed command names only core sites that exist (R15, R18). -/

namespace Sys2Proof.Laws.WireRange

set_option Elab.async false

/-- Every core site that a well-formed command names by number is one of the 256. -/
def Statement (i : Instr) : Prop := i.wf = true → ∀ n ∈ i.sites, n < 256

theorem matmul : ∀ cmd, Statement (.matmul cmd) := fun _ _ _ hn => nomatch hn
theorem conv : ∀ cmd, Statement (.conv cmd) := fun _ _ _ hn => nomatch hn
theorem pool : ∀ cmd, Statement (.pool cmd) := fun _ _ _ hn => nomatch hn
theorem attnFwd : ∀ cmd, Statement (.attnFwd cmd) := fun _ _ _ hn => nomatch hn
theorem attnBwd : ∀ cmd, Statement (.attnBwd cmd) := fun _ _ _ hn => nomatch hn
theorem norm : ∀ cmd, Statement (.norm cmd) := fun _ _ _ hn => nomatch hn
theorem softmax : ∀ cmd, Statement (.softmax cmd) := fun _ _ _ hn => nomatch hn
theorem vecChain : ∀ cmd, Statement (.vecChain cmd) := fun _ _ _ hn => nomatch hn
theorem sampleStep : ∀ cmd, Statement (.sampleStep cmd) := fun _ _ _ hn => nomatch hn
theorem rngFill : ∀ cmd, Statement (.rngFill cmd) := fun _ _ _ hn => nomatch hn
theorem sampleTokens : ∀ cmd, Statement (.sampleTokens cmd) := fun _ _ _ hn => nomatch hn
theorem boxDecode : ∀ cmd, Statement (.boxDecode cmd) := fun _ _ _ hn => nomatch hn
theorem nms : ∀ cmd, Statement (.nms cmd) := fun _ _ _ hn => nomatch hn
theorem kvScatter : ∀ cmd, Statement (.kvScatter cmd) := fun _ _ _ hn => nomatch hn
theorem fork : ∀ cmd, Statement (.fork cmd) := fun _ _ _ hn => nomatch hn
theorem release : ∀ cmd, Statement (.release cmd) := fun _ _ _ hn => nomatch hn
theorem copy : ∀ cmd, Statement (.copy cmd) := fun _ _ _ hn => nomatch hn
theorem gatherRows : ∀ cmd, Statement (.gatherRows cmd) := fun _ _ _ hn => nomatch hn
theorem allReduce : ∀ cmd, Statement (.allReduce cmd) := fun _ _ _ hn => nomatch hn
theorem reduceScatter : ∀ cmd, Statement (.reduceScatter cmd) := fun _ _ _ hn => nomatch hn
theorem allGather : ∀ cmd, Statement (.allGather cmd) := fun _ _ _ hn => nomatch hn
theorem allToAll : ∀ cmd, Statement (.allToAll cmd) := fun _ _ _ hn => nomatch hn
theorem broadcast : ∀ cmd, Statement (.broadcast cmd) := fun _ _ _ hn => nomatch hn
theorem barrier : ∀ cmd, Statement (.barrier cmd) := fun _ _ _ hn => nomatch hn
theorem codecDec : ∀ cmd pic, Statement (.codecDec cmd pic) := fun _ _ _ _ hn => nomatch hn
theorem codecEnc : ∀ cmd coded, Statement (.codecEnc cmd coded) := fun _ _ _ _ hn => nomatch hn
theorem nop : ∀ ctx, Statement (.nop ctx) := fun _ _ _ hn => nomatch hn
theorem orbitBegin : ∀ ctx, Statement (.orbitBegin ctx) := fun _ _ _ hn => nomatch hn
theorem orbitEnd : ∀ ctx, Statement (.orbitEnd ctx) := fun _ _ _ hn => nomatch hn
theorem setPred : ∀ ctx, Statement (.setPred ctx) := fun _ _ _ hn => nomatch hn
theorem jumpIf : ∀ ctx, Statement (.jumpIf ctx) := fun _ _ _ hn => nomatch hn
theorem waitEvent : ∀ ctx, Statement (.waitEvent ctx) := fun _ _ _ hn => nomatch hn
theorem signalEvent : ∀ ctx, Statement (.signalEvent ctx) := fun _ _ _ hn => nomatch hn
theorem callGraph : ∀ ctx, Statement (.callGraph ctx) := fun _ _ _ hn => nomatch hn
theorem ret : ∀ ctx, Statement (.ret ctx) := fun _ _ _ hn => nomatch hn
theorem prefetch : ∀ ctx, Statement (.prefetch ctx) := fun _ _ _ hn => nomatch hn
theorem fence : ∀ ctx, Statement (.fence ctx) := fun _ _ _ hn => nomatch hn
theorem scalarOp : ∀ ctx, Statement (.scalarOp ctx) := fun _ _ _ hn => nomatch hn
theorem timestamp : ∀ ctx, Statement (.timestamp ctx) := fun _ _ _ hn => nomatch hn
theorem commandIssue : ∀ ctx, Statement (.commandIssue ctx) := fun _ _ _ hn => nomatch hn
theorem partCommit : ∀ cmd cluster, Statement (.partCommit cmd cluster) := fun _ _ _ _ hn => nomatch hn
theorem tileDispatch : ∀ site, Statement (.tileDispatch site) := by simp [Statement, Instr.wf, Instr.sites]
theorem tileComplete : ∀ site valid starve block, Statement (.tileComplete site valid starve block) := by simp [Statement, Instr.wf, Instr.sites]
theorem partComplete : ∀ cmd cluster, Statement (.partComplete cmd cluster) := fun _ _ _ _ hn => nomatch hn
theorem commandComplete : ∀ cmd, Statement (.commandComplete cmd) := fun _ _ _ hn => nomatch hn
theorem checkpointCommit : ∀ ctx, Statement (.checkpointCommit ctx) := fun _ _ _ hn => nomatch hn
theorem runGraph : ∀ ctx, Statement (.runGraph ctx) := fun _ _ _ hn => nomatch hn
theorem inputsPlaced : ∀ ctx data, Statement (.inputsPlaced ctx data) := fun _ _ _ _ hn => nomatch hn
theorem graphEnd : ∀ ctx, Statement (.graphEnd ctx) := fun _ _ _ hn => nomatch hn
theorem outputsAcknowledged : ∀ ctx, Statement (.outputsAcknowledged ctx) := fun _ _ _ hn => nomatch hn
theorem instanceAcquire : ∀ ctx, Statement (.instanceAcquire ctx) := fun _ _ _ hn => nomatch hn
theorem loadModel : ∀ ctx manifest weights, Statement (.loadModel ctx manifest weights) := fun _ _ _ _ _ hn => nomatch hn
theorem unloadModel : ∀ ctx, Statement (.unloadModel ctx) := fun _ _ _ hn => nomatch hn
theorem storeGraph : ∀ ctx image, Statement (.storeGraph ctx image) := fun _ _ _ _ hn => nomatch hn
theorem patchGraph : ∀ ctx image, Statement (.patchGraph ctx image) := fun _ _ _ _ hn => nomatch hn
theorem abort : ∀ src, Statement (.abort src) := fun _ _ _ hn => nomatch hn
theorem flush : ∀ src, Statement (.flush src) := fun _ _ _ hn => nomatch hn
theorem queryPlan : ∀ src, Statement (.queryPlan src) := fun _ _ _ hn => nomatch hn
theorem query : ∀ src, Statement (.query src) := fun _ _ _ hn => nomatch hn
theorem doorbell : ∀ conn slots sqTail cqHead, Statement (.doorbell conn slots sqTail cqHead) := fun _ _ _ _ _ _ hn => nomatch hn
theorem itemConsume : ∀ conn, Statement (.itemConsume conn) := fun _ _ _ hn => nomatch hn
theorem connectionSetup : ∀ req, Statement (.connectionSetup req) := fun _ _ _ hn => nomatch hn
theorem resume : ∀ req, Statement (.resume req) := fun _ _ _ hn => nomatch hn
theorem connectionClose : ∀ conn, Statement (.connectionClose conn) := fun _ _ _ hn => nomatch hn
theorem unattachedConnectionExpiry : ∀ conn, Statement (.unattachedConnectionExpiry conn) := fun _ _ _ hn => nomatch hn
theorem copyComplete : ∀ cmd va, Statement (.copyComplete cmd va) := fun _ _ _ _ hn => nomatch hn
theorem workPageMapped : ∀ cmd va, Statement (.workPageMapped cmd va) := fun _ _ _ _ hn => nomatch hn
theorem walkComplete : ∀ tlb va write, Statement (.walkComplete tlb va write) := fun _ _ _ _ _ hn => nomatch hn
theorem stagingCopyComplete : ∀ cmd, Statement (.stagingCopyComplete cmd) := fun _ _ _ hn => nomatch hn
theorem poolPageZeroFill : ∀ page, Statement (.poolPageZeroFill page) := fun _ _ _ hn => nomatch hn
theorem scrub : ∀ partition corrected uncorrectable marginPct, Statement (.scrub partition corrected uncorrectable marginPct) := fun _ _ _ _ _ _ hn => nomatch hn
theorem dieMarkedFailed : ∀ partition die, Statement (.dieMarkedFailed partition die) := fun _ _ _ _ hn => nomatch hn
theorem reductionSlotGrant : ∀ cmd, Statement (.reductionSlotGrant cmd) := fun _ _ _ hn => nomatch hn
theorem codecEngineStart : ∀ encode, Statement (.codecEngineStart encode) := fun _ _ _ hn => nomatch hn
theorem ctuBudgetExpiry : ∀ engine, Statement (.ctuBudgetExpiry engine) := fun _ _ _ hn => nomatch hn
theorem frameBudgetExpiry : ∀ engine, Statement (.frameBudgetExpiry engine) := fun _ _ _ hn => nomatch hn
theorem frameBoundary : ∀ cmd, Statement (.frameBoundary cmd) := fun _ _ _ hn => nomatch hn
theorem holdDeadline : ∀ cmd layer, Statement (.holdDeadline cmd layer) := fun _ _ _ _ hn => nomatch hn
theorem digest : ∀ group tag rank value, Statement (.digest group tag rank value) := fun _ _ _ _ _ _ hn => nomatch hn
theorem go : ∀ group tag inputs residue, Statement (.go group tag inputs residue) := fun _ _ _ _ _ _ hn => nomatch hn
theorem mismatch : ∀ group tag, Statement (.mismatch group tag) := fun _ _ _ _ hn => nomatch hn
theorem abandon : ∀ group tag, Statement (.abandon group tag) := fun _ _ _ _ hn => nomatch hn
theorem handshakeTimeout : ∀ group tag, Statement (.handshakeTimeout group tag) := fun _ _ _ _ hn => nomatch hn
theorem dataTimeout : ∀ group tag, Statement (.dataTimeout group tag) := fun _ _ _ _ hn => nomatch hn
theorem collectiveAbort : ∀ group tag code, Statement (.collectiveAbort group tag code) := fun _ _ _ _ _ hn => nomatch hn
theorem frameCrcError : ∀ link frame, Statement (.frameCrcError link frame) := fun _ _ _ _ hn => nomatch hn
theorem linkTraining : ∀ link far, Statement (.linkTraining link far) := fun _ _ _ _ hn => nomatch hn
theorem aliasAnnouncement : ∀ failed survivor, Statement (.aliasAnnouncement failed survivor) := fun _ _ _ _ hn => nomatch hn
theorem heartbeat : Statement (.heartbeat) := fun _ _ hn => nomatch hn
theorem linkLoss : Statement (.linkLoss) := fun _ _ hn => nomatch hn
theorem sidebandLoss : Statement (.sidebandLoss) := fun _ _ hn => nomatch hn
theorem restoreComplete : ∀ ctx, Statement (.restoreComplete ctx) := fun _ _ _ hn => nomatch hn
theorem addressConflict : ∀ addr, Statement (.addressConflict addr) := fun _ _ _ hn => nomatch hn
theorem yieldMsg : Statement (.yieldMsg) := fun _ _ hn => nomatch hn
theorem linkReturn : ∀ twin, Statement (.linkReturn twin) := fun _ _ _ hn => nomatch hn
theorem resyncReadRetry : Statement (.resyncReadRetry) := fun _ _ hn => nomatch hn
theorem addressHandBack : ∀ addr, Statement (.addressHandBack addr) := fun _ _ _ hn => nomatch hn
theorem immediateEclipse : ∀ site type, Statement (.immediateEclipse site type) := by
  intro i x h n hn
  simp_all [Instr.wf, Instr.sites]
theorem eclipseWritesDelivered : ∀ site, Statement (.eclipseWritesDelivered site) := by simp [Statement, Instr.wf, Instr.sites]
theorem tileTimeLimit : ∀ site, Statement (.tileTimeLimit site) := by simp [Statement, Instr.wf, Instr.sites]
theorem lsmErrorLimit : ∀ site, Statement (.lsmErrorLimit site) := by simp [Statement, Instr.wf, Instr.sites]
theorem gracefulEclipse : ∀ site, Statement (.gracefulEclipse site) := by simp [Statement, Instr.wf, Instr.sites]
theorem fatalError : ∀ island type, Statement (.fatalError island type) := by
  intro i x h n hn
  cases i <;> simp_all [Instr.wf, Instr.sites, Island.wf]
theorem messageParityError : ∀ page sender, Statement (.messageParityError page sender) := fun _ _ _ _ hn => nomatch hn
theorem islandReturn : ∀ island selfTestOk, Statement (.islandReturn island selfTestOk) := by
  intro i x h n hn
  cases i <;> simp_all [Instr.wf, Instr.sites, Island.wf]
theorem quiesceComplete : ∀ page, Statement (.quiesceComplete page) := fun _ _ _ hn => nomatch hn
theorem quiesceTimeout : ∀ site, Statement (.quiesceTimeout site) := by simp [Statement, Instr.wf, Instr.sites]
theorem wakeComplete : ∀ island ok, Statement (.wakeComplete island ok) := by
  intro i x h n hn
  cases i <;> simp_all [Instr.wf, Instr.sites, Island.wf]
theorem park : ∀ tile, Statement (.park tile) := fun _ _ _ hn => nomatch hn
theorem pllLockLoss : ∀ bit, Statement (.pllLockLoss bit) := fun _ _ _ hn => nomatch hn
theorem tideGovernorTick : ∀ sample, Statement (.tideGovernorTick sample) := fun _ _ _ hn => nomatch hn
theorem avsCurrentRead : ∀ rail ok currentMa, Statement (.avsCurrentRead rail ok currentMa) := fun _ _ _ _ _ hn => nomatch hn
theorem thermtrip : Statement (.thermtrip) := fun _ _ hn => nomatch hn
theorem telemetryThreshold : ∀ k, Statement (.telemetryThreshold k) := fun _ _ _ hn => nomatch hn
theorem shadowRefresh : ∀ silent, Statement (.shadowRefresh silent) := fun _ _ _ hn => nomatch hn
theorem sealCheck : ∀ closed, Statement (.sealCheck closed) := fun _ _ _ hn => nomatch hn
theorem presenceWindowOpen : Statement (.presenceWindowOpen) := fun _ _ hn => nomatch hn
theorem presenceWindowExpiry : Statement (.presenceWindowExpiry) := fun _ _ hn => nomatch hn
theorem labJmpChange : ∀ fitted, Statement (.labJmpChange fitted) := fun _ _ _ hn => nomatch hn
theorem logEntryClose : ∀ domain, Statement (.logEntryClose domain) := fun _ _ _ hn => nomatch hn
theorem ringOscillatorMeasure : ∀ site ppm, Statement (.ringOscillatorMeasure site ppm) := by simp [Statement, Instr.wf, Instr.sites]
theorem eyeMarginMeasure : ∀ lane height width, Statement (.eyeMarginMeasure lane height width) := fun _ _ _ _ _ hn => nomatch hn
theorem wearPrediction : ∀ units, Statement (.wearPrediction units) := fun _ _ _ hn => nomatch hn
theorem hourCounterSave : Statement (.hourCounterSave) := fun _ _ hn => nomatch hn
theorem readReg : ∀ src msg, Statement (.readReg src msg) := fun _ _ _ _ hn => nomatch hn
theorem writeReg : ∀ src msg, Statement (.writeReg src msg) := fun _ _ _ _ hn => nomatch hn
theorem readTelemetry : ∀ src msg, Statement (.readTelemetry src msg) := fun _ _ _ _ hn => nomatch hn
theorem readLog : ∀ src msg, Statement (.readLog src msg) := fun _ _ _ _ hn => nomatch hn
theorem ackAttn : ∀ src msg, Statement (.ackAttn src msg) := fun _ _ _ _ hn => nomatch hn
theorem resetIsland : ∀ src msg, Statement (.resetIsland src msg) := fun _ _ _ _ hn => nomatch hn
theorem forceTakeover : ∀ src msg, Statement (.forceTakeover src msg) := fun _ _ _ _ hn => nomatch hn
theorem stageData : ∀ src msg, Statement (.stageData src msg) := fun _ _ _ _ hn => nomatch hn
theorem stageFinish : ∀ src msg, Statement (.stageFinish src msg) := fun _ _ _ _ hn => nomatch hn
theorem discardStaged : ∀ src msg, Statement (.discardStaged src msg) := fun _ _ _ _ hn => nomatch hn
theorem stageFirmware : ∀ src msg, Statement (.stageFirmware src msg) := fun _ _ _ _ hn => nomatch hn
theorem eraseComplete : Statement (.eraseComplete) := fun _ _ hn => nomatch hn
theorem verificationComplete : ∀ signatureOk, Statement (.verificationComplete signatureOk) := fun _ _ _ hn => nomatch hn
theorem commitFirmware : ∀ src msg, Statement (.commitFirmware src msg) := fun _ _ _ _ hn => nomatch hn
theorem pairTwin : ∀ src msg, Statement (.pairTwin src msg) := fun _ _ _ _ hn => nomatch hn
theorem unpair : ∀ src msg, Statement (.unpair src msg) := fun _ _ _ _ hn => nomatch hn
theorem programFuses : ∀ src msg, Statement (.programFuses src msg) := fun _ _ _ _ hn => nomatch hn
theorem freezeCapture : ∀ src msg, Statement (.freezeCapture src msg) := fun _ _ _ _ hn => nomatch hn
theorem captureWritten : Statement (.captureWritten) := fun _ _ hn => nomatch hn
theorem clearPresenceRecord : ∀ src msg, Statement (.clearPresenceRecord src msg) := fun _ _ _ _ hn => nomatch hn
theorem coreArrCtrClear : ∀ site, Statement (.coreArrCtrClear site) := by simp [Statement, Instr.wf, Instr.sites]
theorem coreArrCtrFreeze : ∀ site value, Statement (.coreArrCtrFreeze site value) := by simp [Statement, Instr.wf, Instr.sites]
theorem pgCtrlEnable : ∀ page value, Statement (.pgCtrlEnable page value) := fun _ _ _ _ hn => nomatch hn
theorem quiesceReq : ∀ page value, Statement (.quiesceReq page value) := fun _ _ _ _ hn => nomatch hn
theorem softReset : ∀ page, Statement (.softReset page) := fun _ _ _ hn => nomatch hn
theorem eclipse : ∀ page, Statement (.eclipse page) := fun _ _ _ hn => nomatch hn
theorem pgEventClear : ∀ page value, Statement (.pgEventClear page value) := fun _ _ _ _ hn => nomatch hn
theorem atuPoolCfgWrite : ∀ value, Statement (.atuPoolCfgWrite value) := fun _ _ _ hn => nomatch hn
theorem freTorusCfgWrite : ∀ value, Statement (.freTorusCfgWrite value) := fun _ _ _ hn => nomatch hn
theorem lowWordRead : ∀ requester page offset, Statement (.lowWordRead requester page offset) := fun _ _ _ _ _ hn => nomatch hn
theorem registerWrite : ∀ page offset value, Statement (.registerWrite page offset value) := fun _ _ _ _ _ hn => nomatch hn
theorem coldBoot : ∀ report, Statement (.coldBoot report) := fun _ _ _ hn => nomatch hn
theorem twinHandshakeTimeout : Statement (.twinHandshakeTimeout) := fun _ _ hn => nomatch hn
theorem porstN : Statement (.porstN) := fun _ _ hn => nomatch hn
theorem warmrstN : ∀ lowNs, Statement (.warmrstN lowNs) := fun _ _ _ hn => nomatch hn
theorem mirrorUpdate : ∀ seq update, Statement (.mirrorUpdate seq update) := fun _ _ _ _ hn => nomatch hn
theorem mirrorAcknowledgement : ∀ seq, Statement (.mirrorAcknowledgement seq) := fun _ _ _ hn => nomatch hn
theorem sidebandReturn : Statement (.sidebandReturn) := fun _ _ hn => nomatch hn
theorem laneLoss : ∀ link lanesLost, Statement (.laneLoss link lanesLost) := fun _ _ _ _ hn => nomatch hn
theorem aliasRemoval : ∀ failed, Statement (.aliasRemoval failed) := fun _ _ _ hn => nomatch hn
theorem mmpMalformed : ∀ src msg, Statement (.mmpMalformed src msg) := fun _ _ _ _ hn => nomatch hn
theorem managementPortFrame : ∀ kind, Statement (.managementPortFrame kind) := fun _ _ _ hn => nomatch hn
theorem presenceBtnRelease : Statement (.presenceBtnRelease) := fun _ _ hn => nomatch hn
theorem replyCacheExpiry : ∀ src tag, Statement (.replyCacheExpiry src tag) := fun _ _ _ _ hn => nomatch hn
theorem wearHourCount : ∀ tjDc, Statement (.wearHourCount tjDc) := fun _ _ _ hn => nomatch hn
theorem warmBootStart : ∀ report, Statement (.warmBootStart report) := fun _ _ _ hn => nomatch hn
theorem remoteAccessNak : ∀ conn reason, Statement (.remoteAccessNak conn reason) := fun _ _ _ _ hn => nomatch hn
theorem cnpReceived : ∀ conn qp, Statement (.cnpReceived conn qp) := fun _ _ _ _ hn => nomatch hn

end Sys2Proof.Laws.WireRange
end

