-- ==== Sys2Proof/Laws/State.lean ====
section
/-! SUPPORT. What each plain update of the state leaves as it was: one lemma for each field. -/

namespace Sys2Proof.Machine

set_option Elab.async false

/-! `State.setSite` -/
section
variable (s : State) (n : Nat) (x : Site)
@[simp] theorem State.setSite_pending : (s.setSite n x).pending = s.pending := rfl
@[simp] theorem State.setSite_freeCtr : (s.setSite n x).freeCtr = s.freeCtr := rfl
@[simp] theorem State.setSite_egress : (s.setSite n x).egress = s.egress := rfl
@[simp] theorem State.setSite_dev : (s.setSite n x).dev = s.dev := rfl
@[simp] theorem State.setSite_ms : (s.setSite n x).ms = s.ms := rfl
@[simp] theorem State.setSite_hub : (s.setSite n x).hub = s.hub := rfl
@[simp] theorem State.setSite_svc : (s.setSite n x).svc = s.svc := rfl
@[simp] theorem State.setSite_comp : (s.setSite n x).comp = s.comp := rfl
@[simp] theorem State.setSite_stk : (s.setSite n x).stk = s.stk := rfl
@[simp] theorem State.setSite_capMem : (s.setSite n x).capMem = s.capMem := rfl
@[simp] theorem State.setSite_aonEpoch : (s.setSite n x).aonEpoch = s.aonEpoch := rfl
@[simp] theorem State.setSite_parts : (s.setSite n x).parts = s.parts := rfl
@[simp] theorem State.setSite_clusters : (s.setSite n x).clusters = s.clusters := rfl
@[simp] theorem State.setSite_hdrs : (s.setSite n x).hdrs = s.hdrs := rfl
@[simp] theorem State.setSite_shadow : (s.setSite n x).shadow = s.shadow := rfl
@[simp] theorem State.setSite_latches : (s.setSite n x).latches = s.latches := rfl
@[simp] theorem State.setSite_conns : (s.setSite n x).conns = s.conns := rfl
@[simp] theorem State.setSite_nextConn : (s.setSite n x).nextConn = s.nextConn := rfl
@[simp] theorem State.setSite_ctxs : (s.setSite n x).ctxs = s.ctxs := rfl
@[simp] theorem State.setSite_cmds : (s.setSite n x).cmds = s.cmds := rfl
@[simp] theorem State.setSite_nextCmd : (s.setSite n x).nextCmd = s.nextCmd := rfl
@[simp] theorem State.setSite_models : (s.setSite n x).models = s.models := rfl
@[simp] theorem State.setSite_graphs : (s.setSite n x).graphs = s.graphs := rfl
@[simp] theorem State.setSite_holds : (s.setSite n x).holds = s.holds := rfl
@[simp] theorem State.setSite_fre : (s.setSite n x).fre = s.fre := rfl
@[simp] theorem State.setSite_tlc : (s.setSite n x).tlc = s.tlc := rfl
@[simp] theorem State.setSite_vcc : (s.setSite n x).vcc = s.vcc := rfl
@[simp] theorem State.setSite_pwr : (s.setSite n x).pwr = s.pwr := rfl
@[simp] theorem State.setSite_wear : (s.setSite n x).wear = s.wear := rfl
@[simp] theorem State.setSite_mgc : (s.setSite n x).mgc = s.mgc := rfl
@[simp] theorem State.setSite_attn : (s.setSite n x).attn = s.attn := rfl
@[simp] theorem State.setSite_logs : (s.setSite n x).logs = s.logs := rfl
@[simp] theorem State.setSite_jmpAddr : (s.setSite n x).jmpAddr = s.jmpAddr := rfl
@[simp] theorem State.setSite_jmpJumps : (s.setSite n x).jmpJumps = s.jmpJumps := rfl
@[simp] theorem State.setSite_retryPending : (s.setSite n x).retryPending = s.retryPending := rfl
@[simp] theorem State.setSite_cmdCache : (s.setSite n x).cmdCache = s.cmdCache := rfl
@[simp] theorem State.setSite_turns : (s.setSite n x).turns = s.turns := rfl
@[simp] theorem State.setSite_collNext : (s.setSite n x).collNext = s.collNext := rfl
end

/-! `State.setPart` -/
section
variable (s : State) (n : Nat) (x : Partition)
@[simp] theorem State.setPart_pending : (s.setPart n x).pending = s.pending := rfl
@[simp] theorem State.setPart_freeCtr : (s.setPart n x).freeCtr = s.freeCtr := rfl
@[simp] theorem State.setPart_egress : (s.setPart n x).egress = s.egress := rfl
@[simp] theorem State.setPart_dev : (s.setPart n x).dev = s.dev := rfl
@[simp] theorem State.setPart_ms : (s.setPart n x).ms = s.ms := rfl
@[simp] theorem State.setPart_hub : (s.setPart n x).hub = s.hub := rfl
@[simp] theorem State.setPart_svc : (s.setPart n x).svc = s.svc := rfl
@[simp] theorem State.setPart_comp : (s.setPart n x).comp = s.comp := rfl
@[simp] theorem State.setPart_stk : (s.setPart n x).stk = s.stk := rfl
@[simp] theorem State.setPart_capMem : (s.setPart n x).capMem = s.capMem := rfl
@[simp] theorem State.setPart_aonEpoch : (s.setPart n x).aonEpoch = s.aonEpoch := rfl
@[simp] theorem State.setPart_sites : (s.setPart n x).sites = s.sites := rfl
@[simp] theorem State.setPart_clusters : (s.setPart n x).clusters = s.clusters := rfl
@[simp] theorem State.setPart_hdrs : (s.setPart n x).hdrs = s.hdrs := rfl
@[simp] theorem State.setPart_shadow : (s.setPart n x).shadow = s.shadow := rfl
@[simp] theorem State.setPart_latches : (s.setPart n x).latches = s.latches := rfl
@[simp] theorem State.setPart_conns : (s.setPart n x).conns = s.conns := rfl
@[simp] theorem State.setPart_nextConn : (s.setPart n x).nextConn = s.nextConn := rfl
@[simp] theorem State.setPart_ctxs : (s.setPart n x).ctxs = s.ctxs := rfl
@[simp] theorem State.setPart_cmds : (s.setPart n x).cmds = s.cmds := rfl
@[simp] theorem State.setPart_nextCmd : (s.setPart n x).nextCmd = s.nextCmd := rfl
@[simp] theorem State.setPart_models : (s.setPart n x).models = s.models := rfl
@[simp] theorem State.setPart_graphs : (s.setPart n x).graphs = s.graphs := rfl
@[simp] theorem State.setPart_holds : (s.setPart n x).holds = s.holds := rfl
@[simp] theorem State.setPart_fre : (s.setPart n x).fre = s.fre := rfl
@[simp] theorem State.setPart_tlc : (s.setPart n x).tlc = s.tlc := rfl
@[simp] theorem State.setPart_vcc : (s.setPart n x).vcc = s.vcc := rfl
@[simp] theorem State.setPart_pwr : (s.setPart n x).pwr = s.pwr := rfl
@[simp] theorem State.setPart_wear : (s.setPart n x).wear = s.wear := rfl
@[simp] theorem State.setPart_mgc : (s.setPart n x).mgc = s.mgc := rfl
@[simp] theorem State.setPart_attn : (s.setPart n x).attn = s.attn := rfl
@[simp] theorem State.setPart_logs : (s.setPart n x).logs = s.logs := rfl
@[simp] theorem State.setPart_jmpAddr : (s.setPart n x).jmpAddr = s.jmpAddr := rfl
@[simp] theorem State.setPart_jmpJumps : (s.setPart n x).jmpJumps = s.jmpJumps := rfl
@[simp] theorem State.setPart_retryPending : (s.setPart n x).retryPending = s.retryPending := rfl
@[simp] theorem State.setPart_cmdCache : (s.setPart n x).cmdCache = s.cmdCache := rfl
@[simp] theorem State.setPart_turns : (s.setPart n x).turns = s.turns := rfl
@[simp] theorem State.setPart_collNext : (s.setPart n x).collNext = s.collNext := rfl
end

/-! `State.setCluster` -/
section
variable (s : State) (n : Nat) (x : Cluster)
@[simp] theorem State.setCluster_pending : (s.setCluster n x).pending = s.pending := rfl
@[simp] theorem State.setCluster_freeCtr : (s.setCluster n x).freeCtr = s.freeCtr := rfl
@[simp] theorem State.setCluster_egress : (s.setCluster n x).egress = s.egress := rfl
@[simp] theorem State.setCluster_dev : (s.setCluster n x).dev = s.dev := rfl
@[simp] theorem State.setCluster_ms : (s.setCluster n x).ms = s.ms := rfl
@[simp] theorem State.setCluster_hub : (s.setCluster n x).hub = s.hub := rfl
@[simp] theorem State.setCluster_svc : (s.setCluster n x).svc = s.svc := rfl
@[simp] theorem State.setCluster_comp : (s.setCluster n x).comp = s.comp := rfl
@[simp] theorem State.setCluster_stk : (s.setCluster n x).stk = s.stk := rfl
@[simp] theorem State.setCluster_capMem : (s.setCluster n x).capMem = s.capMem := rfl
@[simp] theorem State.setCluster_aonEpoch : (s.setCluster n x).aonEpoch = s.aonEpoch := rfl
@[simp] theorem State.setCluster_sites : (s.setCluster n x).sites = s.sites := rfl
@[simp] theorem State.setCluster_parts : (s.setCluster n x).parts = s.parts := rfl
@[simp] theorem State.setCluster_hdrs : (s.setCluster n x).hdrs = s.hdrs := rfl
@[simp] theorem State.setCluster_shadow : (s.setCluster n x).shadow = s.shadow := rfl
@[simp] theorem State.setCluster_latches : (s.setCluster n x).latches = s.latches := rfl
@[simp] theorem State.setCluster_conns : (s.setCluster n x).conns = s.conns := rfl
@[simp] theorem State.setCluster_nextConn : (s.setCluster n x).nextConn = s.nextConn := rfl
@[simp] theorem State.setCluster_ctxs : (s.setCluster n x).ctxs = s.ctxs := rfl
@[simp] theorem State.setCluster_cmds : (s.setCluster n x).cmds = s.cmds := rfl
@[simp] theorem State.setCluster_nextCmd : (s.setCluster n x).nextCmd = s.nextCmd := rfl
@[simp] theorem State.setCluster_models : (s.setCluster n x).models = s.models := rfl
@[simp] theorem State.setCluster_graphs : (s.setCluster n x).graphs = s.graphs := rfl
@[simp] theorem State.setCluster_holds : (s.setCluster n x).holds = s.holds := rfl
@[simp] theorem State.setCluster_fre : (s.setCluster n x).fre = s.fre := rfl
@[simp] theorem State.setCluster_tlc : (s.setCluster n x).tlc = s.tlc := rfl
@[simp] theorem State.setCluster_vcc : (s.setCluster n x).vcc = s.vcc := rfl
@[simp] theorem State.setCluster_pwr : (s.setCluster n x).pwr = s.pwr := rfl
@[simp] theorem State.setCluster_wear : (s.setCluster n x).wear = s.wear := rfl
@[simp] theorem State.setCluster_mgc : (s.setCluster n x).mgc = s.mgc := rfl
@[simp] theorem State.setCluster_attn : (s.setCluster n x).attn = s.attn := rfl
@[simp] theorem State.setCluster_logs : (s.setCluster n x).logs = s.logs := rfl
@[simp] theorem State.setCluster_jmpAddr : (s.setCluster n x).jmpAddr = s.jmpAddr := rfl
@[simp] theorem State.setCluster_jmpJumps : (s.setCluster n x).jmpJumps = s.jmpJumps := rfl
@[simp] theorem State.setCluster_retryPending : (s.setCluster n x).retryPending = s.retryPending := rfl
@[simp] theorem State.setCluster_cmdCache : (s.setCluster n x).cmdCache = s.cmdCache := rfl
@[simp] theorem State.setCluster_turns : (s.setCluster n x).turns = s.turns := rfl
@[simp] theorem State.setCluster_collNext : (s.setCluster n x).collNext = s.collNext := rfl
end

/-! `State.setHdr` -/
section
variable (s : State) (p : Nat) (h : PageHdr)
@[simp] theorem State.setHdr_pending : (s.setHdr p h).pending = s.pending := rfl
@[simp] theorem State.setHdr_freeCtr : (s.setHdr p h).freeCtr = s.freeCtr := rfl
@[simp] theorem State.setHdr_egress : (s.setHdr p h).egress = s.egress := rfl
@[simp] theorem State.setHdr_dev : (s.setHdr p h).dev = s.dev := rfl
@[simp] theorem State.setHdr_ms : (s.setHdr p h).ms = s.ms := rfl
@[simp] theorem State.setHdr_hub : (s.setHdr p h).hub = s.hub := rfl
@[simp] theorem State.setHdr_svc : (s.setHdr p h).svc = s.svc := rfl
@[simp] theorem State.setHdr_comp : (s.setHdr p h).comp = s.comp := rfl
@[simp] theorem State.setHdr_stk : (s.setHdr p h).stk = s.stk := rfl
@[simp] theorem State.setHdr_capMem : (s.setHdr p h).capMem = s.capMem := rfl
@[simp] theorem State.setHdr_aonEpoch : (s.setHdr p h).aonEpoch = s.aonEpoch := rfl
@[simp] theorem State.setHdr_sites : (s.setHdr p h).sites = s.sites := rfl
@[simp] theorem State.setHdr_parts : (s.setHdr p h).parts = s.parts := rfl
@[simp] theorem State.setHdr_clusters : (s.setHdr p h).clusters = s.clusters := rfl
@[simp] theorem State.setHdr_shadow : (s.setHdr p h).shadow = s.shadow := rfl
@[simp] theorem State.setHdr_latches : (s.setHdr p h).latches = s.latches := rfl
@[simp] theorem State.setHdr_conns : (s.setHdr p h).conns = s.conns := rfl
@[simp] theorem State.setHdr_nextConn : (s.setHdr p h).nextConn = s.nextConn := rfl
@[simp] theorem State.setHdr_ctxs : (s.setHdr p h).ctxs = s.ctxs := rfl
@[simp] theorem State.setHdr_cmds : (s.setHdr p h).cmds = s.cmds := rfl
@[simp] theorem State.setHdr_nextCmd : (s.setHdr p h).nextCmd = s.nextCmd := rfl
@[simp] theorem State.setHdr_models : (s.setHdr p h).models = s.models := rfl
@[simp] theorem State.setHdr_graphs : (s.setHdr p h).graphs = s.graphs := rfl
@[simp] theorem State.setHdr_holds : (s.setHdr p h).holds = s.holds := rfl
@[simp] theorem State.setHdr_fre : (s.setHdr p h).fre = s.fre := rfl
@[simp] theorem State.setHdr_tlc : (s.setHdr p h).tlc = s.tlc := rfl
@[simp] theorem State.setHdr_vcc : (s.setHdr p h).vcc = s.vcc := rfl
@[simp] theorem State.setHdr_pwr : (s.setHdr p h).pwr = s.pwr := rfl
@[simp] theorem State.setHdr_wear : (s.setHdr p h).wear = s.wear := rfl
@[simp] theorem State.setHdr_mgc : (s.setHdr p h).mgc = s.mgc := rfl
@[simp] theorem State.setHdr_attn : (s.setHdr p h).attn = s.attn := rfl
@[simp] theorem State.setHdr_logs : (s.setHdr p h).logs = s.logs := rfl
@[simp] theorem State.setHdr_jmpAddr : (s.setHdr p h).jmpAddr = s.jmpAddr := rfl
@[simp] theorem State.setHdr_jmpJumps : (s.setHdr p h).jmpJumps = s.jmpJumps := rfl
@[simp] theorem State.setHdr_retryPending : (s.setHdr p h).retryPending = s.retryPending := rfl
@[simp] theorem State.setHdr_cmdCache : (s.setHdr p h).cmdCache = s.cmdCache := rfl
@[simp] theorem State.setHdr_turns : (s.setHdr p h).turns = s.turns := rfl
@[simp] theorem State.setHdr_collNext : (s.setHdr p h).collNext = s.collNext := rfl
end

/-! `State.setCtx` -/
section
variable (s : State) (x : Ctx)
@[simp] theorem State.setCtx_pending : (s.setCtx x).pending = s.pending := rfl
@[simp] theorem State.setCtx_freeCtr : (s.setCtx x).freeCtr = s.freeCtr := rfl
@[simp] theorem State.setCtx_egress : (s.setCtx x).egress = s.egress := rfl
@[simp] theorem State.setCtx_dev : (s.setCtx x).dev = s.dev := rfl
@[simp] theorem State.setCtx_ms : (s.setCtx x).ms = s.ms := rfl
@[simp] theorem State.setCtx_hub : (s.setCtx x).hub = s.hub := rfl
@[simp] theorem State.setCtx_svc : (s.setCtx x).svc = s.svc := rfl
@[simp] theorem State.setCtx_comp : (s.setCtx x).comp = s.comp := rfl
@[simp] theorem State.setCtx_stk : (s.setCtx x).stk = s.stk := rfl
@[simp] theorem State.setCtx_capMem : (s.setCtx x).capMem = s.capMem := rfl
@[simp] theorem State.setCtx_aonEpoch : (s.setCtx x).aonEpoch = s.aonEpoch := rfl
@[simp] theorem State.setCtx_sites : (s.setCtx x).sites = s.sites := rfl
@[simp] theorem State.setCtx_parts : (s.setCtx x).parts = s.parts := rfl
@[simp] theorem State.setCtx_clusters : (s.setCtx x).clusters = s.clusters := rfl
@[simp] theorem State.setCtx_hdrs : (s.setCtx x).hdrs = s.hdrs := rfl
@[simp] theorem State.setCtx_shadow : (s.setCtx x).shadow = s.shadow := rfl
@[simp] theorem State.setCtx_latches : (s.setCtx x).latches = s.latches := rfl
@[simp] theorem State.setCtx_conns : (s.setCtx x).conns = s.conns := rfl
@[simp] theorem State.setCtx_nextConn : (s.setCtx x).nextConn = s.nextConn := rfl
@[simp] theorem State.setCtx_cmds : (s.setCtx x).cmds = s.cmds := rfl
@[simp] theorem State.setCtx_nextCmd : (s.setCtx x).nextCmd = s.nextCmd := rfl
@[simp] theorem State.setCtx_models : (s.setCtx x).models = s.models := rfl
@[simp] theorem State.setCtx_graphs : (s.setCtx x).graphs = s.graphs := rfl
@[simp] theorem State.setCtx_holds : (s.setCtx x).holds = s.holds := rfl
@[simp] theorem State.setCtx_fre : (s.setCtx x).fre = s.fre := rfl
@[simp] theorem State.setCtx_tlc : (s.setCtx x).tlc = s.tlc := rfl
@[simp] theorem State.setCtx_vcc : (s.setCtx x).vcc = s.vcc := rfl
@[simp] theorem State.setCtx_pwr : (s.setCtx x).pwr = s.pwr := rfl
@[simp] theorem State.setCtx_wear : (s.setCtx x).wear = s.wear := rfl
@[simp] theorem State.setCtx_mgc : (s.setCtx x).mgc = s.mgc := rfl
@[simp] theorem State.setCtx_attn : (s.setCtx x).attn = s.attn := rfl
@[simp] theorem State.setCtx_logs : (s.setCtx x).logs = s.logs := rfl
@[simp] theorem State.setCtx_jmpAddr : (s.setCtx x).jmpAddr = s.jmpAddr := rfl
@[simp] theorem State.setCtx_jmpJumps : (s.setCtx x).jmpJumps = s.jmpJumps := rfl
@[simp] theorem State.setCtx_retryPending : (s.setCtx x).retryPending = s.retryPending := rfl
@[simp] theorem State.setCtx_cmdCache : (s.setCtx x).cmdCache = s.cmdCache := rfl
@[simp] theorem State.setCtx_turns : (s.setCtx x).turns = s.turns := rfl
@[simp] theorem State.setCtx_collNext : (s.setCtx x).collNext = s.collNext := rfl
end

/-! `State.dropCtx` -/
section
variable (s : State) (n : Nat)
@[simp] theorem State.dropCtx_pending : (s.dropCtx n).pending = s.pending := rfl
@[simp] theorem State.dropCtx_freeCtr : (s.dropCtx n).freeCtr = s.freeCtr := rfl
@[simp] theorem State.dropCtx_egress : (s.dropCtx n).egress = s.egress := rfl
@[simp] theorem State.dropCtx_dev : (s.dropCtx n).dev = s.dev := rfl
@[simp] theorem State.dropCtx_ms : (s.dropCtx n).ms = s.ms := rfl
@[simp] theorem State.dropCtx_hub : (s.dropCtx n).hub = s.hub := rfl
@[simp] theorem State.dropCtx_svc : (s.dropCtx n).svc = s.svc := rfl
@[simp] theorem State.dropCtx_comp : (s.dropCtx n).comp = s.comp := rfl
@[simp] theorem State.dropCtx_stk : (s.dropCtx n).stk = s.stk := rfl
@[simp] theorem State.dropCtx_capMem : (s.dropCtx n).capMem = s.capMem := rfl
@[simp] theorem State.dropCtx_aonEpoch : (s.dropCtx n).aonEpoch = s.aonEpoch := rfl
@[simp] theorem State.dropCtx_sites : (s.dropCtx n).sites = s.sites := rfl
@[simp] theorem State.dropCtx_parts : (s.dropCtx n).parts = s.parts := rfl
@[simp] theorem State.dropCtx_clusters : (s.dropCtx n).clusters = s.clusters := rfl
@[simp] theorem State.dropCtx_hdrs : (s.dropCtx n).hdrs = s.hdrs := rfl
@[simp] theorem State.dropCtx_shadow : (s.dropCtx n).shadow = s.shadow := rfl
@[simp] theorem State.dropCtx_latches : (s.dropCtx n).latches = s.latches := rfl
@[simp] theorem State.dropCtx_conns : (s.dropCtx n).conns = s.conns := rfl
@[simp] theorem State.dropCtx_nextConn : (s.dropCtx n).nextConn = s.nextConn := rfl
@[simp] theorem State.dropCtx_cmds : (s.dropCtx n).cmds = s.cmds := rfl
@[simp] theorem State.dropCtx_nextCmd : (s.dropCtx n).nextCmd = s.nextCmd := rfl
@[simp] theorem State.dropCtx_models : (s.dropCtx n).models = s.models := rfl
@[simp] theorem State.dropCtx_graphs : (s.dropCtx n).graphs = s.graphs := rfl
@[simp] theorem State.dropCtx_holds : (s.dropCtx n).holds = s.holds := rfl
@[simp] theorem State.dropCtx_fre : (s.dropCtx n).fre = s.fre := rfl
@[simp] theorem State.dropCtx_tlc : (s.dropCtx n).tlc = s.tlc := rfl
@[simp] theorem State.dropCtx_vcc : (s.dropCtx n).vcc = s.vcc := rfl
@[simp] theorem State.dropCtx_pwr : (s.dropCtx n).pwr = s.pwr := rfl
@[simp] theorem State.dropCtx_wear : (s.dropCtx n).wear = s.wear := rfl
@[simp] theorem State.dropCtx_mgc : (s.dropCtx n).mgc = s.mgc := rfl
@[simp] theorem State.dropCtx_attn : (s.dropCtx n).attn = s.attn := rfl
@[simp] theorem State.dropCtx_logs : (s.dropCtx n).logs = s.logs := rfl
@[simp] theorem State.dropCtx_jmpAddr : (s.dropCtx n).jmpAddr = s.jmpAddr := rfl
@[simp] theorem State.dropCtx_jmpJumps : (s.dropCtx n).jmpJumps = s.jmpJumps := rfl
@[simp] theorem State.dropCtx_retryPending : (s.dropCtx n).retryPending = s.retryPending := rfl
@[simp] theorem State.dropCtx_cmdCache : (s.dropCtx n).cmdCache = s.cmdCache := rfl
@[simp] theorem State.dropCtx_turns : (s.dropCtx n).turns = s.turns := rfl
@[simp] theorem State.dropCtx_collNext : (s.dropCtx n).collNext = s.collNext := rfl
end

/-! `State.updCtx` -/
section
variable (s : State) (n : Nat) (f : Ctx → Ctx)
@[simp] theorem State.updCtx_pending : (s.updCtx n f).pending = s.pending := rfl
@[simp] theorem State.updCtx_freeCtr : (s.updCtx n f).freeCtr = s.freeCtr := rfl
@[simp] theorem State.updCtx_egress : (s.updCtx n f).egress = s.egress := rfl
@[simp] theorem State.updCtx_dev : (s.updCtx n f).dev = s.dev := rfl
@[simp] theorem State.updCtx_ms : (s.updCtx n f).ms = s.ms := rfl
@[simp] theorem State.updCtx_hub : (s.updCtx n f).hub = s.hub := rfl
@[simp] theorem State.updCtx_svc : (s.updCtx n f).svc = s.svc := rfl
@[simp] theorem State.updCtx_comp : (s.updCtx n f).comp = s.comp := rfl
@[simp] theorem State.updCtx_stk : (s.updCtx n f).stk = s.stk := rfl
@[simp] theorem State.updCtx_capMem : (s.updCtx n f).capMem = s.capMem := rfl
@[simp] theorem State.updCtx_aonEpoch : (s.updCtx n f).aonEpoch = s.aonEpoch := rfl
@[simp] theorem State.updCtx_sites : (s.updCtx n f).sites = s.sites := rfl
@[simp] theorem State.updCtx_parts : (s.updCtx n f).parts = s.parts := rfl
@[simp] theorem State.updCtx_clusters : (s.updCtx n f).clusters = s.clusters := rfl
@[simp] theorem State.updCtx_hdrs : (s.updCtx n f).hdrs = s.hdrs := rfl
@[simp] theorem State.updCtx_shadow : (s.updCtx n f).shadow = s.shadow := rfl
@[simp] theorem State.updCtx_latches : (s.updCtx n f).latches = s.latches := rfl
@[simp] theorem State.updCtx_conns : (s.updCtx n f).conns = s.conns := rfl
@[simp] theorem State.updCtx_nextConn : (s.updCtx n f).nextConn = s.nextConn := rfl
@[simp] theorem State.updCtx_cmds : (s.updCtx n f).cmds = s.cmds := rfl
@[simp] theorem State.updCtx_nextCmd : (s.updCtx n f).nextCmd = s.nextCmd := rfl
@[simp] theorem State.updCtx_models : (s.updCtx n f).models = s.models := rfl
@[simp] theorem State.updCtx_graphs : (s.updCtx n f).graphs = s.graphs := rfl
@[simp] theorem State.updCtx_holds : (s.updCtx n f).holds = s.holds := rfl
@[simp] theorem State.updCtx_fre : (s.updCtx n f).fre = s.fre := rfl
@[simp] theorem State.updCtx_tlc : (s.updCtx n f).tlc = s.tlc := rfl
@[simp] theorem State.updCtx_vcc : (s.updCtx n f).vcc = s.vcc := rfl
@[simp] theorem State.updCtx_pwr : (s.updCtx n f).pwr = s.pwr := rfl
@[simp] theorem State.updCtx_wear : (s.updCtx n f).wear = s.wear := rfl
@[simp] theorem State.updCtx_mgc : (s.updCtx n f).mgc = s.mgc := rfl
@[simp] theorem State.updCtx_attn : (s.updCtx n f).attn = s.attn := rfl
@[simp] theorem State.updCtx_logs : (s.updCtx n f).logs = s.logs := rfl
@[simp] theorem State.updCtx_jmpAddr : (s.updCtx n f).jmpAddr = s.jmpAddr := rfl
@[simp] theorem State.updCtx_jmpJumps : (s.updCtx n f).jmpJumps = s.jmpJumps := rfl
@[simp] theorem State.updCtx_retryPending : (s.updCtx n f).retryPending = s.retryPending := rfl
@[simp] theorem State.updCtx_cmdCache : (s.updCtx n f).cmdCache = s.cmdCache := rfl
@[simp] theorem State.updCtx_turns : (s.updCtx n f).turns = s.turns := rfl
@[simp] theorem State.updCtx_collNext : (s.updCtx n f).collNext = s.collNext := rfl
end

/-! `State.setSregOf` -/
section
variable (s : State) (c n : Nat) (v : DWord)
@[simp] theorem State.setSregOf_pending : (s.setSregOf c n v).pending = s.pending := rfl
@[simp] theorem State.setSregOf_freeCtr : (s.setSregOf c n v).freeCtr = s.freeCtr := rfl
@[simp] theorem State.setSregOf_egress : (s.setSregOf c n v).egress = s.egress := rfl
@[simp] theorem State.setSregOf_dev : (s.setSregOf c n v).dev = s.dev := rfl
@[simp] theorem State.setSregOf_ms : (s.setSregOf c n v).ms = s.ms := rfl
@[simp] theorem State.setSregOf_hub : (s.setSregOf c n v).hub = s.hub := rfl
@[simp] theorem State.setSregOf_svc : (s.setSregOf c n v).svc = s.svc := rfl
@[simp] theorem State.setSregOf_comp : (s.setSregOf c n v).comp = s.comp := rfl
@[simp] theorem State.setSregOf_stk : (s.setSregOf c n v).stk = s.stk := rfl
@[simp] theorem State.setSregOf_capMem : (s.setSregOf c n v).capMem = s.capMem := rfl
@[simp] theorem State.setSregOf_aonEpoch : (s.setSregOf c n v).aonEpoch = s.aonEpoch := rfl
@[simp] theorem State.setSregOf_sites : (s.setSregOf c n v).sites = s.sites := rfl
@[simp] theorem State.setSregOf_parts : (s.setSregOf c n v).parts = s.parts := rfl
@[simp] theorem State.setSregOf_clusters : (s.setSregOf c n v).clusters = s.clusters := rfl
@[simp] theorem State.setSregOf_hdrs : (s.setSregOf c n v).hdrs = s.hdrs := rfl
@[simp] theorem State.setSregOf_shadow : (s.setSregOf c n v).shadow = s.shadow := rfl
@[simp] theorem State.setSregOf_latches : (s.setSregOf c n v).latches = s.latches := rfl
@[simp] theorem State.setSregOf_conns : (s.setSregOf c n v).conns = s.conns := rfl
@[simp] theorem State.setSregOf_nextConn : (s.setSregOf c n v).nextConn = s.nextConn := rfl
@[simp] theorem State.setSregOf_cmds : (s.setSregOf c n v).cmds = s.cmds := rfl
@[simp] theorem State.setSregOf_nextCmd : (s.setSregOf c n v).nextCmd = s.nextCmd := rfl
@[simp] theorem State.setSregOf_models : (s.setSregOf c n v).models = s.models := rfl
@[simp] theorem State.setSregOf_graphs : (s.setSregOf c n v).graphs = s.graphs := rfl
@[simp] theorem State.setSregOf_holds : (s.setSregOf c n v).holds = s.holds := rfl
@[simp] theorem State.setSregOf_fre : (s.setSregOf c n v).fre = s.fre := rfl
@[simp] theorem State.setSregOf_tlc : (s.setSregOf c n v).tlc = s.tlc := rfl
@[simp] theorem State.setSregOf_vcc : (s.setSregOf c n v).vcc = s.vcc := rfl
@[simp] theorem State.setSregOf_pwr : (s.setSregOf c n v).pwr = s.pwr := rfl
@[simp] theorem State.setSregOf_wear : (s.setSregOf c n v).wear = s.wear := rfl
@[simp] theorem State.setSregOf_mgc : (s.setSregOf c n v).mgc = s.mgc := rfl
@[simp] theorem State.setSregOf_attn : (s.setSregOf c n v).attn = s.attn := rfl
@[simp] theorem State.setSregOf_logs : (s.setSregOf c n v).logs = s.logs := rfl
@[simp] theorem State.setSregOf_jmpAddr : (s.setSregOf c n v).jmpAddr = s.jmpAddr := rfl
@[simp] theorem State.setSregOf_jmpJumps : (s.setSregOf c n v).jmpJumps = s.jmpJumps := rfl
@[simp] theorem State.setSregOf_retryPending : (s.setSregOf c n v).retryPending = s.retryPending := rfl
@[simp] theorem State.setSregOf_cmdCache : (s.setSregOf c n v).cmdCache = s.cmdCache := rfl
@[simp] theorem State.setSregOf_turns : (s.setSregOf c n v).turns = s.turns := rfl
@[simp] theorem State.setSregOf_collNext : (s.setSregOf c n v).collNext = s.collNext := rfl
end

/-! `State.updCmd` -/
section
variable (s : State) (n : Nat) (f : Cmd → Cmd)
@[simp] theorem State.updCmd_pending : (s.updCmd n f).pending = s.pending := rfl
@[simp] theorem State.updCmd_freeCtr : (s.updCmd n f).freeCtr = s.freeCtr := rfl
@[simp] theorem State.updCmd_egress : (s.updCmd n f).egress = s.egress := rfl
@[simp] theorem State.updCmd_dev : (s.updCmd n f).dev = s.dev := rfl
@[simp] theorem State.updCmd_ms : (s.updCmd n f).ms = s.ms := rfl
@[simp] theorem State.updCmd_hub : (s.updCmd n f).hub = s.hub := rfl
@[simp] theorem State.updCmd_svc : (s.updCmd n f).svc = s.svc := rfl
@[simp] theorem State.updCmd_comp : (s.updCmd n f).comp = s.comp := rfl
@[simp] theorem State.updCmd_stk : (s.updCmd n f).stk = s.stk := rfl
@[simp] theorem State.updCmd_capMem : (s.updCmd n f).capMem = s.capMem := rfl
@[simp] theorem State.updCmd_aonEpoch : (s.updCmd n f).aonEpoch = s.aonEpoch := rfl
@[simp] theorem State.updCmd_sites : (s.updCmd n f).sites = s.sites := rfl
@[simp] theorem State.updCmd_parts : (s.updCmd n f).parts = s.parts := rfl
@[simp] theorem State.updCmd_clusters : (s.updCmd n f).clusters = s.clusters := rfl
@[simp] theorem State.updCmd_hdrs : (s.updCmd n f).hdrs = s.hdrs := rfl
@[simp] theorem State.updCmd_shadow : (s.updCmd n f).shadow = s.shadow := rfl
@[simp] theorem State.updCmd_latches : (s.updCmd n f).latches = s.latches := rfl
@[simp] theorem State.updCmd_conns : (s.updCmd n f).conns = s.conns := rfl
@[simp] theorem State.updCmd_nextConn : (s.updCmd n f).nextConn = s.nextConn := rfl
@[simp] theorem State.updCmd_ctxs : (s.updCmd n f).ctxs = s.ctxs := rfl
@[simp] theorem State.updCmd_nextCmd : (s.updCmd n f).nextCmd = s.nextCmd := rfl
@[simp] theorem State.updCmd_models : (s.updCmd n f).models = s.models := rfl
@[simp] theorem State.updCmd_graphs : (s.updCmd n f).graphs = s.graphs := rfl
@[simp] theorem State.updCmd_holds : (s.updCmd n f).holds = s.holds := rfl
@[simp] theorem State.updCmd_fre : (s.updCmd n f).fre = s.fre := rfl
@[simp] theorem State.updCmd_tlc : (s.updCmd n f).tlc = s.tlc := rfl
@[simp] theorem State.updCmd_vcc : (s.updCmd n f).vcc = s.vcc := rfl
@[simp] theorem State.updCmd_pwr : (s.updCmd n f).pwr = s.pwr := rfl
@[simp] theorem State.updCmd_wear : (s.updCmd n f).wear = s.wear := rfl
@[simp] theorem State.updCmd_mgc : (s.updCmd n f).mgc = s.mgc := rfl
@[simp] theorem State.updCmd_attn : (s.updCmd n f).attn = s.attn := rfl
@[simp] theorem State.updCmd_logs : (s.updCmd n f).logs = s.logs := rfl
@[simp] theorem State.updCmd_jmpAddr : (s.updCmd n f).jmpAddr = s.jmpAddr := rfl
@[simp] theorem State.updCmd_jmpJumps : (s.updCmd n f).jmpJumps = s.jmpJumps := rfl
@[simp] theorem State.updCmd_retryPending : (s.updCmd n f).retryPending = s.retryPending := rfl
@[simp] theorem State.updCmd_cmdCache : (s.updCmd n f).cmdCache = s.cmdCache := rfl
@[simp] theorem State.updCmd_turns : (s.updCmd n f).turns = s.turns := rfl
@[simp] theorem State.updCmd_collNext : (s.updCmd n f).collNext = s.collNext := rfl
end

/-! `State.dropCmd` -/
section
variable (s : State) (n : Nat)
@[simp] theorem State.dropCmd_pending : (s.dropCmd n).pending = s.pending := rfl
@[simp] theorem State.dropCmd_freeCtr : (s.dropCmd n).freeCtr = s.freeCtr := rfl
@[simp] theorem State.dropCmd_egress : (s.dropCmd n).egress = s.egress := rfl
@[simp] theorem State.dropCmd_dev : (s.dropCmd n).dev = s.dev := rfl
@[simp] theorem State.dropCmd_ms : (s.dropCmd n).ms = s.ms := rfl
@[simp] theorem State.dropCmd_hub : (s.dropCmd n).hub = s.hub := rfl
@[simp] theorem State.dropCmd_svc : (s.dropCmd n).svc = s.svc := rfl
@[simp] theorem State.dropCmd_comp : (s.dropCmd n).comp = s.comp := rfl
@[simp] theorem State.dropCmd_stk : (s.dropCmd n).stk = s.stk := rfl
@[simp] theorem State.dropCmd_capMem : (s.dropCmd n).capMem = s.capMem := rfl
@[simp] theorem State.dropCmd_aonEpoch : (s.dropCmd n).aonEpoch = s.aonEpoch := rfl
@[simp] theorem State.dropCmd_sites : (s.dropCmd n).sites = s.sites := rfl
@[simp] theorem State.dropCmd_parts : (s.dropCmd n).parts = s.parts := rfl
@[simp] theorem State.dropCmd_clusters : (s.dropCmd n).clusters = s.clusters := rfl
@[simp] theorem State.dropCmd_hdrs : (s.dropCmd n).hdrs = s.hdrs := rfl
@[simp] theorem State.dropCmd_shadow : (s.dropCmd n).shadow = s.shadow := rfl
@[simp] theorem State.dropCmd_latches : (s.dropCmd n).latches = s.latches := rfl
@[simp] theorem State.dropCmd_conns : (s.dropCmd n).conns = s.conns := rfl
@[simp] theorem State.dropCmd_nextConn : (s.dropCmd n).nextConn = s.nextConn := rfl
@[simp] theorem State.dropCmd_ctxs : (s.dropCmd n).ctxs = s.ctxs := rfl
@[simp] theorem State.dropCmd_nextCmd : (s.dropCmd n).nextCmd = s.nextCmd := rfl
@[simp] theorem State.dropCmd_models : (s.dropCmd n).models = s.models := rfl
@[simp] theorem State.dropCmd_graphs : (s.dropCmd n).graphs = s.graphs := rfl
@[simp] theorem State.dropCmd_holds : (s.dropCmd n).holds = s.holds := rfl
@[simp] theorem State.dropCmd_fre : (s.dropCmd n).fre = s.fre := rfl
@[simp] theorem State.dropCmd_tlc : (s.dropCmd n).tlc = s.tlc := rfl
@[simp] theorem State.dropCmd_vcc : (s.dropCmd n).vcc = s.vcc := rfl
@[simp] theorem State.dropCmd_pwr : (s.dropCmd n).pwr = s.pwr := rfl
@[simp] theorem State.dropCmd_wear : (s.dropCmd n).wear = s.wear := rfl
@[simp] theorem State.dropCmd_mgc : (s.dropCmd n).mgc = s.mgc := rfl
@[simp] theorem State.dropCmd_attn : (s.dropCmd n).attn = s.attn := rfl
@[simp] theorem State.dropCmd_logs : (s.dropCmd n).logs = s.logs := rfl
@[simp] theorem State.dropCmd_jmpAddr : (s.dropCmd n).jmpAddr = s.jmpAddr := rfl
@[simp] theorem State.dropCmd_jmpJumps : (s.dropCmd n).jmpJumps = s.jmpJumps := rfl
@[simp] theorem State.dropCmd_retryPending : (s.dropCmd n).retryPending = s.retryPending := rfl
@[simp] theorem State.dropCmd_cmdCache : (s.dropCmd n).cmdCache = s.cmdCache := rfl
@[simp] theorem State.dropCmd_turns : (s.dropCmd n).turns = s.turns := rfl
@[simp] theorem State.dropCmd_collNext : (s.dropCmd n).collNext = s.collNext := rfl
end

/-! `State.updConn` -/
section
variable (s : State) (n : Nat) (f : Conn → Conn)
@[simp] theorem State.updConn_pending : (s.updConn n f).pending = s.pending := rfl
@[simp] theorem State.updConn_freeCtr : (s.updConn n f).freeCtr = s.freeCtr := rfl
@[simp] theorem State.updConn_egress : (s.updConn n f).egress = s.egress := rfl
@[simp] theorem State.updConn_dev : (s.updConn n f).dev = s.dev := rfl
@[simp] theorem State.updConn_ms : (s.updConn n f).ms = s.ms := rfl
@[simp] theorem State.updConn_hub : (s.updConn n f).hub = s.hub := rfl
@[simp] theorem State.updConn_svc : (s.updConn n f).svc = s.svc := rfl
@[simp] theorem State.updConn_comp : (s.updConn n f).comp = s.comp := rfl
@[simp] theorem State.updConn_stk : (s.updConn n f).stk = s.stk := rfl
@[simp] theorem State.updConn_capMem : (s.updConn n f).capMem = s.capMem := rfl
@[simp] theorem State.updConn_aonEpoch : (s.updConn n f).aonEpoch = s.aonEpoch := rfl
@[simp] theorem State.updConn_sites : (s.updConn n f).sites = s.sites := rfl
@[simp] theorem State.updConn_parts : (s.updConn n f).parts = s.parts := rfl
@[simp] theorem State.updConn_clusters : (s.updConn n f).clusters = s.clusters := rfl
@[simp] theorem State.updConn_hdrs : (s.updConn n f).hdrs = s.hdrs := rfl
@[simp] theorem State.updConn_shadow : (s.updConn n f).shadow = s.shadow := rfl
@[simp] theorem State.updConn_latches : (s.updConn n f).latches = s.latches := rfl
@[simp] theorem State.updConn_nextConn : (s.updConn n f).nextConn = s.nextConn := rfl
@[simp] theorem State.updConn_ctxs : (s.updConn n f).ctxs = s.ctxs := rfl
@[simp] theorem State.updConn_cmds : (s.updConn n f).cmds = s.cmds := rfl
@[simp] theorem State.updConn_nextCmd : (s.updConn n f).nextCmd = s.nextCmd := rfl
@[simp] theorem State.updConn_models : (s.updConn n f).models = s.models := rfl
@[simp] theorem State.updConn_graphs : (s.updConn n f).graphs = s.graphs := rfl
@[simp] theorem State.updConn_holds : (s.updConn n f).holds = s.holds := rfl
@[simp] theorem State.updConn_fre : (s.updConn n f).fre = s.fre := rfl
@[simp] theorem State.updConn_tlc : (s.updConn n f).tlc = s.tlc := rfl
@[simp] theorem State.updConn_vcc : (s.updConn n f).vcc = s.vcc := rfl
@[simp] theorem State.updConn_pwr : (s.updConn n f).pwr = s.pwr := rfl
@[simp] theorem State.updConn_wear : (s.updConn n f).wear = s.wear := rfl
@[simp] theorem State.updConn_mgc : (s.updConn n f).mgc = s.mgc := rfl
@[simp] theorem State.updConn_attn : (s.updConn n f).attn = s.attn := rfl
@[simp] theorem State.updConn_logs : (s.updConn n f).logs = s.logs := rfl
@[simp] theorem State.updConn_jmpAddr : (s.updConn n f).jmpAddr = s.jmpAddr := rfl
@[simp] theorem State.updConn_jmpJumps : (s.updConn n f).jmpJumps = s.jmpJumps := rfl
@[simp] theorem State.updConn_retryPending : (s.updConn n f).retryPending = s.retryPending := rfl
@[simp] theorem State.updConn_cmdCache : (s.updConn n f).cmdCache = s.cmdCache := rfl
@[simp] theorem State.updConn_turns : (s.updConn n f).turns = s.turns := rfl
@[simp] theorem State.updConn_collNext : (s.updConn n f).collNext = s.collNext := rfl
end

/-! `State.updGraph` -/
section
variable (s : State) (n : Nat) (f : Graph → Graph)
@[simp] theorem State.updGraph_pending : (s.updGraph n f).pending = s.pending := rfl
@[simp] theorem State.updGraph_freeCtr : (s.updGraph n f).freeCtr = s.freeCtr := rfl
@[simp] theorem State.updGraph_egress : (s.updGraph n f).egress = s.egress := rfl
@[simp] theorem State.updGraph_dev : (s.updGraph n f).dev = s.dev := rfl
@[simp] theorem State.updGraph_ms : (s.updGraph n f).ms = s.ms := rfl
@[simp] theorem State.updGraph_hub : (s.updGraph n f).hub = s.hub := rfl
@[simp] theorem State.updGraph_svc : (s.updGraph n f).svc = s.svc := rfl
@[simp] theorem State.updGraph_comp : (s.updGraph n f).comp = s.comp := rfl
@[simp] theorem State.updGraph_stk : (s.updGraph n f).stk = s.stk := rfl
@[simp] theorem State.updGraph_capMem : (s.updGraph n f).capMem = s.capMem := rfl
@[simp] theorem State.updGraph_aonEpoch : (s.updGraph n f).aonEpoch = s.aonEpoch := rfl
@[simp] theorem State.updGraph_sites : (s.updGraph n f).sites = s.sites := rfl
@[simp] theorem State.updGraph_parts : (s.updGraph n f).parts = s.parts := rfl
@[simp] theorem State.updGraph_clusters : (s.updGraph n f).clusters = s.clusters := rfl
@[simp] theorem State.updGraph_hdrs : (s.updGraph n f).hdrs = s.hdrs := rfl
@[simp] theorem State.updGraph_shadow : (s.updGraph n f).shadow = s.shadow := rfl
@[simp] theorem State.updGraph_latches : (s.updGraph n f).latches = s.latches := rfl
@[simp] theorem State.updGraph_conns : (s.updGraph n f).conns = s.conns := rfl
@[simp] theorem State.updGraph_nextConn : (s.updGraph n f).nextConn = s.nextConn := rfl
@[simp] theorem State.updGraph_ctxs : (s.updGraph n f).ctxs = s.ctxs := rfl
@[simp] theorem State.updGraph_cmds : (s.updGraph n f).cmds = s.cmds := rfl
@[simp] theorem State.updGraph_nextCmd : (s.updGraph n f).nextCmd = s.nextCmd := rfl
@[simp] theorem State.updGraph_models : (s.updGraph n f).models = s.models := rfl
@[simp] theorem State.updGraph_holds : (s.updGraph n f).holds = s.holds := rfl
@[simp] theorem State.updGraph_fre : (s.updGraph n f).fre = s.fre := rfl
@[simp] theorem State.updGraph_tlc : (s.updGraph n f).tlc = s.tlc := rfl
@[simp] theorem State.updGraph_vcc : (s.updGraph n f).vcc = s.vcc := rfl
@[simp] theorem State.updGraph_pwr : (s.updGraph n f).pwr = s.pwr := rfl
@[simp] theorem State.updGraph_wear : (s.updGraph n f).wear = s.wear := rfl
@[simp] theorem State.updGraph_mgc : (s.updGraph n f).mgc = s.mgc := rfl
@[simp] theorem State.updGraph_attn : (s.updGraph n f).attn = s.attn := rfl
@[simp] theorem State.updGraph_logs : (s.updGraph n f).logs = s.logs := rfl
@[simp] theorem State.updGraph_jmpAddr : (s.updGraph n f).jmpAddr = s.jmpAddr := rfl
@[simp] theorem State.updGraph_jmpJumps : (s.updGraph n f).jmpJumps = s.jmpJumps := rfl
@[simp] theorem State.updGraph_retryPending : (s.updGraph n f).retryPending = s.retryPending := rfl
@[simp] theorem State.updGraph_cmdCache : (s.updGraph n f).cmdCache = s.cmdCache := rfl
@[simp] theorem State.updGraph_turns : (s.updGraph n f).turns = s.turns := rfl
@[simp] theorem State.updGraph_collNext : (s.updGraph n f).collNext = s.collNext := rfl
end

/-! `State.emit` -/
section
variable (s : State) (e : Egress)
@[simp] theorem State.emit_pending : (s.emit e).pending = s.pending := rfl
@[simp] theorem State.emit_freeCtr : (s.emit e).freeCtr = s.freeCtr := rfl
@[simp] theorem State.emit_dev : (s.emit e).dev = s.dev := rfl
@[simp] theorem State.emit_ms : (s.emit e).ms = s.ms := rfl
@[simp] theorem State.emit_hub : (s.emit e).hub = s.hub := rfl
@[simp] theorem State.emit_svc : (s.emit e).svc = s.svc := rfl
@[simp] theorem State.emit_comp : (s.emit e).comp = s.comp := rfl
@[simp] theorem State.emit_stk : (s.emit e).stk = s.stk := rfl
@[simp] theorem State.emit_capMem : (s.emit e).capMem = s.capMem := rfl
@[simp] theorem State.emit_aonEpoch : (s.emit e).aonEpoch = s.aonEpoch := rfl
@[simp] theorem State.emit_sites : (s.emit e).sites = s.sites := rfl
@[simp] theorem State.emit_parts : (s.emit e).parts = s.parts := rfl
@[simp] theorem State.emit_clusters : (s.emit e).clusters = s.clusters := rfl
@[simp] theorem State.emit_hdrs : (s.emit e).hdrs = s.hdrs := rfl
@[simp] theorem State.emit_shadow : (s.emit e).shadow = s.shadow := rfl
@[simp] theorem State.emit_latches : (s.emit e).latches = s.latches := rfl
@[simp] theorem State.emit_conns : (s.emit e).conns = s.conns := rfl
@[simp] theorem State.emit_nextConn : (s.emit e).nextConn = s.nextConn := rfl
@[simp] theorem State.emit_ctxs : (s.emit e).ctxs = s.ctxs := rfl
@[simp] theorem State.emit_cmds : (s.emit e).cmds = s.cmds := rfl
@[simp] theorem State.emit_nextCmd : (s.emit e).nextCmd = s.nextCmd := rfl
@[simp] theorem State.emit_models : (s.emit e).models = s.models := rfl
@[simp] theorem State.emit_graphs : (s.emit e).graphs = s.graphs := rfl
@[simp] theorem State.emit_holds : (s.emit e).holds = s.holds := rfl
@[simp] theorem State.emit_fre : (s.emit e).fre = s.fre := rfl
@[simp] theorem State.emit_tlc : (s.emit e).tlc = s.tlc := rfl
@[simp] theorem State.emit_vcc : (s.emit e).vcc = s.vcc := rfl
@[simp] theorem State.emit_pwr : (s.emit e).pwr = s.pwr := rfl
@[simp] theorem State.emit_wear : (s.emit e).wear = s.wear := rfl
@[simp] theorem State.emit_mgc : (s.emit e).mgc = s.mgc := rfl
@[simp] theorem State.emit_attn : (s.emit e).attn = s.attn := rfl
@[simp] theorem State.emit_logs : (s.emit e).logs = s.logs := rfl
@[simp] theorem State.emit_jmpAddr : (s.emit e).jmpAddr = s.jmpAddr := rfl
@[simp] theorem State.emit_jmpJumps : (s.emit e).jmpJumps = s.jmpJumps := rfl
@[simp] theorem State.emit_retryPending : (s.emit e).retryPending = s.retryPending := rfl
@[simp] theorem State.emit_cmdCache : (s.emit e).cmdCache = s.cmdCache := rfl
@[simp] theorem State.emit_turns : (s.emit e).turns = s.turns := rfl
@[simp] theorem State.emit_collNext : (s.emit e).collNext = s.collNext := rfl
end

/-! `State.emits` -/
section
variable (s : State) (es : List Egress)
@[simp] theorem State.emits_pending : (s.emits es).pending = s.pending := rfl
@[simp] theorem State.emits_freeCtr : (s.emits es).freeCtr = s.freeCtr := rfl
@[simp] theorem State.emits_dev : (s.emits es).dev = s.dev := rfl
@[simp] theorem State.emits_ms : (s.emits es).ms = s.ms := rfl
@[simp] theorem State.emits_hub : (s.emits es).hub = s.hub := rfl
@[simp] theorem State.emits_svc : (s.emits es).svc = s.svc := rfl
@[simp] theorem State.emits_comp : (s.emits es).comp = s.comp := rfl
@[simp] theorem State.emits_stk : (s.emits es).stk = s.stk := rfl
@[simp] theorem State.emits_capMem : (s.emits es).capMem = s.capMem := rfl
@[simp] theorem State.emits_aonEpoch : (s.emits es).aonEpoch = s.aonEpoch := rfl
@[simp] theorem State.emits_sites : (s.emits es).sites = s.sites := rfl
@[simp] theorem State.emits_parts : (s.emits es).parts = s.parts := rfl
@[simp] theorem State.emits_clusters : (s.emits es).clusters = s.clusters := rfl
@[simp] theorem State.emits_hdrs : (s.emits es).hdrs = s.hdrs := rfl
@[simp] theorem State.emits_shadow : (s.emits es).shadow = s.shadow := rfl
@[simp] theorem State.emits_latches : (s.emits es).latches = s.latches := rfl
@[simp] theorem State.emits_conns : (s.emits es).conns = s.conns := rfl
@[simp] theorem State.emits_nextConn : (s.emits es).nextConn = s.nextConn := rfl
@[simp] theorem State.emits_ctxs : (s.emits es).ctxs = s.ctxs := rfl
@[simp] theorem State.emits_cmds : (s.emits es).cmds = s.cmds := rfl
@[simp] theorem State.emits_nextCmd : (s.emits es).nextCmd = s.nextCmd := rfl
@[simp] theorem State.emits_models : (s.emits es).models = s.models := rfl
@[simp] theorem State.emits_graphs : (s.emits es).graphs = s.graphs := rfl
@[simp] theorem State.emits_holds : (s.emits es).holds = s.holds := rfl
@[simp] theorem State.emits_fre : (s.emits es).fre = s.fre := rfl
@[simp] theorem State.emits_tlc : (s.emits es).tlc = s.tlc := rfl
@[simp] theorem State.emits_vcc : (s.emits es).vcc = s.vcc := rfl
@[simp] theorem State.emits_pwr : (s.emits es).pwr = s.pwr := rfl
@[simp] theorem State.emits_wear : (s.emits es).wear = s.wear := rfl
@[simp] theorem State.emits_mgc : (s.emits es).mgc = s.mgc := rfl
@[simp] theorem State.emits_attn : (s.emits es).attn = s.attn := rfl
@[simp] theorem State.emits_logs : (s.emits es).logs = s.logs := rfl
@[simp] theorem State.emits_jmpAddr : (s.emits es).jmpAddr = s.jmpAddr := rfl
@[simp] theorem State.emits_jmpJumps : (s.emits es).jmpJumps = s.jmpJumps := rfl
@[simp] theorem State.emits_retryPending : (s.emits es).retryPending = s.retryPending := rfl
@[simp] theorem State.emits_cmdCache : (s.emits es).cmdCache = s.cmdCache := rfl
@[simp] theorem State.emits_turns : (s.emits es).turns = s.turns := rfl
@[simp] theorem State.emits_collNext : (s.emits es).collNext = s.collNext := rfl
end

/-! `State.attnEvent` -/
section
variable (s : State) (n : Nat)
@[simp] theorem State.attnEvent_pending : (s.attnEvent n).pending = s.pending := rfl
@[simp] theorem State.attnEvent_freeCtr : (s.attnEvent n).freeCtr = s.freeCtr := rfl
@[simp] theorem State.attnEvent_egress : (s.attnEvent n).egress = s.egress := rfl
@[simp] theorem State.attnEvent_dev : (s.attnEvent n).dev = s.dev := rfl
@[simp] theorem State.attnEvent_ms : (s.attnEvent n).ms = s.ms := rfl
@[simp] theorem State.attnEvent_hub : (s.attnEvent n).hub = s.hub := rfl
@[simp] theorem State.attnEvent_svc : (s.attnEvent n).svc = s.svc := rfl
@[simp] theorem State.attnEvent_comp : (s.attnEvent n).comp = s.comp := rfl
@[simp] theorem State.attnEvent_stk : (s.attnEvent n).stk = s.stk := rfl
@[simp] theorem State.attnEvent_capMem : (s.attnEvent n).capMem = s.capMem := rfl
@[simp] theorem State.attnEvent_aonEpoch : (s.attnEvent n).aonEpoch = s.aonEpoch := rfl
@[simp] theorem State.attnEvent_sites : (s.attnEvent n).sites = s.sites := rfl
@[simp] theorem State.attnEvent_parts : (s.attnEvent n).parts = s.parts := rfl
@[simp] theorem State.attnEvent_clusters : (s.attnEvent n).clusters = s.clusters := rfl
@[simp] theorem State.attnEvent_hdrs : (s.attnEvent n).hdrs = s.hdrs := rfl
@[simp] theorem State.attnEvent_shadow : (s.attnEvent n).shadow = s.shadow := rfl
@[simp] theorem State.attnEvent_latches : (s.attnEvent n).latches = s.latches := rfl
@[simp] theorem State.attnEvent_conns : (s.attnEvent n).conns = s.conns := rfl
@[simp] theorem State.attnEvent_nextConn : (s.attnEvent n).nextConn = s.nextConn := rfl
@[simp] theorem State.attnEvent_ctxs : (s.attnEvent n).ctxs = s.ctxs := rfl
@[simp] theorem State.attnEvent_cmds : (s.attnEvent n).cmds = s.cmds := rfl
@[simp] theorem State.attnEvent_nextCmd : (s.attnEvent n).nextCmd = s.nextCmd := rfl
@[simp] theorem State.attnEvent_models : (s.attnEvent n).models = s.models := rfl
@[simp] theorem State.attnEvent_graphs : (s.attnEvent n).graphs = s.graphs := rfl
@[simp] theorem State.attnEvent_holds : (s.attnEvent n).holds = s.holds := rfl
@[simp] theorem State.attnEvent_fre : (s.attnEvent n).fre = s.fre := rfl
@[simp] theorem State.attnEvent_tlc : (s.attnEvent n).tlc = s.tlc := rfl
@[simp] theorem State.attnEvent_vcc : (s.attnEvent n).vcc = s.vcc := rfl
@[simp] theorem State.attnEvent_pwr : (s.attnEvent n).pwr = s.pwr := rfl
@[simp] theorem State.attnEvent_wear : (s.attnEvent n).wear = s.wear := rfl
@[simp] theorem State.attnEvent_mgc : (s.attnEvent n).mgc = s.mgc := rfl
@[simp] theorem State.attnEvent_logs : (s.attnEvent n).logs = s.logs := rfl
@[simp] theorem State.attnEvent_jmpAddr : (s.attnEvent n).jmpAddr = s.jmpAddr := rfl
@[simp] theorem State.attnEvent_jmpJumps : (s.attnEvent n).jmpJumps = s.jmpJumps := rfl
@[simp] theorem State.attnEvent_retryPending : (s.attnEvent n).retryPending = s.retryPending := rfl
@[simp] theorem State.attnEvent_cmdCache : (s.attnEvent n).cmdCache = s.cmdCache := rfl
@[simp] theorem State.attnEvent_turns : (s.attnEvent n).turns = s.turns := rfl
@[simp] theorem State.attnEvent_collNext : (s.attnEvent n).collNext = s.collNext := rfl
end

/-! `State.attnOn` -/
section
variable (s : State) (n : Nat)
@[simp] theorem State.attnOn_pending : (s.attnOn n).pending = s.pending := rfl
@[simp] theorem State.attnOn_freeCtr : (s.attnOn n).freeCtr = s.freeCtr := rfl
@[simp] theorem State.attnOn_egress : (s.attnOn n).egress = s.egress := rfl
@[simp] theorem State.attnOn_dev : (s.attnOn n).dev = s.dev := rfl
@[simp] theorem State.attnOn_ms : (s.attnOn n).ms = s.ms := rfl
@[simp] theorem State.attnOn_hub : (s.attnOn n).hub = s.hub := rfl
@[simp] theorem State.attnOn_svc : (s.attnOn n).svc = s.svc := rfl
@[simp] theorem State.attnOn_comp : (s.attnOn n).comp = s.comp := rfl
@[simp] theorem State.attnOn_stk : (s.attnOn n).stk = s.stk := rfl
@[simp] theorem State.attnOn_capMem : (s.attnOn n).capMem = s.capMem := rfl
@[simp] theorem State.attnOn_aonEpoch : (s.attnOn n).aonEpoch = s.aonEpoch := rfl
@[simp] theorem State.attnOn_sites : (s.attnOn n).sites = s.sites := rfl
@[simp] theorem State.attnOn_parts : (s.attnOn n).parts = s.parts := rfl
@[simp] theorem State.attnOn_clusters : (s.attnOn n).clusters = s.clusters := rfl
@[simp] theorem State.attnOn_hdrs : (s.attnOn n).hdrs = s.hdrs := rfl
@[simp] theorem State.attnOn_shadow : (s.attnOn n).shadow = s.shadow := rfl
@[simp] theorem State.attnOn_latches : (s.attnOn n).latches = s.latches := rfl
@[simp] theorem State.attnOn_conns : (s.attnOn n).conns = s.conns := rfl
@[simp] theorem State.attnOn_nextConn : (s.attnOn n).nextConn = s.nextConn := rfl
@[simp] theorem State.attnOn_ctxs : (s.attnOn n).ctxs = s.ctxs := rfl
@[simp] theorem State.attnOn_cmds : (s.attnOn n).cmds = s.cmds := rfl
@[simp] theorem State.attnOn_nextCmd : (s.attnOn n).nextCmd = s.nextCmd := rfl
@[simp] theorem State.attnOn_models : (s.attnOn n).models = s.models := rfl
@[simp] theorem State.attnOn_graphs : (s.attnOn n).graphs = s.graphs := rfl
@[simp] theorem State.attnOn_holds : (s.attnOn n).holds = s.holds := rfl
@[simp] theorem State.attnOn_fre : (s.attnOn n).fre = s.fre := rfl
@[simp] theorem State.attnOn_tlc : (s.attnOn n).tlc = s.tlc := rfl
@[simp] theorem State.attnOn_vcc : (s.attnOn n).vcc = s.vcc := rfl
@[simp] theorem State.attnOn_pwr : (s.attnOn n).pwr = s.pwr := rfl
@[simp] theorem State.attnOn_wear : (s.attnOn n).wear = s.wear := rfl
@[simp] theorem State.attnOn_mgc : (s.attnOn n).mgc = s.mgc := rfl
@[simp] theorem State.attnOn_logs : (s.attnOn n).logs = s.logs := rfl
@[simp] theorem State.attnOn_jmpAddr : (s.attnOn n).jmpAddr = s.jmpAddr := rfl
@[simp] theorem State.attnOn_jmpJumps : (s.attnOn n).jmpJumps = s.jmpJumps := rfl
@[simp] theorem State.attnOn_retryPending : (s.attnOn n).retryPending = s.retryPending := rfl
@[simp] theorem State.attnOn_cmdCache : (s.attnOn n).cmdCache = s.cmdCache := rfl
@[simp] theorem State.attnOn_turns : (s.attnOn n).turns = s.turns := rfl
@[simp] theorem State.attnOn_collNext : (s.attnOn n).collNext = s.collNext := rfl
end

/-! `State.attnOff` -/
section
variable (s : State) (n : Nat)
@[simp] theorem State.attnOff_pending : (s.attnOff n).pending = s.pending := rfl
@[simp] theorem State.attnOff_freeCtr : (s.attnOff n).freeCtr = s.freeCtr := rfl
@[simp] theorem State.attnOff_egress : (s.attnOff n).egress = s.egress := rfl
@[simp] theorem State.attnOff_dev : (s.attnOff n).dev = s.dev := rfl
@[simp] theorem State.attnOff_ms : (s.attnOff n).ms = s.ms := rfl
@[simp] theorem State.attnOff_hub : (s.attnOff n).hub = s.hub := rfl
@[simp] theorem State.attnOff_svc : (s.attnOff n).svc = s.svc := rfl
@[simp] theorem State.attnOff_comp : (s.attnOff n).comp = s.comp := rfl
@[simp] theorem State.attnOff_stk : (s.attnOff n).stk = s.stk := rfl
@[simp] theorem State.attnOff_capMem : (s.attnOff n).capMem = s.capMem := rfl
@[simp] theorem State.attnOff_aonEpoch : (s.attnOff n).aonEpoch = s.aonEpoch := rfl
@[simp] theorem State.attnOff_sites : (s.attnOff n).sites = s.sites := rfl
@[simp] theorem State.attnOff_parts : (s.attnOff n).parts = s.parts := rfl
@[simp] theorem State.attnOff_clusters : (s.attnOff n).clusters = s.clusters := rfl
@[simp] theorem State.attnOff_hdrs : (s.attnOff n).hdrs = s.hdrs := rfl
@[simp] theorem State.attnOff_shadow : (s.attnOff n).shadow = s.shadow := rfl
@[simp] theorem State.attnOff_latches : (s.attnOff n).latches = s.latches := rfl
@[simp] theorem State.attnOff_conns : (s.attnOff n).conns = s.conns := rfl
@[simp] theorem State.attnOff_nextConn : (s.attnOff n).nextConn = s.nextConn := rfl
@[simp] theorem State.attnOff_ctxs : (s.attnOff n).ctxs = s.ctxs := rfl
@[simp] theorem State.attnOff_cmds : (s.attnOff n).cmds = s.cmds := rfl
@[simp] theorem State.attnOff_nextCmd : (s.attnOff n).nextCmd = s.nextCmd := rfl
@[simp] theorem State.attnOff_models : (s.attnOff n).models = s.models := rfl
@[simp] theorem State.attnOff_graphs : (s.attnOff n).graphs = s.graphs := rfl
@[simp] theorem State.attnOff_holds : (s.attnOff n).holds = s.holds := rfl
@[simp] theorem State.attnOff_fre : (s.attnOff n).fre = s.fre := rfl
@[simp] theorem State.attnOff_tlc : (s.attnOff n).tlc = s.tlc := rfl
@[simp] theorem State.attnOff_vcc : (s.attnOff n).vcc = s.vcc := rfl
@[simp] theorem State.attnOff_pwr : (s.attnOff n).pwr = s.pwr := rfl
@[simp] theorem State.attnOff_wear : (s.attnOff n).wear = s.wear := rfl
@[simp] theorem State.attnOff_mgc : (s.attnOff n).mgc = s.mgc := rfl
@[simp] theorem State.attnOff_logs : (s.attnOff n).logs = s.logs := rfl
@[simp] theorem State.attnOff_jmpAddr : (s.attnOff n).jmpAddr = s.jmpAddr := rfl
@[simp] theorem State.attnOff_jmpJumps : (s.attnOff n).jmpJumps = s.jmpJumps := rfl
@[simp] theorem State.attnOff_retryPending : (s.attnOff n).retryPending = s.retryPending := rfl
@[simp] theorem State.attnOff_cmdCache : (s.attnOff n).cmdCache = s.cmdCache := rfl
@[simp] theorem State.attnOff_turns : (s.attnOff n).turns = s.turns := rfl
@[simp] theorem State.attnOff_collNext : (s.attnOff n).collNext = s.collNext := rfl
end

/-! `State.logNote` -/
section
variable (s : State) (p typ d : Nat)
@[simp] theorem State.logNote_pending : (s.logNote p typ d).pending = s.pending := rfl
@[simp] theorem State.logNote_freeCtr : (s.logNote p typ d).freeCtr = s.freeCtr := rfl
@[simp] theorem State.logNote_egress : (s.logNote p typ d).egress = s.egress := rfl
@[simp] theorem State.logNote_dev : (s.logNote p typ d).dev = s.dev := rfl
@[simp] theorem State.logNote_ms : (s.logNote p typ d).ms = s.ms := rfl
@[simp] theorem State.logNote_hub : (s.logNote p typ d).hub = s.hub := rfl
@[simp] theorem State.logNote_svc : (s.logNote p typ d).svc = s.svc := rfl
@[simp] theorem State.logNote_comp : (s.logNote p typ d).comp = s.comp := rfl
@[simp] theorem State.logNote_stk : (s.logNote p typ d).stk = s.stk := rfl
@[simp] theorem State.logNote_capMem : (s.logNote p typ d).capMem = s.capMem := rfl
@[simp] theorem State.logNote_aonEpoch : (s.logNote p typ d).aonEpoch = s.aonEpoch := rfl
@[simp] theorem State.logNote_sites : (s.logNote p typ d).sites = s.sites := rfl
@[simp] theorem State.logNote_parts : (s.logNote p typ d).parts = s.parts := rfl
@[simp] theorem State.logNote_clusters : (s.logNote p typ d).clusters = s.clusters := rfl
@[simp] theorem State.logNote_hdrs : (s.logNote p typ d).hdrs = s.hdrs := rfl
@[simp] theorem State.logNote_shadow : (s.logNote p typ d).shadow = s.shadow := rfl
@[simp] theorem State.logNote_latches : (s.logNote p typ d).latches = s.latches := rfl
@[simp] theorem State.logNote_conns : (s.logNote p typ d).conns = s.conns := rfl
@[simp] theorem State.logNote_nextConn : (s.logNote p typ d).nextConn = s.nextConn := rfl
@[simp] theorem State.logNote_ctxs : (s.logNote p typ d).ctxs = s.ctxs := rfl
@[simp] theorem State.logNote_cmds : (s.logNote p typ d).cmds = s.cmds := rfl
@[simp] theorem State.logNote_nextCmd : (s.logNote p typ d).nextCmd = s.nextCmd := rfl
@[simp] theorem State.logNote_models : (s.logNote p typ d).models = s.models := rfl
@[simp] theorem State.logNote_graphs : (s.logNote p typ d).graphs = s.graphs := rfl
@[simp] theorem State.logNote_holds : (s.logNote p typ d).holds = s.holds := rfl
@[simp] theorem State.logNote_fre : (s.logNote p typ d).fre = s.fre := rfl
@[simp] theorem State.logNote_tlc : (s.logNote p typ d).tlc = s.tlc := rfl
@[simp] theorem State.logNote_vcc : (s.logNote p typ d).vcc = s.vcc := rfl
@[simp] theorem State.logNote_pwr : (s.logNote p typ d).pwr = s.pwr := rfl
@[simp] theorem State.logNote_wear : (s.logNote p typ d).wear = s.wear := rfl
@[simp] theorem State.logNote_mgc : (s.logNote p typ d).mgc = s.mgc := rfl
@[simp] theorem State.logNote_attn : (s.logNote p typ d).attn = s.attn := rfl
@[simp] theorem State.logNote_jmpAddr : (s.logNote p typ d).jmpAddr = s.jmpAddr := rfl
@[simp] theorem State.logNote_jmpJumps : (s.logNote p typ d).jmpJumps = s.jmpJumps := rfl
@[simp] theorem State.logNote_retryPending : (s.logNote p typ d).retryPending = s.retryPending := rfl
@[simp] theorem State.logNote_cmdCache : (s.logNote p typ d).cmdCache = s.cmdCache := rfl
@[simp] theorem State.logNote_turns : (s.logNote p typ d).turns = s.turns := rfl
@[simp] theorem State.logNote_collNext : (s.logNote p typ d).collNext = s.collNext := rfl
end

/-! `State.updCodec` -/
section
variable (s : State) (n : Nat) (f : CodecRun → CodecRun)
@[simp] theorem State.updCodec_pending : (s.updCodec n f).pending = s.pending := rfl
@[simp] theorem State.updCodec_freeCtr : (s.updCodec n f).freeCtr = s.freeCtr := rfl
@[simp] theorem State.updCodec_egress : (s.updCodec n f).egress = s.egress := rfl
@[simp] theorem State.updCodec_dev : (s.updCodec n f).dev = s.dev := rfl
@[simp] theorem State.updCodec_ms : (s.updCodec n f).ms = s.ms := rfl
@[simp] theorem State.updCodec_hub : (s.updCodec n f).hub = s.hub := rfl
@[simp] theorem State.updCodec_svc : (s.updCodec n f).svc = s.svc := rfl
@[simp] theorem State.updCodec_comp : (s.updCodec n f).comp = s.comp := rfl
@[simp] theorem State.updCodec_stk : (s.updCodec n f).stk = s.stk := rfl
@[simp] theorem State.updCodec_capMem : (s.updCodec n f).capMem = s.capMem := rfl
@[simp] theorem State.updCodec_aonEpoch : (s.updCodec n f).aonEpoch = s.aonEpoch := rfl
@[simp] theorem State.updCodec_sites : (s.updCodec n f).sites = s.sites := rfl
@[simp] theorem State.updCodec_parts : (s.updCodec n f).parts = s.parts := rfl
@[simp] theorem State.updCodec_clusters : (s.updCodec n f).clusters = s.clusters := rfl
@[simp] theorem State.updCodec_hdrs : (s.updCodec n f).hdrs = s.hdrs := rfl
@[simp] theorem State.updCodec_shadow : (s.updCodec n f).shadow = s.shadow := rfl
@[simp] theorem State.updCodec_latches : (s.updCodec n f).latches = s.latches := rfl
@[simp] theorem State.updCodec_conns : (s.updCodec n f).conns = s.conns := rfl
@[simp] theorem State.updCodec_nextConn : (s.updCodec n f).nextConn = s.nextConn := rfl
@[simp] theorem State.updCodec_ctxs : (s.updCodec n f).ctxs = s.ctxs := rfl
@[simp] theorem State.updCodec_nextCmd : (s.updCodec n f).nextCmd = s.nextCmd := rfl
@[simp] theorem State.updCodec_models : (s.updCodec n f).models = s.models := rfl
@[simp] theorem State.updCodec_graphs : (s.updCodec n f).graphs = s.graphs := rfl
@[simp] theorem State.updCodec_holds : (s.updCodec n f).holds = s.holds := rfl
@[simp] theorem State.updCodec_fre : (s.updCodec n f).fre = s.fre := rfl
@[simp] theorem State.updCodec_tlc : (s.updCodec n f).tlc = s.tlc := rfl
@[simp] theorem State.updCodec_vcc : (s.updCodec n f).vcc = s.vcc := rfl
@[simp] theorem State.updCodec_pwr : (s.updCodec n f).pwr = s.pwr := rfl
@[simp] theorem State.updCodec_wear : (s.updCodec n f).wear = s.wear := rfl
@[simp] theorem State.updCodec_mgc : (s.updCodec n f).mgc = s.mgc := rfl
@[simp] theorem State.updCodec_attn : (s.updCodec n f).attn = s.attn := rfl
@[simp] theorem State.updCodec_logs : (s.updCodec n f).logs = s.logs := rfl
@[simp] theorem State.updCodec_jmpAddr : (s.updCodec n f).jmpAddr = s.jmpAddr := rfl
@[simp] theorem State.updCodec_jmpJumps : (s.updCodec n f).jmpJumps = s.jmpJumps := rfl
@[simp] theorem State.updCodec_retryPending : (s.updCodec n f).retryPending = s.retryPending := rfl
@[simp] theorem State.updCodec_cmdCache : (s.updCodec n f).cmdCache = s.cmdCache := rfl
@[simp] theorem State.updCodec_turns : (s.updCodec n f).turns = s.turns := rfl
@[simp] theorem State.updCodec_collNext : (s.updCodec n f).collNext = s.collNext := rfl
end

/-! `State.updEngine` -/
section
variable (s : State) (n : Nat) (f : Engine → Engine)
@[simp] theorem State.updEngine_pending : (s.updEngine n f).pending = s.pending := rfl
@[simp] theorem State.updEngine_freeCtr : (s.updEngine n f).freeCtr = s.freeCtr := rfl
@[simp] theorem State.updEngine_egress : (s.updEngine n f).egress = s.egress := rfl
@[simp] theorem State.updEngine_dev : (s.updEngine n f).dev = s.dev := rfl
@[simp] theorem State.updEngine_ms : (s.updEngine n f).ms = s.ms := rfl
@[simp] theorem State.updEngine_hub : (s.updEngine n f).hub = s.hub := rfl
@[simp] theorem State.updEngine_svc : (s.updEngine n f).svc = s.svc := rfl
@[simp] theorem State.updEngine_comp : (s.updEngine n f).comp = s.comp := rfl
@[simp] theorem State.updEngine_stk : (s.updEngine n f).stk = s.stk := rfl
@[simp] theorem State.updEngine_capMem : (s.updEngine n f).capMem = s.capMem := rfl
@[simp] theorem State.updEngine_aonEpoch : (s.updEngine n f).aonEpoch = s.aonEpoch := rfl
@[simp] theorem State.updEngine_sites : (s.updEngine n f).sites = s.sites := rfl
@[simp] theorem State.updEngine_parts : (s.updEngine n f).parts = s.parts := rfl
@[simp] theorem State.updEngine_clusters : (s.updEngine n f).clusters = s.clusters := rfl
@[simp] theorem State.updEngine_hdrs : (s.updEngine n f).hdrs = s.hdrs := rfl
@[simp] theorem State.updEngine_shadow : (s.updEngine n f).shadow = s.shadow := rfl
@[simp] theorem State.updEngine_latches : (s.updEngine n f).latches = s.latches := rfl
@[simp] theorem State.updEngine_conns : (s.updEngine n f).conns = s.conns := rfl
@[simp] theorem State.updEngine_nextConn : (s.updEngine n f).nextConn = s.nextConn := rfl
@[simp] theorem State.updEngine_ctxs : (s.updEngine n f).ctxs = s.ctxs := rfl
@[simp] theorem State.updEngine_cmds : (s.updEngine n f).cmds = s.cmds := rfl
@[simp] theorem State.updEngine_nextCmd : (s.updEngine n f).nextCmd = s.nextCmd := rfl
@[simp] theorem State.updEngine_models : (s.updEngine n f).models = s.models := rfl
@[simp] theorem State.updEngine_graphs : (s.updEngine n f).graphs = s.graphs := rfl
@[simp] theorem State.updEngine_holds : (s.updEngine n f).holds = s.holds := rfl
@[simp] theorem State.updEngine_fre : (s.updEngine n f).fre = s.fre := rfl
@[simp] theorem State.updEngine_tlc : (s.updEngine n f).tlc = s.tlc := rfl
@[simp] theorem State.updEngine_pwr : (s.updEngine n f).pwr = s.pwr := rfl
@[simp] theorem State.updEngine_wear : (s.updEngine n f).wear = s.wear := rfl
@[simp] theorem State.updEngine_mgc : (s.updEngine n f).mgc = s.mgc := rfl
@[simp] theorem State.updEngine_attn : (s.updEngine n f).attn = s.attn := rfl
@[simp] theorem State.updEngine_logs : (s.updEngine n f).logs = s.logs := rfl
@[simp] theorem State.updEngine_jmpAddr : (s.updEngine n f).jmpAddr = s.jmpAddr := rfl
@[simp] theorem State.updEngine_jmpJumps : (s.updEngine n f).jmpJumps = s.jmpJumps := rfl
@[simp] theorem State.updEngine_retryPending : (s.updEngine n f).retryPending = s.retryPending := rfl
@[simp] theorem State.updEngine_cmdCache : (s.updEngine n f).cmdCache = s.cmdCache := rfl
@[simp] theorem State.updEngine_turns : (s.updEngine n f).turns = s.turns := rfl
@[simp] theorem State.updEngine_collNext : (s.updEngine n f).collNext = s.collNext := rfl
end

/-! `State.turned` -/
section
variable (s : State) (n : Nat)
@[simp] theorem State.turned_pending : (s.turned n).pending = s.pending := rfl
@[simp] theorem State.turned_freeCtr : (s.turned n).freeCtr = s.freeCtr := rfl
@[simp] theorem State.turned_egress : (s.turned n).egress = s.egress := rfl
@[simp] theorem State.turned_dev : (s.turned n).dev = s.dev := rfl
@[simp] theorem State.turned_ms : (s.turned n).ms = s.ms := rfl
@[simp] theorem State.turned_hub : (s.turned n).hub = s.hub := rfl
@[simp] theorem State.turned_svc : (s.turned n).svc = s.svc := rfl
@[simp] theorem State.turned_comp : (s.turned n).comp = s.comp := rfl
@[simp] theorem State.turned_stk : (s.turned n).stk = s.stk := rfl
@[simp] theorem State.turned_capMem : (s.turned n).capMem = s.capMem := rfl
@[simp] theorem State.turned_aonEpoch : (s.turned n).aonEpoch = s.aonEpoch := rfl
@[simp] theorem State.turned_sites : (s.turned n).sites = s.sites := rfl
@[simp] theorem State.turned_parts : (s.turned n).parts = s.parts := rfl
@[simp] theorem State.turned_clusters : (s.turned n).clusters = s.clusters := rfl
@[simp] theorem State.turned_hdrs : (s.turned n).hdrs = s.hdrs := rfl
@[simp] theorem State.turned_shadow : (s.turned n).shadow = s.shadow := rfl
@[simp] theorem State.turned_latches : (s.turned n).latches = s.latches := rfl
@[simp] theorem State.turned_conns : (s.turned n).conns = s.conns := rfl
@[simp] theorem State.turned_nextConn : (s.turned n).nextConn = s.nextConn := rfl
@[simp] theorem State.turned_ctxs : (s.turned n).ctxs = s.ctxs := rfl
@[simp] theorem State.turned_cmds : (s.turned n).cmds = s.cmds := rfl
@[simp] theorem State.turned_nextCmd : (s.turned n).nextCmd = s.nextCmd := rfl
@[simp] theorem State.turned_models : (s.turned n).models = s.models := rfl
@[simp] theorem State.turned_graphs : (s.turned n).graphs = s.graphs := rfl
@[simp] theorem State.turned_holds : (s.turned n).holds = s.holds := rfl
@[simp] theorem State.turned_fre : (s.turned n).fre = s.fre := rfl
@[simp] theorem State.turned_tlc : (s.turned n).tlc = s.tlc := rfl
@[simp] theorem State.turned_vcc : (s.turned n).vcc = s.vcc := rfl
@[simp] theorem State.turned_pwr : (s.turned n).pwr = s.pwr := rfl
@[simp] theorem State.turned_wear : (s.turned n).wear = s.wear := rfl
@[simp] theorem State.turned_mgc : (s.turned n).mgc = s.mgc := rfl
@[simp] theorem State.turned_attn : (s.turned n).attn = s.attn := rfl
@[simp] theorem State.turned_logs : (s.turned n).logs = s.logs := rfl
@[simp] theorem State.turned_jmpAddr : (s.turned n).jmpAddr = s.jmpAddr := rfl
@[simp] theorem State.turned_jmpJumps : (s.turned n).jmpJumps = s.jmpJumps := rfl
@[simp] theorem State.turned_retryPending : (s.turned n).retryPending = s.retryPending := rfl
@[simp] theorem State.turned_collNext : (s.turned n).collNext = s.collNext := rfl
end

/-! `State.addMargin` -/
section
variable (s : State) (k i v : Nat)
@[simp] theorem State.addMargin_pending : (s.addMargin k i v).pending = s.pending := rfl
@[simp] theorem State.addMargin_freeCtr : (s.addMargin k i v).freeCtr = s.freeCtr := rfl
@[simp] theorem State.addMargin_egress : (s.addMargin k i v).egress = s.egress := rfl
@[simp] theorem State.addMargin_dev : (s.addMargin k i v).dev = s.dev := rfl
@[simp] theorem State.addMargin_ms : (s.addMargin k i v).ms = s.ms := rfl
@[simp] theorem State.addMargin_hub : (s.addMargin k i v).hub = s.hub := rfl
@[simp] theorem State.addMargin_svc : (s.addMargin k i v).svc = s.svc := rfl
@[simp] theorem State.addMargin_comp : (s.addMargin k i v).comp = s.comp := rfl
@[simp] theorem State.addMargin_stk : (s.addMargin k i v).stk = s.stk := rfl
@[simp] theorem State.addMargin_capMem : (s.addMargin k i v).capMem = s.capMem := rfl
@[simp] theorem State.addMargin_aonEpoch : (s.addMargin k i v).aonEpoch = s.aonEpoch := rfl
@[simp] theorem State.addMargin_sites : (s.addMargin k i v).sites = s.sites := rfl
@[simp] theorem State.addMargin_parts : (s.addMargin k i v).parts = s.parts := rfl
@[simp] theorem State.addMargin_clusters : (s.addMargin k i v).clusters = s.clusters := rfl
@[simp] theorem State.addMargin_hdrs : (s.addMargin k i v).hdrs = s.hdrs := rfl
@[simp] theorem State.addMargin_shadow : (s.addMargin k i v).shadow = s.shadow := rfl
@[simp] theorem State.addMargin_latches : (s.addMargin k i v).latches = s.latches := rfl
@[simp] theorem State.addMargin_conns : (s.addMargin k i v).conns = s.conns := rfl
@[simp] theorem State.addMargin_nextConn : (s.addMargin k i v).nextConn = s.nextConn := rfl
@[simp] theorem State.addMargin_ctxs : (s.addMargin k i v).ctxs = s.ctxs := rfl
@[simp] theorem State.addMargin_cmds : (s.addMargin k i v).cmds = s.cmds := rfl
@[simp] theorem State.addMargin_nextCmd : (s.addMargin k i v).nextCmd = s.nextCmd := rfl
@[simp] theorem State.addMargin_models : (s.addMargin k i v).models = s.models := rfl
@[simp] theorem State.addMargin_graphs : (s.addMargin k i v).graphs = s.graphs := rfl
@[simp] theorem State.addMargin_holds : (s.addMargin k i v).holds = s.holds := rfl
@[simp] theorem State.addMargin_fre : (s.addMargin k i v).fre = s.fre := rfl
@[simp] theorem State.addMargin_tlc : (s.addMargin k i v).tlc = s.tlc := rfl
@[simp] theorem State.addMargin_vcc : (s.addMargin k i v).vcc = s.vcc := rfl
@[simp] theorem State.addMargin_pwr : (s.addMargin k i v).pwr = s.pwr := rfl
@[simp] theorem State.addMargin_mgc : (s.addMargin k i v).mgc = s.mgc := rfl
@[simp] theorem State.addMargin_attn : (s.addMargin k i v).attn = s.attn := rfl
@[simp] theorem State.addMargin_logs : (s.addMargin k i v).logs = s.logs := rfl
@[simp] theorem State.addMargin_jmpAddr : (s.addMargin k i v).jmpAddr = s.jmpAddr := rfl
@[simp] theorem State.addMargin_jmpJumps : (s.addMargin k i v).jmpJumps = s.jmpJumps := rfl
@[simp] theorem State.addMargin_retryPending : (s.addMargin k i v).retryPending = s.retryPending := rfl
@[simp] theorem State.addMargin_cmdCache : (s.addMargin k i v).cmdCache = s.cmdCache := rfl
@[simp] theorem State.addMargin_turns : (s.addMargin k i v).turns = s.turns := rfl
@[simp] theorem State.addMargin_collNext : (s.addMargin k i v).collNext = s.collNext := rfl
end

/-! `State.dropStale` -/
section
variable (s : State) 
@[simp] theorem State.dropStale_pending : (s.dropStale).pending = s.pending := rfl
@[simp] theorem State.dropStale_freeCtr : (s.dropStale).freeCtr = s.freeCtr := rfl
@[simp] theorem State.dropStale_egress : (s.dropStale).egress = s.egress := rfl
@[simp] theorem State.dropStale_dev : (s.dropStale).dev = s.dev := rfl
@[simp] theorem State.dropStale_ms : (s.dropStale).ms = s.ms := rfl
@[simp] theorem State.dropStale_hub : (s.dropStale).hub = s.hub := rfl
@[simp] theorem State.dropStale_svc : (s.dropStale).svc = s.svc := rfl
@[simp] theorem State.dropStale_comp : (s.dropStale).comp = s.comp := rfl
@[simp] theorem State.dropStale_stk : (s.dropStale).stk = s.stk := rfl
@[simp] theorem State.dropStale_capMem : (s.dropStale).capMem = s.capMem := rfl
@[simp] theorem State.dropStale_aonEpoch : (s.dropStale).aonEpoch = s.aonEpoch := rfl
@[simp] theorem State.dropStale_sites : (s.dropStale).sites = s.sites := rfl
@[simp] theorem State.dropStale_parts : (s.dropStale).parts = s.parts := rfl
@[simp] theorem State.dropStale_clusters : (s.dropStale).clusters = s.clusters := rfl
@[simp] theorem State.dropStale_hdrs : (s.dropStale).hdrs = s.hdrs := rfl
@[simp] theorem State.dropStale_shadow : (s.dropStale).shadow = s.shadow := rfl
@[simp] theorem State.dropStale_latches : (s.dropStale).latches = s.latches := rfl
@[simp] theorem State.dropStale_conns : (s.dropStale).conns = s.conns := rfl
@[simp] theorem State.dropStale_nextConn : (s.dropStale).nextConn = s.nextConn := rfl
@[simp] theorem State.dropStale_ctxs : (s.dropStale).ctxs = s.ctxs := rfl
@[simp] theorem State.dropStale_cmds : (s.dropStale).cmds = s.cmds := rfl
@[simp] theorem State.dropStale_nextCmd : (s.dropStale).nextCmd = s.nextCmd := rfl
@[simp] theorem State.dropStale_models : (s.dropStale).models = s.models := rfl
@[simp] theorem State.dropStale_graphs : (s.dropStale).graphs = s.graphs := rfl
@[simp] theorem State.dropStale_holds : (s.dropStale).holds = s.holds := rfl
@[simp] theorem State.dropStale_fre : (s.dropStale).fre = s.fre := rfl
@[simp] theorem State.dropStale_tlc : (s.dropStale).tlc = s.tlc := rfl
@[simp] theorem State.dropStale_vcc : (s.dropStale).vcc = s.vcc := rfl
@[simp] theorem State.dropStale_wear : (s.dropStale).wear = s.wear := rfl
@[simp] theorem State.dropStale_mgc : (s.dropStale).mgc = s.mgc := rfl
@[simp] theorem State.dropStale_attn : (s.dropStale).attn = s.attn := rfl
@[simp] theorem State.dropStale_logs : (s.dropStale).logs = s.logs := rfl
@[simp] theorem State.dropStale_jmpAddr : (s.dropStale).jmpAddr = s.jmpAddr := rfl
@[simp] theorem State.dropStale_jmpJumps : (s.dropStale).jmpJumps = s.jmpJumps := rfl
@[simp] theorem State.dropStale_retryPending : (s.dropStale).retryPending = s.retryPending := rfl
@[simp] theorem State.dropStale_cmdCache : (s.dropStale).cmdCache = s.cmdCache := rfl
@[simp] theorem State.dropStale_turns : (s.dropStale).turns = s.turns := rfl
@[simp] theorem State.dropStale_collNext : (s.dropStale).collNext = s.collNext := rfl
end

/-! `State.accessing` -/
section
variable (s : State) (c : Cmd)
@[simp] theorem State.accessing_pending : (s.accessing c).pending = s.pending := rfl
@[simp] theorem State.accessing_egress : (s.accessing c).egress = s.egress := rfl
@[simp] theorem State.accessing_dev : (s.accessing c).dev = s.dev := rfl
@[simp] theorem State.accessing_hub : (s.accessing c).hub = s.hub := rfl
@[simp] theorem State.accessing_svc : (s.accessing c).svc = s.svc := rfl
@[simp] theorem State.accessing_comp : (s.accessing c).comp = s.comp := rfl
@[simp] theorem State.accessing_stk : (s.accessing c).stk = s.stk := rfl
@[simp] theorem State.accessing_capMem : (s.accessing c).capMem = s.capMem := rfl
@[simp] theorem State.accessing_aonEpoch : (s.accessing c).aonEpoch = s.aonEpoch := rfl
@[simp] theorem State.accessing_sites : (s.accessing c).sites = s.sites := rfl
@[simp] theorem State.accessing_parts : (s.accessing c).parts = s.parts := rfl
@[simp] theorem State.accessing_clusters : (s.accessing c).clusters = s.clusters := rfl
@[simp] theorem State.accessing_hdrs : (s.accessing c).hdrs = s.hdrs := rfl
@[simp] theorem State.accessing_shadow : (s.accessing c).shadow = s.shadow := rfl
@[simp] theorem State.accessing_latches : (s.accessing c).latches = s.latches := rfl
@[simp] theorem State.accessing_conns : (s.accessing c).conns = s.conns := rfl
@[simp] theorem State.accessing_nextConn : (s.accessing c).nextConn = s.nextConn := rfl
@[simp] theorem State.accessing_ctxs : (s.accessing c).ctxs = s.ctxs := rfl
@[simp] theorem State.accessing_cmds : (s.accessing c).cmds = s.cmds := rfl
@[simp] theorem State.accessing_nextCmd : (s.accessing c).nextCmd = s.nextCmd := rfl
@[simp] theorem State.accessing_models : (s.accessing c).models = s.models := rfl
@[simp] theorem State.accessing_graphs : (s.accessing c).graphs = s.graphs := rfl
@[simp] theorem State.accessing_holds : (s.accessing c).holds = s.holds := rfl
@[simp] theorem State.accessing_fre : (s.accessing c).fre = s.fre := rfl
@[simp] theorem State.accessing_tlc : (s.accessing c).tlc = s.tlc := rfl
@[simp] theorem State.accessing_vcc : (s.accessing c).vcc = s.vcc := rfl
@[simp] theorem State.accessing_pwr : (s.accessing c).pwr = s.pwr := rfl
@[simp] theorem State.accessing_wear : (s.accessing c).wear = s.wear := rfl
@[simp] theorem State.accessing_mgc : (s.accessing c).mgc = s.mgc := rfl
@[simp] theorem State.accessing_attn : (s.accessing c).attn = s.attn := rfl
@[simp] theorem State.accessing_logs : (s.accessing c).logs = s.logs := rfl
@[simp] theorem State.accessing_jmpAddr : (s.accessing c).jmpAddr = s.jmpAddr := rfl
@[simp] theorem State.accessing_jmpJumps : (s.accessing c).jmpJumps = s.jmpJumps := rfl
@[simp] theorem State.accessing_retryPending : (s.accessing c).retryPending = s.retryPending := rfl
@[simp] theorem State.accessing_cmdCache : (s.accessing c).cmdCache = s.cmdCache := rfl
@[simp] theorem State.accessing_turns : (s.accessing c).turns = s.turns := rfl
@[simp] theorem State.accessing_collNext : (s.accessing c).collNext = s.collNext := rfl
end

/-! `State.setLink` -/
section
variable (s : State) (n : Nat) (f : Link → Link)
@[simp] theorem State.setLink_pending : (s.setLink n f).pending = s.pending := rfl
@[simp] theorem State.setLink_freeCtr : (s.setLink n f).freeCtr = s.freeCtr := rfl
@[simp] theorem State.setLink_egress : (s.setLink n f).egress = s.egress := rfl
@[simp] theorem State.setLink_dev : (s.setLink n f).dev = s.dev := rfl
@[simp] theorem State.setLink_ms : (s.setLink n f).ms = s.ms := rfl
@[simp] theorem State.setLink_hub : (s.setLink n f).hub = s.hub := rfl
@[simp] theorem State.setLink_svc : (s.setLink n f).svc = s.svc := rfl
@[simp] theorem State.setLink_comp : (s.setLink n f).comp = s.comp := rfl
@[simp] theorem State.setLink_stk : (s.setLink n f).stk = s.stk := rfl
@[simp] theorem State.setLink_capMem : (s.setLink n f).capMem = s.capMem := rfl
@[simp] theorem State.setLink_aonEpoch : (s.setLink n f).aonEpoch = s.aonEpoch := rfl
@[simp] theorem State.setLink_sites : (s.setLink n f).sites = s.sites := rfl
@[simp] theorem State.setLink_parts : (s.setLink n f).parts = s.parts := rfl
@[simp] theorem State.setLink_clusters : (s.setLink n f).clusters = s.clusters := rfl
@[simp] theorem State.setLink_hdrs : (s.setLink n f).hdrs = s.hdrs := rfl
@[simp] theorem State.setLink_shadow : (s.setLink n f).shadow = s.shadow := rfl
@[simp] theorem State.setLink_latches : (s.setLink n f).latches = s.latches := rfl
@[simp] theorem State.setLink_conns : (s.setLink n f).conns = s.conns := rfl
@[simp] theorem State.setLink_nextConn : (s.setLink n f).nextConn = s.nextConn := rfl
@[simp] theorem State.setLink_ctxs : (s.setLink n f).ctxs = s.ctxs := rfl
@[simp] theorem State.setLink_cmds : (s.setLink n f).cmds = s.cmds := rfl
@[simp] theorem State.setLink_nextCmd : (s.setLink n f).nextCmd = s.nextCmd := rfl
@[simp] theorem State.setLink_models : (s.setLink n f).models = s.models := rfl
@[simp] theorem State.setLink_graphs : (s.setLink n f).graphs = s.graphs := rfl
@[simp] theorem State.setLink_holds : (s.setLink n f).holds = s.holds := rfl
@[simp] theorem State.setLink_tlc : (s.setLink n f).tlc = s.tlc := rfl
@[simp] theorem State.setLink_vcc : (s.setLink n f).vcc = s.vcc := rfl
@[simp] theorem State.setLink_pwr : (s.setLink n f).pwr = s.pwr := rfl
@[simp] theorem State.setLink_wear : (s.setLink n f).wear = s.wear := rfl
@[simp] theorem State.setLink_mgc : (s.setLink n f).mgc = s.mgc := rfl
@[simp] theorem State.setLink_attn : (s.setLink n f).attn = s.attn := rfl
@[simp] theorem State.setLink_logs : (s.setLink n f).logs = s.logs := rfl
@[simp] theorem State.setLink_jmpAddr : (s.setLink n f).jmpAddr = s.jmpAddr := rfl
@[simp] theorem State.setLink_jmpJumps : (s.setLink n f).jmpJumps = s.jmpJumps := rfl
@[simp] theorem State.setLink_retryPending : (s.setLink n f).retryPending = s.retryPending := rfl
@[simp] theorem State.setLink_cmdCache : (s.setLink n f).cmdCache = s.cmdCache := rfl
@[simp] theorem State.setLink_turns : (s.setLink n f).turns = s.turns := rfl
@[simp] theorem State.setLink_collNext : (s.setLink n f).collNext = s.collNext := rfl
end

@[simp] theorem State.emit_egress (s : State) (e : Egress) : (s.emit e).egress = s.egress ++ [e] := rfl
@[simp] theorem State.emits_egress (s : State) (es : List Egress) : (s.emits es).egress = s.egress ++ es := rfl
/-! The progress of a command's accesses changes the memory system in its view alone. -/
section
variable (s : State) (c : Cmd)
@[simp] theorem State.accessing_mem : (s.accessing c).ms.mem = s.ms.mem := rfl
@[simp] theorem State.accessing_ptes : (s.accessing c).ms.ptes = s.ms.ptes := rfl
@[simp] theorem State.accessing_badLines : (s.accessing c).ms.badLines = s.ms.badLines := rfl
@[simp] theorem State.accessing_held : (s.accessing c).ms.held = s.ms.held := rfl
end

@[simp] theorem State.takeFree_snd (s : State) : s.takeFree.2 = { s with freeCtr := s.freeCtr + 1 } := rfl

end Sys2Proof.Machine
end

