-- ==== Sys2Proof/Tests/Slice0.lean ====
section
/-! SUPPORT. Own tests: ill-formed commands are refused, small worked results of the manual, and for every statement
with hypotheses a concrete state and operands that meet them, clause by clause. -/

namespace Sys2Proof.Tests

open Sys2Proof Sys2Proof.Machine

set_option Elab.async false

/-! Terms to build with. -/

/-- Bytes with little-endian fields (offset, bytes, value) put over zeros. -/
def fields (len : Nat) (fs : List (Nat × Nat × Nat)) : List Byte :=
  fs.foldl (fun u f => u.take f.1 ++ toLE f.2.1 f.2.2 ++ u.drop (f.1 + f.2.1)) (List.replicate len 0)

def unit (fs : List (Nat × Nat × Nat)) : Unit64 := fields 64 fs

def onIsl : Isl := ⟨.on, 1⟩

/-- A serving block: every island ON, site 0 and the moon of cluster 0 ON. -/
def live : State :=
  { State.reset with
    dev := { Dev.reset with porstLow := false, ready := true, clkLock := 0x3FFF, timeNs := 5000000 }
    hub := onIsl, svc := List.replicate 4 onIsl, comp := List.replicate 4 onIsl, stk := List.replicate 4 onIsl, capMem := onIsl,
    tlc := { Tlc.reset with ownAddrs := [9, 10] }
    sites := [(0, { Site.reset 0 with isl := onIsl }), (15, { Site.reset 15 with isl := onIsl })] }

/-- A connection with a ring of 64 slots and a completion ring of 4 records. -/
def conn1 : Conn :=
  { id := 1, port := 0, addr := 9, joined := 0, sqVa := 0, dbVa := 0, sqRkey := 0, sqSlots := 64, dataQps := 1, cqRecords := 4, cqVa := 0x1000, cqRkey := 7, ring := [], sqTail := 0, head := 0,
    cqHead := 0, nextSeq := 1, expected := 0, ignoredTail := 0, ignoredHead := 0, attached := true, mirroredPeer := false,
    outq := [], held := [], sends := [], rateLimited := [] }

/-- A context as a descriptor opens it. -/
def ctxOf (d : Unit64) : Ctx := newCtx live 0 conn1 [d]

/-- A context that runs graph 1 from its unit 0. -/
def ctx0 : Ctx := { ctxOf (unit [(0, 1, 1), (8, 2, 1)]) with state := .running, issuing := true, graph := 1, ver := 1, pcGraph := 1, pcVer := 1 }

def version1 (us : List Unit64) : Version := ⟨1, [us], [1], [], 1, 0, 0⟩

def withGraph (us : List Unit64) (s : State) : State := { s with graphs := [⟨1, 1, false, 1, [version1 us]⟩] }

/-- Context 0 runs a graph of the given units. -/
def running (us : List Unit64) (x : Ctx := ctx0) : State := withGraph us { live with ctxs := [x] }

/-- An issued command of context 0. -/
def cmdOf (us : List Unit64) : Cmd := { Cmd.plain us (List.replicate 64 0) with id := 1, ctx := 0, graph := 1, mask := [0] }

def inflight (c : Cmd) : State := { live with cmds := [c], nextCmd := 2, ctxs := [ctx0] }

/-- The pointers of levels 0 and 1 on the way to the lowest 1 GiB, and an entry of level 2 for page 1 below them. -/
def ptrs : List Pte := [⟨0, 0, 0x2000001⟩, ⟨1, 0, 0x2001001⟩]
def paged (l : List Pte) : List Pte := l ++ ptrs

/-- A page of 2 MiB at 0x200000, mapped writable to 0x400000, with two bytes listed. -/
def mapped (s : State) : State :=
  { s with ms := { MemSys.reset with mem := [(0x400000, 0x11), (0x400001, 0x22)],
                                     ptes := paged [⟨2, 1, mkPte true false false 0 0 0x400000 1⟩] } }

/-- Whether every write goes to mapped, writable memory. -/
def writable (s : State) (ws : List (Nat × Byte)) : Bool :=
  ws.all (fun w => match writeTarget s w.1 with
    | .pa _ => true
    | _ => false) && s.ms.badLines.isEmpty && Memory.wf s.ms.mem

theorem canWrite {s : State} {ws : List (Nat × Byte)} (h : writable s ws = true) : CanWrite s ws := by
  simp only [writable, Bool.and_eq_true, List.all_eq_true, List.isEmpty_iff] at h
  refine ⟨fun w hw => ?_, h.1.2, h.2⟩
  have k := h.1.1 w hw
  split at k
  · exact ⟨_, by assumption⟩
  · cases k

/-- An outcome whose writes all go to mapped, writable memory. -/
def fine {α : Type} (s : State) (f : α → OpOut) (r : Except Err α) : Bool :=
  match r with
  | .ok o => writable s (f o).writes
  | .error _ => false

theorem fine_ok {α : Type} {s : State} {f : α → OpOut} {r : Except Err α} (h : fine s f r = true) : ∃ o, r = .ok o ∧ CanWrite s (f o).writes := by
  cases r with
  | error e => cases h
  | ok o => exact ⟨o, rfl, canWrite h⟩

/-! Statements 1 to 11. -/

theorem wit_StepRunsTheFrontCommand : ({ live with pending := [.heartbeat] } : State).pending = .heartbeat :: [] := rfl

theorem wit_IdleStepAdvancesDeviceTime : (live.pending = [] ∧ live.dev.porstLow = false) ∧
    (State.reset.pending = [] ∧ State.reset.dev.porstLow = true) := by decide +kernel

theorem wit_MemoryStaysCanonical : (mapped live).MemOk ∧ ∃ t, step (mapped live) = .next t := ⟨by unfold State.MemOk; decide +kernel, _, rfl⟩

theorem wit_PermanentMarksStay : ∃ t, step { live with pending := [.heartbeat] } = .next t := ⟨_, rfl⟩

/-- A command of one unit with the given opcode. -/
def op (code : Nat) : Cmd := cmdOf [unit [(0, 1, code)]]

theorem wit_OperatorCommandsRunOnce :
    (∀ r ∈ operatorRows, opReady (inflight (op r.1)) 1 r.1 = some (op r.1)) ∧
    ((inflight { op 1 with result := some .ok }).cmd? 1).bind Cmd.result = some .ok ∧
    (opReady (inflight (op 0x13)) 1 0x13 = some (op 0x13) ∧ (parseFk (op 0x13).u0).release = false) ∧
    (opReady (inflight (cmdOf [unit [(0, 1, 0x13), (8, 1, 1)]])) 1 0x13 = some (cmdOf [unit [(0, 1, 0x13), (8, 1, 1)]]) ∧
      (parseFk (cmdOf [unit [(0, 1, 0x13), (8, 1, 1)]]).u0).release = true) := by decide +kernel

/-- A collective: operation, group 1, axes set, extent along X less 1. -/
def collOf (o axes ex : Nat) : Cmd := cmdOf [unit [(0, 1, 0x10), (8, 1, o), (12, 4, 1), (16, 1, axes), (20, 2, ex * 32 + 1024)]]

/-- Where a collective stands. -/
def collAt (p : CollPhase) (rank n : Nat) : Coll := ⟨1, 0, rank, n, 5, none, p, 0, false, [], []⟩

theorem wit_CollectivesStartTheirHandshake :
    (∀ r ∈ collectiveRows, opReady (inflight (collOf r.1 1 1)) 1 0x10 = some (collOf r.1 1 1) ∧
      (parseCol (collOf r.1 1 1).u0).op = r.1 ∧ (collOf r.1 1 1).coll = none ∧ keyBusy (inflight (collOf r.1 1 1)) (collOf r.1 1 1) = false ∧
      colP (parseCol (collOf r.1 1 1).u0) = 2) ∧
    (opReady (inflight (collOf 5 0 0)) 1 0x10 = some (collOf 5 0 0) ∧ keyBusy (inflight (collOf 5 0 0)) (collOf 5 0 0) = false ∧
      colP (parseCol (collOf 5 0 0).u0) = 1 ∧ slotTurn (inflight (collOf 5 0 0)) (collOf 5 0 0) = true) ∧
    (∀ s, s = { inflight (collOf 5 1 1) with cmds := [{ collOf 5 1 1 with id := 2, coll := some (collAt .handshake 0 2) }, collOf 5 1 1] } →
      opReady s 1 0x10 = some (collOf 5 1 1) ∧ keyBusy s (collOf 5 1 1) = true) := by
  refine ⟨by decide +kernel, by decide +kernel, ?_⟩
  rintro s rfl
  decide +kernel

theorem wit_UnitsAreDealtExactlyOnce : ([0, 1] : List Nat) ≠ [] ∧ ([0, 1] : List Nat).Nodup ∧ 4 < [3, 2].sum := by decide

theorem wit_JumpEqualsSteps : (2 ^ 128 - 1 : Nat) < 2 ^ 128 ∧ (1 : Nat) < 2 ^ 128 := by decide

/-- A COPY of two UINT8 values from 0x200000 to 0x200010. -/
def copyCmd : Cmd := cmdOf
  [unit [(0, 1, 0x0E), (1, 1, 2), (2, 2, 1)],
   unit [(0, 6, 0x200000), (6, 1, 8), (7, 1, 1), (8, 4, 2), (32, 4, 1)],
   unit [(0, 6, 0x200010), (6, 1, 8), (7, 1, 1), (8, 4, 2), (32, 4, 1)]]

def copying : State := mapped (inflight copyCmd)

/-- A model whose one tensor, 64 bytes at 0x200000, is spilled. -/
def spilledModel : Model := ⟨1, [⟨0x200000, 0x200000, 0⟩], [⟨0x200000, 64, 0, 0, true, 0⟩], 64, 0, false⟩

theorem wit_SpilledReadsPredictTheirStaging :
    (basePlan { copying with models := [spilledModel] } copyCmd []).isSome = true ∧
    spilledBytesRead { copying with models := [spilledModel] } copyCmd = 64 := by decide +kernel

/-! Statements 12 to 16: control commands. -/

/-- The next command of context 0 is the one unit `u`. -/
theorem nextIs {x : Ctx} {u : Unit64} {op : Nat} (h : nextOf (running [u] x) 0 = some (x, version1 [u], [u]) ∧ hdrOpcode u = op) :
    NextIs (running [u] x) 0 op x (version1 [u]) u := ⟨[u], h.1, rfl, h.2⟩

def ctrl (code : Nat) : Unit64 := unit [(0, 1, code)]

/-- `ctx0` after event 3 was issued but not completed. -/
def waiting : Ctx := { ctx0 with events := [⟨3, 1, 0⟩] }

theorem wit_NopsWaitsAndFencesAdvance :
    NextIs (running [ctrl 0x80]) 0 0x80 ctx0 (version1 [ctrl 0x80]) (ctrl 0x80) ∧
    (NextIs (running [ctrl 0x85]) 0 0x85 ctx0 (version1 [ctrl 0x85]) (ctrl 0x85) ∧
      ∀ k < 4, ctx0.satisfied (leAt (ctrl 0x85) (8 + 2 * k) 2) = true) ∧
    (∀ u, u = unit [(0, 1, 0x85), (14, 2, 3)] → NextIs (running [u] waiting) 0 0x85 waiting (version1 [u]) u ∧
      ∃ k < 4, waiting.satisfied (leAt u (8 + 2 * k) 2) = false) ∧
    (NextIs (running [ctrl 0x8A]) 0 0x8A ctx0 (version1 [ctrl 0x8A]) (ctrl 0x8A) ∧ inFlight (running [ctrl 0x8A]) 0 = []) ∧
    (NextIs (running [ctrl 0x86]) 0 0x86 ctx0 (version1 [ctrl 0x86]) (ctrl 0x86) ∧ inFlight (running [ctrl 0x86]) 0 = []) ∧
    (∀ s, s = { running [ctrl 0x8A] with cmds := [op 1] } → NextIs s 0 0x8A ctx0 (version1 [ctrl 0x8A]) (ctrl 0x8A) ∧ inFlight s 0 ≠ []) ∧
    (∀ s, s = { running [ctrl 0x86] with cmds := [op 1] } → NextIs s 0 0x86 ctx0 (version1 [ctrl 0x86]) (ctrl 0x86) ∧ inFlight s 0 ≠ []) ∧
    NextIs (running [ctrl 0x88]) 0 0x88 ctx0 (version1 [ctrl 0x88]) (ctrl 0x88) := by
  refine ⟨nextIs (by decide +kernel), ⟨nextIs (by decide +kernel), by decide +kernel⟩, ?_,
    ⟨nextIs (by decide +kernel), by decide +kernel⟩, ⟨nextIs (by decide +kernel), by decide +kernel⟩, ?_, ?_, nextIs (by decide +kernel)⟩
  · rintro u rfl; exact ⟨nextIs (by decide +kernel), by decide +kernel⟩
  · rintro s rfl; exact ⟨⟨[ctrl 0x8A], by decide +kernel, rfl, by decide +kernel⟩, by decide +kernel⟩
  · rintro s rfl; exact ⟨⟨[ctrl 0x86], by decide +kernel, rfl, by decide +kernel⟩, by decide +kernel⟩

/-- `ctx0` inside an orbit of `n` passes at pass `c`. -/
def inOrbit (n c : Nat) : Ctx := { ctx0 with orbits := [⟨n, c, 0⟩] }

/-- ORBIT_BEGIN of `n` passes with a NOP and an ORBIT_END after it. -/
def orbitBegin (n : Nat) : Unit64 := unit [(0, 1, 0x81), (8, 4, n)]
def orbitUnits (n : Nat) : List Unit64 := [orbitBegin n, ctrl 0x80, ctrl 0x82]

/-- ORBIT_END that leaves when predicate 0 is set. -/
def endIf : Unit64 := unit [(0, 1, 0x82), (8, 1, 0x08)]

theorem wit_OrbitsLoop :
    (∀ u, u = unit [(0, 1, 0x81), (8, 4, 1048577)] → NextIs (running [u]) 0 0x81 ctx0 (version1 [u]) u ∧ fld u 8 21 1 = 0 ∧ 1048576 < fld u 8 0 21) ∧
    (∀ x, x = { ctx0 with orbits := List.replicate 4 ⟨2, 0, 0⟩ } → NextIs (running [ctrl 0x81] x) 0 0x81 x (version1 [ctrl 0x81]) (ctrl 0x81) ∧
      4 ≤ x.orbits.length) ∧
    (∀ n, n = 0 ∨ n = 1 ∨ n = 1048576 → nextOf (running (orbitUnits n)) 0 = some (ctx0, version1 (orbitUnits n), [orbitBegin n]) ∧
      hdrOpcode (orbitBegin n) = 0x81 ∧ fld (orbitBegin n) 8 21 1 = 0 ∧ fld (orbitBegin n) 8 0 21 = n ∧ ctx0.orbits.length < 4 ∧ (version1 (orbitUnits n)).next 0 = some 1) ∧
    (NextIs (running [endIf] { inOrbit 3 1 with preds := List.replicate 8 true }) 0 0x82 { inOrbit 3 1 with preds := List.replicate 8 true }
      (version1 [endIf]) endIf ∧ ((fld endIf 8 3 1 == 1 && (true != (fld endIf 8 4 1 == 1))) = true) ∧ 1 + 1 < 3) ∧
    (NextIs (running [endIf] (inOrbit 2 1)) 0 0x82 (inOrbit 2 1) (version1 [endIf]) endIf ∧ 1 + 1 = 2) ∧
    (NextIs (running [ctrl 0x82] (inOrbit 3 0)) 0 0x82 (inOrbit 3 0) (version1 [ctrl 0x82]) (ctrl 0x82) ∧
      (fld (ctrl 0x82) 8 3 1 == 1) = false ∧ 0 + 1 ≠ 3) := by
  refine ⟨?_, ?_, ?_, ⟨nextIs (by decide +kernel), by decide +kernel⟩, ⟨nextIs (by decide +kernel), by decide +kernel⟩,
    ⟨nextIs (by decide +kernel), by decide +kernel⟩⟩
  · rintro u rfl; exact ⟨nextIs (by decide +kernel), by decide +kernel⟩
  · rintro x rfl; exact ⟨nextIs (by decide +kernel), by decide +kernel⟩
  · rintro n (rfl | rfl | rfl) <;> decide +kernel

/-- SET_PRED: predicate 0 := scalar register 1 < immediate, as signed numbers. -/
def predUnit : Unit64 := unit [(0, 1, 0x83), (8, 1, 0x10), (12, 1, 1), (13, 1, 0x80), (16, 8, 5)]

theorem wit_SetPredComparesAndCombines :
    (NextIs (running [predUnit]) 0 0x83 ctx0 (version1 [predUnit]) predUnit ∧
      ctx0.src (byteAt predUnit 12) (BitVec.ofNat 64 (leAt predUnit 16 8)) = some 0 ∧
      ctx0.src (byteAt predUnit 13) (BitVec.ofNat 64 (leAt predUnit 16 8)) = some 5) ∧
    (lowF32 0x7FC00000 = .nan ∧ (5 : Nat) < 6) ∧ (lowF32 0x3F800000 ≠ .nan ∧ lowF32 0x80000000 ≠ .nan) := by
  exact ⟨⟨nextIs (by decide +kernel), by decide +kernel⟩, by decide +kernel, by decide +kernel⟩

/-- SCALAR_OP ADD of register 0 and the immediate, and one whose source is a closed orbit level. -/
def addUnit : Unit64 := unit [(0, 1, 0x8B), (8, 1, 1), (11, 1, 0x80), (16, 8, 5)]
def badUnit : Unit64 := unit [(0, 1, 0x8B), (10, 1, 0x40)]
def badPred : Unit64 := unit [(0, 1, 0x83), (13, 1, 0x43)]

theorem wit_ScalarOpsWriteTheirRegister :
    (NextIs (running [addUnit]) 0 0x8B ctx0 (version1 [addUnit]) addUnit ∧ ctx0.src (byteAt addUnit 10) 5 = some 0 ∧
      ctx0.src (byteAt addUnit 11) 5 = some 5) ∧
    (NextIs (running [badUnit]) 0 0x8B ctx0 (version1 [badUnit]) badUnit ∧ ctx0.src (byteAt badUnit 10) 0 = none) ∧
    (NextIs (running [badPred]) 0 0x83 ctx0 (version1 [badPred]) badPred ∧ ctx0.src (byteAt badPred 13) 0 = none) ∧
    NextIs (running [ctrl 0x8C]) 0 0x8C ctx0 (version1 [ctrl 0x8C]) (ctrl 0x8C) :=
  ⟨⟨nextIs (by decide +kernel), by decide +kernel⟩, ⟨nextIs (by decide +kernel), by decide +kernel⟩,
    ⟨nextIs (by decide +kernel), by decide +kernel⟩, nextIs (by decide +kernel)⟩

/-- JUMP_IF under the conditions always, predicate set, predicate clear. -/
def jump (cond : Nat) : Unit64 := unit [(0, 1, 0x84), (8, 1, cond * 8), (12, 3, 1)]
def setCtx0 : Ctx := { ctx0 with preds := List.replicate 8 true }
def callUnit : Unit64 := unit [(0, 1, 0x87), (8, 2, 1)]

theorem wit_JumpsCallsAndPrefetch :
    (∀ c, c = 0 ∨ c = 2 → NextIs (running [jump c]) 0 0x84 ctx0 (version1 [jump c]) (jump c) ∧ fld (jump c) 8 3 2 = c ∧
      ctx0.pred (fld (jump c) 8 0 3) = false) ∧
    (∀ c, c = 1 ∨ c = 2 → NextIs (running [jump c] setCtx0) 0 0x84 setCtx0 (version1 [jump c]) (jump c) ∧ fld (jump c) 8 3 2 = c ∧
      setCtx0.pred (fld (jump c) 8 0 3) = true) ∧
    (NextIs (running [jump 1]) 0 0x84 ctx0 (version1 [jump 1]) (jump 1) ∧ fld (jump 1) 8 3 2 = 1) ∧
    (NextIs (running [callUnit] { ctx0 with pins := [(1, 1)] }) 0 0x87 { ctx0 with pins := [(1, 1)] } (version1 [callUnit]) callUnit ∧
      calleeVersion (running [callUnit] { ctx0 with pins := [(1, 1)] }) { ctx0 with pins := [(1, 1)] } (fld callUnit 8 0 12) = some 1) ∧
    (NextIs (running [ctrl 0x87]) 0 0x87 ctx0 (version1 [ctrl 0x87]) (ctrl 0x87) ∧
      calleeVersion (running [ctrl 0x87]) ctx0 (fld (ctrl 0x87) 8 0 12) = none) ∧
    NextIs (running [ctrl 0x89]) 0 0x89 ctx0 (version1 [ctrl 0x89]) (ctrl 0x89) := by
  refine ⟨?_, ?_, ⟨nextIs (by decide +kernel), by decide +kernel⟩, ⟨nextIs (by decide +kernel), by decide +kernel⟩,
    ⟨nextIs (by decide +kernel), by decide +kernel⟩, nextIs (by decide +kernel)⟩
  · rintro c (rfl | rfl) <;> exact ⟨nextIs (by decide +kernel), by decide +kernel⟩
  · rintro c (rfl | rfl) <;> exact ⟨nextIs (by decide +kernel), by decide +kernel⟩

/-! Statements 17 to 22: issue, tiles, completion, codec, waiting for the twin. -/

def copyUnits : List Unit64 := copyCmd.units

/-- A command whose part of an epoch is sent to cluster 0. -/
def sentAt (e : BitVec 16) : Cmd := { op 1 with parts := [⟨0, e, .sent⟩] }

theorem wit_IssueTakesCreditsAndQueues :
    nextOf live 0 = none ∧
    (nextOf (running copyUnits) 0 = some (ctx0, version1 copyUnits, copyUnits) ∧ hdrOpcode (copyUnits.getD 0 []) < 0x80 ∧
      canIssue (running copyUnits) ctx0 copyUnits = true ∧ canGo (running copyUnits) 0 = true) ∧
    (∀ s, s = withGraph copyUnits { live with ctxs := [ctx0, { ctx0 with num := 4 }] } →
      s.turns.length = 4 ∧ 0 % 4 = 4 % 4 ∧ canGo (s.turned 0) 4 = true) ∧
    (∀ s, s = { running copyUnits with clusters := [(0, { Cluster.reset with credits := 0 })] } →
      nextOf s 0 = some (ctx0, version1 copyUnits, copyUnits) ∧
      ∃ k ∈ partClusters s (maskClusters (hdrMask (copyUnits.getD 0 []))), (s.cluster k).credits = 0) ∧
    ((inflight (sentAt 1)).cmd? 1 = some (sentAt 1) ∧ (sentAt 1).phaseOf 0 = some .sent ∧
      (sentAt 1).staleAt (inflight (sentAt 1)) 0 = false ∧ ((inflight (sentAt 1)).svcIsl (0 / 4)).state = .on) ∧
    ((inflight (sentAt 0)).cmd? 1 = some (sentAt 0) ∧ (sentAt 0).phaseOf 0 = some .sent ∧
      (sentAt 0).staleAt (inflight (sentAt 0)) 0 = true) ∧
    (∀ s, s = { inflight (sentAt 1) with svc := List.replicate 4 ⟨.quiescing, 1⟩ } → s.cmd? 1 = some (sentAt 1) ∧
      (sentAt 1).phaseOf 0 = some .sent ∧ (sentAt 1).staleAt s 0 = false ∧ (s.svcIsl (0 / 4)).state ≠ .on) := by
  refine ⟨by decide +kernel, by decide +kernel, ?_, ?_, by decide +kernel, by decide +kernel, ?_⟩ <;> (rintro s rfl; decide +kernel)

/-- A command accepted by cluster 0 with one unit for core 0, or one redealt unit. -/
def dealt : Cmd :=
  { op 1 with parts := [⟨0, 1, .accepted⟩], runs := [⟨0, 0, 1⟩], work := [⟨0, 0, 0, 1, 0, 1, 16, 16, (0, 0), 0⟩],
              outs := [((0, 0, 0), [(0x200000, 5)])] }
def redealt : Cmd := { op 1 with parts := [⟨0, 1, .started⟩], redo := [(0, 4)] }
def queued (c : Cmd) : State := { inflight c with clusters := [(0, { Cluster.reset with queue := [1] })] }

/-- Site 0 with a tile of command 1. -/
def tiled (frozen : Bool) : State :=
  { mapped live with sites := [(0, { Site.reset 0 with isl := onIsl, tile := some (1, 0), freeze := frozen, arr := { Arr.reset with total := 16 } })],
                     cmds := [dealt] }

theorem wit_TilesRunOnTheirSite :
    (((queued dealt).site 0).lcore = some 0 ∧ siteFree (queued dealt) 0 = true ∧ nextUnit (queued dealt) 0 0 = some ⟨1, 0, false⟩ ∧ ((queued dealt).site 0).arr.banks.length = 2 ∧
      (queued dealt).cmd? 1 = some dealt ∧ (dealt.work.getD 0 noUnit).slots ≠ 0 ∧ dealt.phaseOf 0 = some .accepted) ∧
    (((queued redealt).site 0).lcore = some 0 ∧ siteFree (queued redealt) 0 = true ∧ nextUnit (queued redealt) 0 0 = some ⟨1, 4, true⟩ ∧
      lowestFree (queued redealt) 0 0 = true ∧ (queued redealt).cmd? 1 = some redealt ∧ redealt.phaseOf 0 = some .started) ∧
    (∀ b, ((tiled b).site 0).tile = some (1, 0) ∧ ((tiled b).site 0).fenced = false ∧ holdsWrite (tiled b) 0 = false ∧
      ((tiled b).site 0).freeze = b ∧ (∃ u, (tiled b).tileUnit 0 = some (dealt, u) ∧ (tiled b).siteWrites 0 = [(0x200000, 5)]) ∧
      ((tiled b).site 0).arr.issued < ((tiled b).site 0).arr.total ∧ asleep (tiled b) (((tiled b).siteWrites 0).map (fun w => (w.1, 1))) = false) ∧
    CanWrite (((tiled false).slotsEnter 0 16 3 4).accessing dealt) [(0x200000, 5)] ∧
    (∀ s, s = { tiled false with sites := [(0, { Site.reset 0 with isl := onIsl, tile := some (1, 0) })] } →
      (s.site 0).fenced = false ∧ holdsWrite s 0 = false ∧ (s.site 0).arr.total ≤ (s.site 0).arr.issued) ∧
    ((live.site 0).tile = none ∧
      (∀ s, s = { tiled false with sites := [(0, { (tiled false).site 0 with fenced := true })] } → (s.site 0).fenced = true) ∧
      (∀ s, s = { tiled false with ms := { (tiled false).ms with held := [⟨1, 0x200000, false, 0, 0, [(0x200000, 5)]⟩] } } → holdsWrite s 0 = true) ∧
      (0 : Nat) ≠ ((tiled false).site 0).arr.total ∧
      (∀ s, s = { tiled false with stk := List.replicate 4 ⟨.retention, 1⟩ } → asleep s ((s.siteWrites 0).map (fun w => (w.1, 1))) = true)) := by
  refine ⟨by decide +kernel, by decide +kernel, ?_, canWrite (by decide +kernel), ?_, by decide +kernel, ?_, ?_, by decide +kernel, ?_⟩
  · rintro (_ | _) <;> exact ⟨by decide +kernel, by decide +kernel, by decide +kernel, by decide +kernel, ⟨_, rfl, by decide +kernel⟩, by decide +kernel, by decide +kernel⟩
  · rintro s rfl; decide +kernel
  · rintro s rfl; decide +kernel
  · rintro s rfl; decide +kernel
  · rintro s rfl; decide +kernel

/-- A command with its result whose part stands in a phase. -/
def done (p : PartPhase) : Cmd := { op 1 with parts := [⟨0, 1, p⟩], result := some .ok }

theorem wit_CompletionCollectsAndSignals :
    (∀ p, p = .accepted ∨ p = .started → (inflight (done p)).cmd? 1 = some (done p) ∧ (done p).phaseOf 0 = some p ∧ (done p).staleAt (inflight (done p)) 0 = false ∧
      (done p).result.isSome = true ∧ clusterDone (inflight (done p)) (done p) 0 = true ∧ (∀ h ∈ (inflight (done p)).ms.held, h.cmd ≠ 1) ∧
      ∀ j < 16, ((inflight (done p)).cluster j).collector = []) ∧
    (∀ c, c = { cmdOf [unit [(0, 1, 0x0A)]] with parts := [⟨0, 1, .collected⟩, ⟨1, 1, .accepted⟩] } → (inflight c).cmd? 1 = some c ∧
      c.phaseOf 1 = some .accepted ∧ c.staleAt (inflight c) 1 = false ∧ reportsWork c 1 = false) ∧
    ((inflight (done .collected)).cmd? 1 = some (done .collected) ∧ (done .collected).result = some .ok ∧
      (inflight (done .collected)).ctx? 0 = some ctx0 ∧ ((done .collected).parts.all (fun p => p.phase == .collected)) = true ∧
      (∀ h ∈ (inflight (done .collected)).ms.held, h.cmd ≠ 1) ∧ isBoundary (inflight (done .collected)) ctx0 (done .collected) = false ∧
      ctx0.ckptCmd = none ∧ (done .collected).coll = none) ∧
    (∀ x, x = { ctx0 with ckptPending := some ctx0.snapshot } → (running [] x).ctx? 0 = some x ∧ x.ckptPending = some ctx0.snapshot) := by
  refine ⟨?_, ?_, by decide +kernel, ?_⟩
  · rintro p (rfl | rfl) <;> decide +kernel
  · rintro c rfl; decide +kernel
  · rintro x rfl; decide +kernel

/-- A decode command, and an encode command with one empty layer of policy HOLD that waits for event `ev`, on engine `e`. -/
def onEngine (e : Nat) (sampled : Bool) : CodecRun := { CodecRun.fresh with engine := some e, sampled := sampled }
def decCmd (r : CodecRun) : Cmd :=
  { cmdOf [unit [(0, 1, 0x11), (1, 1, 1), (8, 1, 0x10), (16, 6, 0x200000), (24, 4, 1), (28, 4, 64), (40, 5, 4096), (48, 6, 0x200000), (56, 3, 31)],
           unit [(0, 6, 0x3F0000)]] with codec := some r }
def encCmd (ev : Nat) (r : CodecRun) : Cmd :=
  { cmdOf [unit [(0, 1, 0x12), (1, 1, 1), (8, 1, 0x08), (12, 2, 64), (14, 2, 64), (22, 2, 1), (24, 6, 0x3E0000), (32, 4, 256), (36, 3, 30),
             (48, 6, 0x200000), (56, 6, 0x3F0000)],
           unit [(0, 1, 8), (2, 2, ev)]] with codec := some r }

theorem wit_CodecFramesFinish :
    (opReady (inflight (decCmd (onEngine 0 false))) 1 0x11 = some (decCmd (onEngine 0 false)) ∧
      (decCmd (onEngine 0 false)).codec.bind CodecRun.engine = some 0) ∧
    (opReady (inflight (encCmd 0 (onEngine 4 true))) 1 0x12 = some (encCmd 0 (onEngine 4 true)) ∧
      (onEngine 4 true).engine.isSome = true ∧ (onEngine 4 true).sampled = true ∧ (onEngine 4 true).holding = []) := by decide +kernel

/-- The codec complex with the given queues and, on engine `e`, command 1. -/
def vccWith (dec enc : List Nat) (e : Nat) (c : Option Nat) : Vcc :=
  { Vcc.reset with decQueue := dec, encQueue := enc,
                   engines := updAt Vcc.reset.engines e (fun x => { x with busy := c.isSome, cmd := c }) }

theorem wit_CodecEnginesGuardsAndLayers :
    (∀ s, s = { inflight (decCmd CodecRun.fresh) with vcc := vccWith [1] [] 0 (some 9) } → s.vcc.engines.length = 6 ∧
      nextCodec s false = some (decCmd CodecRun.fresh) ∧ idleEngine s false = some 1) ∧
    (∀ s, s = { inflight (encCmd 3 CodecRun.fresh) with vcc := vccWith [] [1] 4 (some 9) } → s.vcc.engines.length = 6 ∧
      nextCodec s true = some (encCmd 3 CodecRun.fresh) ∧ idleEngine s true = some 5) ∧
    (∀ s, s = { inflight (decCmd (onEngine 3 false)) with vcc := vccWith [] [] 3 (some 1) } →
      (s.vcc.engines.getD 3 Engine.reset).cmd = some 1 ∧ s.cmd? 1 = some (decCmd (onEngine 3 false)) ∧
      (decCmd (onEngine 3 false)).codec = some (onEngine 3 false)) ∧
    (∀ c, c = encCmd 3 (onEngine 4 false) → (inflight c).cmd? 1 = some c ∧ c.opcode = 0x12 ∧ c.codec = some (onEngine 4 false) ∧
      c.result = none ∧ (onEngine 4 false).sampled = false ∧ (inflight c).ctx? c.ctx = some ctx0) ∧
    (∀ r c, r = { onEngine 4 true with late := [0], holding := [0], boundaryNs := 5000000 } → c = encCmd 3 r →
      (inflight c).cmd? 1 = some c ∧ c.opcode = 0x12 ∧ c.codec = some r ∧ (∃ l, (encLayers c)[0]? = some l) ∧ 0 ∈ r.holding) := by
  refine ⟨?_, ?_, ?_, ?_, ?_⟩
  · rintro s rfl; decide +kernel
  · rintro s rfl; decide +kernel
  · rintro s rfl; decide +kernel
  · rintro c rfl; decide +kernel
  · rintro r c rfl rfl; exact ⟨by decide +kernel, by decide +kernel, rfl, ⟨_, rfl⟩, by decide +kernel⟩

/-- A primary in active-active that mirrors. -/
def pairRec (role mode : Nat) : PairRec := ⟨role, mode, 1, 2, 0, 5⟩
def twinned (role mode tstate : Nat) : State :=
  { live with tlc := { Tlc.reset with pair := some (pairRec role mode), recFlash := some (pairRec role mode).bytes, tstate := tstate, linkUp := true,
                                      aliveIn := true, epoch := 3, protocol := some 1, ownAddrs := [9, 10], twinAddrs := [0, 1] } }

/-- A doorbell that writes one slot and moves SQ_TAIL. -/
def bell : Instr := .doorbell 1 [(0, unit [(0, 1, 5)])] (some 1) none

theorem wit_GatedRowsWaitForTheTwin :
    (∀ s p, s = { twinned 0 0 2 with conns := [conn1] } → p = afterAwaited s → isGatedRow bell = true ∧ mirroring s = true ∧
      mirrorDiff p (localAction bell p) ≠ [] ∧ isMessage bell = true) ∧
    (∀ s p, s = { twinned 0 0 2 with conns := [{ conn1 with sqTail := 1 }] } → p = afterAwaited s →
      isGatedRow (.itemConsume 1) = true ∧ mirroring s = true ∧ mirrorDiff p (localAction (.itemConsume 1) p) ≠ [] ∧
      s.tlc.awaiting.any (fun a => a.2.isRow (· == .itemConsume 1)) = false) := by
  refine ⟨?_, ?_⟩
  · rintro s p rfl rfl
    decide +kernel
  · rintro s p rfl rfl
    decide +kernel

/-! Statements 23 to 28: rings, launches, requests, connections. -/

def withConn (c : Conn) (s : State := live) : State := { s with conns := [c] }

theorem wit_DoorbellsMoveTheCounts :
    ((withConn conn1).conn? 1 = some conn1 ∧ conn1.attached = true ∧ serving (withConn conn1) = true ∧
      mirroring (withConn conn1) = false ∧ conn1.outq = []) ∧
    (conn1.sqTail ≤ 64 ∧ 64 ≤ conn1.head + conn1.sqSlots) ∧ conn1.head + conn1.sqSlots < 65 ∧
    (conn1.cqHead ≤ 0 ∧ 0 ≤ conn1.lastWritten) ∧ conn1.lastWritten < 1 ∧
    ({ conn1 with sqTail := 2, head := 2, cqHead := 1, nextSeq := 2 }.lastWritten = 1 ∧ 1 < 2 ∧ 0 < 1) ∧
    ([(0, unit [(0, 1, 5)])] : List (Nat × Unit64)).getLast? = some (0, unit [(0, 1, 5)]) ∧ (unit [(0, 1, 5)]).length = 64 := by
  decide +kernel

/-- An item header: type, request 9, words 8 to 15, and its one entry of kind `k` for slot `n`. -/
def item (typ w8 w12 k n va len : Nat) : Unit64 :=
  unit [(0, 1, typ), (4, 4, 9), (8, 4, w8), (12, 4, w12), (36, 2, n), (38, 1, k), (40, 4, 5), (44, 8, va), (52, 8, len)]
def bare (typ w8 : Nat) : Unit64 := item typ w8 0 0xFF 0 0 0

/-- The connection with one descriptor waiting. -/
def offering (d : Unit64) : Conn := { conn1 with ring := [(0, d)], sqTail := 1 }

/-- 65,536 contexts: none is free. -/
def full (s : State) : State := { s with ctxs := List.replicate 65536 ctx0 }
theorem full_length (s : State) : 65536 ≤ (full s).ctxs.length := le_of_eq List.length_replicate.symm

/-- What ITEM_CONSUME asks of the connection when no SEND waits. -/
def consuming (s : State) (c : Conn) : Bool :=
  decide (s.conn? 1 = some c) && c.attached && serving s && !mirroring s && s.tlc.promised.isNone && s.tlc.awaiting.isEmpty && c.sends.isEmpty && decide (c.head < c.sqTail) && c.outq.isEmpty && hasRoom s c

theorem wit_ItemsAreConsumedInOrder :
    (∀ c, c = { conn1 with sends := [[bare 8 0]] } → (withConn c).conn? 1 = some c ∧ c.attached = true ∧ serving (withConn c) = true ∧
      mirroring (withConn c) = false ∧ (withConn c).tlc.promised = none ∧ (withConn c).tlc.awaiting = [] ∧ c.sends = [bare 8 0] :: [] ∧ (withConn c).ctxs.length < 65536 ∧
      (full (withConn c)).conn? 1 = some c ∧ 65536 ≤ (full (withConn c)).ctxs.length) ∧
    (∀ c, c = offering (bare 5 3) → consuming (withConn c) c = true ∧ headerOk c (c.slot c.head) = true ∧
      c.head + itemLen (c.slot c.head) + 1 ≤ c.sqTail ∧ (withConn c).ctxs.length < 65536 ∧
      itemOk c ((List.range (itemLen (c.slot c.head) + 1)).map (fun k => c.slot (c.head + k))) = true ∧ itemType (c.slot c.head) ≠ 1) ∧
    (∀ c, c = offering (item 5 3 0 0xFF 0 0 0 |>.set 4 0xFF |>.set 5 0xFF |>.set 6 0xFF |>.set 7 0xFF) → consuming (withConn c) c = true ∧
      1 ≤ itemType (c.slot c.head) ∧ itemType (c.slot c.head) ≤ 8 ∧ itemSerial (c.slot c.head) = c.expected ∧ headerOk c (c.slot c.head) = false ∧
      c.head + itemLen (c.slot c.head) + 1 ≤ c.sqTail ∧ (withConn c).ctxs.length < 65536) ∧
    (∀ c, c = offering (unit [(0, 1, 2), (1, 1, 1), (4, 4, 9)]) → consuming (withConn c) c = true ∧ c.sqTail < c.head + itemLen (c.slot c.head) + 1 ∧
      headerOk c (c.slot c.head) = true) ∧
    (∀ c, c = offering (bare 5 3) → serving (full (withConn c)) = true ∧ (full (withConn c)).conn? 1 = some c ∧ headerOk c (c.slot c.head) = true ∧
      65536 ≤ (full (withConn c)).ctxs.length) ∧
    (∀ d, d = unit [(0, 1, 5), (2, 2, 1)] ∨ d = bare 0 0 ∨ d = bare 9 0 → ∀ c, c = offering d → consuming (withConn c) c = true ∧
      (itemSerial (c.slot c.head) ≠ c.expected ∨ itemType (c.slot c.head) = 0 ∨ 8 < itemType (c.slot c.head))) := by
  refine ⟨?_, ?_, ?_, ?_, ?_, ?_⟩
  · rintro c rfl; exact ⟨by decide +kernel, rfl, by decide +kernel, by decide +kernel, rfl, rfl, rfl, by decide +kernel, by decide +kernel, full_length _⟩
  · rintro c rfl; decide +kernel
  · rintro c rfl; decide +kernel
  · rintro c rfl; decide +kernel
  · rintro c rfl; exact ⟨by decide +kernel, by decide +kernel, by decide +kernel, full_length _⟩
  · rintro d (rfl | rfl | rfl) c rfl <;> decide +kernel

/-- Context 0 of a request with descriptors `ds`. -/
def asking (ds : List Unit64) : Ctx := newCtx live 0 conn1 ds
/-- A launch of graph 1, version 1, in a state. -/
def launch (ds : List Unit64) (st : CtxState) (reading : Bool) : Ctx :=
  { asking ds with state := st, ver := 1, pcGraph := 1, pcVer := 1, reading := reading, taken := st != .queued }

/-- One slot of 2 bytes at 0x200000, readable and writable. -/
def slotted (inst : Nat) (s : State) : State :=
  { s with graphs := [⟨1, 1, false, 1, [{ version1 [] with slots := [⟨0x200000, 2, 2⟩], instances := inst, instReg := 63, instStride := 0x10000 }]⟩] }

def launching (x : Ctx) (inst : Nat := 1) : State := slotted inst (mapped (withConn conn1 { live with ctxs := [x] }))

theorem canComplete {s : State} {x : Ctx} {c : Conn} (h : s.conn? x.conn = some c ∧ c.attached = true ∧ c.outq = [] ∧
    c.nextSeq - 1 - c.cqHead < c.cqRecords ∧ mirroring s = false) : CanComplete s x c := ⟨h.1, h.2.1, h.2.2.1, h.2.2.2.1, h.2.2.2.2⟩

theorem wit_LaunchesRunFromInputToOutput :
    (∀ x, x = launch [bare 1 1] .queued false → mirroring (launching x) = false ∧ (launching x).ctx? 0 = some x ∧ x.typ = 1 ∧
      x.state = .queued ∧ x.ver ≠ 0 ∧ freeInstance (launching x) x = some 0) ∧
    (∀ x, x = launch [item 1 1 0 2 7 42 0] .input false → ∃ v, launchVersion (launching x 2) x = some v ∧ (launching x 2).ctx? 0 = some x ∧
      (launching x 2).conn? x.conn = some conn1 ∧ x.typ = 1 ∧ x.state = .input ∧ x.reading = false ∧
      entryFailure conn1 v (entriesOf x.descs) = none ∧ 1 < v.instances ∧ v.instReg < x.sregs.length ∧
      ∃ e, ofKind 2 x.descs = [e] ∧ e.slot ≠ v.instReg ∧ e.slot < x.sregs.length) ∧
    (∀ x, x = launch [item 1 1 0 2 64 42 0] .input false → CanComplete (launching x) x conn1 ∧ (launching x).ctx? 0 = some x ∧ ∃ v,
      launchVersion (launching x) x = some v ∧ x.typ = 1 ∧ x.state = .input ∧ x.reading = false ∧
      entryFailure conn1 v (entriesOf x.descs) = some .badDescriptor) ∧
    (∀ x, x = launch [item 1 1 0 0 0 0x9000 2] .input true → mirroring (launching x) = false ∧ (launching x).ctx? 0 = some x ∧ ∃ v,
      launchVersion (launching x) x = some v ∧ x.state = .input ∧ x.reading = true ∧ isRestoring (launching x) 0 = false ∧ dataFits x [[5, 6]] = true ∧
      asleep (launching x) ((inputWrites v x [[5, 6]]).map (fun p => (p.1, p.2.length))) = false ∧
      (writeAll 0 true ((inputWrites v x [[5, 6]]).flatMap (fun p => spread p.1 p.2))
        ((inputWrites v x [[5, 6]]).flatMap (fun p => spread p.1 p.2)) (readsDone (launching x) x)).2 = none) ∧
    (∀ x, x = launch [item 1 1 0 1 0 0x9000 2] .running false → mirroring (launching x) = false ∧ (launching x).ctx? 0 = some x ∧ ∃ v,
      launchVersion (launching x) x = some v ∧ x.state = .running ∧ x.issuing = false ∧ inFlight (launching x) 0 = [] ∧
      asleep (launching x) ((ofKind 1 x.descs).map (fun e => (slotVa v x e.slot, e.len))) = false ∧ x.failure = none ∧
      (ofKind 1 x.descs).map (fun e => readBytes (launching x) (slotVa v x e.slot) e.len) = [[0x11, 0x22]].map Except.ok) ∧
    (∀ x, x = { launch [bare 1 1] .running false with failure := some .badShape } → CanComplete (launching x) x conn1 ∧
      (launching x).ctx? 0 = some x ∧ ∃ v, launchVersion (launching x) x = some v ∧ x.state = .running ∧ x.issuing = false ∧
      inFlight (launching x) 0 = [] ∧ asleep (launching x) ((ofKind 1 x.descs).map (fun e => (slotVa v x e.slot, e.len))) = false ∧
      x.failure = some .badShape) ∧
    (∀ x, x = launch [bare 1 1] .output false → CanComplete (launching x) x conn1 ∧ (launching x).ctx? 0 = some x ∧ x.state = .output) := by
  refine ⟨?_, ?_, ?_, ?_, ?_, ?_, ?_⟩
  · rintro x rfl; decide +kernel
  · rintro x rfl; exact ⟨_, rfl, by decide +kernel, by decide +kernel, rfl, rfl, rfl, by decide +kernel, by decide, by decide +kernel, _, rfl,
      by decide +kernel, by decide +kernel⟩
  · rintro x rfl; exact ⟨canComplete (by decide +kernel), by decide +kernel, _, rfl, rfl, rfl, rfl, by decide +kernel⟩
  · rintro x rfl; exact ⟨by decide +kernel, by decide +kernel, _, rfl, rfl, rfl, by decide +kernel, by decide +kernel, by decide +kernel, by decide +kernel⟩
  · rintro x rfl; exact ⟨by decide +kernel, by decide +kernel, _, rfl, rfl, rfl, by decide +kernel, by decide +kernel, rfl, by decide +kernel⟩
  · rintro x rfl; exact ⟨canComplete (by decide +kernel), by decide +kernel, _, rfl, rfl, rfl, by decide +kernel, by decide +kernel, rfl⟩
  · rintro x rfl; exact ⟨canComplete (by decide +kernel), by decide +kernel, rfl⟩

/-- A request context, and beside it requests with REQ_ID 3 that run, write their result, are queued, and read. -/
def requesting (d : Unit64) : State := withConn conn1 { live with ctxs := [asking [d]] }
def victim (n : Nat) (st : CtxState) : Ctx := { ctx0 with num := n, reqId := 3, state := st }
def reader : Ctx := { asking [item 3 0x50007 0 3 0 0 192] with num := 4, reqId := 3 }
def stopping (d : Unit64) : State :=
  { requesting d with ctxs := [asking [d], victim 1 .running, victim 2 .output, victim 3 .queued, reader] }

def planUnit : Unit64 := unit [(0, 1, 7), (4, 4, 9), (8, 2, 1), (16, 4, 0xFFFFFFFF), (38, 1, 3), (40, 4, 5), (44, 8, 0x9000), (52, 8, 160)]
def queryUnit : Unit64 := item 8 3 0 3 0 0x9000 64
/-- The connection with a full set of receive buffers. -/
def crowded : Conn := { conn1 with sends := List.replicate 64 [bare 8 0] }

theorem wit_ControlRequestsAnswer :
    (∀ s, s = requesting (bare 5 3) ∨ s = stopping (bare 5 3) → ∃ x, CanComplete s x conn1 ∧ s.ctx? 0 = some x ∧ x.typ = 5 ∧ x.state = .closing ∧
      isDone s x = false) ∧
    (stoppable (requesting (bare 5 3)) 1 0 (fun y => y.reqId == 3) = [] ∧
      stoppable (stopping (bare 5 3)) 1 0 (fun y => y.reqId == 3) = [1, 2, 3, 4] ∧
      (stopping (bare 5 3)).ctx? 1 = some (victim 1 .running) ∧ (stopping (bare 5 3)).ctx? 2 = some (victim 2 .output) ∧
      (stopping (bare 5 3)).ctx? 3 = some (victim 3 .queued) ∧ (stopping (bare 5 3)).ctx? 4 = some reader ∧ reader.typ ≠ 1 ∧
      reader.state ≠ .output ∧ (victim 1 .running).typ = 1) ∧
    (∀ s, s = requesting (bare 6 1) ∨ s = stopping (bare 6 1) → ∃ x, CanComplete s x conn1 ∧ s.ctx? 0 = some x ∧ x.typ = 6 ∧ x.state = .closing ∧
      isDone s x = false ∧ conn1.sqTail ≤ conn1.head ∧ fld (x.descs.getD 0 []) 8 0 1 = 1) ∧
    (∀ s, s = requesting (bare 6 1) → stoppable s 1 0 (notStarted s) = [] ∧ stoppable s 1 0 (fun _ => true) = []) ∧
    (∀ s, s = stopping (bare 6 1) → stoppable s 1 0 (notStarted s) = [3] ∧ stoppable s 1 0 (fun _ => true) = [1, 2, 3, 4] ∧
      notStarted s (victim 3 .queued) = true) ∧
    (mirroring (requesting queryUnit) = false ∧ (requesting queryUnit).ctx? 0 = some (asking [queryUnit]) ∧
      (requesting queryUnit).conn? 1 = some conn1 ∧ (asking [queryUnit]).typ = 8 ∧ (asking [queryUnit]).state = .closing ∧
      isDone (requesting queryUnit) (asking [queryUnit]) = false ∧ (blob (asking [queryUnit]).descs 0).isSome = true) ∧
    (∀ d, d = planUnit → ∀ s, s = withGraph copyUnits (requesting d) → ∃ g, mirroring s = false ∧ s.ctx? 0 = some (asking [d]) ∧ (asking [d]).typ = 7 ∧
      (asking [d]).state = .closing ∧ isDone s (asking [d]) = false ∧ (blob (asking [d]).descs 0).isSome = true ∧
      s.graph? (fld d 8 0 12) = some g ∧ g.deleted = false ∧ g.version? g.cur = some (version1 copyUnits) ∧
      (versionCmds (version1 copyUnits).segs).find? (fun c => c.1 == leAt d 12 4) = some (leAt d 12 4, copyUnits) ∧
      planContext s (asking [d]) 1 (leAt d 16 4) = none ∧ (planCmd s none copyUnits).opcode < 0x80 ∧
      opCheck s (planCmd s none copyUnits) = .ok () ∧ (planOf s (planCmd s none copyUnits) []).isSome = true) ∧
    (∀ d, d = bare 5 3 ∨ d = bare 6 1 ∨ d = queryUnit ∨ d = planUnit →
      mirroring (withConn conn1) = false ∧ serving (withConn conn1) = true ∧ (withConn conn1).tlc.promised = none ∧ (withConn conn1).tlc.awaiting = [] ∧
      (withConn conn1).ctxs.length < 65536 ∧ conn1.outq = [] ∧
      conn1.held = [] ∧ itemSerial d = 0 ∧ [d].length = itemLen d + 1 ∧ itemReq d ≠ 0xFFFFFFFF ∧ fld d 1 5 3 = 0 ∧ itemOk conn1 [d] = true) ∧
    (∀ c, c = conn1 ∨ c = crowded → mirroring (full (withConn c)) = false ∧ (full (withConn c)).conn? 1 = some c ∧ c.attached = true ∧
      serving (full (withConn c)) = true ∧ 65536 ≤ (full (withConn c)).ctxs.length) ∧
    (conn1.sends.length < 64 ∧ 64 ≤ crowded.sends.length ∧
      [bare 5 3, bare 6 1, planUnit, queryUnit].map itemType = [5, 6, 7, 8]) ∧
    (itemType (bare 4 0) < 5 ∧ 8 < itemType (bare 9 0) ∧ conn1.nextSeq - 1 - conn1.cqHead < conn1.cqRecords) := by
  refine ⟨?_, by decide +kernel, ?_, ?_, ?_, by decide +kernel, ?_, ?_, ?_, by decide +kernel, by decide +kernel⟩
  · rintro s (rfl | rfl) <;> exact ⟨asking [bare 5 3], canComplete (by decide +kernel), by decide +kernel⟩
  · rintro s (rfl | rfl) <;> exact ⟨asking [bare 6 1], canComplete (by decide +kernel), by decide +kernel⟩
  · rintro s rfl; decide +kernel
  · rintro s rfl; decide +kernel
  · rintro d rfl s rfl; exact ⟨_, by decide +kernel, by decide +kernel, rfl, rfl, by decide +kernel, by decide +kernel, rfl, by decide +kernel⟩
  · rintro d (rfl | rfl | rfl | rfl) <;> decide +kernel
  · rintro c (rfl | rfl) <;> exact ⟨by decide +kernel, rfl, rfl, by decide +kernel, full_length _⟩

/-- A graph image of one NOP, and a patch image that keeps its one segment. -/
def graphImage : List Byte :=
  let body := fields 128 [(0, 8, 128), (8, 2, 1), (64, 1, 0x80)]
  fields 64 [(0, 2, 1), (2, 2, 1), (6, 1, 1), (16, 4, crc32c body)] ++ body
def patchImage : List Byte := fields 32 [(0, 2, 1), (4, 2, 1), (12, 4, crc32c [])]

def model5 : Model := ⟨5, [], [], 0, 0, false⟩
def changing (x : Ctx) : State := withGraph [ctrl 0x80] (withConn conn1 { live with ctxs := [x], models := [model5] })

/-- The second descriptor of an item, with BLOB 1 of no bytes. -/
def blob1 : Unit64 := unit [(0, 1, 0xFF), (1, 1, 1), (8, 2, 1), (10, 1, 3), (38, 1, 0xFF)]

set_option maxRecDepth 20000 in
theorem wit_ModelAndGraphChangesComplete :
    (∀ x, x = asking [item 2 5 0 3 0 0 0, blob1] ∨ x = asking [bare 2 0x105] ∨ x = asking [item 3 0x50007 0 3 0 0 192] ∨
        x = asking [item 4 1 0 3 0 0 32] →
      CanComplete (changing x) x conn1 ∧ paired (changing x) = false ∧ isSecondary (changing x) = false ∧ (changing x).ctx? 0 = some x ∧ x.state = .input ∧
      changeBusy (changing x) 0 = false) ∧
    (∀ x, x = asking [item 2 5 0 3 0 0 0, blob1] → x.typ = 2 ∧ byteAt (x.descs.getD 0 []) 9 = 0 ∧ blobFits x 0 [] = true ∧ blobFits x 1 [] = true ∧
      loadAsleep (changing x) (loadModel (changing x) (byteAt (x.descs.getD 0 []) 8) [] []).1 = false) ∧
    (∀ x, x = asking [bare 2 0x105] → x.typ = 2 ∧ byteAt (x.descs.getD 0 []) 9 = 1 ∧ launchesOf (changing x) 5 = false) ∧
    (∀ x, x = asking [item 3 0x50007 0 3 0 0 192] → x.typ = 3 ∧ blobFits x 0 graphImage = true ∧ graphImage ≠ [] ∧
      (storeGraph (readsDone (changing x) x) 7 5 graphImage).2.1 = .ok) ∧
    (∀ x, x = asking [item 4 1 0 3 0 0 32] → ∀ s, s = { changing x with holds := [⟨0, 1, none⟩] } → CanComplete s x conn1 ∧ s.ctx? 0 = some x ∧ changeBusy s 0 = false ∧ x.typ = 4 ∧
      blobFits x 0 patchImage = true ∧ (s.holds.find? (fun h => h.graph == fld (x.descs.getD 0 []) 8 0 12)).map Hold.ctx = some 0 ∧
      holdFits s ⟨0, 1, none⟩ patchImage = true ∧ asleep s (patchSpans s 1 patchImage) = false ∧ (s.graph? 1).isSome = true ∧ (patchGraph (readsDone s x) 1 patchImage).2.1 = .ok) := by
  refine ⟨?_, ?_, ?_, ?_, ?_⟩
  · rintro x (rfl | rfl | rfl | rfl) <;> exact ⟨canComplete (by decide +kernel), by decide +kernel⟩
  · rintro x rfl; decide +kernel
  · rintro x rfl; decide +kernel
  · rintro x rfl; decide +kernel
  · rintro x rfl s rfl; exact ⟨canComplete (by decide +kernel), by decide +kernel⟩

/-- A CM REQ of a control QP to address 9: slots, records, reserved byte, RESUME of connection 1. -/
def privOf (slots records reserved resume : Nat) : List Byte :=
  fields 40 [(0, 2, slots), (2, 1, 1), (3, 1, reserved), (4, 4, records), (8, 8, 0x1000), (16, 4, 7), (24, 4, 1), (28, 1, resume)]
def reqOf (slots records reserved resume : Nat) : CmReq := ⟨true, 0, 9, none, privOf slots records reserved resume⟩
/-- The REQ of a data QP of connection 1, on a port. -/
def joinOf (port : Nat) : CmReq := ⟨true, port, 9, some 1, List.replicate 40 0⟩
def mirroredConn : Conn := { conn1 with attached := false, mirroredPeer := true, held := [⟨1, [], true, none⟩], nextSeq := 2 }

theorem wit_ConnectionsOpenAndClose :
    (∀ q, q = reqOf 64 16 0 0 ∨ q = reqOf 4096 65536 0 0 → q.resume = 0 ∧ q.dataOf = none ∧ serving live = true ∧ mirroring live = false ∧
      acceptsReq live q.addr = true ∧ reqShapeOk q = true ∧ fitsLimits live q 1 = true ∧ live.conn? (connId live live.nextConn) = none) ∧
    ((reqOf 64 16 1 0).resume = 0 ∧ reqShapeOk (reqOf 64 16 1 0) = false ∧ reqShapeOk (reqOf 32 16 0 0) = false) ∧
    acceptsReq live 8 = false ∧
    ((joinOf 0).dataOf = some 1 ∧ (joinOf 0).supported = true ∧ mirroring (withConn conn1) = false ∧ acceptsReq (withConn conn1) 9 = true ∧
      (joinOf 0).port = conn1.port ∧
      conn1.joined < conn1.dataQps ∧ (joinOf 1).port ≠ conn1.port ∧ { conn1 with joined := 1 }.dataQps ≤ 1 ∧ live.conn? 1 = none) ∧
    (∀ q, q = reqOf 64 16 0 1 → q.resume = 1 ∧ q.dataOf = none ∧ serving (withConn mirroredConn) = true ∧ mirroring (withConn mirroredConn) = false ∧
      (withConn mirroredConn).conn? q.resumeConn = some mirroredConn ∧ mirroredConn.attached = false ∧ mirroredConn.mirroredPeer = true ∧
      acceptsReq (withConn mirroredConn) q.addr = true ∧ reqShapeOk q = true ∧ fitsLimits (withConn mirroredConn) q 0 = true ∧ mirroredConn.outq = [] ∧
      (∃ h ∈ mirroredConn.held, q.resumeCqHead < h.seq ∧ h.notify = true) ∧
      live.conn? q.resumeConn = none ∧ (withConn conn1).conn? q.resumeConn = some conn1) ∧
    ((withConn conn1).conn? 1 = some conn1 ∧ conn1.attached = true ∧ serving (withConn conn1) = true ∧ 1 ≤ conn1.dataQps) := by
  refine ⟨?_, by decide +kernel, by decide +kernel, by decide +kernel, ?_, by decide +kernel⟩
  · rintro q (rfl | rfl) <;> decide +kernel
  · rintro q rfl; decide +kernel

/-! Statements 29 to 36: memory, errors, fabric, mirrored updates. -/

/-- A model whose one range, 2 MiB at 0x200000, is WORK; and a write of command 1 that waits for its page. -/
def workModel : Model := ⟨1, [⟨0x200000, 0x200000, 1⟩], [], 0, 1, false⟩
def heldWrite (cow : Bool) (newPa : Nat) : Held := ⟨1, 0x200000, cow, if cow then 0x400000 else 0, newPa, [(0x200004, 5)]⟩
def holding (h : Held) (ptes : List Pte) (used : List Nat) : State :=
  { live with models := [workModel], ms := { MemSys.reset with held := [h], ptes := paged ptes, usedPages := used } }
def shared (ref : Nat) : Pte := ⟨2, 1, mkPte true true false 2 0 0x400000 ref⟩
/-- The stacks asleep. -/
def sleeping (s : State) : State := { s with stk := List.replicate 4 ⟨.retention, 1⟩ }

theorem wit_HeldWritesFinish :
    (∀ s, s = holding (heldWrite false 0) [] [] → pageBase s 0x200004 = 0x200000 ∧ heldOf s 1 0x200000 false = some (heldWrite false 0) ∧
      leafOf s.ms.ptes 0x200000 = none ∧ rangeOf s.models 0x200000 = some (workModel, ⟨0x200000, 0x200000, 1⟩) ∧
      Range.pageOf ⟨0x200000, 0x200000, 1⟩ 0x200000 = some (2, 0x200000) ∧
      (placeModelPage s.ms workModel 2 0x200000 (workHome s (heldWrite false 0))).isSome = true ∧
      pageAsleep (mapWork s 0x200000 (workHome s (heldWrite false 0))) 0x200000 = false ∧
      pageAsleep (mapWork (sleeping s) 0x200000 (workHome (sleeping s) (heldWrite false 0))) 0x200000 = true) ∧
    (∀ s, s = holding (heldWrite true 0) [shared 2] [] → pageBase s 0x200004 = 0x200000 ∧ heldOf s 1 0x200000 true = some (heldWrite true 0) ∧
      (heldWrite true 0).newPa = 0) ∧
    (∀ s, s = sleeping (holding (heldWrite true 0x2000000) [shared 2] [16]) → heldOf s 1 0x200000 true = some (heldWrite true 0x2000000) ∧
      pageAsleep s 0x200000 = true ∧ paAsleep s 0x2000000 = true) ∧
    (∀ q s, q = holding (heldWrite true 0x2000000) [shared 2] [16] → s = { q with cmds := [op 1], ms := { q.ms with badLines := [0x400040] } } →
      pageBase s 0x200004 = 0x200000 ∧ heldOf s 1 0x200000 true = some (heldWrite true 0x2000000) ∧ (heldWrite true 0x2000000).newPa ≠ 0 ∧
      pageAsleep s 0x200000 = false ∧ paAsleep s 0x2000000 = false ∧ leafOf s.ms.ptes 0x200000 = some (shared 2) ∧
      pteCow (shared 2).word = true ∧ 2 ≤ pteRef (shared 2).word ∧ badIn s.ms (heldWrite true 0x2000000).lock 0x200000 = some 0x400040 ∧
      s.cmd? 1 = some (op 1) ∧ s.ms.held = [heldWrite true 0x2000000]) ∧
    (∀ n, n = 1 ∨ n = 2 → ∀ s, s = holding (heldWrite true 0x2000000) [shared n] [16] → pageBase s 0x200004 = 0x200000 ∧
      heldOf s 1 0x200000 true = some (heldWrite true 0x2000000) ∧ (heldWrite true 0x2000000).newPa ≠ 0 ∧ pageAsleep s 0x200000 = false ∧
      paAsleep s 0x2000000 = false ∧ badIn s.ms (heldWrite true 0x2000000).lock 0x200000 = none ∧ leafOf s.ms.ptes 0x200000 = some (shared n) ∧ pteCow (shared n).word = true ∧ pteRef (shared n).word = n ∧ 0x2000000 % 0x10000 = 0 ∧
      0x2000000 < 2 ^ 48 ∧ s.ms.usedPages.contains (0x2000000 / 0x200000) = true ∧ s.ms.held = [heldWrite true 0x2000000] ∧ s.ms.tlbs = [] ∧
      ∀ w ∈ (heldWrite true 0x2000000).writes, leafOf s.ms.ptes w.1 = some (shared n)) := by
  refine ⟨?_, ?_, ?_, ?_, ?_⟩
  · rintro s rfl; decide +kernel
  · rintro s rfl; decide +kernel
  · rintro s rfl; decide +kernel
  · rintro q s rfl rfl; decide +kernel
  · rintro n (rfl | rfl) s rfl <;> decide +kernel

def withPtes (l : List Pte) : State := { live with ms := { MemSys.reset with ptes := paged l } }
def plainPte (w : Bool) : Pte := ⟨2, 1, mkPte w false false 0 0 0x400000 1⟩
/-- A leaf at level 2 whose address is not aligned to 2 MiB, and a pointer with a reserved bit set. -/
def badPte : Pte := ⟨2, 1, mkPte true false false 0 0 0x410000 1⟩
def badPtr : Pte := ⟨2, 1, 0x2002005⟩

theorem wit_WalksFillOrFault :
    (∀ w, leafOf (withPtes [plainPte w]).ms.ptes 0x200000 = some (plainPte w) ∧ pteMalformed (plainPte w) = false ∧ pteW (plainPte w).word = w) ∧
    (leafOf (withPtes [badPte]).ms.ptes 0x200000 = some badPte ∧ pteMalformed badPte = true) ∧
    (leafOf (withPtes [badPtr]).ms.ptes 0x200000 = some badPtr ∧ pteMalformed badPtr = true) ∧
    (leafOf live.ms.ptes 0x200000 = none ∧ rangeOf live.models 0x200000 = none) ∧
    (∀ s, s = { withPtes [] with models := [workModel] } → leafOf s.ms.ptes 0x200000 = none ∧
      rangeOf s.models 0x200000 = some (workModel, ⟨0x200000, 0x200000, 1⟩)) ∧ 16 ≤ 16 ∧
    (∀ n, n = 0 ∨ n = 16 → tlbUp live n = true ∧ tlbUp State.reset n = false) := by
  refine ⟨by decide +kernel, by decide +kernel, by decide +kernel, by decide +kernel, ?_, by decide, ?_⟩
  · rintro s rfl; decide +kernel
  · rintro n (rfl | rfl) <;> decide +kernel

/-- The spilled tensor with a CRC. -/
def spilledWith (crc : Nat) : State := { copying with models := [⟨1, [⟨0x200000, 0x200000, 0⟩], [⟨0x200000, 2, 0, 0, true, BitVec.ofNat 32 crc⟩], 2, 0, false⟩] }
def needing : Cmd := { copyCmd with needsStaging := true }
/-- Two other commands that hold the model's two staging buffers. -/
def bufferUsers : List Cmd := [{ needing with id := 2, staged := true }, { needing with id := 3, staged := true }]

/-- Partition 255 with corrected errors of die 9 on lines 0 to n - 1 at time 0. -/
def worn (n : Nat) (s : State) : State := { s with parts := [(255, { Partition.reset with dieLines := (List.range n).map (fun k => (9, k, 0)) })] }

theorem eraseDups_nodup (l : List Nat) (h : l.Nodup) : l.eraseDups = l := by
  induction l with
  | nil => rfl
  | cons a l ih =>
    have k : l.filter (fun b => !b == a) = l := List.filter_eq_self.mpr (fun b hb => by
      simpa using fun e : b = a => (List.nodup_cons.mp h).1 (e ▸ hb))
    rw [List.eraseDups_cons, k, ih (List.nodup_cons.mp h).2]

theorem worn_errors (n : Nat) (s : State) : dieErrors (worn n s) 255 9 = if s.dev.timeNs < dayNs then n else 0 := by
  by_cases h : s.dev.timeNs < dayNs <;>
    simp [dieErrors, worn, State.part, alFind, List.filter_map, Function.comp_def, h, eraseDups_nodup _ List.nodup_range]

theorem wit_MemoryHousekeeping :
    (∀ s, s = { spilledWith (crc32c [0x11, 0x22]) with cmds := [needing] } → s.cmd? 1 = some needing ∧ needing.needsStaging = true ∧
      needing.staged = false ∧ needing.result = none ∧ stagingFault s needing = none ∧
      asleep s ((spilledRead s needing).map (fun t => (t.2.va, t.2.bytes))) = false ∧
      asleep (sleeping s) ((spilledRead (sleeping s) needing).map (fun t => (t.2.va, t.2.bytes))) = true) ∧
    (∀ s, s = { spilledWith 1 with cmds := [needing] } → s.cmd? 1 = some needing ∧ bufferFree s needing = true ∧
      asleep s ((spilledRead s needing).map (fun t => (t.2.va, t.2.bytes))) = false ∧ stagingFault s needing ≠ none) ∧
    (∀ s, s = { copying with cmds := [needing] } → s.cmd? 1 = some needing ∧ stagingFault s needing = none ∧ bufferFree s needing = true ∧
      asleep s ((spilledRead s needing).map (fun t => (t.2.va, t.2.bytes))) = false ∧ copyFails s needing = none) ∧
    (∀ s, s = { spilledWith 1 with cmds := needing :: bufferUsers } → s.cmd? 1 = some needing ∧ bufferFree s needing = false) ∧
    (∀ s, s = { live with ms := { MemSys.reset with zeroing := [5] } } → s.ms.zeroing.contains 5 = true ∧ paAsleep s (5 * 0x200000) = false ∧
      paAsleep (sleeping s) (5 * 0x200000) = true) ∧
    ((live.stkIsl (255 / 64)).state = .on ∧ ((sleeping live).stkIsl (255 / 64)).state ≠ .on) ∧
    (255 < 256 ∧ paPartition (0xFF0000040 / 64 * 64) = 255 ∧ 9 < 10 ∧ (worn 1025 live).attn.counts.length = 11) ∧
    (∀ e, e = LineErr.mk 0x40 [(0, 9)] → correctable 0 e = false) ∧
    (dieErrors (worn 1024 live) 255 9 ≤ 1024 ∧ 1024 < dieErrors (worn 1025 live) 255 9) := by
  refine ⟨?_, ?_, ?_, ?_, ?_, by decide +kernel, by decide +kernel, ?_, ?_⟩
  · rintro s rfl; decide +kernel
  · rintro s rfl; decide +kernel
  · rintro s rfl
    have h : spilledRead { copying with cmds := [needing] } needing = [] := by decide +kernel
    exact ⟨by decide +kernel, by decide +kernel, by decide +kernel, by decide +kernel, by simp only [copyFails, h]; split <;> rfl⟩
  · rintro s rfl; decide +kernel
  · rintro s rfl; decide +kernel
  · rintro e rfl; decide +kernel
  · rw [worn_errors, worn_errors]; decide +kernel

/-- Links with one that has replayed a frame 15 times; a full alias table. -/
def replaying (n : Nat) : State :=
  { live with fre := { Fre.reset with links := updAt Fre.reset.links 5 (fun l => { l with replays := n, lastFrame := 77, state := 2 }) } }
def fullAliases : State := { live with fre := { Fre.reset with aliases := (List.range 32).map (fun k => (k, 100)) } }

theorem wit_ErrorsRaiseOneOnset :
    live.attn.counts.length = 11 ∧ (live.hdr 0x0600).evmask.getLsbD 8 = true ∧ (live.hdr 0x0C00).evmask.getLsbD 8 = true ∧
    (((replaying 15).hdr 0x0B00).evmask.getLsbD 8 = true ∧ ((replaying 15).fre.links.getD 5 Link.reset).lastFrame = 77 ∧
      ((replaying 15).fre.links.getD 5 Link.reset).replays = 15 ∧ (replaying 15).attn.counts.length = 11) ∧
    (alFind 50 fullAliases.fre.aliases = none ∧ 32 ≤ fullAliases.fre.aliases.length ∧ (fullAliases.hdr 0x0B00).evmask.getLsbD 8 = true) ∧
    (255 < 256 ∧ 9 < 10 ∧ 1024 < dieErrors (worn 1025 live) 255 9) := by
  rw [worn_errors]
  decide +kernel

/-- A BARRIER of two members in its handshake, with its local verdict. -/
def shaking (rank : Nat) (chk : Option Res) : Cmd := { collOf 5 1 1 with coll := some { collAt .handshake rank 2 with localCheck := chk } }
def judging : State := { inflight (shaking 0 none) with fre := { Fre.reset with digests := [⟨1, 0, 1, 5⟩] } }
/-- Another collective, of group 2, in a phase. -/
def other (p : CollPhase) (slots : Nat) : Cmd := { collOf 5 1 1 with id := 2, coll := some { collAt p 0 2 with group := 2, slots := slots } }
def beside (c d : Cmd) : State := { inflight c with cmds := [c, d] }

theorem wit_CollectiveVerdicts :
    (∀ v : DWord, v = 5 ∨ v = 6 → ∀ q, q = putDigest judging ⟨1, 0, 0, v⟩ → rankZeroCmd q 1 0 = some (shaking 0 none) ∧
      (∀ r < 2, ∃ d ∈ digestsOf q 1 0, d.rank = r)) ∧
    (∀ d ∈ digestsOf (putDigest judging ⟨1, 0, 0, 5⟩) 1 0, ∀ e ∈ digestsOf (putDigest judging ⟨1, 0, 0, 5⟩) 1 0, d.value = e.value) ∧
    (∃ r < 2, ((digestsOf (putDigest judging ⟨1, 0, 0, 6⟩) 1 0).find? (fun d => d.rank == r)).map DigestRec.value ≠
      ((digestsOf (putDigest judging ⟨1, 0, 0, 6⟩) 1 0).find? (fun d => d.rank == 0)).map DigestRec.value) ∧
    (∀ r, r = 0 ∨ r = 1 → awaiting (inflight (shaking r none)) 1 0 = some (shaking r none) ∧
      slotTurn (inflight (shaking r none)) (shaking r none) = true) ∧
    awaiting (inflight (shaking 1 (some .badShape))) 1 0 = some (shaking 1 (some .badShape)) ∧
    (awaiting (beside (shaking 1 none) (other .moving 9)) 1 0 = some (shaking 1 none) ∧
      slotTurn (beside (shaking 1 none) (other .moving 9)) (shaking 1 none) = false) := by
  refine ⟨?_, by decide +kernel, by decide +kernel, ?_, by decide +kernel, by decide +kernel⟩
  · rintro v (rfl | rfl) q rfl <;> decide +kernel
  · rintro r (rfl | rfl) <;> decide +kernel

def movingCmd (p : CollPhase) : Cmd := { collOf 5 1 1 with coll := some (collAt p 1 2) }

theorem wit_CollectiveDataEnds :
    ((inflight (movingCmd .wantSlots)).cmd? 1 = some (movingCmd .wantSlots) ∧ (movingCmd .wantSlots).coll = some (collAt .wantSlots 1 2) ∧
      (movingCmd .wantSlots).result = none ∧ slotTurn (inflight (movingCmd .wantSlots)) (movingCmd .wantSlots) = true) ∧
    (∀ p, p = .moving ∨ p = .wantSlots → started (inflight (movingCmd p)) 1 0 = some (movingCmd p) ∧
      (inflight (movingCmd p)).cmd? 1 = some (movingCmd p) ∧ (movingCmd p).coll = some (collAt p 1 2)) ∧
    (started (inflight (shaking 1 none)) 1 0 = none ∧ awaiting (inflight (shaking 1 none)) 1 0 = some (shaking 1 none)) := by
  refine ⟨by decide +kernel, ?_, by decide +kernel⟩
  rintro p (rfl | rfl) <;> decide +kernel

/-- A torus of 2 by 2 by 2 with valid coordinates, this member at the origin. -/
def torus2 : State := { live with fre := { Fre.reset with coordValid := true, torus := 0x010101 } }

theorem wit_LinksTrainReplayAndLoseLanes :
    (∀ n, n = 14 ∨ n = 15 → ∃ l, (replaying n).fre.links[5]? = some l ∧ l.lastFrame = 77 ∧ l.replays = n ∧ l.state ≠ 0) ∧
    ((torus2.fre.links[5]?).isSome = true ∧ torus2.fre.coordValid = true ∧ 5 < 6 ∧ 1 < (torusExt torus2).getD (5 / 2) 1 ∧
      [0, 0, 1] = neighbourOf torus2 5 ∧ [2, 2, 2] = torusExt torus2 ∧ [0, 0, 0] ≠ neighbourOf torus2 5) ∧
    (live.fre.aliases.length < 32 ∧ alFind 7 fullAliases.fre.aliases ≠ none) := by
  refine ⟨?_, by decide +kernel⟩
  rintro n (rfl | rfl) <;> exact ⟨_, rfl, rfl, rfl, by decide +kernel⟩

theorem wit_TwinUpdatesCrossInOrder :
    (∀ s, s = twinned 0 0 2 → paired s = true ∧ s.tlc.linkUp = true ∧ s.hub.state = .on ∧ isChange (.contextClosed 4) = false ∧ isCopy (.contextClosed 4) = false ∧
      isChange (.model 1 9 [] []) = true ∧ (s.tlc.pair.map PairRec.role) = some 0 ∧ (applyChange s (.model 1 9 [] [])).isSome = true ∧
      isCopy (.copyEnd [] []) = true ∧ (receiveCopy s (.copyEnd [] [])).isSome = true ∧ 2 ≠ s.tlc.applied + 1) ∧
    (∀ s, s = { twinned 0 0 2 with tlc := { (twinned 0 0 2).tlc with sendSeq := 4, awaiting := [(4, .row .heartbeat none)] } } →
      4 ≤ s.tlc.sendSeq ∧ s.tlc.linkUp = true) ∧
    (∀ c, c = { conn1 with held := [⟨1, [], true, none⟩] } → ∀ s, s = withConn c { twinned 0 0 2 with tlc := { (twinned 0 0 2).tlc with
        sendSeq := 4, awaiting := [(4, .record 1 1)] } } →
      4 ≤ s.tlc.sendSeq ∧ s.tlc.linkUp = true ∧ s.conn? 1 = some c ∧ c.attached = true ∧ c.held.find? (fun x => x.seq == 1) = some ⟨1, [], true, none⟩) := by
  refine ⟨?_, ?_, ?_⟩
  · rintro s rfl; decide +kernel
  · rintro s rfl; decide +kernel
  · rintro c rfl s rfl; decide +kernel

/-! Statements 37 to 46: the twin pair, faults, islands, power, telemetry, wear. -/

def withTlc (s : State) (f : Tlc → Tlc) : State := { s with tlc := f s.tlc }
def noLink (t : Tlc) : Tlc := { t with linkUp := false }
def noSideband (t : Tlc) : Tlc := { t with aliveIn := false }

theorem wit_TwinLivenessAndLoss :
    ((twinned 0 0 2).tlc.pair.isSome = true ∧ (twinned 0 0 2).hub.state = .on) ∧
    (∀ n, n = 1 ∨ n = 2 → (twinned 0 0 n).tlc.linkUp = true ∧ (twinned 0 0 n).tlc.aliveIn = true ∧ (twinned 0 0 n).tlc.tstate = n ∧
      (twinned 0 0 n).tlc.awaiting = []) ∧
    (∀ r m, (r, m) = (0, 0) ∨ (r, m) = (1, 1) → ∀ n, n = 1 ∨ n = 3 → (twinned r m n).tlc.pair = some (pairRec r m) ∧ 1 ≤ (twinned r m n).tlc.tstate ∧
      (twinned r m n).tlc.tstate ≤ 3 ∧ ((pairRec r m).mode = 0 ∨ (pairRec r m).role = 1) ∧ (pairRec r m).mode ≤ 1 ∧
      (withTlc (twinned r m n) noSideband).tlc.linkUp = true ∧ (withTlc (twinned r m n) noSideband).tlc.aliveIn = false ∧
      (withTlc (twinned r m n) noLink).tlc.linkUp = false ∧ (withTlc (twinned r m n) noLink).tlc.aliveIn = true) ∧
    (∀ s, s = withTlc (twinned 0 1 3) noLink → s.tlc.pair = some (pairRec 0 1) ∧ s.tlc.linkUp = false ∧ s.tlc.aliveIn = true ∧
      1 ≤ s.tlc.tstate ∧ s.tlc.tstate ≤ 3 ∧ s.hub.state = .on) := by
  refine ⟨by decide +kernel, ?_, ?_, ?_⟩
  · rintro n (rfl | rfl) <;> decide +kernel
  · rintro r m h n hn
    rcases hn with rfl | rfl <;> rcases h with h | h <;> cases h <;> decide +kernel
  · rintro s rfl; decide +kernel

/-- A context of the twin that is restored here. -/
def restored : Ctx := { launch [bare 1 1] .input false with asTwin := true }
def restoring : State :=
  withTlc (launching restored) (fun t => { t with mctxs := [⟨restored.toMirror, [(0x200000, [5])], [], some ctx0.snapshot, some 0⟩] })

theorem wit_TwinYieldsAndRejoins :
    (∀ r, r = 0 ∨ r = 1 → ∀ s, s = withTlc (twinned r 0 3) noLink → s.tlc.pair = some (pairRec r 0) ∧ s.tlc.linkUp = false ∧ s.hub.state = .on ∧
      s.tlc.tstate ≠ 0 ∧ s.tlc.ownAddrs.contains 9 = true ∧ s.tlc.ownAddrs.contains 8 = false ∧ (pairRec r 0).role = r ∧ s.tlc.tstate = 3 ∧ commonProtocol s.runningSlot 0 3 = some 0 ∧
      commonProtocol s.runningSlot 1 3 = none) ∧
    (∀ r, r = 0 ∨ r = 1 → ∀ w, w = TwinHello.mk 2 1 (1 - r) 0 9 true false 0 3 → w.serial = (pairRec r 0).twinSerial ∧
      w.names = (pairRec r 0).ownSerial ∧ (pairRec r 0).role ≠ w.role ∧ (pairRec r 0).mode = w.mode ∧ w.reading = true) ∧
    (∀ n, n = 1 ∨ n = 4 → (withTlc (twinned 1 0 n) noLink).tlc.tstate = n ∧ commonProtocol (withTlc (twinned 1 0 n) noLink).runningSlot 0 0 = some 0) ∧
    ((twinned 0 0 2).tlc.pair.isSome = true ∧ (twinned 0 0 2).tlc.tstate ≠ 0 ∧ (twinned 0 0 2).tlc.linkUp = true ∧ (twinned 0 0 2).hub.state = .on) ∧
    (∀ s, s = withTlc (twinned 1 0 1) (fun t => { t with resyncRefused := true, resyncBusy := true }) → s.tlc.resyncRefused = true ∧ s.tlc.resyncBusy = true ∧ s.tlc.linkUp = true) ∧
    (∀ s, s = withTlc (twinned 0 0 2) (fun t => { t with away := true }) → s.tlc.linkUp = true ∧ s.hub.state = .on ∧
      s.tlc.pair.isSome = true ∧ s.tlc.away = true ∧ s.tlc.ownAddrs.contains 9 = true ∧ s.tlc.handedBack.contains 9 = false) ∧
    (∀ c, c = conn1 ∨ c = { conn1 with addr := 1 } → ∀ s, s = withConn c (withTlc (twinned 0 0 4) (fun t => { t with served := [1] })) →
      s.tlc.linkUp = true ∧ s.hub.state = .on ∧ s.tlc.pair.isSome = true ∧ s.tlc.away = false ∧ s.tlc.served.contains 1 = true ∧
      ((∃ d ∈ s.conns, d.addr = 1 ∧ d.attached = true) ↔ c.addr = 1)) ∧
    (restoring.ctx? 0 = some restored ∧ (restoring.tlc.mctxs.find? (fun t => t.restoring == some 0)).isSome = true ∧ restored.state = .input ∧
      asleep restoring (resumeSpans restoring restored ++ [(0x200000, 1)]) = false ∧
      (∀ y ∈ restoring.ctxs, ¬(y.num ≠ 0 ∧ y.typ = 1 ∧ y.graph = restored.graph ∧ y.taken = true ∧ y.inst = restored.inst)) ∧
      (∀ q, q = { restoring with ms := (resumeSpans restoring restored).foldl zeroSpan restoring.ms, tlc := { restoring.tlc with mctxs := [] } } →
        restoring.tlc.mctxs.filter (fun y => y.restoring != some 0) = [] ∧ (writeAll 0 true [(0x200000, 5)] [(0x200000, 5)] q).2 = none)) := by
  refine ⟨?_, ?_, ?_, by decide +kernel, ?_, ?_, ?_, ?_⟩
  · rintro r (rfl | rfl) s rfl <;> decide +kernel
  · rintro r (rfl | rfl) w rfl <;> decide +kernel
  · rintro n (rfl | rfl) <;> decide +kernel
  · rintro s rfl; decide +kernel
  · rintro s rfl; decide +kernel
  · rintro c (rfl | rfl) s rfl <;> decide +kernel
  · refine ⟨by decide +kernel, by decide +kernel, rfl, by decide +kernel, by decide +kernel, ?_⟩
    rintro q rfl; decide +kernel

/-- Site 0 with a tile of a command whose unit has faulted on earlier sites, and the free moon. -/
def faulty (sites : List Nat) : Cmd := { op 1 with faults := sites.map (fun n => (0, n)) }
def suspect (c : Cmd) : State :=
  { live with sites := [(0, { Site.reset 0 with isl := onIsl, tile := some (1, 0) }), (15, { Site.reset 15 with isl := onIsl })], cmds := [c] }

/-- Site 0 in a state, asked to be eclipsed gracefully, and a moon in a state. -/
def fading (st moon : PState) : State :=
  { live with sites := [(0, { Site.reset 0 with isl := ⟨st, 1⟩, graceful := true }), (15, { Site.reset 15 with isl := ⟨moon, 1⟩ })] }

theorem wit_FaultsFenceACore :
    (canFence (suspect (faulty [1])) 0 = true ∧ ((suspect (faulty [1])).site 0).tile = some (1, 0) ∧ faultedOn (suspect (faulty [1])) 1 0 < 2) ∧
    (canFence (suspect (faulty [1, 2])) 0 = true ∧ ((suspect (faulty [1, 2])).site 0).tile = some (1, 0) ∧
      (suspect (faulty [1, 2])).cmd? 1 = some (faulty [1, 2]) ∧ 2 ≤ faultedOn (suspect (faulty [1, 2])) 1 0) ∧
    (canFence live 0 = true ∧ (live.site 0).tile = none) ∧
    (0 < 256 ∧ (live.site 0).fenced = false ∧ (live.site 0).isl.state = .on ∧ ((fading .quiescing .on).site 0).isl.state = .quiescing ∧
      ((fading .retention .on).site 0).isl.state = .retention ∧ ((fading .quiescing .on).site 0).fenced = false) ∧
    (∀ m, m = .on ∨ m = .off ∨ m = .test → ∀ s, s = fading .on m → (s.site 0).lcore = some 0 ∧ (s.site 0).graceful = true ∧ canFence s 0 = true ∧
      (s.site 0).tile = none ∧ moonReady s (0 / 16) = true ∧ 0 % 16 ≠ 15 ∧ holdsWrite s 0 = false ∧ fencedIn s (0 / 16) = false ∧ (s.site (0 / 16 * 16 + 15)).isl.state = m ∧
      (s.site (0 / 16 * 16 + 15)).resetting = false) := by
  refine ⟨by decide +kernel, by decide +kernel, by decide +kernel, by decide +kernel, ?_⟩
  rintro m (rfl | rfl | rfl) s rfl <;> decide +kernel

/-- Site 3 fenced, with a moon in the given island state. -/
def fencedSite (moon : PState) : State :=
  { live with sites := [(3, { Site.reset 3 with isl := onIsl, fenced := true }), (15, { Site.reset 15 with isl := ⟨moon, 1⟩ })] }

theorem wit_EclipsesFollowTheirSteps :
    (∀ m, m = .on ∨ m = .off → ((fencedSite m).site 3).fenced = true ∧ ((fencedSite m).site 3).resetting = false ∧
      ((fencedSite m).site 3).lcore = some 3 ∧ (fencedSite m).attn.counts.length = 11) ∧
    (∀ m, m = .on ∨ m = .off → moonReady (fencedSite m) (3 / 16) = true ∧ lowerFenced (fencedSite m) 3 = false ∧ 3 % 16 ≠ 15 ∧
      3 % 15 < ((fencedSite m).cluster (3 / 16)).map.length ∧ ((fencedSite m).site (3 / 16 * 16 + 15)).isl.state = m) ∧
    (∀ s, s = { fencedSite .on with clusters := [(0, { Cluster.reset with moonFree := false })] } → moonReady s (3 / 16) = false) ∧
    (∀ s, s = { live with sites := [(2, { Site.reset 2 with isl := onIsl, fenced := true }), (3, { Site.reset 3 with isl := onIsl, fenced := true })] } →
      (s.site 3).fenced = true ∧ lowerFenced s 3 = true) ∧
    (∀ s, s = { live with sites := [(15, { Site.reset 15 with isl := onIsl, fenced := true, lcore := some 3 })] } →
      (s.site 15).fenced = true ∧ (s.site 15).resetting = false ∧ (s.site 15).lcore = some 3 ∧ 15 % 16 = 15) := by
  refine ⟨?_, ?_, ?_, ?_, ?_⟩
  · rintro m (rfl | rfl) <;> decide +kernel
  · rintro m (rfl | rfl) <;> decide +kernel
  · rintro s rfl; decide +kernel
  · rintro s rfl; decide +kernel
  · rintro s rfl; decide +kernel

theorem wit_FatalErrorsTakeTheirIsland :
    (3 < 4 ∧ live.svc.length = 4 ∧ live.comp.length = 4 ∧ (live.svcIsl 3).state ≠ .off) ∧ live.hub.state ≠ .off ∧
    (pageExists 0x0B00 = true ∧ (pageIsl live 0x0B00).state ≠ .off ∧ live.retryPending.contains (0x0B00, ⟨7, 1⟩) = false ∧ fatalIsland 0x0B00 = .hub) ∧
    ({ live with retryPending := [(0x0B00, ⟨7, 1⟩)] } : State).retryPending.contains (0x0B00, ⟨7, 1⟩) = true ∧
    (∀ k < 14, live.dev.clkLock.getLsbD k = true) := by decide +kernel

/-- Site 0, and tile 0, in a power state; every site of tile 0 with it. -/
def siteIn (st : PState) (h : PageHdr) : State :=
  { live with sites := [(0, { Site.reset 0 with isl := ⟨st, 1⟩ })], hdrs := [(0x0500, h)] }
def tileIn (st : PState) : State :=
  { live with comp := updAt live.comp 0 (fun _ => ⟨st, 1⟩), sites := [(0, { Site.reset 0 with isl := ⟨st, 1⟩ })],
              pwr := { Pwr.reset with park10 := 1, idleMs := [10, 0, 0, 0] } }

theorem wit_IslandsReturnWakeAndPark :
    (∀ st, st = .off ∨ st = .test → (siteIn st PageHdr.reset).dev.ready = true ∧ ((siteIn st PageHdr.reset).site 0).isl.state = st ∧
      enabledByCtrl (siteIn st PageHdr.reset) (.site 0) = true ∧ dependsOk (siteIn st PageHdr.reset) (.site 0) = true ∧
      ((siteIn st PageHdr.reset).site 0).lcore = some 0 ∧ 0 % 15 < ((siteIn st PageHdr.reset).cluster (0 / 16)).present.length) ∧
    (∀ s, s = { twinned 0 0 2 with hub := ⟨.off, 1⟩ } → s.dev.ready = true ∧ s.hub.state = .off ∧ s.tlc.pair.isSome = true) ∧
    ((tileIn .retention).comp.length = 4 ∧ (tileIn .retention).pwr.vcur.length = 4 ∧ ((tileIn .retention).compIsl 0).state = .retention ∧ dependsOk (tileIn .retention) (.compute 0) = true ∧
      ((tileIn .retention).site 0).isl.state = .retention) ∧
    ((tileIn .on).comp.length = 4 ∧ (tileIn .on).pwr.vcur.length = 4 ∧ ((tileIn .on).compIsl 0).state = .on ∧ (tileIn .on).pwr.park10 ≠ 0 ∧
      10 * (tileIn .on).pwr.park10 ≤ (tileIn .on).pwr.idleMs.getD 0 0 ∧ tileIdle (tileIn .on) 0 = true ∧ ((tileIn .on).site 0).isl.state = .on) ∧
    (∀ h, h = { PageHdr.reset with enable := false } ∨ h = { PageHdr.reset with softReset := true } →
      ((siteIn .quiescing h).site 0).isl.state = .quiescing ∧ ((siteIn .quiescing h).site 0).tile = none ∧ holdsWrite (siteIn .quiescing h) 0 = false ∧
      (((siteIn .quiescing h).hdr 0x0500).enable = false ∨ ((siteIn .quiescing h).hdr 0x0500).softReset = true) ∧
      ((siteIn .quiescing h).site 0).fenced = false ∧ dependsOk (siteIn .quiescing h) (.site 0) = true) := by
  refine ⟨?_, ?_, by decide +kernel, by decide +kernel, ?_⟩
  · rintro st (rfl | rfl) <;> decide +kernel
  · rintro s rfl; decide +kernel
  · rintro h (rfl | rfl) <;> decide +kernel

/-- A sample of 351 W under a limit of 350 W. -/
def hot : PowerSample := ⟨3510, [500, 500, 500, 500], 400⟩
def avs (n : Nat) : State := { live with pwr := { Pwr.reset with avsFails := [0, 0, 0, n] } }

theorem wit_GovernorHoldsItsLimits :
    (live.dev.porstLow = false ∧ live.pwr.fcur.length = 4 ∧ (∀ k ∈ live.pwr.fcur, k ≤ 16) ∧ 10 * live.pwr.limitW < hot.powerDw ∧ 3 < 4 ∧
      ((tileIn .retention).compIsl 0).state = .retention) ∧
    (∀ a b, a ≤ b → curveAt [600, 650, 700] a ≤ curveAt [600, 650, 700] b) ∧
    (∀ n, n = 1 ∨ n = 2 → (avs n).pwr.avsFails.length = 4 ∧ (avs n).pwr.avsCurrentMa.length = 4 ∧ (avs n).pwr.avsFails.getD 3 0 = n) := by
  refine ⟨by decide +kernel, ?_, ?_⟩
  · rintro (_ | _ | _ | a) (_ | _ | _ | b) h <;> simp [curveAt] at h ⊢
  · rintro n (rfl | rfl) <;> decide +kernel

def withMgc (f : Mgc → Mgc) : State := { live with mgc := f live.mgc }

theorem wit_PresenceAndSeal :
    live.dev.porstLow = false ∧ (withMgc (fun m => { m with sealOpenRun := 8 })).mgc.sealOpenRun + 1 < 10 ∧
    (10 ≤ (withMgc (fun m => { m with sealOpenRun := 9 })).mgc.sealOpenRun + 1 ∧ live.dev.sealBroken = false) ∧
    ({ live with dev := { live.dev with sealBroken := true } } : State).dev.sealBroken = true ∧
    (live.mgc.btnArmed = true ∧ live.mgc.windowOpen = false) ∧ (withMgc (fun m => { m with windowOpen := true })).mgc.windowOpen = true ∧
    (withMgc (fun m => { m with btnArmed := false })).mgc.btnArmed = false := by decide +kernel

def logged : State := { live with logs := updAt live.logs 5 (fun _ => ⟨[⟨7, 7, 2, 0, 4, 1, 0, 0⟩, ⟨1, 1, 2, 0, 5, 1, 0, 0⟩], 0, [0, 1]⟩) }

theorem wit_TelemetryShadowAndLogs :
    (live.mgc.thresholds[7]?).isSome = true ∧
    (live.dev.porstLow = false ∧ 0x0500 ∈ allPages ∧ powered live 0x0500 = true ∧ 0x0501 ∈ allPages ∧ powered live 0x0501 = false) ∧
    (∀ l, l = logged.logs.getD 5 Log.empty → logged.logs[5]? = some l ∧ 1 ∈ l.opened ∧ (∃ e, l.slots[1]? = some e ∧
      (∀ j ∈ l.opened, ∀ f ∈ l.slots[j]?, e.firstNs ≤ f.firstNs))) ∧
    (live.logs[5]? = some Log.empty ∧ Log.empty.opened = []) := by
  refine ⟨by decide +kernel, by decide +kernel, ?_, by decide +kernel⟩
  rintro l rfl
  exact ⟨by decide +kernel, by decide +kernel, _, rfl, by decide +kernel⟩

/-- A prediction for site 0 whose lower bound is 29 days. -/
def wornUnit : WearUnit := ⟨4, 0, 29, 60, 0⟩
/-- A block whose site 0 was measured 100 days ago. -/
def aged : State := { live with wear := { live.wear with history := [⟨4, 0, 0, 5⟩], pastNs := 100 * dayNs } }

theorem wit_WearIsMeasuredAndKept :
    (0 < 256 ∧ (live.site 0).tile = none ∧ (live.site 0).isl.state = .on) ∧ (35 < 36 ∧ live.hub.state = .on) ∧
    (wornUnit.kind ≠ 0 ∧ wornUnit.kind = 4 ∧ wornUnit.index < 256 ∧ (codedUnit { wornUnit with historyDays := historyDays aged 4 0 }).lo < 30 ∧ (aged.cluster (wornUnit.index / 16)).moonFree = true ∧
      (aged.site wornUnit.index).isl.state ≠ .eclipsed) ∧
    (alFind 0 live.sites).isSome = true ∧ (live.site 1).isl.state = .off ∧ 900 < ([901, 0, 0, 0] : List Nat).getD (0 / 64) 0 := by decide +kernel

/-! Statements 47 to 60: management, staging, registers, resets, numbers, results of operators. -/

/-- A management request: operation, tag 3, payload. -/
def msg (op : Nat) (p : List Byte) : List Byte := fields 16 [(0, 1, 1), (1, 1, op), (2, 2, 3), (8, 2, p.length)] ++ p

/-- A payload that each operation takes. -/
def payload (op : Nat) : List Byte :=
  match op with
  | 0x01 => fields 8 [(0, 2, 0x0100), (2, 2, 0), (4, 2, 1)]
  | 0x02 => fields 16 [(0, 2, 0x0100), (2, 2, 0x040)]
  | 0x03 => fields 4 [(0, 2, 1)]
  | 0x04 => fields 8 [(0, 1, 5), (1, 1, 1), (4, 2, 31)]
  | 0x05 => fields 8 [(0, 1, 10), (4, 4, 1)]
  | 0x06 => fields 2 [(0, 2, 0x0100)]
  | 0x08 => fields 9 []
  | 0x40 => fields 4 [(0, 4, 4096)]
  | 0x42 => fields 12 [(4, 8, 9)]
  | 0x44 => fields 8 [(0, 1, 3), (4, 4, 1)]
  | _ => []

def port : MmpSrc := .udp 7

theorem mmpRuns {s : State} {op : Nat} {m : List Byte} (h : byteAt m 1 = op ∧ 16 ≤ m.length ∧ byteAt m 6 % 2 = 0 ∧ mmpForm m = true ∧
    cachedReply s port m = none ∧ s.dev.porstLow = false ∧ s.mgc.recovery = false) : MmpRuns s port m op :=
  ⟨h.1, h.2.1, h.2.2.1, h.2.2.2.1, h.2.2.2.2.1, h.2.2.2.2.2.1, h.2.2.2.2.2.2⟩

theorem runs_all : ∀ r ∈ mmpRows, MmpRuns live port (msg r.1 (payload r.1)) r.1 := by
  intro r h
  have k : ∀ r ∈ mmpRows, byteAt (msg r.1 (payload r.1)) 1 = r.1 ∧ 16 ≤ (msg r.1 (payload r.1)).length ∧
    byteAt (msg r.1 (payload r.1)) 6 % 2 = 0 ∧ mmpForm (msg r.1 (payload r.1)) = true ∧
    cachedReply live port (msg r.1 (payload r.1)) = none ∧ live.dev.porstLow = false ∧ live.mgc.recovery = false := by decide +kernel
  exact mmpRuns (k r h)

/-- A state of the management core, in which the requests above run as well. -/
theorem runs_with {f : Mgc → Mgc} {op : Nat} (h : (mmpForm (msg op (payload op)) = true ∧ 16 ≤ (msg op (payload op)).length) ∧ byteAt (msg op (payload op)) 1 = op ∧
    byteAt (msg op (payload op)) 6 % 2 = 0 ∧ (f live.mgc).cache = [] ∧ (f live.mgc).recovery = false) :
    MmpRuns (withMgc f) port (msg op (payload op)) op :=
  ⟨h.2.1, h.1.2, h.2.2.1, h.1.1, by simp [cachedReply, withMgc, h.2.2.2.1], rfl, h.2.2.2.2⟩

theorem wit_RequestsRunOnceAndAreRemembered :
    (∀ r ∈ mmpRows, MmpRuns live port (msg r.1 (payload r.1)) r.1) ∧
    (∀ r ∈ mmpRows, cachedReply (withMgc (fun m => { m with cache := [⟨port, 3, msg r.1 (payload r.1), [1], 0⟩] })) port (msg r.1 (payload r.1)) =
      some [1]) ∧
    (mmpForm (fields 16 [(0, 1, 2)]) = false ∧ 16 ≤ (fields 16 [(0, 1, 2)]).length ∧ byteAt (fields 16 [(0, 1, 2)]) 6 % 2 = 0 ∧
      cachedReply live port (fields 16 [(0, 1, 2)]) = none ∧ live.dev.porstLow = false) ∧
    (mmpForm (fields 16 [(0, 1, 1), (6, 1, 1)]) = false ∧ byteAt (fields 16 [(0, 1, 1), (6, 1, 1)]) 6 % 2 = 1) :=
  ⟨runs_all, by decide +kernel, by decide +kernel, by decide +kernel⟩

/-- READ_REG of page 0x00FF, of the page of a site that is OFF, and of page 0x0100. -/
def readOf (p : Nat) : List Byte := fields 8 [(0, 2, p), (4, 2, 1)]

theorem wit_ReadsAnswerWhatStands :
    (∀ p, p = 0x00FF ∨ p = 0x0E01 ∨ p = 0x0100 → MmpRuns live port (msg 0x01 (readOf p)) 0x01 ∧ (msg 0x01 (readOf p)).drop 16 = readOf p) ∧
    (pageExists 0x00FF = false ∧ pageExists 0x0100 = true ∧ (respondsNow live 0x0100).1 = true ∧ (readWords true 0x0100 1 0 live).isSome = true) ∧
    (∀ s, s = { live with hub := ⟨.off, 1⟩ } → MmpRuns s port (msg 0x01 (fields 8 [(0, 2, 0x0B00), (2, 2, 0x040), (4, 2, 1)])) 0x01 ∧
      pageExists 0x0B00 = true ∧ (respondsNow s 0x0B00).1 = false ∧ readWords false 0x0B00 1 0x040 s = none ∧ powered s 0x0B00 = false) ∧
    MmpRuns live port (msg 0x03 (payload 0x03)) 0x03 ∧
    (MmpRuns live port (msg 0x04 (payload 0x04)) 0x04 ∧ (live.logs[byteAt (payload 0x04) 0]?).isSome = true) := by
  refine ⟨?_, by decide +kernel, ?_, runs_all (0x03, .readTelemetry) (by simp [mmpRows]), runs_all (0x04, .readLog) (by simp [mmpRows]),
    by decide +kernel⟩
  · rintro p (rfl | rfl | rfl) <;> exact ⟨mmpRuns (by decide +kernel), by decide +kernel⟩
  · rintro s rfl; exact ⟨mmpRuns (by decide +kernel), by decide +kernel, by decide +kernel⟩

def attnPending : State := { live with attn := { Attn.reset with pending := 0x0400, counts := updAt Attn.reset.counts 10 (fun _ => 1) } }

theorem wit_OperatorWritesAndAcks :
    MmpRuns live port (msg 0x02 (payload 0x02)) 0x02 ∧
    (MmpRuns attnPending port (msg 0x05 (payload 0x05)) 0x05 ∧ (payload 0x05).length = 8 ∧
      attnPending.attn.pending.getLsbD (byteAt (payload 0x05) 0) = true ∧
      (attnPending.attn.counts.getD (byteAt (payload 0x05) 0) 0).toNat = leAt (payload 0x05) 4 4) ∧
    (MmpRuns live port (msg 0x05 (payload 0x05)) 0x05 ∧ live.attn.pending.getLsbD (byteAt (payload 0x05) 0) = false) ∧
    (MmpRuns live port (msg 0x06 (payload 0x06)) 0x06 ∧ islandArg (leAt (payload 0x06) 0 2) = some (.site 0) ∧ canFence live 0 = true ∧
      (live.site 0).resetting = false) ∧
    (MmpRuns live port (msg 0x06 (fields 2 [])) 0x06 ∧ islandArg (leAt (fields 2 []) 0 2) = some .hub ∧ live.hub.state ≠ .off) ∧
    (MmpRuns live port (msg 0x07 []) 0x07 ∧ live.tlc.pair = none) ∧
    (∀ s, s = { twinned 1 0 3 with hub := ⟨.off, 1⟩ } → MmpRuns s port (msg 0x07 []) 0x07 ∧ s.tlc.pair = some (pairRec 1 0) ∧
      (respondsNow s 0x0C00).1 = false) ∧
    (MmpRuns (twinned 1 0 3) port (msg 0x07 []) 0x07 ∧ (twinned 1 0 3).tlc.pair = some (pairRec 1 0) ∧ (twinned 1 0 3).hub.state = .on ∧
      1 ≤ (twinned 1 0 3).tlc.tstate ∧ (twinned 1 0 3).tlc.tstate ≤ 3 ∧ (twinned 1 0 3).tlc.linkUp = true) := by
  refine ⟨mmpRuns (by decide +kernel), ⟨mmpRuns (by decide +kernel), by decide +kernel⟩, ⟨mmpRuns (by decide +kernel), by decide +kernel⟩,
    ⟨mmpRuns (by decide +kernel), by decide +kernel⟩, ⟨mmpRuns (by decide +kernel), by decide +kernel⟩,
    ⟨mmpRuns (by decide +kernel), by decide +kernel⟩, ?_, mmpRuns (by decide +kernel), by decide +kernel⟩
  rintro s rfl; exact ⟨mmpRuns (by decide +kernel), by decide +kernel⟩

/-- A staging session of 64 bytes in a state, with the bytes received so far; a good image header. -/
def staging (n : Nat) (b : List Byte) (m : Mgc) : Mgc := { m with stage := n, stageBytes := 64, received := b }
def goodImage : List Byte := fields 64 [(0, 2, 1), (4, 4, 0x10001), (8, 4, 64)]

theorem wit_StagingMovesThroughItsStates :
    (MmpRuns (withMgc (staging 2 [])) port (msg 0x08 (payload 0x08)) 0x08 ∧ leAt (payload 0x08) 0 4 = 0 ∧ 0 + ((payload 0x08).length - 8) ≤ 64) ∧
    MmpRuns (withMgc (staging 1 [])) port (msg 0x08 (payload 0x08)) 0x08 ∧
    (MmpRuns (withMgc (staging 2 goodImage)) port (msg 0x09 (payload 0x09)) 0x09 ∧ goodImage.length = 64) ∧
    (MmpRuns (withMgc (staging 2 [])) port (msg 0x09 (payload 0x09)) 0x09 ∧ ([] : List Byte).length ≠ 64) ∧
    MmpRuns (withMgc (staging 0 [])) port (msg 0x09 (payload 0x09)) 0x09 ∧
    MmpRuns (withMgc (staging 4 [])) port (msg 0x0A (payload 0x0A)) 0x0A ∧
    imageOk live.dev (staging 3 goodImage live.mgc) = true ∧ imageOk live.dev (staging 3 [] live.mgc) = false :=
  ⟨⟨runs_with (by decide +kernel), by decide +kernel⟩, runs_with (by decide +kernel), ⟨runs_with (by decide +kernel), by decide +kernel⟩,
    ⟨runs_with (by decide +kernel), by decide⟩, runs_with (by decide +kernel), runs_with (by decide +kernel), by decide +kernel, by decide +kernel⟩

def sealing (window jumper broken : Bool) : State :=
  { live with dev := { live.dev with sealBroken := broken }, mgc := { live.mgc with windowOpen := window, labJmp := jumper } }

theorem wit_SealedCommandsNeedPresence :
    (∀ r ∈ sealedRows, MmpRuns live port (msg r.1 (payload r.1)) r.1 ∧ live.mgc.windowOpen = false ∧ live.mgc.labJmp = false ∧
      live.dev.sealBroken = false) ∧
    (∀ r ∈ sealedRows, ∀ w j b, cachedReply (sealing w j b) port (msg r.1 (payload r.1)) = none ∧ (sealing w j b).dev.porstLow = false ∧
      (sealing w j b).mgc.recovery = false ∧ (sealing w j b).mgc.windowOpen = w ∧ (sealing w j b).mgc.labJmp = j ∧ (sealing w j b).dev.sealBroken = b) ∧
    (∃ r ∈ sealedRows, r.1 = 0x44) ∧ (∃ r ∈ sealedRows, r.1 = 0x42) ∧ (∃ r ∈ sealedRows, r.1 ≠ 0x44 ∧ r.1 ≠ 0x42) := by
  refine ⟨?_, by decide +kernel, ⟨(0x44, .programFuses), by simp [sealedRows], rfl⟩, ⟨(0x42, .pairTwin), by simp [sealedRows], rfl⟩,
    ⟨(0x40, .stageFirmware), by simp [sealedRows], by decide⟩⟩
  intro r h
  refine ⟨runs_all r ?_, rfl, rfl, rfl⟩
  simp only [sealedRows, mmpRows, List.mem_cons, List.not_mem_nil, or_false] at h ⊢
  tauto

theorem wit_AdmittedSealedCommandsAct :
    (∀ r ∈ sealedRows, MmpRuns (withMgc (fun m => { m with windowOpen := true, stage := 4 })) port (msg r.1 (payload r.1)) r.1) ∧
    (∀ r ∈ sealedRows, admission (withMgc (fun m => { m with windowOpen := true, stage := 4 })) r.1 = .ok 0) ∧
    admission (withMgc (fun m => { m with labJmp := true })) 0x40 = .ok 1 ∧
    (withMgc (fun m => { m with windowOpen := true, stage := 4 })).mgc.captureBusy = false ∧
    (withMgc (fun m => { m with windowOpen := true, stage := 4 })).mgc.stage = 4 ∧
    (∀ k, k = 0 ∨ k = 1 ∨ k = 2 ∨ k = 3 → mmpForm (msg 0x44 (fields 8 [(0, 1, k), (4, 4, 1)])) = true ∧ byteAt (fields 8 [(0, 1, k), (4, 4, 1)]) 0 = k) := by
  refine ⟨?_, by decide +kernel, by decide +kernel, rfl, rfl, ?_⟩
  · have k : ∀ r ∈ sealedRows, (mmpForm (msg r.1 (payload r.1)) = true ∧ 16 ≤ (msg r.1 (payload r.1)).length) ∧ byteAt (msg r.1 (payload r.1)) 1 = r.1 ∧
      byteAt (msg r.1 (payload r.1)) 6 % 2 = 0 := by decide +kernel
    intro r h
    exact runs_with ⟨(k r h).1, (k r h).2.1, (k r h).2.2, rfl, rfl⟩
  · rintro k (rfl | rfl | rfl | rfl) <;> decide +kernel

theorem wit_CountersClearFreezeAndReadWhole :
    (answers live 0x0500 = true ∧ (live.site 0).tile = none ∧ answers live 0x0501 = false) ∧
    (∀ b, answers (tiled b) 0x0500 = true ∧ ((tiled b).site 0).tile = some (1, 0) ∧ ((tiled b).site 0).freeze = b) ∧
    (∀ p o, (p, o) = (0x0500, 0x060) ∨ (p, o) = (0x0B00, 0x050) → pageExists p = true ∧ powered live p = true ∧ o < 0x1000 ∧ o % 4 = 0 ∧
      isLowWord p o = true ∧ isLowWord p (o + 4) = false) ∧ isCorePage 0x0B00 = false := by
  refine ⟨by decide +kernel, by decide +kernel, ?_, by decide +kernel⟩
  rintro p o (h | h) <;> cases h <;> decide +kernel

theorem wit_RegisterWritesReachTheirFields :
    live.hub.state = .on ∧ (0xFFC < 0x1000 ∧ 0xFFC % 4 = 0 ∧ 0x064 ≤ 0xFFC) ∧ (pageExists 0x13FF = false ∧ pageExists 0x0500 = true ∧ answers live 0x0500 = true) ∧
    (0x041 < 0x1000 ∧ 0x041 % 4 ≠ 0) := by decide +kernel

theorem wit_PowerRequestsMoveIslands :
    ((siteIn .on PageHdr.reset).site 0).isl.state = .on ∧ ((siteIn .on PageHdr.reset).site 0).fenced = false ∧ ((siteIn .on PageHdr.reset).hdr 0x0500).quiesce = false ∧
    (((siteIn .off PageHdr.reset).site 0).isl.state = .off ∧ dependsOk (siteIn .off PageHdr.reset) (.site 0) = true) ∧
    (((siteIn .quiescing { PageHdr.reset with enable := false }).site 0).isl.state = .quiescing ∧
      ((siteIn .quiescing { PageHdr.reset with enable := false }).hdr 0x0500).quiesce = false ∧
      ((siteIn .quiescing { PageHdr.reset with enable := false }).hdr 0x0500).softReset = false ∧
      dependsOk (siteIn .quiescing { PageHdr.reset with enable := false }) (.site 0) = true ∧
      ((siteIn .quiescing { PageHdr.reset with enable := false }).site 0).fenced = false) ∧ canFence live 0 = true ∧
    (((fencedSite .on).site 3).fenced = true ∧ ((fencedSite .on).site 3).isl.state ≠ .off) := by decide +kernel

theorem wit_ResetsKeepWhatFlashAndFusesHold :
    (1000 ≤ 1000 ∧ live.dev.porstLow = false ∧ live.dev.thermtrip = false) ∧ 999 < 1000 ∧ State.reset.dev.porstLow = true ∧
    ({ live with dev := { live.dev with thermtrip := true } } : State).dev.thermtrip = true := by decide +kernel

/-- A boot whose first step fails `n` times, with slots that verify or not. -/
def report (n : Nat) (ok : Bool) : BootReport := ⟨ok, ok, [n], [], false, 0, 0, 0, 0, 0, 0, false, 100⟩

theorem wit_BootsReachReadyOrHalt :
    (∀ s, s = State.reset → s.dev.porstLow = true ∧ s.svc.length = 4 ∧ s.comp.length = 4 ∧ s.stk.length = 4 ∧ s.mgc.halted = false ∧
      s.dev.capMem = 2 ∧ (∀ k, (report 0 true).stepFailures.getD k 0 = 0) ∧ slotVerifies s (report 0 true) s.mgc.preferred = true ∧
      (s.mgc.slot s.mgc.preferred).failedBoots < 2 ∧ s.tlc.recFlash = none) ∧
    (State.reset.dev.ready = false ∧ 2 ≤ (report 2 true).stepFailures.getD 0 0) ∧
    ((∀ k, (report 0 false).stepFailures.getD k 0 = 0) ∧ State.reset.mgc.preferred ≤ 1 ∧ slotVerifies State.reset (report 0 false) 0 = false ∧
      slotVerifies State.reset (report 0 false) 1 = false) ∧
    (∀ s, s = { live with dev := { live.dev with warmLow := true, ready := false, capMem := 1 } } → s.dev.warmLow = true ∧ s.dev.porstLow = false ∧
      s.mgc.recovery = false ∧ s.mgc.halted = false ∧ s.svc.length = 4 ∧ s.comp.length = 4 ∧ s.stk.length = 4 ∧ s.dev.capMem = 1 ∧ s.tlc.recFlash = none) ∧
    (∀ s, s = { State.reset with mgc := { Mgc.reset with step := 7 } } → s.mgc.step = 7 ∧ s.dev.ready = false ∧ s.mgc.halted = false) := by
  have zero : ∀ b k, (report 0 b).stepFailures.getD k 0 = 0 := by
    intro b k
    cases k <;> simp [report]
  refine ⟨?_, by decide +kernel, ⟨zero false, by decide +kernel⟩, ?_, ?_⟩
  · rintro s rfl; exact ⟨rfl, rfl, rfl, rfl, rfl, rfl, zero true, by decide +kernel, by decide +kernel, rfl⟩
  · rintro s rfl; decide +kernel
  · rintro s rfl; decide +kernel

theorem wit_FloatsRoundTrip : (0x7F80 : Nat) < 2 ^ (1 + bf16L.ew + bf16L.mw) ∧ decodeFloat bf16L 0x7F80 ≠ .nan ∧ decodeFloat bf16L 0xFFFF = .nan := by
  decide +kernel

theorem wit_WritesReadBack :
    Memory.wf [(1, 5), (7, 6)] = true ∧ (mapped live).ms.badLines = [] ∧ Memory.wf (mapped live).ms.mem = true ∧
    writeTarget (mapped live) 0x3FFFFF = .pa 0x5FFFFF ∧ ([(0x3FFFFF, 9)] : List (Nat × Byte)).getLast? = some (0x3FFFFF, 9) := by decide +kernel

/-- A hidden key picture of 64 by 64 samples, which are not written. -/
def hiddenPic : Picture :=
  { headerOk := true, inLimits := true, keyed := true, newSequence := true, shown := false, existing := none,
    geom := ⟨64, 64, 64, 64, 0, 0, 64, 64, false, false, 0, 6⟩, luma := List.replicate 4096 0, cb := [], cr := [], concealed := [], refs := [],
    keep := [], store := [], grain := false, displayIdx := 0, bytesUsed := 0, boundsHits := 0, runUs := 0 }

/-- A page of WORK memory under a codec command. -/
def coding (c : Cmd) : State := { mapped (inflight c) with models := [workModel] }

/-- A FORK, or RELEASE, of one page, and the sequence memory of its source and target. -/
def forkCmd (release : Bool) : Cmd :=
  cmdOf [unit [(0, 1, 0x13), (8, 1, if release then 1 else 0), (14, 2, 1), (16, 2, 1), (18, 2, 1), (24, 6, if release then 0 else 0x200000), (32, 6, 0x400000)]]
def forking (release : Bool) : State := { mapped (inflight (forkCmd release)) with models := [⟨1, [⟨0x200000, 0x800000, 2⟩], [], 0, 0, false⟩] }

/-- A SAMPLE_STEP of four BF16 values with a row of zeros. -/
def latent (base : Nat) : Unit64 := unit [(0, 6, base), (6, 1, 1), (7, 1, 3), (8, 4, 1), (12, 4, 1), (16, 4, 4), (32, 4, 4), (36, 4, 4), (40, 4, 1)]
def stepCmd : Cmd :=
  cmdOf [unit [(0, 1, 9), (1, 1, 3), (8, 1, 0x38), (16, 3, 1), (24, 6, 0x20C000), (52, 1, 1), (58, 2, 1)], latent 0x210000, latent 0x214000, latent 0x218000]

/-- Whether a command reads nothing that is being written meanwhile. -/
def calm {α : Type} (s : State) (c : Cmd) (f : α → OpOut) (r : Except Err α) : Bool :=
  match r with
  | .ok o => (f o).writes.all (fun w => !racesAt s c w.1) && (staleBytes s c).isEmpty
  | .error _ => false

theorem fine_calm {α : Type} {s : State} {c : Cmd} {f : α → OpOut} {r : Except Err α} (h : fine s f r = true)
    (k : calm s c f r = true) : ∃ o, r = .ok o ∧ CanWrite s (f o).writes ∧ Quiet s c (f o) := by
  obtain ⟨o, rfl, hw⟩ := fine_ok h
  simp only [calm, Bool.and_eq_true, List.all_eq_true, List.isEmpty_iff, Bool.not_eq_true'] at k
  exact ⟨o, rfl, hw, ⟨k.1, k.2⟩⟩

theorem wit_OperatorResultsReachMemory :
    (opReady copying 1 0x0E = some copyCmd ∧
      ∃ o, pureBody copyBody (copying.accessing copyCmd) copyCmd = (copying.accessing copyCmd, .ok o) ∧ CanWrite (copying.accessing copyCmd) o.writes ∧
        Quiet (copying.accessing copyCmd) copyCmd o ∧ o.err = none) ∧
    (opReady (forking false) 1 0x13 = some (forkCmd false) ∧ (parseFk (forkCmd false).u0).release = false ∧
      (forkBody ((forking false).accessing (forkCmd false)) (forkCmd false)).2 = .ok (OpOut.just .ok)) ∧
    (opReady (forking true) 1 0x13 = some (forkCmd true) ∧ (parseFk (forkCmd true).u0).release = true ∧
      (releaseBody ((forking true).accessing (forkCmd true)) (forkCmd true)).2 = .ok (OpOut.just .ok)) ∧
    (∀ q, q = (coding stepCmd).accessing stepCmd → opReady (coding stepCmd) 1 0x09 = some stepCmd ∧
      ∃ o, ssBody q stepCmd [] = .ok o ∧ CanWrite q o.1.out.writes ∧ Quiet q stepCmd o.1.out) ∧
    (∀ c, c = decCmd (onEngine 0 false) → ∀ q, q = (coding c).accessing c → opReady (coding c) 1 0x11 = some c ∧
      (c.codec.bind CodecRun.engine).isSome = true ∧ ∃ o, decBody q c hiddenPic = .ok o ∧ CanWrite q o.out.writes) ∧
    (∀ c, c = encCmd 0 (onEngine 4 true) → ∀ q, q = (coding c).accessing c → opReady (coding c) 1 0x12 = some c ∧
      c.codec = some (onEngine 4 true) ∧ (onEngine 4 true).engine.isSome = true ∧ (onEngine 4 true).sampled = true ∧ (onEngine 4 true).holding = [] ∧
      ∃ o, encBody q c ⟨[([], [1, 2])], 30⟩ = .ok o ∧ CanWrite q o.out.writes) := by
  refine ⟨⟨by decide +kernel, ?_⟩, by decide +kernel, by decide +kernel, ?_, ?_, ?_⟩
  · have h : fine (copying.accessing copyCmd) id (copyBody (copying.accessing copyCmd) copyCmd) = true := by decide +kernel
    obtain ⟨o, ho, hw, hq⟩ := fine_calm (c := copyCmd) h (by decide +kernel)
    have e : (copyBody (copying.accessing copyCmd) copyCmd).map OpOut.err = .ok none := by decide +kernel
    rw [ho] at e
    exact ⟨o, by rw [pureBody, ho], hw, hq, by simpa [Except.map] using e⟩
  · rintro q rfl
    exact ⟨by decide +kernel, fine_calm (f := fun (o : SsOut × List (Nat × Staging)) => o.1.out) (by decide +kernel) (by decide +kernel)⟩
  · rintro c rfl q rfl; exact ⟨by decide +kernel, rfl, fine_ok (f := CodecOut.out) (by decide +kernel)⟩
  · rintro c rfl q rfl; exact ⟨by decide +kernel, rfl, rfl, rfl, rfl, fine_ok (f := CodecOut.out) (by decide +kernel)⟩
/-! Well-formedness: an ill-formed term for each check, refused. -/

/-- Ill-formed commands, one for each bound of `Instr.wf`. -/
def illContexts : List Instr :=
  [.nop 65536, .orbitBegin 65536, .orbitEnd 65536, .setPred 65536, .jumpIf 65536, .waitEvent 65536, .signalEvent 65536,
   .callGraph 65536, .ret 65536, .prefetch 65536, .fence 65536, .scalarOp 65536, .timestamp 65536, .commandIssue 65536,
   .checkpointCommit 65536, .runGraph 65536, .graphEnd 65536, .outputsAcknowledged 65536, .instanceAcquire 65536,
   .unloadModel 65536, .restoreComplete 65536, .inputsPlaced 65536 [], .storeGraph 65536 [], .patchGraph 65536 [],
   .loadModel 65536 [] []]

def illUnits : List Instr :=
  [.partCommit 1 16, .partComplete 1 16, .tileDispatch 256, .eclipseWritesDelivered 256, .tileTimeLimit 256, .lsmErrorLimit 256,
   .gracefulEclipse 256, .quiesceTimeout 256, .coreArrCtrClear 256, .tileComplete 256 0 0 0, .coreArrCtrFreeze 256 true,
   .immediateEclipse 256 2, .immediateEclipse 0 4, .ringOscillatorMeasure 256 0, .walkComplete 17 0 true, .poolPageZeroFill 32768,
   .poolPageZeroFill 125, .scrub 256 [] [] 0, .scrub 0 [⟨64, [(10, 1)]⟩] [] 0, .scrub 0 [⟨64, [(0, 9)]⟩] [] 0, .dieMarkedFailed 256 0, .dieMarkedFailed 0 10, .ctuBudgetExpiry 4,
   .frameBudgetExpiry 4, .holdDeadline 1 4, .park 4, .pllLockLoss 14, .avsCurrentRead 4 true 0, .telemetryThreshold 8,
   .logEntryClose 6, .eyeMarginMeasure 36 0 0, .wearPrediction [⟨5, 0, 0, 0, 0⟩], .wearHourCount [500, 500, 500],
   .fatalError (.service 4) 1, .fatalError (.site 256) 1, .fatalError .hub 0, .fatalError .hub 0x26, .islandReturn (.compute 4) true, .wakeComplete (.stack 4) true]

def illRequests : List Instr :=
  [.abort (.ctx 65536), .flush (.send 1 []), .queryPlan (.send 1 (List.replicate 17 (List.replicate 64 0))), .query (.send 1 [[0]]),
   .doorbell 1 [(0, [0])] none none, .connectionSetup ⟨true, 0, 0, none, [0]⟩, .resume ⟨true, 0, 0, none, []⟩,
   .connectionSetup { joinOf 2 with dataOf := none }, .connectionSetup { joinOf 0 with addr := 2 ^ 128 },
   .codecDec 1 { hiddenPic with luma := [0] }]

def illFabric : List Instr :=
  [.digest (2 ^ 32) 0 0 0, .digest 0 (2 ^ 32) 0 0, .digest 0 0 32768 0, .go (2 ^ 32) 0 [] [], .mismatch 0 (2 ^ 32), .abandon (2 ^ 32) 0,
   .handshakeTimeout (2 ^ 32) 0, .dataTimeout 0 (2 ^ 32), .collectiveAbort 0 0 0, .frameCrcError 7 0,
   .linkTraining 6 ⟨4, (0, 0, 0), (1, 1, 1)⟩, .laneLoss 6 1, .laneLoss 0 5, .aliasAnnouncement 32768 0, .aliasRemoval 32768,
   .addressConflict (2 ^ 128), .addressHandBack (2 ^ 128), .linkReturn ⟨0, 0, 2, 0, 0, false, false, 0, 0⟩,
   .linkReturn ⟨0, 0, 0, 2, 0, false, false, 0, 0⟩, .linkReturn ⟨0, 0, 0, 0, 2 ^ 32, false, false, 0, 0⟩,
   .linkReturn ⟨0, 0, 0, 0, 0, false, false, 256, 0⟩, .linkReturn ⟨0, 0, 0, 0, 0, false, false, 0, 256⟩]

def shortMsgs : List Instr :=
  let m : List Byte := List.replicate 15 0
  let r : MmpSrc := .mctp 1
  [.readReg r m, .writeReg r m, .readTelemetry r m, .readLog r m, .ackAttn r m, .resetIsland r m, .forceTakeover r m, .stageData r m,
   .stageFinish r m, .discardStaged r m, .stageFirmware r m, .commitFirmware r m, .pairTwin r m, .unpair r m, .programFuses r m,
   .freezeCapture r m, .clearPresenceRecord r m, .mmpMalformed r m]

def illPages : List Instr :=
  [.messageParityError 0x1400 ⟨0, 0⟩, .messageParityError 0 ⟨0x1400, 0⟩, .quiesceComplete 0x1400, .softReset 0x1400, .eclipse 0x1400,
   .pgCtrlEnable 0x1400 true, .quiesceReq 0x1400 true, .pgEventClear 0x1400 0, .shadowRefresh [0x1400], .lowWordRead 9 0 0,
   .lowWordRead 0 0 2, .registerWrite 0 0x1000 0, .registerWrite 0x1400 0 0, .tideGovernorTick ⟨0, [0], 0⟩]

theorem test_wf_refuses_contexts : illContexts.all (fun i => !i.wf) = true := by decide +kernel
theorem test_wf_refuses_units : illUnits.all (fun i => !i.wf) = true := by decide +kernel
theorem test_wf_refuses_requests : illRequests.all (fun i => !i.wf) = true := by decide +kernel
theorem test_wf_refuses_fabric : illFabric.all (fun i => !i.wf) = true := by decide +kernel
theorem test_wf_refuses_short_messages : shortMsgs.all (fun i => !i.wf) = true := by decide +kernel
theorem test_wf_refuses_pages : illPages.all (fun i => !i.wf) = true := by decide +kernel
theorem test_wf_accepts : ([.nop 65535, .partCommit 1 15, .immediateEclipse 255 3, .poolPageZeroFill 124, .laneLoss 5 4,
    .registerWrite 0x13FF 0xFFC 0, .query (.ctx 0)] : List Instr).all Instr.wf = true := by decide +kernel

/-! Worked examples of the manual: the expected values stand there. -/

/-- 01, locating a core: logical core 142 is cluster 9, index 7, site 151, page 0x0597; its moon is site 159. -/
theorem test_locating_a_core : live.siteOfLcore 142 = some 151 ∧ pageIsland 0x0597 = some (.site 151) := by
  decide +kernel

/-- 02, three expansions of INT4_G32. -/
theorem test_int4_expansion :
    convert .e4m3 .rne 0 (expand4 .e4m3 0x3C 0x3E80) = 0x2C ∧ (expand4 .int8 0x5A 0x3F40).cmp (.ofInt 68) = 0 ∧
    (expand4 .int8 0x7F 0x4000).cmp (.ofInt 127) = 0 := by decide +kernel

/-- 02, an INT8 drain: 1,234,567 / 16,384 − 3.25 is 72 by RNE and RTZ; SR with the fraction 6,684 / 65,536 gives 73 exactly when
the draw is below it; 70 after clipping. -/
theorem test_int8_drain :
    let t := ((Val.fin false 1 (-14)).mul (.ofInt 1234567)).add (.fin true 13 (-2))
    convert .int8 .rne 0 t = 72 ∧ convert .int8 .rtz 0 t = 72 ∧
    ((Conv.drain ⟨5, 0, 1, true, true, 0, .fin false 1 (-14), .ofInt (-100), .ofInt 70⟩ (.fin false 1 (-14)) (some (.fin true 13 (-2))) 0
      (.ofInt 1234567)).cmp (.ofInt 70) = 0) := by decide +kernel

/-- 02, FP8_E4M3 outputs saturate at 448. -/
theorem test_e4m3_saturates :
    (decodeElem .e4m3 (convert .e4m3 .rne 0 (.ofInt 500))).cmp (.ofInt 448) = 0 ∧
    (decodeElem .e4m3 (convert .e4m3 .rne 0 (.ofInt (-600)))).cmp (.ofInt (-448)) = 0 := by decide +kernel

/-- 05, two tied vehicles: 9,022 is suppressed by 4,117. -/
theorem test_nms_tied_vehicles :
    suppresses .half [.ofInt 100, .ofInt 200, .ofInt 180, .ofInt 260] [.ofInt 110, .ofInt 205, .ofInt 190, .ofInt 262] = true ∧
    NmsEntry.before ⟨.fin false 7 (-3), 4117, 0, []⟩ ⟨.fin false 7 (-3), 9022, 0, []⟩ = true := by decide +kernel

/-- 07, value slot 184 of page 36, layer 5, head 3, `PMAX` 320, 16 heads of 128 BF16 values. -/
theorem test_value_slot : cacheAddr 0 5 320 16 128 2 1 3 (36 * 256 + 184) 0 = 0xCC93B800 := by decide +kernel

/-- Row 20 of the sampler's example. -/
def row20 : CRow :=
  { coef := [.fin false 31 (-5), .fin true 3 (-4), .fin false 1 (-4), .zero, .zero, .zero, .fin false 9 (-1), .zero, .zero],
    guide := true, noise := false, mask := true, histN := 2, push := true, ring := 0, xsel := 0, reservedOk := true }

/-- 09, row 20: the element is −1.57421875, and a BF16 latent stores −1.578125. -/
theorem test_sampler_row20 :
    let v := ssUpdate row20 ⟨.fin true 3 (-1), .fin false 1 (-2), .fin false 3 (-3), [.half, .zero], .zero, .one, .zero, .zero⟩
    v.cmp (.fin true 403 (-8)) = 0 ∧
    (decodeElem .bf16 (convert .bf16 .rne 0 v)).cmp (.fin true 101 (-6)) = 0 := by decide +kernel

/-- 10, one noise value: U = 0x80_0003 uses segment 0x7F and 63 = 63 with t = 65,532 / 65,536; U = 0xFF_FFFF uses segment 960 with t = 0. -/
theorem test_normal_segments :
    (segment 0x7FFFFC 6).1 = 63 ∧ (segment 0x7FFFFC 6).2.cmp (.fin false 65532 (-16)) = 0 ∧
    (segment 0 6).1 = 960 ∧ (segment 0 6).2.isZero = true := by decide +kernel

/-- 12, the headers of the street-fill graph: opcode 0x09, 8 units, `MIRROR_CKPT` and `SETTLE`; wait on event 2, signal event 3. -/
theorem test_sample_step_header :
    let u := unit [(0, 4, 0x00006709), (4, 4, 0x00030002)]
    hdrOpcode u = 9 ∧ hdrUnits u = 8 ∧ hdrMirror u = true ∧ hdrSettle u = true ∧ hdrRepro u = false ∧ hdrNotify u = false ∧
    hdrWait u = 2 ∧ hdrSignal u = 3 := by decide +kernel

/-- 13, fleet footage: a slot of 25,624,576 bytes; Y = 502, Cb = 448, Cr = 600 gives R = 0.65625, G = 0.466796875, B = 0.3671875. -/
theorem test_codec_slot : codecSlot 3840 2160 true = 25624576 := by decide +kernel
theorem test_codec_rgb :
    ((rgbOf true false false 502 448 600).zip [Val.fin false 21 (-5), .fin false 239 (-9), .fin false 47 (-7)]).all
      (fun p => (decodeElem .bf16 p.1).cmp p.2 == 0) = true := by decide +kernel

/-- 14, the gradient all-reduce: element 5,000,000 lies in segment 4; 512,253 ns, 717,155 cycles. -/
theorem test_gradient_all_reduce :
    segOf 8 9437184 5000000 = 4 ∧
    (let c := cmdOf [unit [(0, 1, 0x10), (1, 1, 2), (12, 4, 1), (16, 1, 1), (20, 2, 7 * 32 + 1024)],
        unit [(0, 6, 0x10000000), (6, 1, 1), (7, 1, 2), (8, 4, 3072), (12, 4, 3072), (32, 4, 3072), (36, 4, 1)],
        unit [(0, 6, 0x50000000), (6, 1, 1), (7, 1, 2), (8, 4, 3072), (12, 4, 3072), (32, 4, 3072), (36, 4, 1)]]
     (colPlan c).predCycles = 717155) := by decide +kernel

/-- 18, site 151 in cluster 9, at epoch 3, before its eclipse. -/
def before151 : State :=
  { live with sites := [(151, { Site.reset 151 with isl := ⟨.on, 3⟩ }), (159, { Site.reset 159 with isl := onIsl })],
              hdrs := [(0x0597, { PageHdr.reset with enable := true })] }

/-- 18, reading an eclipse back: the registers of CSQ 9 and of the eclipsed site's page. -/
theorem test_eclipse_read_back :
    [0x040, 0x044, 0x048].map (liveWord before151 0x0409) = [0x76543210, 0x0EDCBA98, 0x001F7FFF] ∧
    (match step { before151 with pending := [.immediateEclipse 151 2, .eclipseWritesDelivered 151] } with
     | .next s => match step s with
       | .next t => decide ([0x040, 0x044, 0x048].map (liveWord t 0x0409) = [0xF6543210, 0x0EDCBA98, 0x000F7FFF] ∧
           [0x000, 0x008, 0x00C].map (liveWord t 0x0597) = [0x01000597, 0x00000009, 0x00030004] ∧ t.siteOfLcore 142 = some 159)
       | _ => false
     | _ => false) = true := by decide +kernel

/-! One step each. -/

/-- R433: a cold boot whose first step fails twice halts at step 0, not READY, with ATTN `ERRLOG`. -/
theorem test_cold_boot_halts :
    (match exec (.coldBoot (report 9 true)) State.reset with
     | .next t => t.mgc.halted && t.mgc.step == 0 && !t.dev.ready && t.attn.field == attnERRLOG
     | _ => false) = true := by decide +kernel

/-- R196 (COPY): the destination holds the source's two bytes, and the next byte is untouched. -/
theorem test_copy_writes_its_bytes :
    (match exec (.copy 1) copying with
     | .next t => decide ([0x200010, 0x200011, 0x200012].map (readByte t) = [.ok 0x11, .ok 0x22, .ok 0])
     | _ => false) = true := by decide +kernel

/-- R471: PORST_N clears memory and leaves READY. -/
theorem test_porst_clears_memory :
    (match exec .porstN copying with
     | .next t => t.ms.mem.isEmpty && !t.dev.ready && t.dev.porstLow
     | _ => false) = true := by decide +kernel

/-- R439: the low word of a counter latches its high word for the reader. -/
theorem test_low_word_latches_high :
    (match exec (.lowWordRead 0 0x0500 0x050) live with
     | .next t => t.latches.length == 1
     | _ => false) = true := by decide +kernel

end Sys2Proof.Tests
end

namespace Sys2Proof.Machine

/-! SUPPORT. What every command keeps, row by row: the queue, canonical memory and the permanent marks. -/

/-- A row that ends in a next state gives what that state has. -/
theorem Gives.next {P : State → Prop} {t : State} (h : P t) : Gives (.next t) P := ⟨t, rfl, h⟩

/-- Whatever changes neither bytes nor queue nor fuses after steps that keep all three keeps them. -/
theorem Keeps.andPlain {s t u : State} (h : Keeps s t) (p : u.pending = t.pending) (m : u.ms.mem = t.ms.mem) (d : u.dev = t.dev) :
    Keeps s u := h.trans (Keeps.plain p m d)

/-- A change of the memory system after steps that keep all three. -/
theorem Keeps.andMs {s t : State} {ms : MemSys} (h : Keeps s t) (k : MsKeeps t.ms ms) : Keeps s { t with ms := ms } :=
  h.trans (Keeps.ms k)

/-! Table entries. -/

@[simp] theorem MemSys.setPte_mem (ms : MemSys) (p : Pte) : (ms.setPte p).mem = ms.mem := rfl
@[simp] theorem MemSys.delPte_mem (ms : MemSys) (level idx : Nat) : (ms.delPte level idx).mem = ms.mem := rfl
@[simp] theorem MemSys.setRef_mem (ms : MemSys) (pa : Nat) (f : Nat → Nat) : (ms.setRef pa f).mem = ms.mem :=
  setPte_foldl_mem _ _ ms

/-! Operator commands. -/

theorem pureBody_keeps (b : State → Cmd → Except Err OpOut) (s : State) (c : Cmd) : Keeps s (pureBody b s c).1 := Keeps.refl s

theorem reservePages_keeps : ∀ (l : List Nat) {ms ms' : MemSys}, reservePages l ms = some ms' → MsKeeps ms ms'
  | [], _, _, h => by cases h; exact MsKeeps.refl _
  | va :: l, ms, ms', h => by
      unfold reservePages at h
      split at h
      · exact reservePages_keeps l h
      · dsimp only at h
        split at h
        · cases h
        · rename_i pg ms1 hp
          have k : MsKeeps ms ms1 := takePage_keeps hp
          exact fun w => reservePages_keeps l h (k w)

/-- The pages that `KV_SCATTER` reserves come from `reservePages`. -/
theorem kvReserve_keeps {s : State} {c : Cmd} {ms : MemSys} (h : kvReserve s c = .ok (some ms)) : MsKeeps s.ms ms := by
  unfold kvReserve at h
  cases hc : kvCheck c with
  | error e => simp [hc, bind, Except.bind] at h
  | ok u =>
    simp only [hc, bind, Except.bind] at h
    split at h
    · cases h
    · split at h
      · cases h
      · cases hn : needCores s c [] with
        | error e => simp [hn] at h
        | ok v =>
          simp only [hn] at h
          split at h
          · cases h
          · rename_i hr
            cases h
            exact reservePages_keeps _ hr

theorem kvBody_keeps (s : State) (c : Cmd) : Keeps s (kvBody s c).1 := by
  unfold kvBody
  split
  · exact Keeps.refl s
  · exact Keeps.refl s
  · rename_i h
    exact Keeps.ms (kvReserve_keeps h)

theorem forkPage_mem (ms : MemSys) (src dst : Nat) : (forkPage ms src dst).mem = ms.mem := by
  unfold forkPage
  split <;> simp

theorem releasePage_mem (l : List Nat) (ms : MemSys) (dst : Nat) : (releasePage l ms dst).mem = ms.mem := by
  unfold releasePage
  split
  · rfl
  · dsimp only
    split <;> simp

theorem forkBody_keeps (s : State) (c : Cmd) : Keeps s (forkBody s c).1 := by
  unfold forkBody
  split
  · exact Keeps.refl s
  · exact Keeps.refl s
  · have h (ms : MemSys) (p : Nat × Nat) : MsKeeps ms (forkPage ms p.1 p.2) := MsKeeps.same (forkPage_mem ms p.1 p.2)
    exact Keeps.ms (MsKeeps.foldl h _ s.ms)

theorem releaseBody_keeps (s : State) (c : Cmd) : Keeps s (releaseBody s c).1 := by
  unfold releaseBody
  split
  · exact Keeps.refl s
  · exact Keeps.refl s
  · have h (ms : MemSys) (p : Nat × Nat) : MsKeeps ms (releasePage (s.cmds.map Cmd.id) ms p.2) := MsKeeps.same (releasePage_mem _ ms p.2)
    exact Keeps.ms (MsKeeps.foldl h _ s.ms)

/-- An operator row whose body changes nothing before its writes. -/
theorem runPure_keeps (s : State) (id op : Nat) (b : State → Cmd → Except Err OpOut) :
    Keeps s (runOp s id op false (pureBody b)) := runOp_keeps s id op false _ (pureBody_keeps b)

theorem runSample_keeps (s : State) (id : Nat) : Keeps s (runSample s id) := by
  unfold runSample
  split
  · exact Keeps.refl s
  · rename_i c _
    refine during_keeps s c (fun t => ?_)
    dsimp only
    split
    · exact (captureFault_keeps _ _ _).trans (updCmd_keeps _ _ _)
    · rename_i o staged _
      refine Keeps.trans ?_ ((finishOp_keeps _ _ _ _ _).trans (updCmd_keeps _ _ _))
      exact (Keeps.ms (MsKeeps.foldl (fun m p => holdScratchIn_keeps _ _ _ m) staged t.ms)).trans (updCtx_keeps _ _ _)

/-- `KV_FORK` under the row of its `OP` bit. -/
theorem isFork_keeps (s : State) (id : Nat) (rel : Bool) (body : State → Cmd → State × Except Err OpOut)
    (hb : ∀ s c, Keeps s (body s c).1) : Keeps s (if isFork s id rel then runOp s id 0x13 false body else s) := by
  split
  · exact runOp_keeps s id 0x13 false body hb
  · exact Keeps.refl s

/-! Collectives and the fabric. -/

theorem dropDigests_keeps (s : State) (g t : Nat) : Keeps s (dropDigests s g t) := Keeps.plain rfl rfl rfl
theorem putDigest_keeps (s : State) (d : DigestRec) : Keeps s (putDigest s d) := Keeps.plain rfl rfl rfl
theorem setLink_keeps (s : State) (i : Nat) (f : Link → Link) : Keeps s (s.setLink i f) := Keeps.plain rfl rfl rfl

theorem judge_keeps (s : State) (g t : Nat) : Keeps s (judge s g t) := by
  unfold judge
  split
  · exact Keeps.refl s
  · split
    · exact Keeps.refl s
    · dsimp only
      split
      · exact Keeps.plain rfl rfl rfl
      · exact Keeps.refl s

theorem sendDigest_keeps (s : State) (x : Col) (own : List Nat) (g t rank : Nat) (v : DWord) :
    Keeps s (sendDigest s x own g t rank v) := by
  unfold sendDigest
  split
  · exact (putDigest_keeps s _).trans (judge_keeps _ g t)
  · exact emit_keeps s _

/-- Free values written over a command's outputs keep what the writes keep. -/
theorem freeWrites_keeps (s : State) (cmd n : Nat) (ws : List (Nat × Byte)) :
    Keeps s (writeAll cmd true ws ws { s with freeCtr := n }).1 :=
  Keeps.trans (t := { s with freeCtr := n }) (Keeps.plain rfl rfl rfl) (writeAll_keeps cmd true ws ws _)

theorem scrambleOut_keeps (s : State) (c : Cmd) : Keeps s (scrambleOut s c) := freeWrites_keeps s c.id _ _

/-- The data of a collective: what it logs, then its writes. -/
theorem moveData_keeps (s : State) (c : Cmd) (k : Coll) : Keeps s (moveData s c k) := by
  unfold moveData
  extract_lets x need s1 fails fre s2 s3
  have h1 : Keeps s s1 := updCmd_keeps s c.id _
  have h2 : Keeps s s2 := h1.andPlain rfl rfl rfl
  have h3 : Keeps s s3 := h2.trans (Keeps.foldl (fun t f => logError_keeps t _ _ _ _ _) _ s2)
  split
  · exact h3.trans ((scrambleOut_keeps s3 c).trans ((emits_keeps _ _).trans (updCmd_keeps _ _ _)))
  · refine h3.trans (during_keeps s3 c (fun t => ?_))
    split
    · exact (captureFault_keeps t c _).trans (updCmd_keeps _ _ _)
    · exact (emits_keeps t _).trans ((applyOut_keeps _ c true _).trans (updCmd_keeps _ _ _))

theorem takeSlots_keeps (s : State) (c : Cmd) (k : Coll) : Keeps s (takeSlots s c k) := by
  unfold takeSlots
  split
  · exact moveData_keeps s c k
  · exact updCmd_keeps s _ _

theorem beginColl_keeps (s : State) (c : Cmd) : Keeps s (beginColl s c) := by
  unfold beginColl
  dsimp only
  split
  · split
    · exact updCmd_keeps s _ _
    · exact takeSlots_keeps s c _
  · exact (updCmd_keeps s _ _).trans (sendDigest_keeps _ _ _ _ _ _ _)

theorem runColl_keeps (s : State) (id : Nat) (ok : Nat → Bool) : Keeps s (runColl s id ok) := by
  unfold runColl
  split
  · exact Keeps.refl s
  · dsimp only
    split
    · exact Keeps.refl s
    · split
      · exact updCmd_keeps s _ _
      · exact beginColl_keeps s _

theorem nextColl_keeps (s : State) (g t : Nat) (twin : Bool) : Keeps s (nextColl s g t twin) := by
  unfold nextColl
  split
  · exact beginColl_keeps s _
  · exact Keeps.refl s

theorem endHandshake_keeps (s : State) (c : Cmd) : Keeps s (endHandshake s c) := by
  unfold endHandshake
  split
  · split
    · exact dropDigests_keeps s _ _
    · exact Keeps.refl s
  · exact Keeps.refl s

theorem endColl_keeps (s : State) (c : Cmd) (r : Res) : Keeps s (endColl s c r) := by
  unfold endColl
  refine Keeps.trans ?_ ((endHandshake_keeps _ c).trans (updCmd_keeps _ _ _))
  split
  · exact scrambleOut_keeps s c
  · exact Keeps.refl s

theorem execGo_keeps (g t : Nat) (i : List (List Byte)) (r : List Nat) (s : State) : Gives (execGo g t i r s) (Keeps s) := by
  refine Gives.next ?_
  split
  · exact Keeps.refl s
  · split
    · exact Keeps.refl s
    · split
      · exact updCmd_keeps s _ _
      · exact takeSlots_keeps s _ _

theorem execReductionSlotGrant_keeps (cmd : Nat) (s : State) : Gives (execReductionSlotGrant cmd s) (Keeps s) := by
  refine Gives.next ?_
  split
  · split
    · split
      · exact takeSlots_keeps s _ _
      · exact Keeps.refl s
    · exact Keeps.refl s
  · exact Keeps.refl s

theorem execMismatch_keeps (g t : Nat) (s : State) : Gives (execMismatch g t s) (Keeps s) := by
  refine Gives.next ?_
  split
  · exact Keeps.refl s
  · exact Keeps.plain rfl rfl rfl

theorem execAbandon_keeps (g t : Nat) (s : State) : Gives (execAbandon g t s) (Keeps s) := by
  refine Gives.next ?_
  split
  · exact Keeps.refl s
  · exact updCmd_keeps s _ _

theorem execHandshakeTimeout_keeps (g t : Nat) (s : State) : Gives (execHandshakeTimeout g t s) (Keeps s) := by
  refine Gives.next ?_
  split
  · exact Keeps.refl s
  · have h (c : Cmd) : Keeps s ((endHandshake s c).updCmd c.id (Cmd.close .fabricTimeout)) :=
      (endHandshake_keeps s c).trans (updCmd_keeps _ _ _)
    dsimp only
    split
    · split
      · exact (h _).trans (emits_keeps _ _)
      · exact h _
    · exact h _

theorem execDataTimeout_keeps (g t : Nat) (s : State) : Gives (execDataTimeout g t s) (Keeps s) := by
  refine Gives.next ?_
  split
  · exact Keeps.refl s
  · exact (endColl_keeps s _ _).trans (emits_keeps _ _)

theorem execCollectiveAbort_keeps (g t code : Nat) (s : State) : Gives (execCollectiveAbort g t code s) (Keeps s) := by
  refine Gives.next ?_
  split
  · exact endColl_keeps s _ _
  · split
    · exact endColl_keeps s _ _
    · exact Keeps.refl s

theorem execFrameCrcError_keeps (link frame : Nat) (s : State) : Gives (execFrameCrcError link frame s) (Keeps s) := by
  unfold execFrameCrcError
  extract_lets l n page s1 s2
  have h1 : Keeps s s1 := (logError_keeps s _ _ _ _ _).trans (emit_keeps _ _)
  refine Gives.next ?_
  split
  · exact h1.trans (setLink_keeps _ _ _)
  · have h2 : Keeps s s2 := h1.trans (setLink_keeps _ _ _)
    exact h2.trans ((logError_keeps _ _ _ _ _ _).trans ((attnEvent_keeps _ _).trans (emit_keeps _ _)))

theorem execLinkTraining_keeps (link : Nat) (far : FarEnd) (s : State) : Gives (execLinkTraining link far s) (Keeps s) := by
  refine Gives.next ?_
  split
  · exact Keeps.refl s
  · split
    · exact setLink_keeps s _ _
    · exact (setLink_keeps s _ _).trans (logError_keeps _ _ _ _ _ _)

theorem execLaneLoss_keeps (link n : Nat) (s : State) : Gives (execLaneLoss link n s) (Keeps s) := by
  refine Gives.next ?_
  split
  · exact Keeps.refl s
  · exact setLink_keeps s _ _

theorem installAlias_keeps (s : State) (failed survivor : Nat) : Keeps s (installAlias s failed survivor) := by
  unfold installAlias
  split
  · exact (logError_keeps s _ _ _ _ _).trans (attnEvent_keeps _ _)
  · exact (Keeps.foldl (fun t c => endColl_keeps t c .fabricTimeout) _ s).andPlain rfl rfl rfl

end Sys2Proof.Machine

namespace Sys2Proof.Machine

/-! Models: what a load takes, maps and writes, and what an unload gives back. -/

theorem takeCap_keeps {s : State} {n : Nat} {q : Nat × State} (h : takeCap s n = some q) : Keeps s q.2 := by
  simp only [takeCap, Option.map_eq_some_iff] at h
  obtain ⟨a, -, rfl⟩ := h
  exact Keeps.ms (fun w => memClear_wf _ _ _ w)

theorem setPte_keeps (s : State) (p : Pte) : Keeps s { s with ms := s.ms.setPte p } := Keeps.ms (MsKeeps.same rfl)

theorem mapCapacity_keeps : ∀ (l : List (Nat × Nat)) {s t : State}, mapCapacity l s = some t → Keeps s t
  | [], _, _, h => by cases h; exact Keeps.refl _
  | (level, va) :: l, s, t, h => by
      unfold mapCapacity at h
      split at h
      · cases h
      · rename_i pa s1 hc
        have k : Keeps s s1 := takeCap_keeps hc
        exact (k.trans (setPte_keeps s1 _)).trans (mapCapacity_keeps l h)

theorem placeMoved_keeps : ∀ (l : List (Nat × Nat)) {s : State} {acc : List ((Nat × Nat) × Nat)}
    {q : List ((Nat × Nat) × Nat) × State}, placeMoved l s acc = some q → Keeps s q.2
  | [], _, _, _, h => by cases h; exact Keeps.refl _
  | k :: l, s, acc, q, h => by
      unfold placeMoved at h
      split at h
      · cases h
      · rename_i pa s1 hc
        have k : Keeps s s1 := takeCap_keeps hc
        exact k.trans (placeMoved_keeps l h)

theorem mapWeights_keeps (m : Model) (small : List Nat) (moved : List ((Nat × Nat) × Nat)) : ∀ (l : List MPage) {s t : State},
    mapWeights m small moved l s = some t → Keeps s t
  | [], _, _, h => by cases h; exact Keeps.refl _
  | p :: l, s, t, h => by
      unfold mapWeights at h
      dsimp only at h
      split at h
      · exact (setPte_keeps s _).trans (mapWeights_keeps m small moved l h)
      · split at h
        · cases h
        · rename_i pa ms hp
          have k : MsKeeps s.ms ms := placeModelPage_keeps hp
          have k1 : Keeps s { s with ms := ms } := Keeps.ms k
          exact k1.trans ((setPte_keeps _ _).trans (mapWeights_keeps m small moved l h))

/-- The memory of a load: capacity pages, the places of moved pool pages, then the model pool. -/
theorem mapModel_keeps {s t : State} {m : Model} {small : List Nat} {keys caps : List (Nat × Nat)} {wp : List MPage}
    (h : ((mapCapacity caps s).bind (fun s1 => (placeMoved keys s1 []).bind (fun q => mapWeights m small q.1 wp q.2))) = some t) :
    Keeps s t := by
  simp only [Option.bind_eq_some_iff] at h
  obtain ⟨s1, hc, q, hm, hw⟩ := h
  exact (mapCapacity_keeps _ hc).trans ((placeMoved_keeps _ hm).trans (mapWeights_keeps _ _ _ _ hw))

theorem placeModel_keeps (s : State) (id : Nat) (mf : Manifest) (image : List Byte) : Keeps s (placeModel s id mf image).1 := by
  -- unfolded as a function: the kernel must not evaluate `spillDecision` to compare the two sides
  generalize hf : placeModel = f
  delta placeModel at hf
  subst hf
  beta_reduce
  simp only []
  split
  · exact Keeps.refl s
  · split
    · exact Keeps.refl s
    · rename_i s2 hm
      have h2 : Keeps s s2 := mapModel_keeps hm
      split
      · exact Keeps.refl s
      · rename_i s3 hf
        have h3 : Keeps s s3 := h2.trans (firmwareWrite_keeps _ _ s2 s3 hf)
        split
        · exact h3.andPlain rfl rfl rfl
        · refine Keeps.trans ?_ (attnEvent_keeps _ _)
          exact h3.andPlain rfl rfl rfl

theorem loadModel_keeps (s : State) (id : Nat) (manifest image : List Byte) : Keeps s (loadModel s id manifest image).1 := by
  unfold loadModel
  split
  · exact Keeps.refl s
  · split
    · exact Keeps.refl s
    · split
      · exact Keeps.refl s
      · exact placeModel_keeps s id _ image

theorem holdStaging_keeps (key : Nat) : ∀ (n : Nat) (ms : MemSys), MsKeeps ms (holdStaging ms key n)
  | 0, ms => MsKeeps.refl ms
  | n + 1, ms => by
      unfold holdStaging
      split
      · rename_i pg ms1 h
        have k : MsKeeps ms ms1 := takePage_keeps h
        exact fun w => holdStaging_keeps key n _ (k w)
      · exact MsKeeps.refl ms

theorem restage_keeps (s : State) (model : Nat) : Keeps s (restage s model) := by
  unfold restage
  extract_lets n have'
  split
  · exact Keeps.refl s
  · have k : MsKeeps s.ms (restage.dropScratch' s.ms (stageKey model)) := by
      unfold restage.dropScratch'
      exact fun w => MsKeeps.foldl (fun m p => dropPage_keeps m p) _ _ w
    exact Keeps.ms (k.trans (holdStaging_keeps _ _ _))

theorem delPte_foldl_mem (l : List Pte) (ms : MemSys) : (l.foldl (fun ms p => ms.delPte p.level p.idx) ms).mem = ms.mem := by
  induction l generalizing ms with
  | nil => rfl
  | cons p t ih => exact ih _

theorem setRef_foldl_mem (l : List Pte) (ms : MemSys) (f : Nat → Nat) :
    (l.foldl (fun ms p => ms.setRef (ptePa p.word) f) ms).mem = ms.mem := by
  induction l generalizing ms with
  | nil => rfl
  | cons p t ih => exact (ih _).trans (MemSys.setRef_mem _ _ _)

theorem dropPages_keeps (l : List Nat) (ms : MemSys) : MsKeeps ms (l.foldl dropPage ms) := MsKeeps.foldl dropPage_keeps l ms

theorem unmapModel_keeps (s : State) (m : Model) : Keeps s (unmapModel s m) := by
  unfold unmapModel
  extract_lets mine gone pas pool caps small mapped left ms1 shared ms2 ms3 used
  have h1 : MsKeeps s.ms ms1 := MsKeeps.same (delPte_foldl_mem gone s.ms)
  have h2 : MsKeeps ms1 ms2 := MsKeeps.same (setRef_foldl_mem shared ms1 _)
  have h3 : MsKeeps ms2 ms3 := dropPages_keeps _ ms2
  exact Keeps.ms ((h1.trans (h2.trans h3)).trans (MsKeeps.same rfl))

theorem keepVersions_keeps (s : State) (keep : Graph → Version → Bool) : Keeps s (keepVersions s keep) := Keeps.plain rfl rfl rfl

theorem clearPlan_keeps (s : State) : Keeps s (clearPlan s) := by
  unfold clearPlan
  split
  · exact Keeps.refl s
  · exact Keeps.plain rfl rfl rfl

theorem unloadNow_keeps (s : State) (m : Model) : Keeps s (unloadNow s m) := by
  unfold unloadNow
  extract_lets s1 s2 s2' s3
  have h1 : Keeps s s1 := unmapModel_keeps s m
  have h2 : Keeps s s2' := h1.andPlain rfl rfl rfl
  have h3 : Keeps s s3 := h2.trans (restage_keeps s2' m.id)
  split
  · exact h3
  · exact h3.trans (clearPlan_keeps s3)

/-! Graphs. -/

/-- Both ways of a choice between outcomes keep the three. -/
theorem keeps_ite {α : Type} {p : Prop} [Decidable p] {s : State} {a b : State × α} (ha : Keeps s a.1) (hb : Keeps s b.1) :
    Keeps s (if p then a else b).1 := by
  split <;> assumption

theorem updGraph_keeps (s : State) (n : Nat) (f : Graph → Graph) : Keeps s (s.updGraph n f) := Keeps.plain rfl rfl rfl

theorem installVersion_keeps (s : State) (id model : Nat) (v : Version) : Keeps s (installVersion s id model v) := by
  unfold installVersion
  extract_lets ms s0 s1
  have h0 : Keeps s s0 := Keeps.plain rfl rfl rfl
  have h1 : Keeps s s1 := by
    refine h0.trans ?_
    simp only [s1]
    split
    · exact updGraph_keeps s0 _ _
    · exact Keeps.plain rfl rfl rfl
  exact h1.trans ((settlePins_keeps s1).trans (restage_keeps _ model))

theorem storeGraph_keeps (s : State) (id model : Nat) (image : List Byte) : Keeps s (storeGraph s id model image).1 := by
  unfold storeGraph
  extract_lets g
  clear_value g
  split
  · split
    · split
      · exact Keeps.refl s
      · exact (updGraph_keeps s id _).trans ((settlePins_keeps _).trans (restage_keeps _ _))
    · exact Keeps.refl s
  · refine keeps_ite (Keeps.refl s) ?_
    split
    · exact Keeps.refl s
    · split
      · exact Keeps.refl s
      · split
        · exact Keeps.refl s
        · exact installVersion_keeps s id model _

theorem patchGraph_keeps (s : State) (id : Nat) (image : List Byte) : Keeps s (patchGraph s id image).1 := by
  unfold patchGraph
  split
  · exact Keeps.refl s
  · split
    · exact Keeps.refl s
    · split
      · exact Keeps.refl s
      · extract_lets num segs origin
        split
        · exact Keeps.refl s
        · split
          · exact Keeps.refl s
          · split
            · exact Keeps.refl s
            · split
              · exact Keeps.refl s
              · split
                · exact Keeps.refl s
                · split
                  · exact Keeps.refl s
                  · rename_i s1 hf
                    extract_lets fresh s2
                    have h1 : Keeps s s1 := firmwareWrite_keeps _ _ s s1 hf
                    have h2 : Keeps s s2 := h1.andPlain rfl rfl rfl
                    exact h2.trans (installVersion_keeps s2 id _ _)

end Sys2Proof.Machine

namespace Sys2Proof.Machine

/-! Events of memory and translation. -/

theorem execWalkComplete_keeps (tlb va : Nat) (write : Bool) (s : State) : Gives (execWalkComplete tlb va write s) (Keeps s) := by
  refine Gives.next ?_
  split
  · exact Keeps.refl s
  · extract_lets s0
    have h0 : Keeps s s0 := Keeps.plain rfl rfl rfl
    clear_value s0
    refine h0.trans ?_
    split
    · split
      · exact logError_keeps s0 _ _ _ _ _
      · extract_lets s1
        have h1 : Keeps s0 s1 := Keeps.plain rfl rfl rfl
        split
        · exact h1.trans (logError_keeps s1 _ _ _ _ _)
        · exact h1
    · split
      · split
        · exact Keeps.refl s0
        · exact logError_keeps s0 _ _ _ _ _
      · exact logError_keeps s0 _ _ _ _ _

theorem failHeld_keeps (s : State) (c : Cmd) (e : Err) : Keeps s (failHeld s c e) :=
  (captureFault_keeps s c e).trans (updCmd_keeps _ _ _)

theorem retryHeld_keeps (s : State) (h : Held) : Keeps s (retryHeld s h) := by
  unfold retryHeld
  split
  · exact Keeps.refl s
  · rename_i c _
    refine during_keeps s c (fun t => ?_)
    have k : Keeps t (writeAll h.cmd (isHub c.opcode) h.writes h.writes t).1 := writeAll_keeps _ _ _ _ t
    split
    · rename_i s1 hw
      rw [hw] at k
      exact k
    · rename_i s1 e hw
      rw [hw] at k
      exact k.trans (failHeld_keeps s1 c e)

theorem execWorkPageMapped_keeps (cmd va : Nat) (s : State) : Gives (execWorkPageMapped cmd va s) (Keeps s) := by
  refine Gives.next ?_
  split
  · exact Keeps.refl s
  · rename_i h _
    extract_lets s1
    split
    · exact Keeps.refl s
    · have h1 : Keeps s s1 := mapWork_keeps s _ _
      have h2 : Keeps s { s1 with freeCtr := s1.freeCtr + 1, ms := dropHeld s1.ms h } := h1.andPlain rfl rfl rfl
      exact h2.trans (retryHeld_keeps _ h)

theorem serveLock_keeps (old : Nat) : ∀ (fuel : Nat) (s : State), Keeps s (serveLock old fuel s)
  | 0, s => Keeps.refl s
  | fuel + 1, s => by
      have dropped (h : Held) : Keeps s { s with ms := dropHeld s.ms h } := Keeps.plain rfl rfl rfl
      unfold serveLock
      split
      · exact Keeps.refl s
      · exact ((dropped _).trans (retryHeld_keeps _ _)).trans (serveLock_keeps old fuel _)
      · split
        · split
          · rename_i pg ms hp
            have k : MsKeeps s.ms ms := takePage_keeps hp
            exact Keeps.ms (k.trans (MsKeeps.same rfl))
          · exact ((dropped _).trans (failHeld_keeps _ _ _)).trans (serveLock_keeps old fuel _)
          · exact (dropped _).trans (serveLock_keeps old fuel _)
        · refine Keeps.trans ?_ (serveLock_keeps old fuel _)
          refine Keeps.trans ?_ (retryHeld_keeps _ _)
          exact Keeps.plain rfl rfl rfl

theorem releaseHeld_keeps (s : State) (cmd : Nat) : Keeps s (releaseHeld s cmd) := by
  unfold releaseHeld
  extract_lets mine src rest s1
  have h1 : Keeps s s1 :=
    Keeps.ms ((MsKeeps.same (b := rest) rfl).trans (MsKeeps.foldl (fun ms h => dropPage_keeps ms _) _ rest))
  exact h1.trans (Keeps.foldl (fun t old => serveLock_keeps old _ t) _ s1)

/-- The copy of a page: bytes and zeroes together. -/
theorem copyPage_keeps (ms : MemSys) (src dst n : Nat) (q : Pte) (f : Nat → Nat) :
    MsKeeps ms (({ ms with mem := memCopyZeroed ms.mem src dst n }.setPte q).setRef src f) := fun w => by
  simpa using memCopyZeroed_wf ms.mem src dst n w

theorem execCopyComplete_keeps (cmd va : Nat) (s : State) : Gives (execCopyComplete cmd va s) (Keeps s) := by
  unfold execCopyComplete
  extract_lets page
  refine Gives.next ?_
  split
  · exact Keeps.refl s
  · rename_i h _
    split
    · exact Keeps.refl s
    · extract_lets back s0 free s1 src copied
      have h0 : Keeps s s0 := Keeps.plain rfl rfl rfl
      have hb : Keeps s (back s0) := h0.andMs (dropPage_keeps _ _)
      have hf (t : State) (k : Keeps s t) : Keeps s (free t) := k.trans (serveLock_keeps _ _ t)
      have hr (t : State) (k : Keeps s t) : Keeps s (free (retryHeld t h)) := hf _ (k.trans (retryHeld_keeps t h))
      split
      · exact hr _ hb
      · extract_lets w
        split
        · exact hr _ hb
        · split
          · exact hr _ (hb.andPlain rfl rfl rfl)
          · split
            · exact hf _ (hb.trans (failHeld_keeps _ _ _))
            · exact hr _ (h0.andMs (copyPage_keeps _ _ _ _ _ _))

theorem execStagingCopyComplete_keeps (cmd : Nat) (s : State) : Gives (execStagingCopyComplete cmd s) (Keeps s) := by
  refine Gives.next ?_
  split
  · exact Keeps.refl s
  · extract_lets code first twice
    have hfirst (i : Nat) : Keeps s (first i s) := logError_keeps s _ _ _ _ _
    have htwice (i : Nat) : Keeps s (twice i) := ((hfirst i).trans (logError_keeps _ _ _ _ _ _)).trans (updCmd_keeps _ _ _)
    split
    · exact Keeps.refl s
    · split
      · exact (htwice _).andPlain rfl rfl rfl
      · extract_lets s1
        have h1 : Keeps s s1 := by
          simp only [s1]
          split
          · exact hfirst _
          · exact Keeps.refl s
        have h2 : Keeps s { s1 with freeCtr := s1.freeCtr + 1 } := h1.andPlain rfl rfl rfl
        exact h2.trans (updCmd_keeps _ _ _)
      · exact (captureFault_keeps s _ _).trans (updCmd_keeps _ _ _)
      · exact htwice _

theorem zeroFill_keeps (ms : MemSys) (pa n : Nat) : MsKeeps ms (zeroFill ms pa n) := fun w => memClear_wf _ _ _ w

theorem execPoolPageZeroFill_keeps (page : Nat) (s : State) : Gives (execPoolPageZeroFill page s) (Keeps s) := by
  refine Gives.next ?_
  split
  · exact Keeps.ms ((MsKeeps.same rfl).trans (zeroFill_keeps _ _ _))
  · exact Keeps.refl s

theorem correctLine_keeps (s : State) (partition : Nat) (e : LineErr) : Keeps s (correctLine s partition e) :=
  (logError_keeps s _ _ _ _ _).trans (setPart_keeps _ _ _)

theorem putByte_keeps (ms : MemSys) (pa : Nat) (b : Byte) : MsKeeps ms (ms.putByte pa b) := fun w => memSet_wf _ _ _ w

theorem miscorrect_keeps (s : State) (line : Nat) : Keeps s (miscorrect s line) := by
  have h : MsKeeps s.ms (miscorrect s line).ms := MsKeeps.foldl (fun ms k => putByte_keeps ms _ _) _ s.ms
  exact (Keeps.ms h).andPlain rfl rfl rfl

theorem scrubLines_keeps (partition : Nat) : ∀ (l : List LineErr) (s : State), Keeps s (scrubLines partition l s).1
  | [], s => Keeps.refl s
  | e :: t, s => by
      have h0 : Keeps s { s with freeCtr := s.freeCtr + 1 } := Keeps.plain rfl rfl rfl
      unfold scrubLines
      extract_lets line s0 r
      split
      · exact scrubLines_keeps partition t s
      · split
        · exact (correctLine_keeps s partition e).trans (scrubLines_keeps partition t _)
        · split
          · exact h0.trans (scrubLines_keeps partition t _)
          · exact ((h0.trans (correctLine_keeps _ partition e)).trans (miscorrect_keeps _ _)).trans (scrubLines_keeps partition t _)

theorem addMargin_keeps (s : State) (k i v : Nat) : Keeps s (s.addMargin k i v) := Keeps.plain rfl rfl rfl

theorem execScrub_keeps (p : Nat) (l : List LineErr) (u : List Nat) (m : Nat) (s : State) : Gives (execScrub p l u m s) (Keeps s) := by
  refine Gives.next ?_
  split
  · exact Keeps.refl s
  · extract_lets page r mine bad s2 lines src s3
    have h1 : Keeps s r.1 := scrubLines_keeps p l s
    have h2 : Keeps s s2 := h1.trans (Keeps.foldl (fun t a => (logError_keeps t _ _ _ _ _).trans (setEvent_keeps _ _ _)) _ r.1)
    have h3 : Keeps s s3 := h2.andPlain rfl rfl rfl
    exact h3.trans (setPart_keeps s3 _ _)

theorem execDieMarkedFailed_keeps (p d : Nat) (s : State) : Gives (execDieMarkedFailed p d s) (Keeps s) := by
  refine Gives.next ?_
  split
  · exact Keeps.refl s
  · exact ((setPart_keeps s _ _).trans (logNote_keeps _ _ _ _)).trans (setEventOnce_keeps _ _ _ _)

/-! Control commands. -/

theorem runControl_keeps (s : State) (n op : Nat) (f : Ctx → Version → Unit64 → Option Ctx) : Keeps s (runControl s n op f) := by
  rw [runControl_frame]
  exact Keeps.plain rfl rfl rfl

theorem turned_keeps (s : State) (n : Nat) : Keeps s (s.turned n) := Keeps.plain rfl rfl rfl

theorem execWaitEvent_keeps (n : Nat) (s : State) : Gives (execWaitEvent n s) (Keeps s) := by
  refine Gives.next ?_
  split
  · exact Keeps.refl s
  · split
    · exact runControl_keeps s _ _ _
    · exact Keeps.refl s

theorem execSignalEvent_keeps (n : Nat) (s : State) : Gives (execSignalEvent n s) (Keeps s) := by
  refine Gives.next ?_
  split
  · exact Keeps.refl s
  · extract_lets u ev before y
    split
    · exact Keeps.refl s
    · split
      · exact (turned_keeps s n).trans (setCtx_keeps _ _)
      · exact (turned_keeps s n).trans (setCtx_keeps _ _)

theorem execFence_keeps (n : Nat) (s : State) : Gives (execFence n s) (Keeps s) := by
  refine Gives.next ?_
  split
  · exact runControl_keeps s _ _ _
  · exact Keeps.refl s

theorem fillTlb_keeps (free : Nat) (ms : MemSys) (n : Nat) (p : Pte) : MsKeeps ms (fillTlb free ms n p) := MsKeeps.same rfl

theorem prefetchPages_keeps (s : State) (d : Desc) : Keeps s (prefetchPages s d) := by
  unfold prefetchPages
  extract_lets hit up fill
  have hf (ms : MemSys) (p : Pte) : MsKeeps ms (fill ms p) := MsKeeps.foldl (fun m n => fillTlb_keeps _ m n p) up ms
  exact (Keeps.ms (MsKeeps.foldl hf hit s.ms)).andPlain rfl rfl rfl

theorem prefetchGraph_keeps (s : State) (id : Nat) : Keeps s (prefetchGraph s id) := by
  unfold prefetchGraph
  split
  · exact Keeps.plain rfl rfl rfl
  · exact Keeps.refl s

theorem execPrefetch_keeps (n : Nat) (s : State) : Gives (execPrefetch n s) (Keeps s) := by
  refine Gives.next ?_
  split
  · exact Keeps.refl s
  · extract_lets u s1 d
    have h1 : Keeps s s1 := runControl_keeps s _ _ _
    split
    · exact h1
    · split
      · exact h1.trans (prefetchGraph_keeps s1 _)
      · split
        · exact h1.trans (prefetchPages_keeps s1 d)
        · exact h1

end Sys2Proof.Machine

namespace Sys2Proof.Machine

/-! Tiles and the codec complex. -/

/-- Whatever changes of the device none of the permanent marks keeps all three. -/
theorem Keeps.marked {s t : State} (p : t.pending = s.pending) (m : t.ms.mem = s.ms.mem) (b : t.dev.sealBroken = s.dev.sealBroken)
    (a : t.dev.assetTag = s.dev.assetTag) (r : t.dev.rollback = s.dev.rollback) (e : t.dev.eclipsedFlash = s.dev.eclipsedFlash) :
    Keeps s t :=
  ⟨p, fun h => by simpa [State.MemOk, m] using h, ⟨by simp [b], by simp [a], by simp [r], by simp [e]⟩⟩

theorem timeReaches_keeps (s : State) (ns : Nat) : Keeps s (timeReaches s ns) := Keeps.marked rfl rfl rfl rfl rfl rfl

theorem cscUse_keeps (s : State) (cl : Nat) (c : Cmd) (ws : List (Nat × Byte)) : Keeps s (s.cscUse cl c ws) := Keeps.plain rfl rfl rfl

theorem updEngine_keeps (s : State) (e : Nat) (f : Engine → Engine) : Keeps s (s.updEngine e f) := Keeps.plain rfl rfl rfl
theorem updCodec_keeps (s : State) (id : Nat) (f : CodecRun → CodecRun) : Keeps s (s.updCodec id f) := updCmd_keeps s _ _
theorem freeEngine_keeps (s : State) (id : Nat) : Keeps s (freeEngine s id) := Keeps.plain rfl rfl rfl

theorem syncHold_keeps (s : State) (id : Nat) : Keeps s (syncHold s id) := by
  unfold syncHold
  split
  · split
    · exact updEngine_keeps s _ _
    · exact Keeps.refl s
  · exact Keeps.refl s

theorem execCodecEngineStart_keeps (encode : Bool) (s : State) : Gives (execCodecEngineStart encode s) (Keeps s) := by
  refine Gives.next ?_
  split
  · extract_lets codec s1 drop v
    have h1 : Keeps s s1 := (updEngine_keeps s _ _).trans (updCodec_keeps _ _ _)
    refine Keeps.trans ?_ (syncHold_keeps _ _)
    exact h1.andPlain rfl rfl rfl
  · exact Keeps.refl s

theorem closeFrame_keeps (s : State) (c : Cmd) (r : Except Err CodecOut) : Keeps s (closeFrame s c r) := by
  unfold closeFrame
  split
  · exact ((captureFault_keeps s _ _).trans (updCmd_keeps _ _ _)).trans (freeEngine_keeps _ _)
  · extract_lets w s1 s2 s3
    have h1 : Keeps s s1 := (applyOut_keeps s c true _).trans (updCmd_keeps _ _ _)
    have h2 : Keeps s s2 := by
      simp only [s2]
      split
      · exact h1.andPlain rfl rfl rfl
      · exact h1
    have h3 : Keeps s s3 := by
      simp only [s3]
      split
      · exact h2.trans (updEngine_keeps s2 _ _)
      · exact h2
    exact h3.trans (freeEngine_keeps s3 _)

theorem execCodecDec_keeps (cmd : Nat) (pic : Picture) (s : State) : Gives (execCodecDec cmd pic s) (Keeps s) := by
  refine Gives.next ?_
  split
  · exact Keeps.refl s
  · split
    · exact during_keeps s _ (fun t => closeFrame_keeps t _ _)
    · exact Keeps.refl s

theorem execCodecEnc_keeps (cmd : Nat) (coded : Coded) (s : State) : Gives (execCodecEnc cmd coded s) (Keeps s) := by
  refine Gives.next ?_
  split
  · exact Keeps.refl s
  · split
    · exact Keeps.refl s
    · split
      · exact during_keeps s _ (fun t => closeFrame_keeps t _ _)
      · exact Keeps.refl s

theorem guardFires_keeps (s : State) (engine reason : Nat) : Keeps s (guardFires s engine reason) := by
  unfold guardFires
  extract_lets e
  split
  · exact Keeps.refl s
  · split
    · exact updCodec_keeps s _ _
    · exact Keeps.refl s

theorem execFrameBoundary_keeps (cmd : Nat) (s : State) : Gives (execFrameBoundary cmd s) (Keeps s) := by
  refine Gives.next ?_
  split
  · exact Keeps.refl s
  · split
    · extract_lets t ls held
      split
      · exact Keeps.refl s
      · exact ((timeReaches_keeps s t).trans (updCodec_keeps _ _ _)).trans (syncHold_keeps _ _)
    · exact Keeps.refl s

theorem leaveHold_keeps (s : State) (id : Nat) (out : List Nat) (ready : Bool) : Keeps s (leaveHold s id out ready) :=
  (updCodec_keeps s _ _).trans (syncHold_keeps _ _)

theorem execHoldDeadline_keeps (cmd layer : Nat) (s : State) : Gives (execHoldDeadline cmd layer s) (Keeps s) := by
  refine Gives.next ?_
  split
  · exact Keeps.refl s
  · split
    · split
      · exact (timeReaches_keeps s _).trans (leaveHold_keeps _ _ _ _)
      · exact Keeps.refl s
    · exact Keeps.refl s

theorem releaseHolds_keeps (s : State) : Keeps s (releaseHolds s) := by
  refine Keeps.foldl (fun t c => ?_) _ s
  split
  · dsimp only
    split
    · exact Keeps.refl t
    · exact leaveHold_keeps t _ _ _
  · exact Keeps.refl t

/-! The life of a command. -/

theorem takeCredits_keeps (s : State) (ks : List Nat) : Keeps s (takeCredits s ks) := Keeps.foldl (fun t k => setCluster_keeps t k _) ks s

theorem returnCredit_keeps (s : State) (id k : Nat) : Keeps s (returnCredit s id k) := setCluster_keeps s k _

theorem execCommandIssue_keeps (ctx : Nat) (s : State) : Gives (execCommandIssue ctx s) (Keeps s) := by
  refine Gives.next ?_
  split
  · exact Keeps.refl s
  · extract_lets c y s1 q dq eq
    have h1 : Keeps s s1 := ((turned_keeps s ctx).trans (takeCredits_keeps _ _)).trans (setCtx_keeps _ _)
    split
    · exact h1.andPlain rfl rfl rfl
    · exact Keeps.refl s

theorem dropStale_keeps (s : State) : Keeps s s.dropStale := Keeps.plain rfl rfl rfl

theorem execPartCommit_keeps (cmd cluster : Nat) (s : State) : Gives (execPartCommit cmd cluster s) (Keeps s) := by
  refine Gives.next ?_
  split
  · exact Keeps.refl s
  · split
    · exact Keeps.refl s
    · split
      · exact dropStale_keeps s
      · split
        · exact Keeps.refl s
        · exact (setCluster_keeps s _ _).trans (updCmd_keeps _ _ _)

theorem assignTile_keeps (s : State) (site : Nat) (p : Pick) (c : Cmd) : Keeps s (assignTile s site p c) := by
  unfold assignTile
  extract_lets cl x u k s1 s2
  have h1 : Keeps s s1 := by
    simp only [s1]
    split
    · exact setCluster_keeps s _ _
    · exact Keeps.refl s
  have h2 : Keeps s s2 := h1.trans (setSite_keeps s1 _ _)
  exact h2.andPlain rfl rfl rfl

theorem execTileDispatch_keeps (site : Nat) (s : State) : Gives (execTileDispatch site s) (Keeps s) := by
  refine Gives.next ?_
  split
  · exact Keeps.refl s
  · extract_lets cl
    split
    · exact Keeps.refl s
    · split
      · exact Keeps.refl s
      · split
        · exact Keeps.refl s
        · split
          · exact Keeps.refl s
          · exact ((assignTile_keeps s site _ _).trans (updCmd_keeps _ _ _)).trans (updCmd_keeps _ _ _)

theorem tileWrites_keeps (s : State) (site : Nat) : Keeps s (tileWrites s site) := by
  unfold tileWrites
  split
  · exact Keeps.refl s
  · exact Keeps.refl s
  · rename_i c _ _ _
    refine Keeps.trans (during_keeps s c (fun t => ?_)) (cscUse_keeps _ _ _ _)
    have k : Keeps t (writeAll c.id false (s.siteWrites site) (s.siteWrites site) t).1 := writeAll_keeps _ _ _ _ t
    split
    · rename_i s1 hw
      rw [hw] at k
      exact k
    · rename_i s1 e hw
      rw [hw] at k
      exact k.trans (failHeld_keeps s1 c e)

theorem freeUndo_keeps (s : State) (site : Nat) : Keeps s (freeUndo s site) := by
  unfold freeUndo
  split
  · split
    · split
      · exact Keeps.ms (dropScratch_keeps _ _)
      · exact Keeps.refl s
    · exact Keeps.refl s
  · exact Keeps.refl s

theorem execTileComplete_keeps (site valid starve block : Nat) (s : State) : Gives (execTileComplete site valid starve block s) (Keeps s) := by
  unfold execTileComplete
  refine Gives.next ?_
  extract_lets x u s1 s2 y
  have h1 : Keeps s s1 := (slotsEnter_keeps s _ _ _ _).trans (tileWrites_keeps _ _)
  have h2 : Keeps s s2 := h1.trans (freeUndo_keeps s1 _)
  split
  · exact Keeps.refl s
  · split
    · exact h1
    · exact h2.trans (setSite_keeps s2 _ _)

theorem collectOne_keeps (s : State) : Keeps s (collectOne s) := by
  unfold collectOne
  split
  · exact Keeps.refl s
  · exact Keeps.plain rfl rfl rfl

theorem collectAll_keeps (id : Nat) : ∀ (n : Nat) (s : State), Keeps s (collectAll id n s)
  | 0, s => Keeps.refl s
  | n + 1, s => by
      unfold collectAll
      split
      · exact (collectOne_keeps s).trans (collectAll_keeps id n _)
      · exact Keeps.refl s

theorem execPartComplete_keeps (cmd cluster : Nat) (s : State) : Gives (execPartComplete cmd cluster s) (Keeps s) := by
  refine Gives.next ?_
  split
  · exact Keeps.refl s
  · split
    · exact dropStale_keeps s
    · split
      · exact (((collectOne_keeps s).trans (returnCredit_keeps _ _ _)).trans (updCmd_keeps _ _ _)).trans (setCluster_keeps _ _ _)
      · exact Keeps.refl s

theorem freeReleased_keeps (s : State) (id : Nat) : Keeps s (freeReleased s id) := by
  unfold freeReleased
  extract_lets l done src
  refine Keeps.ms (MsKeeps.trans ?_ (MsKeeps.foldl dropPage_keeps done _))
  exact MsKeeps.same rfl

theorem takeSnapshot_keeps (s : State) (ctx : Nat) : Keeps s (takeSnapshot s ctx) := by
  unfold takeSnapshot
  split
  · exact Keeps.refl s
  · split
    · exact Keeps.refl s
    · split
      · exact Keeps.refl s
      · exact (setCtx_keeps s _).trans (sendMirror_keeps _ _)

theorem beginCheckpoint_keeps (s : State) (x : Ctx) (c : Cmd) : Keeps s (beginCheckpoint s x c) := by
  unfold beginCheckpoint
  extract_lets all new
  split
  · exact (updCtx_keeps s _ _).trans (takeSnapshot_keeps _ _)
  · exact (updCtx_keeps s _ _).trans (takeSnapshot_keeps _ _)

theorem dropCmdScratch_keeps (ms : MemSys) (id : Nat) : MsKeeps ms (dropCmdScratch ms id) :=
  MsKeeps.foldl dropScratch_keeps _ ms

theorem dropCmd_keeps (s : State) (n : Nat) : Keeps s (s.dropCmd n) := Keeps.plain rfl rfl rfl

theorem execCommandComplete_keeps (cmd : Nat) (s : State) : Gives (execCommandComplete cmd s) (Keeps s) := by
  refine Gives.next ?_
  split
  · exact Keeps.refl s
  · split
    · split
      · exact Keeps.refl s
      · extract_lets s2 s3 s4 s5
        have h2 : Keeps s s2 := ((collectAll_keeps _ _ s).trans (freeReleased_keeps _ _)).trans (dropCmd_keeps _ _)
        have h3 : Keeps s s3 := (h2.andMs (dropCmdScratch_keeps _ _)).trans (updCtx_keeps _ _ _)
        clear_value s3
        have h4 : Keeps s s4 := by
          simp only [s4]
          split
          · exact h3.trans (beginCheckpoint_keeps s3 _ _)
          · exact h3.trans (takeSnapshot_keeps s3 _)
        clear_value s4
        have h5 : Keeps s s5 := by
          simp only [s5]
          split
          · exact h4.trans (nextColl_keeps s4 _ _ _)
          · exact h4
        exact h5.trans (releaseHolds_keeps s5)
    · exact Keeps.refl s

theorem execCheckpointCommit_keeps (ctx : Nat) (s : State) : Gives (execCheckpointCommit ctx s) (Keeps s) := by
  refine Gives.next ?_
  split
  · exact Keeps.refl s
  · split
    · exact Keeps.refl s
    · exact setCtx_keeps s _

/-! Records and stopped requests. -/

theorem drain_keeps (s : State) (conn : Nat) : Keeps s (drain s conn) := drainLoop_keeps _ conn s

theorem releaseRecord_keeps (s : State) (conn seq : Nat) : Keeps s (releaseRecord s conn seq) := by
  unfold releaseRecord
  split
  · exact Keeps.refl s
  · split
    · exact Keeps.refl s
    · extract_lets s1
      have h1 : Keeps s s1 := updConn_keeps s _ _
      split
      · exact h1.trans (sendRecord_keeps s1 _ _)
      · exact h1

theorem dropParts_keeps (s : State) (id : Nat) (ks : List Nat) : Keeps s (dropParts s id ks) :=
  (Keeps.foldl (fun t k => returnCredit_keeps t id k) ks s).trans (updCmd_keeps _ _ _)

theorem discardCmd_keeps (s : State) (c : Cmd) : Keeps s (discardCmd s c) := by
  unfold discardCmd
  extract_lets s1 s2 q
  have h1 : Keeps s s1 := dropParts_keeps s _ _
  have h2 : Keeps s s2 := (h1.trans (freeReleased_keeps s1 _)).trans (releaseHeld_keeps _ _)
  have h3 : Keeps s { s2 with ms := dropCmdScratch s2.ms c.id } := h2.andMs (dropCmdScratch_keeps _ _)
  exact h3.andPlain rfl rfl rfl

theorem scrambleCore_keeps (s : State) (c : Cmd) : Keeps s (scrambleCore s c) := freeWrites_keeps s c.id _ _

theorem stopScatter_keeps (s : State) (c : Cmd) : Keeps s (stopScatter s c) := by
  unfold stopScatter
  have k : Keeps s (kvBody s c).1 := kvBody_keeps s c
  split
  · rename_i s1 o h
    rw [h] at k
    exact k.trans (freeWrites_keeps s1 c.id _ _)
  · exact Keeps.refl s

theorem leaveHalf_keeps (s : State) (c : Cmd) : Keeps s (leaveHalf s c) := by
  unfold leaveHalf
  split
  · exact Keeps.refl s
  · split
    · exact stopScatter_keeps s c
    · exact scrambleCore_keeps s c

theorem stopCmd_keeps (s : State) (c : Cmd) (r : Res) : Keeps s (stopCmd s c r) := by
  unfold stopCmd
  extract_lets waiting
  split
  · exact discardCmd_keeps s c
  · split
    · exact ((leaveHalf_keeps s c).trans (dropParts_keeps _ _ _)).trans (updCmd_keeps _ _ _)
    · exact dropParts_keeps s _ _

theorem stopCtx_keeps (s : State) (n : Nat) (r : Res) : Keeps s (stopCtx s n r) := by
  unfold stopCtx
  split
  · exact Keeps.refl s
  · split
    · exact complete_keeps s _ _
    · exact complete_keeps s _ _
    · exact (setCtx_keeps s _).trans (Keeps.foldl (fun t c => stopCmd_keeps t c r) _ _)
    · exact setCtx_keeps s _
    · exact Keeps.refl s

end Sys2Proof.Machine

namespace Sys2Proof.Machine

/-! Requests. -/

theorem addCtx_keeps (s : State) (l : List Ctx) : Keeps s { s with ctxs := l } := Keeps.plain rfl rfl rfl

theorem issueReads_keeps (n : Nat) : ∀ (fuel : Nat) (s : State), Keeps s (issueReads n fuel s)
  | 0, s => Keeps.refl s
  | fuel + 1, s => by
      unfold issueReads
      split
      · exact Keeps.refl s
      · split
        · exact Keeps.refl s
        · split
          · exact Keeps.refl s
          · exact ((setCtx_keeps s _).trans (emit_keeps _ _)).trans (issueReads_keeps n fuel _)

theorem beginReads_keeps (s : State) (x : Ctx) (es : List Entry) : Keeps s (beginReads s x es) :=
  (setCtx_keeps s _).trans (issueReads_keeps _ _ _)

theorem readsDone_keeps (s : State) (x : Ctx) : Keeps s (readsDone s x) := (setCtx_keeps s _).trans (emits_keeps _ _)

theorem takeInstance_keeps (s : State) (n : Nat) : Keeps s (takeInstance s n) := by
  unfold takeInstance
  split
  · exact Keeps.refl s
  · split
    · exact Keeps.refl s
    · split
      · exact Keeps.refl s
      · exact setCtx_keeps s _

theorem pinCtx_keeps (s : State) (n : Nat) : Keeps s (pinCtx s n) := by
  unfold pinCtx
  split
  · exact Keeps.refl s
  · split
    · exact Keeps.refl s
    · split
      · exact complete_keeps s _ _
      · exact (setCtx_keeps s _).trans (repin_keeps _)

theorem admitCtx_keeps (s : State) (n : Nat) : Keeps s (admitCtx s n) := (pinCtx_keeps s n).trans (takeInstance_keeps _ n)

theorem endHold_keeps (s : State) (ctx : Nat) : Keeps s (endHold s ctx) := by
  unfold endHold
  extract_lets s1
  have h1 : Keeps s s1 := Keeps.plain rfl rfl rfl
  exact h1.trans (Keeps.foldl pinCtx_keeps _ s1)

theorem leaveSlots_keeps (s : State) (c : Conn) (n serial : Nat) : Keeps s (leaveSlots s c n serial) := updConn_keeps s _ _

theorem openItem_keeps (s : State) (c : Conn) (descs : List Unit64) : Keeps s (openItem s c descs) := by
  unfold openItem
  extract_lets n x src s1 reading g wide
  have h0 : Keeps s src := leaveSlots_keeps s c _ _
  have h1 : Keeps s s1 := h0.andPlain rfl rfl rfl
  have hr : Keeps s reading := h1.trans (beginReads_keeps s1 x _)
  split
  · exact h1.trans (complete_keeps s1 x _)
  · split
    · exact h1.trans (admitCtx_keeps s1 n)
    · split
      · exact hr.andPlain rfl rfl rfl
      · split
        · exact hr
        · exact h1

theorem doorbellRow_keeps (conn : Nat) (slots : List (Nat × Unit64)) (t h : Option Nat) (s : State) :
    Keeps s (doorbellRow conn slots t h s) := by
  unfold doorbellRow
  split
  · exact Keeps.refl s
  · split
    · exact Keeps.refl s
    · exact (updConn_keeps s _ _).trans (drain_keeps _ _)

theorem runGraphRow_keeps (ctx : Nat) (s : State) : Keeps s (runGraphRow ctx s) := by
  unfold runGraphRow
  split
  · exact Keeps.refl s
  · split
    · split
      · exact Keeps.refl s
      · extract_lets es regs regs'
        split
        · exact complete_keeps s _ _
        · exact beginReads_keeps s _ _
    · exact Keeps.refl s

theorem hubFault_keeps (s : State) (e : Err) : Keeps s (hubFault s e) := captureFault_keeps s _ e

theorem inputsPlacedRow_keeps (ctx : Nat) (data : List (List Byte)) (s : State) : Keeps s (inputsPlacedRow ctx data s) := by
  unfold inputsPlacedRow
  split
  · exact Keeps.refl s
  · rename_i x _
    split
    · exact Keeps.refl s
    · split
      · exact Keeps.refl s
      · extract_lets ws
        have k : Keeps s (writeAll 0 true ws ws (readsDone s x)).1 := (readsDone_keeps s x).trans (writeAll_keeps _ _ _ _ _)
        split
        · rename_i s1 e hw
          rw [hw] at k
          exact (k.trans (hubFault_keeps s1 e)).trans (complete_keeps _ _ _)
        · rename_i s1 hw
          rw [hw] at k
          exact k.trans (setCtx_keeps s1 _)

theorem graphEndRow_keeps (ctx : Nat) (s : State) : Keeps s (graphEndRow ctx s) := by
  unfold graphEndRow
  split
  · exact Keeps.refl s
  · split
    · exact Keeps.refl s
    · split
      · exact Keeps.refl s
      · extract_lets x
        clear_value x
        split
        · exact complete_keeps s _ _
        · split
          · exact (hubFault_keeps s _).trans (complete_keeps _ _ _)
          · exact (setCtx_keeps s _).trans (emits_keeps _ _)

theorem outputsAcknowledgedRow_keeps (ctx : Nat) (s : State) : Keeps s (outputsAcknowledgedRow ctx s) := by
  unfold outputsAcknowledgedRow
  split
  · exact Keeps.refl s
  · split
    · exact complete_keeps s _ _
    · exact Keeps.refl s

theorem stopReq_keeps (s : State) (n : Nat) (r : Res) : Keeps s (stopReq s n r) := by
  unfold stopReq
  split
  · exact Keeps.refl s
  · split
    · exact stopCtx_keeps s n r
    · split
      · exact setCtx_keeps s _
      · refine Keeps.trans ?_ (endHold_keeps _ n)
        refine Keeps.trans ?_ (complete_keeps _ _ r)
        exact Keeps.plain rfl rfl rfl

theorem withRequest_keeps (src : ReqSrc) (typ : Nat) (s : State) (f : State → Ctx → State) (h : ∀ t x, Keeps t (f t x)) :
    Keeps s (withRequest src typ s f) := by
  unfold withRequest
  split
  · split
    · exact Keeps.refl s
    · split
      · exact h s _
      · exact Keeps.refl s
  · split
    · exact Keeps.refl s
    · extract_lets d t small n x
      split
      · exact Keeps.refl s
      · split
        · split
          · exact updConn_keeps s _ _
          · exact emit_keeps s _
        · split
          · exact (addCtx_keeps s _).trans (h _ x)
          · exact enqueue_keeps s _ _

theorem completeOk_keeps (s : State) (x : Ctx) (detail : Nat) : Keeps s (completeOk s x detail) := complete_keeps s _ _

theorem abortRow_keeps (src : ReqSrc) (s : State) : Keeps s (abortRow src s) :=
  withRequest_keeps src 5 s _ (fun t _ => (Keeps.foldl (fun u n => stopReq_keeps u n _) _ t).trans (completeOk_keeps _ _ _))

theorem flushRow_keeps (src : ReqSrc) (s : State) : Keeps s (flushRow src s) := by
  refine withRequest_keeps src 6 s _ (fun t x => ?_)
  split
  · exact Keeps.refl t
  · extract_lets r s1 s2 s3 waiting s4 s5
    have h1 : Keeps t s1 := updConn_keeps t _ _
    have h2 : Keeps t s2 := h1.trans (Keeps.foldl (fun u _ => enqueue_keeps u _ _) _ s1)
    clear_value s2
    have h3 : Keeps t s3 := by
      simp only [s3]
      split
      · exact h2
      · exact h2.trans (enqueue_keeps s2 _ _)
    have h4 : Keeps t s4 := h3.trans (Keeps.foldl (fun u n => stopReq_keeps u n _) _ s3)
    clear_value s4
    have h5 : Keeps t s5 := by
      simp only [s5]
      split
      · exact h4.trans (Keeps.foldl (fun u n => stopReq_keeps u n _) _ s4)
      · exact h4
    exact h5.trans (completeOk_keeps s5 _ _)

theorem writeResult_keeps (s : State) (x : Ctx) (bytes : List Byte) : Keeps s (writeResult s x bytes) := by
  unfold writeResult
  split
  · exact Keeps.refl s
  · exact (setCtx_keeps s _).trans (emit_keeps _ _)

theorem queryRow_keeps (src : ReqSrc) (s : State) : Keeps s (queryRow src s) := by
  refine withRequest_keeps src 8 s _ (fun t x => ?_)
  split
  · exact Keeps.refl t
  · exact writeResult_keeps t x _

theorem queryPlanRow_keeps (src : ReqSrc) (s : State) : Keeps s (queryPlanRow src s) := by
  refine withRequest_keeps src 7 s _ (fun t x => ?_)
  extract_lets d gid off
  split
  · exact complete_keeps t x _
  · extract_lets us
    clear_value us
    split
    · exact complete_keeps t x _
    · extract_lets y
      split
      · exact complete_keeps t x _
      · split
        · exact writeResult_keeps t x _
        · exact complete_keeps t x _
        · exact complete_keeps t x _

theorem consumeRow_keeps (conn : Nat) (s : State) : Keeps s (consumeRow conn s) := by
  unfold consumeRow
  split
  · exact Keeps.refl s
  · split
    · exact Keeps.refl s
    · extract_lets d n k
      split
      · split
        · exact Keeps.refl s
        · split
          · exact openItem_keeps s _ _
          · exact (leaveSlots_keeps s _ _ _).trans (enqueue_keeps _ _ _)
      · exact (updConn_keeps s _ _).trans (enqueue_keeps _ _ _)

theorem sendRow_keeps (conn : Nat) (descs : List Unit64) (s : State) : Keeps s (sendRow conn descs s) := by
  unfold sendRow
  split
  · exact flushRow_keeps _ s
  · exact queryPlanRow_keeps _ s
  · exact queryRow_keeps _ s
  · exact abortRow_keeps _ s

theorem itemConsumeRow_keeps (conn : Nat) (s : State) : Keeps s (itemConsumeRow conn s) := by
  unfold itemConsumeRow
  split
  · exact Keeps.refl s
  · split
    · exact consumeRow_keeps conn s
    · split
      · exact (updConn_keeps s _ _).trans (sendRow_keeps _ _ _)
      · exact Keeps.refl s

/-! Connections. -/

theorem sendRep_keeps (s : State) (c : Conn) : Keeps s (sendRep s c) := by
  unfold sendRep
  extract_lets d s1
  have h1 : Keeps s s1 := (updConn_keeps s _ _).trans (emit_keeps _ _)
  exact h1.andPlain rfl rfl rfl

theorem joinRow_keeps (k : Nat) (q : CmReq) (s : State) : Keeps s (joinRow k q s) := by
  unfold joinRow
  split
  · exact emit_keeps s _
  · split
    · exact (updConn_keeps s _ _).trans (emit_keeps _ _)
    · exact emit_keeps s _

theorem connectionSetupRow_keeps (q : CmReq) (s : State) : Keeps s (connectionSetupRow q s) := by
  unfold connectionSetupRow
  split
  · exact Keeps.refl s
  · split
    · exact joinRow_keeps _ q s
    · split
      · exact Keeps.refl s
      · split
        · extract_lets id c
          refine Keeps.trans ?_ (sendRep_keeps _ c)
          exact Keeps.plain rfl rfl rfl
        · exact emit_keeps s _

theorem resumeRow_keeps (q : CmReq) (s : State) : Keeps s (resumeRow q s) := by
  unfold resumeRow
  split
  · exact Keeps.refl s
  · split
    · split
      · exact emit_keeps s _
      · extract_lets d s1 due
        have h1 : Keeps s s1 := (updConn_keeps s _ _).trans (sendRep_keeps _ d)
        exact (h1.trans (emits_keeps s1 _)).trans (drain_keeps _ _)
    · exact emit_keeps s _

theorem closeConn_keeps (s : State) (conn : Nat) : Keeps s (closeConn s conn) := by
  unfold closeConn
  split
  · exact Keeps.refl s
  · extract_lets s1
    have h1 : Keeps s s1 := Keeps.plain rfl rfl rfl
    refine h1.trans (Keeps.foldl (fun t x => ?_) _ s1)
    split
    · exact stopCtx_keeps t _ _
    · exact (closeCtx_keeps t _).trans (endHold_keeps _ _)

theorem connectionCloseRow_keeps (conn : Nat) (s : State) : Keeps s (connectionCloseRow conn s) := by
  unfold connectionCloseRow
  split
  · split
    · exact closeConn_keeps s conn
    · exact Keeps.refl s
  · exact Keeps.refl s

theorem connectionExpiryRow_keeps (conn : Nat) (s : State) : Keeps s (connectionExpiryRow conn s) := by
  unfold connectionExpiryRow
  split
  · split
    · exact Keeps.refl s
    · exact closeConn_keeps s conn
  · exact Keeps.refl s

theorem execRemoteAccessNak_keeps (conn reason : Nat) (s : State) : Gives (execRemoteAccessNak conn reason s) (Keeps s) := by
  refine Gives.next ?_
  split
  · split
    · exact emit_keeps s _
    · exact Keeps.refl s
  · exact Keeps.refl s

theorem execCnpReceived_keeps (conn qp : Nat) (s : State) : Gives (execCnpReceived conn qp s) (Keeps s) := by
  refine Gives.next ?_
  split
  · split
    · exact (updConn_keeps s _ _).trans (emit_keeps _ _)
    · exact Keeps.refl s
  · exact Keeps.refl s

/-! Changes of models and graphs, and what waits for the twin. -/

theorem sendAwait_keeps (s : State) (us : List Mirror) (a : Await) : Keeps s (sendAwait s us a) := by
  unfold sendAwait
  extract_lets s1
  have h1 : Keeps s s1 := sendMirror_keeps s us
  exact h1.andPlain rfl rfl rfl

theorem endChange_keeps (s : State) (x : Ctx) (us : List Mirror) (r : Res) (detail : Nat) : Keeps s (endChange s x us r detail) := by
  unfold endChange
  extract_lets y all
  split
  · exact (complete_keeps s _ _).trans (endHold_keeps _ _)
  · exact ((setCtx_keeps s _).trans (sendAwait_keeps _ _ _)).trans (endHold_keeps _ _)

theorem change_keeps (s : State) (x : Ctx) (u : Mirror) (apply : State → State × Res × Nat) (h : Keeps s (apply s).1) :
    Keeps s (change s x u apply) := by
  unfold change
  split
  · split
    · exact sendAwait_keeps s _ _
    · exact endChange_keeps s _ _ _ _
  · exact h.trans (endChange_keeps _ _ _ _ _)

theorem unloadResult_keeps (s : State) (model : Nat) : Keeps s (unloadResult s model).1 := by
  unfold unloadResult
  split
  · exact Keeps.refl s
  · split
    · exact Keeps.refl s
    · exact unloadNow_keeps s _

theorem execLoadModel_keeps (ctx : Nat) (m w : List Byte) (s : State) : Gives (execLoadModel ctx m w s) (Keeps s) := by
  refine Gives.next ?_
  split
  · exact Keeps.refl s
  · extract_lets d
    split
    · exact (readsDone_keeps s _).trans (change_keeps _ _ _ _ (loadModel_keeps _ _ _ _))
    · exact Keeps.refl s

theorem execUnloadModel_keeps (ctx : Nat) (s : State) : Gives (execUnloadModel ctx s) (Keeps s) := by
  refine Gives.next ?_
  split
  · exact Keeps.refl s
  · extract_lets d
    split
    · exact change_keeps _ _ _ _ (unloadResult_keeps _ _)
    · exact Keeps.refl s

theorem execStoreGraph_keeps (ctx : Nat) (image : List Byte) (s : State) : Gives (execStoreGraph ctx image s) (Keeps s) := by
  refine Gives.next ?_
  split
  · exact Keeps.refl s
  · extract_lets d
    split
    · exact (readsDone_keeps s _).trans (change_keeps _ _ _ _ (storeGraph_keeps _ _ _ _))
    · exact Keeps.refl s

theorem execPatchGraph_keeps (ctx : Nat) (image : List Byte) (s : State) : Gives (execPatchGraph ctx image s) (Keeps s) := by
  refine Gives.next ?_
  split
  · exact Keeps.refl s
  · extract_lets g hold
    split
    · exact (readsDone_keeps s _).trans (change_keeps _ _ _ _ (patchGraph_keeps _ _ _))
    · exact Keeps.refl s

theorem localAction_keeps (i : Instr) (s : State) : Keeps s (localAction i s) := by
  unfold localAction
  split
  case h_1 => exact doorbellRow_keeps _ _ _ _ s
  case h_2 => exact itemConsumeRow_keeps _ s
  case h_3 => exact takeInstance_keeps s _
  case h_4 => exact runGraphRow_keeps _ s
  case h_5 => exact inputsPlacedRow_keeps _ _ s
  case h_6 => exact graphEndRow_keeps _ s
  case h_7 => exact outputsAcknowledgedRow_keeps _ s
  case h_8 => exact abortRow_keeps _ s
  case h_9 => exact flushRow_keeps _ s
  case h_10 => exact queryPlanRow_keeps _ s
  case h_11 => exact queryRow_keeps _ s
  case h_12 => exact connectionSetupRow_keeps _ s
  case h_13 => exact resumeRow_keeps _ s
  case h_14 => exact connectionCloseRow_keeps _ s
  case h_15 => exact connectionExpiryRow_keeps _ s
  case h_16 => exact Keeps.refl s

theorem finishChange_keeps (s : State) (ctx : Nat) (r : Res) (detail : Nat) : Keeps s (finishChange s ctx r detail) := by
  unfold finishChange
  split
  · exact Keeps.refl s
  · exact (complete_keeps s _ _).trans (endHold_keeps _ _)

theorem release_keeps (s : State) (a : Await) : Keeps s (release s a) := by
  unfold release
  extract_lets promise
  have hp (t : State) (n : Option Nat) : Keeps t (promise t n) := Keeps.plain rfl rfl rfl
  split
  · exact ((hp s _).trans (localAction_keeps _ _)).trans (hp _ none)
  · exact releaseRecord_keeps s _ _
  · split
    · exact finishChange_keeps s _ _ _
    · exact Keeps.refl s
  · exact Keeps.refl s

end Sys2Proof.Machine

namespace Sys2Proof.Machine

/-! Islands. -/

theorem firmwareHdrs_keeps (s : State) (i : Island) : Keeps s (firmwareHdrs s i) := Keeps.foldl (fun t p => setHdr_keeps t p _) _ s

theorem lockPages_keeps (s : State) : Keeps s (lockPages s) := Keeps.plain rfl rfl rfl

theorem seedStack_keeps (s : State) (t : Nat) : Keeps s (seedStack s t) := by
  refine Keeps.foldl (fun u k => ?_) _ s
  exact (setPart_keeps u (64 * t + k) { u.part (64 * t + k) with lfsr := BitVec.ofNat 32 (freeLfsr u.freeCtr) }).andPlain rfl rfl rfl

theorem reopenPart_keeps (s : State) (id k : Nat) : Keeps s (reopenPart s id k) := by
  unfold reopenPart
  split
  · exact (setCluster_keeps s _ _).trans (updCmd_keeps _ _ _)
  · exact Keeps.refl s
  · exact (setCluster_keeps s _ _).trans (updCmd_keeps _ _ _)

theorem redeal_keeps (s : State) (id cl : Nat) (us : List Nat) : Keeps s (redeal s id cl us) := by
  unfold redeal
  split
  · exact Keeps.refl s
  · split
    · exact Keeps.refl s
    · split
      · exact updCmd_keeps s _ _
      · exact (reopenPart_keeps s _ _).trans (updCmd_keeps _ _ _)

theorem giveBack_keeps (s : State) (l cl : Nat) (ab : Option (Nat × Nat)) : Keeps s (giveBack s l cl ab) := by
  unfold giveBack
  split
  · exact Keeps.refl s
  · exact updCmd_keeps s _ _

theorem dealAbsent_keeps (s : State) (l cl : Nat) : Keeps s (dealAbsent s l cl) := by
  refine Keeps.foldl (fun t c => ?_) _ s
  extract_lets us s1
  have h1 : Keeps t s1 := updCmd_keeps t _ _
  split
  · exact h1.trans (redeal_keeps s1 _ _ _)
  · exact h1

theorem tileFault_keeps (s : State) (n typ detail : Nat) : Keeps s (tileFault s n typ detail) := by
  unfold tileFault
  extract_lets x page
  have h1 : Keeps s (fence (s.logError page 1 typ 0 detail) n false true) :=
    (logError_keeps s _ _ _ _ _).trans (fence_keeps _ _ _ _)
  split
  · split
    · exact (((logError_keeps s _ _ _ _ _).trans (arrProgress_keeps _ _)).trans (setSite_keeps _ _ _)).trans (updCmd_keeps _ _ _)
    · exact h1
  · exact h1

theorem moonTakes_keeps (s : State) (cl l : Nat) : Keeps s (moonTakes s cl l) := (setCluster_keeps s _ _).trans (setSite_keeps _ _ _)

theorem becomesAbsent_keeps (s : State) (cl l : Nat) : Keeps s (becomesAbsent s cl l) := setCluster_keeps s _ _

theorem moonServes_keeps (s : State) (cl l : Nat) (epoch : BitVec 16) : Keeps s (moonServes s cl l epoch) := by
  unfold moonServes
  extract_lets s0 m src s1
  have h1 : Keeps s s1 := (moonTakes_keeps s cl l).trans (setSite_keeps s0 _ _)
  split
  · exact (h1.trans (becomesAbsent_keeps s1 _ _)).trans (dealAbsent_keeps _ _ _)
  · exact h1

/-- One more site among those recorded as eclipsed. -/
theorem recordEclipse_keeps (s : State) (l : List Nat) (h : ∀ n ∈ s.dev.eclipsedFlash, n ∈ l) :
    Keeps s { s with dev := { s.dev with eclipsedFlash := l } } :=
  ⟨rfl, id, ⟨id, fun _ x => x, fun _ x => x, h⟩⟩

theorem markEclipsed_keeps (s : State) (n : Nat) (graceful moon : Bool) : Keeps s (markEclipsed s n graceful moon) := by
  unfold markEclipsed
  extract_lets x page s1 y s2 h s3 old flash c s4 dev
  have h3 : Keeps s s3 := ((changeIsl_keeps s _ _).trans (setSite_keeps s1 _ _)).trans (setHdr_keeps s2 _ _)
  have h4 : Keeps s s4 ∧ s4.dev.eclipsedFlash = old := by
    simp only [s4]
    split
    · exact ⟨h3.trans (setCluster_keeps s3 _ _), rfl⟩
    · exact ⟨h3, rfl⟩
  have hf : ∀ k ∈ s4.dev.eclipsedFlash, k ∈ flash := by
    intro k hk
    rw [h4.2] at hk
    simp only [flash]
    split
    · exact hk
    · split <;> simp [hk]
  exact ((h4.1.trans (recordEclipse_keeps s4 flash hf)).trans (logNote_keeps _ _ _ _)).trans (setEventOnce_keeps _ _ _ _)

theorem eclipseSite_keeps (s : State) (n : Nat) : Keeps s (eclipseSite s n) := by
  unfold eclipseSite
  extract_lets x cl take s1
  have h1 : Keeps s s1 := markEclipsed_keeps s n false _
  split
  · exact h1
  · extract_lets s2
    have h2 : Keeps s s2 := h1.trans (giveBack_keeps s1 _ _ _)
    split
    · exact h2.trans (moonServes_keeps s2 _ _ _)
    · exact (h2.trans (becomesAbsent_keeps s2 _ _)).trans (dealAbsent_keeps _ _ _)

theorem resetSite_keeps (s : State) (n : Nat) : Keeps s (resetSite s n) := by
  unfold resetSite
  extract_lets x cl s1 y z s2
  have h1 : Keeps s s1 := ((turnOff_keeps s _).trans (loseLsm_keeps _ _)).trans (noteReplay_keeps _ _ _ _)
  have h2 : Keeps s s2 := h1.trans (setSite_keeps s1 _ _)
  split
  · exact h2.trans (noteStale_keeps s2)
  · exact (((h2.trans (giveBack_keeps s2 _ _ _)).trans (becomesAbsent_keeps _ _ _)).trans (dealAbsent_keeps _ _ _)).trans
      (noteStale_keeps _)

theorem leaveColl_keeps (s : State) (c : Cmd) : Keeps s (leaveColl s c) := by
  unfold leaveColl
  split
  · exact (endHandshake_keeps s c).trans (nextColl_keeps _ _ _ _)
  · exact Keeps.refl s

/-- A command that goes with its island. -/
theorem leaveBegun_keeps (s : State) (c : Cmd) : Keeps s (if begun c then leaveHalf s c else s) := by
  split
  · exact leaveHalf_keeps s c
  · exact Keeps.refl s

theorem failTile_keeps (s : State) (t : Nat) : Keeps s (failTile s t) := by
  unfold failTile
  extract_lets hit s1
  have h1 : Keeps s s1 := by
    refine Keeps.foldl (fun u n => Keeps.foldl (fun v c => ?_) _ u) hit s
    extract_lets v1
    have hv : Keeps v v1 := leaveBegun_keeps v c
    split
    · exact ((hv.trans (discardCmd_keeps v1 c)).trans (freeEngine_keeps _ _)).trans (leaveColl_keeps _ c)
    · exact stopCmd_keeps v c _
  exact h1.trans (Keeps.foldl (fun u n => updCtx_keeps u n _) hit s1)

theorem siteOff_keeps (s : State) (n : Nat) : Keeps s (siteOff s n) := by
  unfold siteOff
  extract_lets x y s1
  have h1 : Keeps s s1 := by
    simp only [s1]
    split
    · exact Keeps.refl s
    · exact turnOff_keeps s _
  exact (h1.trans (loseLsm_keeps s1 n)).trans (setSite_keeps _ _ _)

theorem clearTlbs_keeps (ms : MemSys) (l : List Nat) : MsKeeps ms (clearTlbs ms l) := MsKeeps.same rfl
theorem loseTables_keeps (ms : MemSys) : MsKeeps ms (loseTables ms) := MsKeeps.same rfl

theorem tileOff_keeps (s : State) (t : Nat) : Keeps s (tileOff s t) := by
  unfold tileOff
  extract_lets s1 s2 s3 s4 s5
  have h1 : Keeps s s1 := failTile_keeps s t
  have h2 : Keeps s s2 := h1.trans (Keeps.foldl (fun u k => siteOff_keeps u _) _ s1)
  have h3 : Keeps s s3 := h2.trans (Keeps.foldl (fun u k => setCluster_keeps u _ _) _ s2)
  have h4 : Keeps s s4 := (h3.trans (turnOff_keeps s3 _)).trans (turnOff_keeps _ _)
  clear_value s4
  have h5 : Keeps s s5 := by
    simp only [s5]
    split
    · exact h4.trans (changeIsl_keeps s4 _ _)
    · exact h4
  refine Keeps.trans ?_ (noteStale_keeps _)
  exact h5.andMs (clearTlbs_keeps _ _)

theorem checkCoord_keeps (s : State) : Keeps s (checkCoord s) := by
  unfold checkCoord
  extract_lets ok src s1
  have h1 : Keeps s s1 := Keeps.plain rfl rfl rfl
  split
  · exact h1
  · exact (h1.trans (logNote_keeps s1 _ _ _)).trans (attnEvent_keeps _ _)

theorem discardModels_keeps (s : State) : Keeps s (discardModels s) := by
  unfold discardModels
  refine Keeps.trans ?_ (Keeps.foldl unloadNow_keeps _ _)
  exact Keeps.plain rfl rfl rfl

/-- A command's way out as the HUB goes OFF. -/
theorem goesWithHub_keeps (s : State) (c : Cmd) :
    Keeps s (freeEngine (discardCmd (if begun c then leaveHalf s c else s) c) c.id) :=
  ((leaveBegun_keeps s c).trans (discardCmd_keeps _ c)).trans (freeEngine_keeps _ _)

/-- A tile that is not OFF yet goes OFF. -/
theorem tileOffOnce_keeps (s : State) (t : Nat) : Keeps s (if (s.svcIsl t).state = .off then s else tileOff s t) := by
  split
  · exact Keeps.refl s
  · exact tileOff_keeps s t

theorem hubOff_keeps (s : State) : Keeps s (hubOff s) := by
  unfold hubOff
  extract_lets conns s0 s1 ms1 ms2 lost ms4 clusters s2 s3 t f fre tlc vcc s4 s5 s6
  have h0 : Keeps s s0 := Keeps.foldl goesWithHub_keeps _ s
  clear_value s0
  have h1 : Keeps s s1 := h0.trans (Keeps.foldl tileOffOnce_keeps _ s0)
  clear_value s1
  have k1 : MsKeeps s1.ms ms1 := MsKeeps.foldl (fun ms n => dropScratch_keeps ms _) _ s1.ms
  clear_value ms1
  have k2 : MsKeeps ms1 { ms1 with releasing := [], held := [] } := MsKeeps.same rfl
  have k3 : MsKeeps s1.ms ms2 := k1.trans (k2.trans (MsKeeps.foldl dropPage_keeps _ _))
  have k4 : MsKeeps s1.ms ms4 := k3.trans (lose_keeps ms2 _ _)
  clear_value ms4
  have hm : Keeps s { s1 with ms := ms4 } := h1.andMs k4
  have h2 : Keeps s s2 := by
    simp only [s2]
    refine Keeps.trans ?_ (settlePins_keeps _)
    exact hm.andPlain rfl rfl rfl
  have h3 : Keeps s s3 := h2.trans (emits_keeps s2 _)
  clear_value s3
  have h4 : Keeps s s4 := h3.andPlain rfl rfl rfl
  have h5 : Keeps s s5 := (h4.trans (turnOff_keeps s4 _)).trans (noteStale_keeps _)
  clear_value s5
  have h6 : Keeps s s6 := by
    simp only [s6]
    split
    · exact h5.trans (discardModels_keeps s5)
    · exact h5
  exact h6.andMs (loseTables_keeps _)

theorem fatalOf_keeps (s : State) (i : Island) : Keeps s (fatalOf s i) := by
  unfold fatalOf
  split
  · exact hubOff_keeps s
  · exact tileOff_keeps s _
  · exact tileOff_keeps s _
  · exact tileOff_keeps s _
  · exact tileOff_keeps s _
  · exact Keeps.plain rfl rfl rfl
  · exact hubOff_keeps s

theorem refuseIsland_keeps (s : State) (p : Nat) : Keeps s (refuseIsland s p) := logNote_keeps s _ _ _

theorem failDomain_keeps (s : State) (i : Island) : Keeps s (failDomain s i) := by
  unfold failDomain
  extract_lets s1
  have h1 : Keeps s s1 := Keeps.foldl (fun t (c : Cmd) => updCmd_keeps t c.id _) _ s
  exact h1.trans (Keeps.foldl (fun t (x : Ctx) => stopCtx_keeps t x.num _) _ s1)

end Sys2Proof.Machine

namespace Sys2Proof.Machine

/-! Faults, eclipses and returns. -/

theorem takeFree_keeps (s : State) : Keeps s s.takeFree.2 := Keeps.plain rfl rfl rfl

theorem execImmediateEclipse_keeps (site type : Nat) (s : State) : Gives (execImmediateEclipse site type s) (Keeps s) := by
  refine Gives.next ?_
  split
  · exact (takeFree_keeps s).trans (tileFault_keeps _ _ _ _)
  · exact Keeps.refl s

theorem execTileTimeLimit_keeps (site : Nat) (s : State) : Gives (execTileTimeLimit site s) (Keeps s) := by
  refine Gives.next ?_
  split
  · exact tileFault_keeps s _ _ _
  · exact Keeps.refl s

theorem execEclipseWritesDelivered_keeps (site : Nat) (s : State) : Gives (execEclipseWritesDelivered site s) (Keeps s) := by
  refine Gives.next ?_
  extract_lets x
  split
  · exact Keeps.refl s
  · split
    · exact resetSite_keeps s site
    · exact eclipseSite_keeps s site

theorem execLsmErrorLimit_keeps (site : Nat) (s : State) : Gives (execLsmErrorLimit site s) (Keeps s) := by
  refine Gives.next ?_
  extract_lets x f seen s1 y
  have h1 : Keeps s s1 := (takeFree_keeps s).trans (Keeps.foldl (fun t k => logError_keeps t _ _ _ _ _) _ f.2)
  split
  · exact h1.trans (setSite_keeps s1 _ _)
  · exact Keeps.refl s

theorem execGracefulEclipse_keeps (site : Nat) (s : State) : Gives (execGracefulEclipse site s) (Keeps s) := by
  refine Gives.next ?_
  extract_lets x
  clear_value x
  split
  · exact Keeps.refl s
  · split
    · exact (markEclipsed_keeps s _ _ _).trans (moonServes_keeps _ _ _ _)
    · exact Keeps.refl s

theorem execFatalError_keeps (i : Island) (type : Nat) (s : State) : Gives (execFatalError i type s) (Keeps s) := by
  have h (page t r d : Nat) (j : Island) : Keeps s (fatalOf (s.logError page 2 t r d) j) :=
    (logError_keeps s _ _ _ _ _).trans (fatalOf_keeps _ j)
  refine Gives.next ?_
  split
  · exact Keeps.refl s
  · split
    · exact Keeps.refl s
    · exact Keeps.refl s
    · exact Keeps.refl s
    · exact h _ _ _ _ _
    · split
      · exact Keeps.refl s
      · exact h _ _ _ _ _
    · split
      · exact Keeps.refl s
      · exact h _ _ _ _ _
    · split
      · exact Keeps.refl s
      · exact h _ _ _ _ _

theorem execMessageParityError_keeps (page : Nat) (m : MsgId) (s : State) : Gives (execMessageParityError page m s) (Keeps s) := by
  have h (l : List (Nat × MsgId)) : Keeps s { s with retryPending := l } := Keeps.plain rfl rfl rfl
  refine Gives.next ?_
  split
  · exact Keeps.refl s
  · split
    · exact ((h _).trans (logError_keeps _ _ _ _ _ _)).trans (fatalOf_keeps _ _)
    · exact ((h _).trans (logError_keeps _ _ _ _ _ _)).trans (emit_keeps _ _)

theorem execPllLockLoss_keeps (k : Nat) (s : State) : Gives (execPllLockLoss k s) (Keeps s) := by
  refine Gives.next ?_
  split
  · exact Keeps.refl s
  · split
    · exact Keeps.refl s
    · extract_lets dev s1
      have h1 : Keeps s s1 := Keeps.marked rfl rfl rfl rfl rfl rfl
      exact ((h1.trans (logError_keeps s1 _ _ _ _ _)).trans (setEvent_keeps _ _ _)).trans (fatalOf_keeps _ _)

theorem setLocks_keeps (s : State) (ks : List Nat) : Keeps s (setLocks s ks) := Keeps.marked rfl rfl rfl rfl rfl rfl

theorem siteBack_keeps (s : State) (n : Nat) : Keeps s (siteBack s n) := by
  unfold siteBack
  extract_lets f s1 x s2
  have h1 : Keeps s s1 := (takeFree_keeps s).trans (returnOn_keeps _ _)
  have h2 : Keeps s s2 := h1.trans (setSite_keeps s1 _ _)
  clear_value s2 x
  split
  · exact h2
  · exact h2.trans (setCluster_keeps s2 _ _)

theorem siteFails_keeps (s : State) (n : Nat) : Keeps s (siteFails s n) := (logError_keeps s _ _ _ _ _).trans (eclipseSite_keeps _ _)

theorem sitesBack_keeps (s : State) (t : Nat) : Keeps s (sitesBack s t) := by
  unfold sitesBack
  extract_lets off bad sites s1
  have back (u : State) (n : Nat) : Keeps u (if off u n && !bad n then siteBack u n else u) := by
    split
    · exact siteBack_keeps u n
    · exact Keeps.refl u
  have fails (u : State) (n : Nat) : Keeps u (if off u n && bad n then siteFails u n else u) := by
    split
    · exact siteFails_keeps u n
    · exact Keeps.refl u
  have h0 : Keeps s { s with freeCtr := s.freeCtr + 64 } := Keeps.plain rfl rfl rfl
  have h1 : Keeps s s1 := h0.trans (Keeps.foldl back sites _)
  exact h1.trans (Keeps.foldl fails sites s1)

theorem computeBack_keeps (s : State) (t : Nat) : Keeps s (computeBack s t) :=
  ((returnOn_keeps s _).trans (setLocks_keeps _ _)).trans (sitesBack_keeps _ t)

theorem failsTest_keeps (s : State) (i : Island) (page : Nat) : Keeps s (failsTest s i page) :=
  (logError_keeps s _ _ _ _ _).trans (failDomain_keeps _ i)

theorem hubBack_keeps (s : State) : Keeps s (hubBack s) := by
  unfold hubBack
  extract_lets s1 s2
  have h0 : Keeps s { s with ms := reloadTables s.ms } := Keeps.ms (MsKeeps.same rfl)
  have h1 : Keeps s s1 := (h0.trans (returnOn_keeps _ _)).trans (setLocks_keeps _ _)
  have h2 : Keeps s s2 := h1.trans (checkCoord_keeps s1)
  split
  · exact h2.andPlain rfl rfl rfl
  · exact h2

theorem comeBack_keeps (s : State) (i : Island) (ok : Bool) : Keeps s (comeBack s i ok) := by
  unfold comeBack
  split
  · exact Keeps.refl s
  · split
    · exact (refuseIsland_keeps s _).trans (failDomain_keeps _ i)
    · split
      · split
        · exact hubBack_keeps s
        · exact failsTest_keeps s _ _
      · split
        · exact Keeps.refl s
        · split
          · extract_lets s1 s2
            have h1 : Keeps s s1 := (returnOn_keeps s _).trans (setLocks_keeps _ _)
            clear_value s1
            have h2 : Keeps s s2 := by
              simp only [s2]
              split
              · exact h1.trans (changeIsl_keeps s1 _ _)
              · exact h1
            exact h2.trans (computeBack_keeps s2 _)
          · exact failsTest_keeps s _ _
      · split
        · exact Keeps.refl s
        · split
          · exact computeBack_keeps s _
          · exact failsTest_keeps s _ _
      · split
        · exact Keeps.refl s
        · split
          · exact siteBack_keeps s _
          · exact siteFails_keeps s _
      · exact Keeps.refl s
      · exact Keeps.refl s
      · exact Keeps.refl s

theorem execIslandReturn_keeps (i : Island) (ok : Bool) (s : State) : Gives (execIslandReturn i ok s) (Keeps s) := by
  refine Gives.next ?_
  split
  · exact comeBack_keeps s i ok
  · exact Keeps.refl s

/-- An island of a tile that changes its state with the tile. -/
theorem changeIf_keeps {p : Prop} [Decidable p] (s : State) (i : Island) (st : PState) : Keeps s (if p then changeIsl s i st else s) := by
  split
  · exact changeIsl_keeps s i st
  · exact Keeps.refl s

theorem wakeSites_keeps (s : State) (t : Nat) : Keeps s (wakeSites s t) := Keeps.foldl (fun u _ => changeIf_keeps u _ _) _ s

theorem unpark_keeps (s : State) (t : Nat) : Keeps s (unpark s t) := Keeps.plain rfl rfl rfl

theorem execWakeComplete_keeps (i : Island) (ok : Bool) (s : State) : Gives (execWakeComplete i ok s) (Keeps s) := by
  refine Gives.next ?_
  split
  · split
    · extract_lets s1 s2
      have h1 : Keeps s s1 := changeIsl_keeps s _ _
      clear_value s1
      have h2 : Keeps s s2 := by
        cases i with
        | compute t => exact (h1.trans (wakeSites_keeps s1 t)).trans (unpark_keeps _ t)
        | aon | hub | service | site | stack | capMem => exact h1
      exact h2.trans (Keeps.foldl takeSnapshot_keeps _ s2)
    · refine Keeps.trans ?_ (failDomain_keeps _ i)
      split
      · exact Keeps.refl s
      · exact refuseIsland_keeps s _
  · split
    · exact comeBack_keeps s i ok
    · exact failDomain_keeps s i
  · exact Keeps.refl s
  · exact Keeps.refl s
  · exact Keeps.refl s
  · exact Keeps.refl s

theorem execQuiesceTimeout_keeps (site : Nat) (s : State) : Gives (execQuiesceTimeout site s) (Keeps s) := by
  refine Gives.next ?_
  split
  · exact ((changeIsl_keeps s _ _).trans (setHdr_keeps _ _ _)).trans (logError_keeps _ _ _ _ _ _)
  · exact Keeps.refl s

theorem execPark_keeps (tile : Nat) (s : State) : Gives (execPark tile s) (Keeps s) := by
  refine Gives.next ?_
  split
  · extract_lets s0 pwr s1
    have h0 : Keeps s s0 := changeIsl_keeps s _ _
    have h1 : Keeps s s1 := h0.andPlain rfl rfl rfl
    exact h1.trans (Keeps.foldl (fun u _ => changeIf_keeps u _ _) _ s1)
  · exact Keeps.refl s

/-! The twin. -/

theorem updTlc_keeps (s : State) (f : Tlc → Tlc) : Keeps s (updTlc s f) := Keeps.plain rfl rfl rfl
theorem attnOn_keeps (s : State) (n : Nat) : Keeps s (s.attnOn n) := Keeps.plain rfl rfl rfl
theorem attnOff_keeps (s : State) (n : Nat) : Keeps s (s.attnOff n) := Keeps.plain rfl rfl rfl

/-- A change that the twin brings. -/
theorem applyChange_keeps {s : State} {u : Mirror} {q : State × Res × Nat} (h : applyChange s u = some q) : Keeps s q.1 := by
  unfold applyChange at h
  split at h
  · split at h
    · dsimp only at h
      split at h
      · cases h
      · cases h
        exact loadModel_keeps s _ _ _
    · split at h
      · cases h
      · cases h
        exact unloadResult_keeps s _
  · cases h
    exact storeGraph_keeps s _ _ _
  · split at h
    · cases h
    · cases h
      exact patchGraph_keeps s _ _
  · cases h

theorem receiveChange_keeps {s t : State} {u : Mirror} (h : receiveChange s u = some t) : Keeps s t := by
  simp only [receiveChange, Option.map_eq_some_iff] at h
  obtain ⟨q, hq, rfl⟩ := h
  have k : Keeps s q.1 := applyChange_keeps hq
  split
  · exact k.trans (sendMirror_keeps _ _)
  · split
    · split
      · exact (k.trans (updTlc_keeps _ _)).trans (endChange_keeps _ _ _ _ _)
      · exact k.trans (updTlc_keeps _ _)
    · exact k

theorem takeModel_keeps (s : State) (m : Model) (weights : List Byte) : Keeps s (takeModel s m weights) := by
  rw [takeModel.eq_def]
  split
  · exact placeModel_keeps s _ _ _
  · split
    · extract_lets load ws crc
      split
      · rename_i s1 hf
        have h1 : Keeps s s1 := firmwareWrite_keeps _ _ s s1 hf
        exact h1.andPlain rfl rfl rfl
      · exact Keeps.refl s
    · exact (unloadNow_keeps s _).trans (placeModel_keeps _ _ _ _)

theorem takeGraph_keeps (s : State) (g : Graph) : Keeps s (takeGraph s g) := by
  unfold takeGraph
  extract_lets old kept refs g1 ms s1
  have h1 : Keeps s s1 := Keeps.plain rfl rfl rfl
  exact (h1.trans (settlePins_keeps s1)).trans (restage_keeps _ _)

theorem endCopy_keeps (s : State) (models graphs : List Nat) : Keeps s (endCopy s models graphs) := by
  unfold endCopy
  extract_lets s1
  have h1 : Keeps s s1 := by
    refine Keeps.trans ?_ (settlePins_keeps _)
    exact Keeps.plain rfl rfl rfl
  exact h1.trans (Keeps.foldl unloadNow_keeps _ s1)

theorem receiveCopy_keeps {s t : State} {u : Mirror} (h : receiveCopy s u = some t) : Keeps s t := by
  unfold receiveCopy at h
  split at h
  · dsimp only at h
    split at h
    · cases h
    · cases h
      exact takeModel_keeps s _ _
  · cases h
    exact takeGraph_keeps s _
  · cases h
    exact endCopy_keeps s _ _
  · cases h

theorem execMirrorUpdate_keeps (seq : Nat) (u : Mirror) (s : State) : Gives (execMirrorUpdate seq u s) (Keeps s) := by
  refine Gives.next ?_
  split
  · exact Keeps.refl s
  · extract_lets done
    have hd (t : State) : Keeps t (done t) := (updTlc_keeps t _).trans (emit_keeps _ _)
    split
    · split
      · rename_i s1 hr
        refine Keeps.trans ?_ (hd s1)
        split at hr
        · exact receiveCopy_keeps hr
        · exact receiveChange_keeps hr
      · exact Keeps.refl s
    · exact (updTlc_keeps s _).trans (hd _)

theorem execMirrorAcknowledgement_keeps (seq : Nat) (s : State) : Gives (execMirrorAcknowledgement seq s) (Keeps s) := by
  refine Gives.next ?_
  split
  · exact Keeps.refl s
  · exact (updTlc_keeps s _).trans (Keeps.foldl release_keeps _ _)

theorem stopMirroring_keeps (s : State) (st : Nat) : Keeps s (stopMirroring s st) := by
  unfold stopMirroring
  extract_lets waits s1 s2
  have h1 : Keeps s s1 := updTlc_keeps s _
  have h2 : Keeps s s2 := h1.andPlain rfl rfl rfl
  refine h2.trans (Keeps.foldl (fun t a => ?_) _ s2)
  split
  · exact finishChange_keeps t _ _ _
  · exact release_keeps t _
  · exact release_keeps t _
  · exact release_keeps t _

theorem degrade_keeps (s : State) : Keeps s (degrade s) := by
  unfold degrade
  split
  · exact (stopMirroring_keeps s 3).trans (attnOn_keeps _ _)
  · exact Keeps.refl s

theorem takeContext_keeps (s : State) (t : TwinCtx) : Keeps s (takeContext s t) := by
  unfold takeContext
  split
  · extract_lets n s1
    have h1 : Keeps s s1 := addCtx_keeps s _
    exact (h1.trans (updTlc_keeps s1 _)).trans (repin_keeps _)
  · exact (updTlc_keeps s _).trans (enqueue_keeps _ _ _)

theorem learnAddrs_keeps (s : State) : Keeps s (learnAddrs s) := Keeps.plain rfl rfl rfl

theorem takeover_keeps (s : State) : Keeps s (takeover s) := by
  unfold takeover
  extract_lets wasStale s1 s2 twin own s3 s4 s5
  have h1 : Keeps s s1 := ((stopMirroring_keeps s 4).trans (learnAddrs_keeps _)).trans (updTlc_keeps _ _)
  clear_value s1
  have h2 : Keeps s s2 := h1.trans (attnEvent_keeps s1 _)
  have h3 : Keeps s s3 := (h2.trans (emit_keeps s2 _)).trans (installAlias_keeps _ _ _)
  clear_value s3
  have h4 : Keeps s s4 := h3.trans (emits_keeps s3 _)
  have h5 : Keeps s s5 := h4.andPlain rfl rfl rfl
  exact (h5.trans (Keeps.foldl takeContext_keeps _ s5)).trans (updTlc_keeps _ _)

theorem twinLost_keeps (s : State) : Keeps s (twinLost s) := by
  unfold twinLost
  split
  · exact Keeps.refl s
  · split
    · exact Keeps.refl s
    · split
      · exact degrade_keeps s
      · exact takeover_keeps s

theorem zeroSpan_keeps (ms : MemSys) (a : Nat × Nat) : MsKeeps ms (zeroSpan ms a) := by
  refine MsKeeps.foldl (fun m p => ?_) _ ms
  extract_lets base lo hi
  split
  · exact fun w => memClear_wf _ _ _ w
  · exact MsKeeps.refl m

theorem execRestoreComplete_keeps (ctx : Nat) (s : State) : Gives (execRestoreComplete ctx s) (Keeps s) := by
  refine Gives.next ?_
  split
  · extract_lets places zeros s0 s1 ws
    have h0 : Keeps s s0 := Keeps.ms (MsKeeps.foldl zeroSpan_keeps zeros s.ms)
    have h1 : Keeps s s1 := h0.trans (updTlc_keeps s0 _)
    have k : Keeps s (writeAll 0 true ws ws s1).1 := h1.trans (writeAll_keeps _ _ _ _ _)
    split
    · exact Keeps.refl s
    · split
      · rename_i s2 e hw
        rw [hw] at k
        exact (k.trans (hubFault_keeps s2 e)).trans (complete_keeps _ _ _)
      · rename_i s2 hw
        rw [hw] at k
        exact k.trans (setCtx_keeps s2 _)
  · exact Keeps.refl s

theorem execHeartbeat_keeps (s : State) : Gives (execHeartbeat s) (Keeps s) := by
  refine Gives.next ?_
  split
  · exact Keeps.refl s
  · exact (updTlc_keeps s _).trans (emit_keeps _ _)

theorem execLinkLoss_keeps (s : State) : Gives (execLinkLoss s) (Keeps s) := by
  refine Gives.next ?_
  split
  · extract_lets s1
    have h1 : Keeps s s1 := updTlc_keeps s _
    split
    · exact h1.trans (degrade_keeps s1)
    · exact h1.trans (twinLost_keeps s1)
  · exact Keeps.refl s

theorem execSidebandLoss_keeps (s : State) : Gives (execSidebandLoss s) (Keeps s) := by
  refine Gives.next ?_
  split
  · extract_lets s1
    have h1 : Keeps s s1 := updTlc_keeps s _
    split
    · exact (h1.trans (logError_keeps s1 _ _ _ _ _)).trans (attnEvent_keeps _ _)
    · exact h1.trans (twinLost_keeps s1)
  · exact Keeps.refl s

theorem yieldNow_keeps (s : State) : Keeps s (yieldNow s) := (hubOff_keeps s).trans (updTlc_keeps _ _)

theorem execAddressConflict_keeps (addr : Nat) (s : State) : Gives (execAddressConflict addr s) (Keeps s) := by
  refine Gives.next ?_
  split
  · exact Keeps.refl s
  · split
    · exact Keeps.refl s
    · split
      · exact yieldNow_keeps s
      · exact emits_keeps s _

theorem execYieldMsg_keeps (s : State) : Gives (execYieldMsg s) (Keeps s) := by
  refine Gives.next ?_
  split
  · exact yieldNow_keeps s
  · exact Keeps.refl s

theorem runsUnpaired_keeps (s : State) : Keeps s (runsUnpaired s) := (updTlc_keeps s _).trans (logNote_keeps _ _ _ _)

theorem awaitAgain_keeps (s : State) (l : List Await) : Keeps s (awaitAgain s l) := by
  refine Keeps.foldl (fun t a => ?_) l s
  split
  · exact sendAwait_keeps t _ _
  · exact sendAwait_keeps t _ _
  · exact sendAwait_keeps t _ _
  · exact sendAwait_keeps t _ _

theorem openEpoch_keeps (s : State) (peer : Nat) (copy : Bool) (st : Nat) : Keeps s (openEpoch s peer copy st) := by
  unfold openEpoch
  extract_lets e waits s1 back fre s2 s3 us
  have h1 : Keeps s s1 := updTlc_keeps s _
  have h2 : Keeps s s2 := h1.andPlain rfl rfl rfl
  have h3 : Keeps s s3 := h2.andPlain rfl rfl rfl
  exact (h3.trans (sendMirror_keeps s3 _)).trans (awaitAgain_keeps _ _)

theorem resync_keeps (s : State) (p : PairRec) (twin : TwinHello) : Keeps s (resync s p twin) := by
  unfold resync
  extract_lets copy s1
  split
  · exact ((emit_keeps s _).trans (openEpoch_keeps _ _ _ _)).trans (updTlc_keeps _ _)
  · have h1 : Keeps s s1 := by
      simp only [s1]
      split
      · exact emits_keeps s _
      · exact emit_keeps s _
    exact (h1.trans (openEpoch_keeps s1 _ _ _)).trans (attnOff_keeps _ _)

theorem execLinkReturn_keeps (twin : TwinHello) (s : State) : Gives (execLinkReturn twin s) (Keeps s) := by
  refine Gives.next ?_
  split
  · exact Keeps.refl s
  · extract_lets proto s1
    have h1 : Keeps s s1 := updTlc_keeps s _
    split
    · exact h1
    · split
      · exact h1
      · split
        · exact h1.trans (runsUnpaired_keeps s1)
        · split
          · exact (h1.trans (updTlc_keeps s1 _)).trans (attnOn_keeps _ _)
          · exact h1.trans (resync_keeps s1 _ _)

theorem execResyncReadRetry_keeps (s : State) : Gives (execResyncReadRetry s) (Keeps s) := by
  refine Gives.next ?_
  split
  · exact ((emit_keeps s _).trans (updTlc_keeps _ _)).trans (attnOff_keeps _ _)
  · exact Keeps.refl s

theorem execAddressHandBack_keeps (addr : Nat) (s : State) : Gives (execAddressHandBack addr s) (Keeps s) := by
  refine Gives.next ?_
  split
  · exact Keeps.refl s
  · split
    · split
      · exact Keeps.refl s
      · exact (updTlc_keeps s _).trans (emits_keeps _ _)
    · split
      · exact (updTlc_keeps s _).trans (emit_keeps _ _)
      · exact Keeps.refl s

end Sys2Proof.Machine

namespace Sys2Proof.Machine

/-! Power, seal, presence, logs and wear. -/

theorem execTideGovernorTick_keeps (m : PowerSample) (s : State) : Gives (execTideGovernorTick m s) (Keeps s) := by
  refine Gives.next ?_
  split
  · exact Keeps.refl s
  · have h (p : Pwr) : Keeps s { s with pwr := p } := Keeps.plain rfl rfl rfl
    dsimp only
    split
    · exact (h _).trans (attnOn_keeps _ _)
    · split
      · exact (h _).trans (attnOff_keeps _ _)
      · exact h _

theorem execAvsCurrentRead_keeps (rail : Nat) (ok : Bool) (ma : Nat) (s : State) : Gives (execAvsCurrentRead rail ok ma s) (Keeps s) := by
  have h (p : Pwr) : Keeps s { s with pwr := p } := Keeps.plain rfl rfl rfl
  refine Gives.next ?_
  split
  · exact Keeps.refl s
  · extract_lets p src q
    split
    · exact h _
    · split
      · exact h _
      · exact ((h q).trans (logError_keeps _ _ _ _ _ _)).trans (attnEvent_keeps _ _)

theorem execThermtrip_keeps (s : State) : Gives (execThermtrip s) (Keeps s) := by
  refine Gives.next ?_
  split
  · exact Keeps.refl s
  · exact Keeps.marked rfl rfl rfl rfl rfl rfl

theorem execTelemetryThreshold_keeps (k : Nat) (s : State) : Gives (execTelemetryThreshold k s) (Keeps s) := by
  refine Gives.next ?_
  split
  · exact Keeps.refl s
  · extract_lets now mgc s1
    have h1 : Keeps s s1 := Keeps.plain rfl rfl rfl
    split
    · exact h1.trans (attnEvent_keeps s1 _)
    · exact h1

theorem execShadowRefresh_keeps (silent : List Nat) (s : State) : Gives (execShadowRefresh silent s) (Keeps s) := by
  refine Gives.next ?_
  split
  · exact Keeps.refl s
  · exact Keeps.plain rfl rfl rfl

/-- The seal fuse is programmed. -/
theorem breakSeal_keeps (s : State) (m : Mgc) : Keeps s { s with dev := { s.dev with sealBroken := true }, mgc := m } :=
  ⟨rfl, id, ⟨fun _ => rfl, fun _ h => h, fun _ h => h, fun _ h => h⟩⟩

theorem execSealCheck_keeps (closed : Bool) (s : State) : Gives (execSealCheck closed s) (Keeps s) := by
  refine Gives.next ?_
  split
  · exact Keeps.refl s
  · extract_lets run mgc s1 dev s2
    have h1 : Keeps s s1 := Keeps.plain rfl rfl rfl
    have h2 : Keeps s s2 := h1.trans (breakSeal_keeps s1 _)
    split
    · exact (h2.trans (logNote_keeps s2 _ _ _)).trans (attnEvent_keeps _ _)
    · exact h1

theorem execPresenceWindowOpen_keeps (s : State) : Gives (execPresenceWindowOpen s) (Keeps s) := by
  refine Gives.next ?_
  split
  · exact Keeps.refl s
  · split
    · exact Keeps.plain rfl rfl rfl
    · exact Keeps.plain rfl rfl rfl

theorem execLogEntryClose_keeps (domain : Nat) (s : State) : Gives (execLogEntryClose domain s) (Keeps s) := by
  refine Gives.next ?_
  split
  · exact Keeps.refl s
  · split
    · exact Keeps.refl s
    · extract_lets s1
      have h1 : Keeps s s1 := timeReaches_keeps s _
      exact h1.andPlain rfl rfl rfl

theorem execRingOscillatorMeasure_keeps (site ppm : Nat) (s : State) : Gives (execRingOscillatorMeasure site ppm s) (Keeps s) := by
  refine Gives.next ?_
  extract_lets x
  split
  · exact (setSite_keeps s _ _).trans (addMargin_keeps _ _ _ _)
  · exact Keeps.refl s

theorem execEyeMarginMeasure_keeps (lane h w : Nat) (s : State) : Gives (execEyeMarginMeasure lane h w s) (Keeps s) := by
  refine Gives.next ?_
  split
  · extract_lets wear s1
    have h1 : Keeps s s1 := Keeps.plain rfl rfl rfl
    exact (h1.trans (addMargin_keeps s1 _ _ _)).trans (addMargin_keeps _ _ _ _)
  · exact Keeps.refl s

theorem execWearPrediction_keeps (units : List WearUnit) (s : State) : Gives (execWearPrediction units s) (Keeps s) := by
  have rate (t : State) (u : WearUnit) :
      Keeps t (if u.kind = 0 ∨ u.kind = 2 then t else t.addMargin u.kind u.index (unitRate t u.kind u.index)) := by
    split
    · exact Keeps.refl t
    · exact addMargin_keeps t _ _ _
  refine Gives.next ?_
  extract_lets s0 own all least w' w due s1
  have h0 : Keeps s s0 := Keeps.foldl rate units s
  clear_value s0
  have h1 : Keeps s s1 := by
    refine Keeps.trans (t := { s0 with wear := w }) (h0.andPlain rfl rfl rfl) ?_
    exact Keeps.foldl (fun t (u : WearUnit) => setSite_keeps t u.index _) due _
  split
  · exact h1.trans (attnOn_keeps s1 _)
  · exact h1.trans (attnOff_keeps s1 _)

/-- One more hour of a site. -/
theorem hourOf_keeps (s : State) (n : Nat) (tj : List Nat) : Keeps s (
    let x := s.site n
    if x.isl.state = .off then s
    else s.setSite n { x with
      poweredHours := satInc32 x.poweredHours
      hotHours := if 900 < tj.getD (n / 64) 0 then satInc32 x.hotHours else x.hotHours }) := by
  extract_lets x
  split
  · exact Keeps.refl s
  · exact setSite_keeps s n _

theorem execWearHourCount_keeps (tj : List Nat) (s : State) : Gives (execWearHourCount tj s) (Keeps s) := by
  refine Gives.next ?_
  extract_lets s1
  have h1 : Keeps s s1 := Keeps.foldl (fun t n => hourOf_keeps t n tj) (List.range 256) s
  clear_value s1
  exact h1.andPlain rfl rfl rfl

/-! Registers. -/

theorem writeCtrCtrl_keeps (s : State) (n : Nat) (v : Word) : Keeps s (writeCtrCtrl s n v) :=
  (arrProgress_keeps s n).trans (setSite_keeps _ _ _)

theorem writeOpen_keeps (s : State) (p off : Nat) (v : Word) : Keeps s (writeOpen s p off v) := by
  unfold writeOpen
  split
  · exact writeCtrCtrl_keeps s _ v
  · split
    · exact Keeps.marked rfl rfl rfl rfl rfl rfl
    · exact Keeps.plain rfl rfl rfl
    · split
      · exact Keeps.plain rfl rfl rfl
      · exact Keeps.plain rfl rfl rfl
    · exact Keeps.plain rfl rfl rfl
    · exact Keeps.plain rfl rfl rfl
    · exact Keeps.refl s

theorem moveTile_keeps (s : State) (t : Nat) (a b : PState) : Keeps s (moveTile s t a b) := by
  unfold moveTile
  extract_lets held move sites
  have hm (u : State) (i : Island) : Keeps u (move u i) := by
    simp only [move]
    split
    · exact Keeps.refl u
    · split
      · split
        · exact Keeps.refl u
        · split
          · exact refuseIsland_keeps u _
          · exact changeIsl_keeps u i b
      · exact changeIsl_keeps u i b
  split
  · exact ((hm s _).trans (hm _ _)).trans (Keeps.foldl hm sites _)
  · exact ((Keeps.foldl hm sites s).trans (hm _ _)).trans (hm _ _)

theorem resetBlock_keeps (s : State) (p : Nat) : Keeps s (resetBlock s p) := by
  unfold resetBlock
  split
  · exact Keeps.plain rfl rfl rfl
  · exact Keeps.plain rfl rfl rfl
  · exact Keeps.plain rfl rfl rfl
  · exact Keeps.plain rfl rfl rfl
  · exact Keeps.plain rfl rfl rfl
  · exact seedStack_keeps s _
  · exact Keeps.plain rfl rfl rfl
  · exact Keeps.refl s

theorem softResetNow_keeps (s : State) (p : Nat) : Keeps s (softResetNow s p) := by
  unfold softResetNow
  extract_lets mark
  split
  · exact (resetSite_keeps s _).trans (setHdr_keeps _ _ _)
  · split
    · exact (tileOff_keeps s _).trans (setHdr_keeps _ _ _)
    · split
      · exact Keeps.refl s
      · exact (((resetBlock_keeps s p).trans (setIsl_keeps _ _ _)).trans (setHdr_keeps _ _ _)).trans (noteStale_keeps _)

theorem movePower_keeps (s : State) (p : Nat) : Keeps s (movePower s p) := by
  unfold movePower
  extract_lets h drain
  split
  · exact Keeps.refl s
  · split
    · split
      · split
        · exact changeIsl_keeps s _ _
        · exact moveTile_keeps s _ _ _
      · exact Keeps.refl s
    · split
      · exact Keeps.refl s
      · split
        · exact refuseIsland_keeps s p
        · split
          · exact changeIsl_keeps s _ _
          · exact moveTile_keeps s _ _ _
    · split
      · exact changeIsl_keeps s _ _
      · exact Keeps.refl s
    · split
      · exact Keeps.refl s
      · split
        · exact refuseIsland_keeps s p
        · split
          · exact setIsl_keeps s _ _
          · exact Keeps.refl s
    · exact Keeps.refl s
    · exact Keeps.refl s

theorem ctrlWrite_keeps (s : State) (p : Nat) (en q sr ec : Bool) : Keeps s (ctrlWrite s p en q sr ec) := by
  unfold ctrlWrite
  extract_lets gate st h s1 s2
  have h1 : Keeps s s1 := setHdr_keeps s p _
  split
  · exact Keeps.refl s
  · split
    · split
      · exact (setHdr_keeps s p _).trans (movePower_keeps _ p)
      · exact Keeps.refl s
    · split
      · exact Keeps.refl s
      · split
        · split
          · exact (h1.trans (fence_keeps s1 _ _ _)).trans (setHdr_keeps s2 p _)
          · exact h1
        · split
          · exact h1.trans (softResetNow_keeps s1 p)
          · split
            · exact h1.trans (movePower_keeps s1 p)
            · exact h1

theorem execQuiesceComplete_keeps (page : Nat) (s : State) : Gives (execQuiesceComplete page s) (Keeps s) := by
  unfold execQuiesceComplete
  refine Gives.next ?_
  extract_lets h keep s1 y
  have hk (t : State) : Keeps t (keep t) := setHdr_keeps t _ _
  split
  · split
    · exact (softResetNow_keeps s page).trans (setHdr_keeps s1 _ _)
    · exact Keeps.refl s
  · split
    · exact Keeps.refl s
    · split
      · split
        · exact (resetSite_keeps s _).trans (hk _)
        · exact Keeps.refl s
      · split
        · split
          · exact (tileOff_keeps s _).trans (hk _)
          · exact Keeps.refl s
        · exact Keeps.refl s

theorem pageWrite_keeps (s : State) (p off : Nat) (v : Word) : Keeps s (pageWrite s p off v) := by
  unfold pageWrite
  split
  · exact Keeps.refl s
  · split
    · exact logNote_keeps s _ _ _
    · split
      · exact ctrlWrite_keeps s p _ _ _ _
      · split
        · exact Keeps.refl s
        · extract_lets h
          split
          · exact setHdr_keeps s p _
          · exact setHdr_keeps s p _
          · split
            · exact logNote_keeps s _ _ _
            · exact setHdr_keeps s p _
          · split
            · exact Keeps.refl s
            · exact writeOpen_keeps s p _ v

theorem respondsNow_keeps (s : State) (p : Nat) : Keeps s (respondsNow s p).2 := by
  unfold respondsNow
  split
  · exact Keeps.refl s
  · split
    · exact takeFree_keeps s
    · exact Keeps.refl s

theorem operatorWrite_keeps (s : State) (p off : Nat) (v m : Word) : Keeps s (operatorWrite s p off v m).1 := by
  unfold operatorWrite
  extract_lets a
  have ha : Keeps s a.2 := respondsNow_keeps s p
  split
  · exact Keeps.refl s
  · split
    · exact Keeps.refl s
    · split
      · exact ha
      · split
        · exact ha
        · exact ha.trans (writeOpen_keeps a.2 p off _)

theorem latchHigh_keeps (s : State) (req p off : Nat) (high : Word) : Keeps s (latchHigh s req p off high) := Keeps.plain rfl rfl rfl

theorem readLatched_keeps (s : State) (req p off : Nat) : Keeps s (readLatched s req p off).2 := by
  unfold readLatched
  split
  · exact latchHigh_keeps s _ _ _ _
  · split
    · exact Keeps.plain rfl rfl rfl
    · exact Keeps.refl s

theorem readWord_keeps {s : State} {live : Bool} {req p off : Nat} {r : Word × Bool × State} (h : readWord s live req p off = some r) :
    Keeps s r.2.2 := by
  unfold readWord at h
  split at h
  · dsimp only at h
    cases h
    refine Keeps.trans ?_ (readLatched_keeps _ req p off)
    split
    · exact arrProgress_keeps s _
    · exact Keeps.refl s
  · split at h
    · cases h
      exact Keeps.refl s
    · cases h

theorem execCoreArrCtrClear_keeps (site : Nat) (s : State) : Gives (execCoreArrCtrClear site s) (Keeps s) := by
  refine Gives.next ?_
  split
  · exact (arrProgress_keeps s site).trans (setSite_keeps _ _ _)
  · exact Keeps.refl s

theorem execCoreArrCtrFreeze_keeps (site : Nat) (v : Bool) (s : State) : Gives (execCoreArrCtrFreeze site v s) (Keeps s) := by
  refine Gives.next ?_
  split
  · exact (arrProgress_keeps s site).trans (setSite_keeps _ _ _)
  · exact Keeps.refl s

theorem execLowWordRead_keeps (req page off : Nat) (s : State) : Gives (execLowWordRead req page off s) (Keeps s) := by
  refine Gives.next ?_
  split
  · exact Keeps.refl s
  · split
    · exact logNote_keeps s _ _ _
    · split
      · rename_i r hr
        exact readWord_keeps hr
      · exact Keeps.refl s

end Sys2Proof.Machine

namespace Sys2Proof.Machine

/-! Management operations. -/

theorem readWords_keeps (live : Bool) (p : Nat) : ∀ (n off : Nat) {s : State} {r : List Byte × Bool × State},
    readWords live p n off s = some r → Keeps s r.2.2
  | 0, _, _, _, h => by cases h; exact Keeps.refl _
  | n + 1, off, s, r, h => by
      unfold readWords at h
      split at h
      · cases h
      · rename_i w hw
        split at h
        · cases h
        · rename_i r' hr
          have k : Keeps w.2.2 r'.2.2 := readWords_keeps live p n _ hr
          cases h
          exact (readWord_keeps hw).trans k

theorem readRegBody_keeps (p : List Byte) (s : State) : Keeps s (readRegBody p s).st := by
  unfold readRegBody
  extract_lets page a
  have ha : Keeps s a.2 := respondsNow_keeps s page
  split
  · exact Keeps.refl s
  · split
    · rename_i r hr
      exact ha.trans (readWords_keeps _ _ _ _ hr)
    · exact ha

theorem writeRegBody_keeps (p : List Byte) (s : State) : Keeps s (writeRegBody p s).st := operatorWrite_keeps s _ _ _ _

theorem readTelemetryBody_keeps (p : List Byte) (s : State) : Keeps s (readTelemetryBody p s).st := Keeps.refl s

theorem readLogBody_keeps (p : List Byte) (s : State) : Keeps s (readLogBody p s).st := by
  unfold readLogBody
  extract_lets d l es s1
  show Keeps s s1
  simp only [s1]
  split
  · exact Keeps.plain rfl rfl rfl
  · exact Keeps.refl s

theorem ackAttnBody_keeps (p : List Byte) (s : State) : Keeps s (ackAttnBody p s).st := Keeps.plain rfl rfl rfl

theorem resetIslandNow_keeps (s : State) (i : Island) : Keeps s (resetIslandNow s i).1 := by
  unfold resetIslandNow
  split
  · split
    · exact Keeps.refl s
    · exact hubOff_keeps s
  · split
    · exact Keeps.refl s
    · exact tileOff_keeps s _
  · split
    · exact Keeps.refl s
    · exact tileOff_keeps s _
  · dsimp only
    split
    · exact Keeps.refl s
    · split
      · exact fence_keeps s _ _ _
      · exact Keeps.refl s
  · exact Keeps.refl s
  · exact Keeps.refl s
  · exact Keeps.refl s

theorem resetIslandBody_keeps (p : List Byte) (s : State) : Keeps s (resetIslandBody p s).st := by
  unfold resetIslandBody
  split
  · exact resetIslandNow_keeps s _
  · exact Keeps.refl s

theorem forceTakeoverBody_keeps (p : List Byte) (s : State) : Keeps s (forceTakeoverBody p s).st := by
  unfold forceTakeoverBody
  extract_lets a s1
  have ha : Keeps s a.2 := respondsNow_keeps s _
  have h1 : Keeps s s1 := by
    simp only [s1]
    split
    · exact ha.trans (emit_keeps a.2 _)
    · exact ha
  clear_value s1
  split
  · exact Keeps.refl s
  · split
    · exact ha
    · show Keeps s (if 1 ≤ s.tlc.tstate ∧ s.tlc.tstate ≤ 3 then takeover s1 else s1)
      split
      · exact h1.trans (takeover_keeps s1)
      · exact h1

theorem unstage_keeps (s : State) : Keeps s (unstage s) := Keeps.plain rfl rfl rfl

theorem stageDataBody_keeps (p : List Byte) (s : State) : Keeps s (stageDataBody p s).st := by
  unfold stageDataBody
  extract_lets m b
  split
  · exact Keeps.refl s
  · split
    · exact Keeps.refl s
    · exact Keeps.plain rfl rfl rfl

theorem stageFinishBody_keeps (p : List Byte) (s : State) : Keeps s (stageFinishBody p s).st := by
  unfold stageFinishBody
  extract_lets m
  split
  · exact Keeps.plain rfl rfl rfl
  · exact Keeps.refl s

theorem discardStagedBody_keeps (p : List Byte) (s : State) : Keeps s (discardStagedBody p s).st := by
  unfold discardStagedBody
  extract_lets m gone y s1
  have h1 : Keeps s s1 := by
    simp only [s1]
    split
    · exact Keeps.plain rfl rfl rfl
    · exact Keeps.refl s
  exact h1.trans (unstage_keeps s1)

theorem execEraseComplete_keeps (s : State) : Gives (execEraseComplete s) (Keeps s) := by
  refine Gives.next ?_
  split
  · exact Keeps.plain rfl rfl rfl
  · exact Keeps.refl s

theorem execVerificationComplete_keeps (ok : Bool) (s : State) : Gives (execVerificationComplete ok s) (Keeps s) := by
  refine Gives.next ?_
  extract_lets m b x n
  split
  · exact Keeps.refl s
  · split
    · exact Keeps.plain rfl rfl rfl
    · exact Keeps.plain rfl rfl rfl

theorem setMgc_keeps (s : State) (m : Mgc) : Keeps s { s with mgc := m } := Keeps.plain rfl rfl rfl

/-- A sealed command keeps what its act keeps. -/
theorem sealedBody_keeps (op : Nat) (src : MmpSrc) (act : List Byte → State → State × Res) (h : ∀ p s, Keeps s (act p s).1)
    (p : List Byte) (s : State) : Keeps s (sealedBody op src act p s).st := by
  unfold sealedBody
  split
  · exact Keeps.refl s
  · rename_i kind _
    extract_lets r src mgc s1
    have hr : Keeps s r.1 := h p s
    clear_value r
    have h1 : Keeps s s1 := by
      simp only [s1]
      split
      · exact hr.andPlain rfl rfl rfl
      · exact hr
    exact h1.trans (setMgc_keeps s1 _)

theorem stageFirmwareAct_keeps (p : List Byte) (s : State) : Keeps s (stageFirmwareAct p s).1 := by
  unfold stageFirmwareAct
  extract_lets s1 m y x
  have h1 : Keeps s s1 := unstage_keeps s
  split
  · exact Keeps.refl s
  · exact h1.andPlain rfl rfl rfl

theorem commitAct_keeps (p : List Byte) (s : State) : Keeps s (commitAct p s).1 := by
  unfold commitAct
  split
  · exact Keeps.plain rfl rfl rfl
  · exact Keeps.refl s

theorem pairAct_keeps (p : List Byte) (s : State) : Keeps s (pairAct p s).1 := Keeps.plain rfl rfl rfl
theorem unpairAct_keeps (p : List Byte) (s : State) : Keeps s (unpairAct p s).1 := Keeps.plain rfl rfl rfl

/-- A fuse that is blown stays blown (R427). -/
theorem burn_getLsbD {d : DWord} {high : Bool} {v k : Nat} (h : d.getLsbD k = true) : (burn d high v).getLsbD k = true := by
  simp [burn, h]

theorem fusesAct_keeps (p : List Byte) (s : State) : Keeps s (fusesAct p s).1 := by
  unfold fusesAct
  extract_lets w v
  show Keeps s (if w < 2 then _ else _)
  split
  · exact ⟨rfl, id, ⟨id, fun _ => burn_getLsbD, fun _ h => h, fun _ h => h⟩⟩
  · exact ⟨rfl, id, ⟨id, fun _ h => h, fun _ => burn_getLsbD, fun _ h => h⟩⟩

theorem freezeAct_keeps (p : List Byte) (s : State) : Keeps s (freezeAct p s).1 := by
  unfold freezeAct
  split
  · exact Keeps.refl s
  · exact Keeps.plain rfl rfl rfl

theorem clearRecordAct_keeps (p : List Byte) (s : State) : Keeps s (clearRecordAct p s).1 := Keeps.plain rfl rfl rfl

theorem execMmpMalformed_keeps (src : MmpSrc) (msg : List Byte) (s : State) : Gives (execMmpMalformed src msg s) (Keeps s) := by
  refine Gives.next ?_
  split
  · exact Keeps.refl s
  · exact mmpAnswer_keeps src msg _ s (Keeps.refl s)

theorem execManagementPortFrame_keeps (kind : Nat) (s : State) : Gives (execManagementPortFrame kind s) (Keeps s) := by
  refine Gives.next ?_
  split
  · exact Keeps.refl s
  · split
    · exact emit_keeps s _
    · exact Keeps.refl s

/-! Resets and boot. -/

theorem powerOnState_keeps (s : State) : Keeps s (powerOnState s) :=
  ⟨rfl, fun _ => rfl, ⟨id, fun _ h => h, fun _ h => h, fun _ h => h⟩⟩

theorem warmState_keeps (s : State) : Keeps s (warmState s) :=
  ⟨rfl, fun _ => rfl, ⟨id, fun _ h => h, fun _ h => h, fun _ h => h⟩⟩

theorem execWarmrstN_keeps (ns : Nat) (s : State) : Gives (execWarmrstN ns s) (Keeps s) := by
  refine Gives.next ?_
  split
  · exact Keeps.refl s
  · exact warmState_keeps s

theorem logStep_keeps (s : State) (k a : Nat) : Keeps s (logStep s k a) := logNote_keeps s _ _ _

theorem enterStep_keeps (r : BootReport) (k : Nat) (s : State) : Keeps s (enterStep r k s).1 := by
  unfold enterStep
  extract_lets mgc s1 fails s2 s3 m x n
  have h1 : Keeps s s1 := setMgc_keeps s _
  have h2 : Keeps s s2 := h1.trans (logStep_keeps s1 _ _)
  have h3 : Keeps s s3 := (h2.trans (logStep_keeps s2 _ _)).trans (attnEvent_keeps _ _)
  split
  · exact h1
  · split
    · exact h2
    · exact h3.trans (setMgc_keeps s3 _)

theorem runImage_keeps (s : State) (k : Nat) : Keeps s (runImage s k) := by
  unfold runImage
  extract_lets skipped mgc s1
  have h1 : Keeps s s1 := setMgc_keeps s _
  split
  · exact (h1.trans (logNote_keeps s1 _ _ _)).trans (attnEvent_keeps _ _)
  · exact h1

theorem loadPools_keeps (s : State) : Keeps s (loadPools s) := by
  unfold loadPools
  extract_lets w sc fc
  split
  · exact Keeps.plain rfl rfl rfl
  · exact (logNote_keeps s _ _ _).andMs (MsKeeps.same rfl)

theorem bootHub_keeps (s : State) : Keeps s (bootHub s) := (setLocks_keeps s _).trans (powerUp_keeps _ _ _)

theorem bootStacks_keeps (s : State) : Keeps s (bootStacks s) := by
  unfold bootStacks
  extract_lets s1
  have up (u : State) (t : Nat) :
      Keeps u (powerUp (setLocks (seedStack (powerUp u (.stack t) false) t) [4 + t]) (.service t) false) :=
    (((powerUp_keeps u _ _).trans (seedStack_keeps _ t)).trans (setLocks_keeps _ _)).trans (powerUp_keeps _ _ _)
  have h1 : Keeps s s1 := Keeps.foldl up _ s
  exact h1.trans (powerUp_keeps s1 _ _)

theorem loadEclipse_keeps (s : State) (n : Nat) : Keeps s (loadEclipse s n) := by
  unfold loadEclipse
  extract_lets x cl isl s1 h s2 c s3
  have h2 : Keeps s s2 := (setSite_keeps s n _).trans (setHdr_keeps s1 _ _)
  have h3 : Keeps s s3 := by
    simp only [s3]
    split
    · exact h2.trans (setCluster_keeps s2 _ _)
    · exact h2
  clear_value s3 x
  split
  · exact h3
  · split
    · exact h3.trans (moonTakes_keeps s3 _ _)
    · exact h3.trans (becomesAbsent_keeps s3 _ _)

theorem bootSites_keeps (s : State) (failed : List Nat) : Keeps s (bootSites s failed) := by
  unfold bootSites
  extract_lets fresh s1 s2 bad off s3
  have back (u : State) (n : Nat) : Keeps u (if off u n && !bad n then siteBack u n else u) := by
    split
    · exact siteBack_keeps u n
    · exact Keeps.refl u
  have fails (u : State) (n : Nat) : Keeps u (if off u n && bad n then siteFails u n else u) := by
    split
    · exact siteFails_keeps u n
    · exact Keeps.refl u
  have h0 : Keeps s fresh := by
    refine Keeps.trans (t := { s with clusters := [] }) (Keeps.plain rfl rfl rfl) ?_
    exact Keeps.foldl (fun u n => setSite_keeps u n _) _ _
  clear_value fresh
  have h1 : Keeps s s1 := h0.trans (Keeps.foldl loadEclipse_keeps _ fresh)
  clear_value s1
  have h2 : Keeps s s2 := h1.trans (Keeps.foldl (fun u t => (returnOn_keeps u _).trans (setLocks_keeps _ _)) _ s1)
  clear_value s2
  have h3 : Keeps s s3 := h2.trans (Keeps.foldl back _ s2)
  clear_value s3
  exact h3.trans (Keeps.foldl fails _ s3)

theorem handshake_keeps (s : State) (r : BootReport) (p : PairRec) : Keeps s (handshake s r p) := by
  unfold handshake
  extract_lets proto s1
  have h1 : Keeps s s1 := updTlc_keeps s _
  split
  · exact (h1.trans (updTlc_keeps s1 _)).trans (attnOn_keeps _ _)
  · split
    · exact h1.trans (updTlc_keeps s1 _)
    · exact h1.trans (updTlc_keeps s1 _)

theorem makeReady_keeps (s : State) : Keeps s (makeReady s) := by
  unfold makeReady
  extract_lets t m
  have h : Keeps s t := learnAddrs_keeps s
  exact h.trans (Keeps.marked rfl rfl rfl rfl rfl rfl)

theorem spend_keeps (s : State) (ns : Nat) : Keeps s (spend s ns) := Keeps.marked rfl rfl rfl rfl rfl rfl

theorem bootTwin_keeps (s : State) (r : BootReport) : Keeps s (bootTwin s r) := by
  unfold bootTwin
  extract_lets mgc s1 finish
  have h1 : Keeps s s1 := setMgc_keeps s _
  have hf (t : State) (h : Keeps s t) : Keeps s (finish t) :=
    ((h.trans (checkCoord_keeps t)).trans (spend_keeps _ _)).trans (makeReady_keeps _)
  split
  · exact hf _ (h1.trans (updTlc_keeps s1 _))
  · exact hf _ (h1.trans (runsUnpaired_keeps s1))
  · split
    · exact hf _ (h1.trans (runsUnpaired_keeps s1))
    · split
      · exact h1.trans (updTlc_keeps s1 _)
      · split
        · exact hf _ (h1.trans (handshake_keeps s1 r _))
        · exact hf _ (h1.trans (runsUnpaired_keeps s1))

theorem execTwinHandshakeTimeout_keeps (s : State) : Gives (execTwinHandshakeTimeout s) (Keeps s) := by
  refine Gives.next ?_
  split
  · exact ((((updTlc_keeps s _).trans (checkCoord_keeps _)).trans (spend_keeps _ _)).trans (makeReady_keeps _)).trans
      (attnOn_keeps _ _)
  · exact Keeps.refl s

/-- A step that is entered after others that keep all three. -/
theorem Keeps.enter {s t u : State} {r : BootReport} {k : Nat} {b : Bool} (h : Keeps s t) (e : enterStep r k t = (u, b)) : Keeps s u := by
  have k := h.trans (enterStep_keeps r k t)
  rwa [e] at k

theorem bootFrom3_keeps (s : State) (r : BootReport) : Keeps s (bootFrom3 s r) := by
  unfold bootFrom3
  split
  · rename_i s1 e1
    exact (Keeps.refl s).enter e1
  · rename_i s1 e1
    have h1 : Keeps s s1 := (Keeps.refl s).enter e1
    split
    · rename_i s2 e2
      exact (h1.trans (bootHub_keeps s1)).enter e2
    · rename_i s2 e2
      have h2 : Keeps s s2 := (h1.trans (bootHub_keeps s1)).enter e2
      extract_lets s3
      have h3 : Keeps s s3 :=
        (((h2.trans (bootStacks_keeps s2)).trans (enterStep_keeps r 5 _)).trans (bootSites_keeps _ _)).trans (lockPages_keeps _)
      clear_value s3
      split
      · rename_i s4 e4
        exact h3.enter e4
      · rename_i s4 e4
        exact ((h3.enter e4).trans (setLocks_keeps s4 _)).trans (bootTwin_keeps _ r)

theorem execColdBoot_keeps (r : BootReport) (s : State) : Gives (execColdBoot r s) (Keeps s) := by
  refine Gives.next ?_
  split
  · exact Keeps.refl s
  · extract_lets d s0 hours s1
    have h0 : Keeps s s0 := Keeps.marked rfl rfl rfl rfl rfl rfl
    have h1 : Keeps s s1 := h0.andPlain rfl rfl rfl
    clear_value s1
    split
    · rename_i s2 e2
      exact (h1.trans (setLocks_keeps s1 _)).enter e2
    · rename_i s2 e2
      have h2 : Keeps s s2 := (h1.trans (setLocks_keeps s1 _)).enter e2
      split
      · rename_i s3 e3
        exact (h2.trans (setLocks_keeps s2 _)).enter e3
      · rename_i s3 e3
        have h3 : Keeps s s3 := (h2.trans (setLocks_keeps s2 _)).enter e3
        split
        · rename_i s4 e4
          exact h3.enter e4
        · rename_i s4 e4
          have h4 : Keeps s s4 := h3.enter e4
          split
          · exact h4.trans (setMgc_keeps s4 _)
          · extract_lets s5
            have h5 : Keeps s s5 :=
              ((h4.trans (runImage_keeps s4 _)).trans (firmwareHdrs_keeps _ _)).trans (loadPools_keeps _)
            clear_value s5
            refine Keeps.trans ?_ (bootFrom3_keeps _ r)
            exact h5.andPlain rfl rfl rfl

theorem execWarmBootStart_keeps (r : BootReport) (s : State) : Gives (execWarmBootStart r s) (Keeps s) := by
  refine Gives.next ?_
  split
  · exact Keeps.refl s
  · extract_lets dev s1
    have h1 : Keeps s s1 := Keeps.marked rfl rfl rfl rfl rfl rfl
    split
    · exact h1
    · exact (h1.trans (setMgc_keeps s1 _)).trans (bootFrom3_keeps _ r)

/-! What comes of itself. -/

theorem lsmError_keeps (s : State) (n a : Nat) : Keeps s (lsmError s n a) := by
  unfold lsmError
  split
  · exact logError_keeps s _ _ _ _ _
  · exact Keeps.refl s

theorem cscError_keeps (s : State) (cl a : Nat) (double : Bool) : Keeps s (cscError s cl a double) := by
  unfold cscError
  extract_lets c
  split
  · split
    · exact Keeps.refl s
    · extract_lets s1
      have h1 : Keeps s s1 := logError_keeps s _ _ _ _ _
      split
      · exact h1.trans (setCluster_keeps s1 _ _)
      · exact h1
  · exact Keeps.refl s

theorem hsrDouble_keeps (s : State) (place which : Nat) : Keeps s (hsrDouble s place which) := by
  unfold hsrDouble
  extract_lets pa
  split
  · split
    · exact Keeps.refl s
    · exact logError_keeps s _ _ _ _ _
  · exact (logError_keeps s 0x0810 0 0x02 0 pa).andMs (MsKeeps.same (by rw [logError_frame]; rfl))
  · split
    · exact (logError_keeps s _ _ _ _ _).trans (updConn_keeps _ _ _)
    · exact Keeps.refl s
  · split
    · exact (logError_keeps s _ _ _ _ _).trans (stopReq_keeps _ _ _)
    · exact Keeps.refl s

theorem hsrError_keeps (s : State) (double : Bool) (place which : Nat) : Keeps s (hsrError s double place which) := by
  unfold hsrError
  split
  · exact Keeps.refl s
  · split
    · exact hsrDouble_keeps s _ _
    · exact logError_keeps s _ _ _ _ _

theorem stackError_keeps (s : State) (a die n : Nat) : Keeps s (stackError s a die n) := by
  unfold stackError
  extract_lets line p e
  split
  · exact correctLine_keeps s _ _
  · exact Keeps.refl s

theorem capError_keeps (s : State) (a kind : Nat) : Keeps s (capError s a kind) := by
  unfold capError
  extract_lets size line log
  have hl (pa : Nat) : Keeps s (log s pa) := logError_keeps s _ _ _ _ _
  have same (pa : Nat) (l : List Nat) : MsKeeps (log s pa).ms { s.ms with badLines := l } :=
    MsKeeps.same (by simp only [log]; rw [logError_frame])
  split
  · exact Keeps.refl s
  · split
    · exact hl _
    · split
      · exact Keeps.refl s
      · exact (hl _).andMs (same _ _)
    · split
      · exact (hl _).andMs (same _ _)
      · exact Keeps.refl s

theorem ecnMark_keeps (s : State) (which : Nat) : Keeps s (ecnMark s which) := by
  unfold ecnMark
  split
  · split
    · exact emit_keeps s _
    · exact Keeps.refl s
  · exact Keeps.refl s

theorem ambient_keeps (s : State) : Keeps s (ambient s) := by
  unfold ambient
  extract_lets a s0
  have h0 : Keeps s s0 := Keeps.plain rfl rfl rfl
  refine h0.trans ?_
  split
  · exact lsmError_keeps s0 _ _
  · exact cscError_keeps s0 _ _ _
  · exact cscError_keeps s0 _ _ _
  · exact hsrError_keeps s0 _ _ _
  · exact hsrError_keeps s0 _ _ _
  · exact stackError_keeps s0 _ _ _
  · exact capError_keeps s0 _ _
  · exact ecnMark_keeps s0 _
  · exact Keeps.refl s0

theorem idleTick_keeps (s : State) : Keeps s (idleTick s) := by
  unfold idleTick
  split
  · exact Keeps.refl s
  · exact Keeps.marked rfl rfl rfl rfl rfl rfl

theorem idleCycle_keeps (s : State) : Keeps s (idleCycle s) := by
  unfold idleCycle
  split
  · exact Keeps.refl s
  · exact (idleTick_keeps s).trans (ambient_keeps _)

end Sys2Proof.Machine

namespace Sys2Proof.Machine

/-! Every command and every step. -/

/-- Every command keeps the queue, canonical memory and the permanent marks: the row of each, by the operations it calls. -/
theorem exec_keeps (i : Instr) (s : State) : Gives (exec i s) (Keeps s) := by
  cases i with
  | matmul _ | conv _ | pool _ | attnFwd _ | attnBwd _ | norm _ | softmax _ | vecChain _ | rngFill _ | sampleTokens _
  | boxDecode _ | nms _ | copy _ | gatherRows _ =>
      exact Gives.next (runPure_keeps s _ _ _)
  | sampleStep _ => exact Gives.next (runSample_keeps s _)
  | kvScatter _ => exact Gives.next (runOp_keeps s _ _ _ _ kvBody_keeps)
  | fork _ => exact Gives.next (isFork_keeps s _ _ _ forkBody_keeps)
  | release _ => exact Gives.next (isFork_keeps s _ _ _ releaseBody_keeps)
  | allReduce _ | reduceScatter _ | allGather _ | allToAll _ | broadcast _ | barrier _ =>
      exact Gives.next (runColl_keeps s _ _)
  | nop _ | orbitBegin _ | orbitEnd _ | setPred _ | jumpIf _ | ret _ | scalarOp _ | timestamp _ =>
      exact Gives.next (runControl_keeps s _ _ _)
  | callGraph _ => exact Gives.next ((runControl_keeps s _ _ _).trans (repin_keeps _))
  | runGraph _ => exact Gives.next (gated_keeps _ _ _ s (runGraphRow_keeps _ s))
  | inputsPlaced _ _ => exact Gives.next (gated_keeps _ _ _ s (inputsPlacedRow_keeps _ _ s))
  | graphEnd _ => exact Gives.next (gated_keeps _ _ _ s (graphEndRow_keeps _ s))
  | outputsAcknowledged _ => exact Gives.next (gated_keeps _ _ _ s (outputsAcknowledgedRow_keeps _ s))
  | instanceAcquire _ => exact Gives.next (gated_keeps _ _ _ s (takeInstance_keeps s _))
  | abort _ => exact Gives.next (gated_keeps _ _ _ s (abortRow_keeps _ s))
  | flush _ => exact Gives.next (gated_keeps _ _ _ s (flushRow_keeps _ s))
  | queryPlan _ => exact Gives.next (gated_keeps _ _ _ s (queryPlanRow_keeps _ s))
  | query _ => exact Gives.next (gated_keeps _ _ _ s (queryRow_keeps _ s))
  | doorbell _ _ _ _ => exact Gives.next (gated_keeps _ _ _ s (doorbellRow_keeps _ _ _ _ s))
  | itemConsume _ => exact Gives.next (gated_keeps _ _ _ s (itemConsumeRow_keeps _ s))
  | connectionSetup _ => exact Gives.next (gated_keeps _ _ _ s (connectionSetupRow_keeps _ s))
  | resume _ => exact Gives.next (gated_keeps _ _ _ s (resumeRow_keeps _ s))
  | connectionClose _ => exact Gives.next (gated_keeps _ _ _ s (connectionCloseRow_keeps _ s))
  | unattachedConnectionExpiry _ => exact Gives.next (gated_keeps _ _ _ s (connectionExpiryRow_keeps _ s))
  | readReg _ _ => exact Gives.next (mmpRow_keeps _ _ _ _ s readRegBody_keeps)
  | writeReg _ _ => exact Gives.next (mmpRow_keeps _ _ _ _ s writeRegBody_keeps)
  | readTelemetry _ _ => exact Gives.next (mmpRow_keeps _ _ _ _ s readTelemetryBody_keeps)
  | readLog _ _ => exact Gives.next (mmpRow_keeps _ _ _ _ s readLogBody_keeps)
  | ackAttn _ _ => exact Gives.next (mmpRow_keeps _ _ _ _ s ackAttnBody_keeps)
  | resetIsland _ _ => exact Gives.next (mmpRow_keeps _ _ _ _ s resetIslandBody_keeps)
  | forceTakeover _ _ => exact Gives.next (mmpRow_keeps _ _ _ _ s forceTakeoverBody_keeps)
  | stageData _ _ => exact Gives.next (mmpRow_keeps _ _ _ _ s stageDataBody_keeps)
  | stageFinish _ _ => exact Gives.next (mmpRow_keeps _ _ _ _ s stageFinishBody_keeps)
  | discardStaged _ _ => exact Gives.next (mmpRow_keeps _ _ _ _ s discardStagedBody_keeps)
  | stageFirmware _ _ => exact Gives.next (mmpRow_keeps _ _ _ _ s (sealedBody_keeps _ _ _ stageFirmwareAct_keeps))
  | commitFirmware _ _ => exact Gives.next (mmpRow_keeps _ _ _ _ s (sealedBody_keeps _ _ _ commitAct_keeps))
  | pairTwin _ _ => exact Gives.next (mmpRow_keeps _ _ _ _ s (sealedBody_keeps _ _ _ pairAct_keeps))
  | unpair _ _ => exact Gives.next (mmpRow_keeps _ _ _ _ s (sealedBody_keeps _ _ _ unpairAct_keeps))
  | programFuses _ _ => exact Gives.next (mmpRow_keeps _ _ _ _ s (sealedBody_keeps _ _ _ fusesAct_keeps))
  | freezeCapture _ _ => exact Gives.next (mmpRow_keeps _ _ _ _ s (sealedBody_keeps _ _ _ freezeAct_keeps))
  | clearPresenceRecord _ _ => exact Gives.next (mmpRow_keeps _ _ _ _ s (sealedBody_keeps _ _ _ clearRecordAct_keeps))
  | ctuBudgetExpiry _ | frameBudgetExpiry _ => exact Gives.next (guardFires_keeps s _ _)
  | digest _ _ _ _ => exact Gives.next ((putDigest_keeps s _).trans (judge_keeps _ _ _))
  | aliasAnnouncement _ _ => exact Gives.next (installAlias_keeps s _ _)
  | sidebandReturn => exact Gives.next (updTlc_keeps s _)
  | pgCtrlEnable _ _ | quiesceReq _ _ | softReset _ | eclipse _ => exact Gives.next (ctrlWrite_keeps s _ _ _ _ _)
  | pgEventClear _ _ | atuPoolCfgWrite _ | freTorusCfgWrite _ | registerWrite _ _ _ =>
      exact Gives.next (pageWrite_keeps s _ _ _)
  | porstN => exact Gives.next (powerOnState_keeps s)
  | aliasRemoval _ | presenceWindowExpiry | labJmpChange _ | hourCounterSave | captureWritten | presenceBtnRelease
  | replyCacheExpiry _ _ =>
      exact Gives.next (Keeps.plain rfl rfl rfl)
  | codecDec _ _ => exact execCodecDec_keeps _ _ s
  | codecEnc _ _ => exact execCodecEnc_keeps _ _ s
  | waitEvent _ => exact execWaitEvent_keeps _ s
  | signalEvent _ => exact execSignalEvent_keeps _ s
  | prefetch _ => exact execPrefetch_keeps _ s
  | fence _ => exact execFence_keeps _ s
  | commandIssue _ => exact execCommandIssue_keeps _ s
  | partCommit _ _ => exact execPartCommit_keeps _ _ s
  | tileDispatch _ => exact execTileDispatch_keeps _ s
  | tileComplete _ _ _ _ => exact execTileComplete_keeps _ _ _ _ s
  | partComplete _ _ => exact execPartComplete_keeps _ _ s
  | commandComplete _ => exact execCommandComplete_keeps _ s
  | checkpointCommit _ => exact execCheckpointCommit_keeps _ s
  | loadModel _ _ _ => exact execLoadModel_keeps _ _ _ s
  | unloadModel _ => exact execUnloadModel_keeps _ s
  | storeGraph _ _ => exact execStoreGraph_keeps _ _ s
  | patchGraph _ _ => exact execPatchGraph_keeps _ _ s
  | copyComplete _ _ => exact execCopyComplete_keeps _ _ s
  | workPageMapped _ _ => exact execWorkPageMapped_keeps _ _ s
  | walkComplete _ _ _ => exact execWalkComplete_keeps _ _ _ s
  | stagingCopyComplete _ => exact execStagingCopyComplete_keeps _ s
  | poolPageZeroFill _ => exact execPoolPageZeroFill_keeps _ s
  | scrub _ _ _ _ => exact execScrub_keeps _ _ _ _ s
  | dieMarkedFailed _ _ => exact execDieMarkedFailed_keeps _ _ s
  | reductionSlotGrant _ => exact execReductionSlotGrant_keeps _ s
  | codecEngineStart _ => exact execCodecEngineStart_keeps _ s
  | frameBoundary _ => exact execFrameBoundary_keeps _ s
  | holdDeadline _ _ => exact execHoldDeadline_keeps _ _ s
  | go _ _ _ _ => exact execGo_keeps _ _ _ _ s
  | mismatch _ _ => exact execMismatch_keeps _ _ s
  | abandon _ _ => exact execAbandon_keeps _ _ s
  | handshakeTimeout _ _ => exact execHandshakeTimeout_keeps _ _ s
  | dataTimeout _ _ => exact execDataTimeout_keeps _ _ s
  | collectiveAbort _ _ _ => exact execCollectiveAbort_keeps _ _ _ s
  | frameCrcError _ _ => exact execFrameCrcError_keeps _ _ s
  | linkTraining _ _ => exact execLinkTraining_keeps _ _ s
  | heartbeat => exact execHeartbeat_keeps s
  | linkLoss => exact execLinkLoss_keeps s
  | sidebandLoss => exact execSidebandLoss_keeps s
  | restoreComplete _ => exact execRestoreComplete_keeps _ s
  | addressConflict _ => exact execAddressConflict_keeps _ s
  | yieldMsg => exact execYieldMsg_keeps s
  | linkReturn _ => exact execLinkReturn_keeps _ s
  | resyncReadRetry => exact execResyncReadRetry_keeps s
  | addressHandBack _ => exact execAddressHandBack_keeps _ s
  | immediateEclipse _ _ => exact execImmediateEclipse_keeps _ _ s
  | eclipseWritesDelivered _ => exact execEclipseWritesDelivered_keeps _ s
  | tileTimeLimit _ => exact execTileTimeLimit_keeps _ s
  | lsmErrorLimit _ => exact execLsmErrorLimit_keeps _ s
  | gracefulEclipse _ => exact execGracefulEclipse_keeps _ s
  | fatalError _ _ => exact execFatalError_keeps _ _ s
  | messageParityError _ _ => exact execMessageParityError_keeps _ _ s
  | islandReturn _ _ => exact execIslandReturn_keeps _ _ s
  | quiesceComplete _ => exact execQuiesceComplete_keeps _ s
  | quiesceTimeout _ => exact execQuiesceTimeout_keeps _ s
  | wakeComplete _ _ => exact execWakeComplete_keeps _ _ s
  | park _ => exact execPark_keeps _ s
  | pllLockLoss _ => exact execPllLockLoss_keeps _ s
  | tideGovernorTick _ => exact execTideGovernorTick_keeps _ s
  | avsCurrentRead _ _ _ => exact execAvsCurrentRead_keeps _ _ _ s
  | thermtrip => exact execThermtrip_keeps s
  | telemetryThreshold _ => exact execTelemetryThreshold_keeps _ s
  | shadowRefresh _ => exact execShadowRefresh_keeps _ s
  | sealCheck _ => exact execSealCheck_keeps _ s
  | presenceWindowOpen => exact execPresenceWindowOpen_keeps s
  | logEntryClose _ => exact execLogEntryClose_keeps _ s
  | ringOscillatorMeasure _ _ => exact execRingOscillatorMeasure_keeps _ _ s
  | eyeMarginMeasure _ _ _ => exact execEyeMarginMeasure_keeps _ _ _ s
  | wearPrediction _ => exact execWearPrediction_keeps _ s
  | eraseComplete => exact execEraseComplete_keeps s
  | verificationComplete _ => exact execVerificationComplete_keeps _ s
  | coreArrCtrClear _ => exact execCoreArrCtrClear_keeps _ s
  | coreArrCtrFreeze _ _ => exact execCoreArrCtrFreeze_keeps _ _ s
  | lowWordRead _ _ _ => exact execLowWordRead_keeps _ _ _ s
  | coldBoot _ => exact execColdBoot_keeps _ s
  | twinHandshakeTimeout => exact execTwinHandshakeTimeout_keeps s
  | warmrstN _ => exact execWarmrstN_keeps _ s
  | mirrorUpdate _ _ => exact execMirrorUpdate_keeps _ _ s
  | mirrorAcknowledgement _ => exact execMirrorAcknowledgement_keeps _ s
  | laneLoss _ _ => exact execLaneLoss_keeps _ _ s
  | mmpMalformed _ _ => exact execMmpMalformed_keeps _ _ s
  | managementPortFrame _ => exact execManagementPortFrame_keeps _ s
  | wearHourCount _ => exact execWearHourCount_keeps _ s
  | warmBootStart _ => exact execWarmBootStart_keeps _ s
  | remoteAccessNak _ _ => exact execRemoteAccessNak_keeps _ _ s
  | cnpReceived _ _ => exact execCnpReceived_keeps _ _ s

theorem step_memOk {s t : State} (w : s.MemOk) (h : step s = .next t) : t.MemOk := by
  unfold step at h
  split at h
  · cases h
    exact (idleCycle_keeps s).mem w
  · rename_i c rest _
    obtain ⟨u, hu, k⟩ := exec_keeps c { s with pending := rest }
    rw [hu] at h
    cases h
    exact k.mem w

/-- Settles O3: a step is an idle cycle or a command, and each keeps canonical memory by what its operations keep. -/
theorem memoryStaysCanonical : Obligations.MemoryStaysCanonical := fun _ _ w h => step_memOk w h

end Sys2Proof.Machine

namespace Sys2Proof.Machine

/-! Written bytes. -/

theorem memGet_memSet_of_wf {m : List Host.Cell} (w : Memory.wf m = true) (a x : Nat) (b : Byte) :
    memGet (memSet m a b) x = if x = a then b else memGet m x := memGet_memSet m a x b w

/-- The first of a list of writes that leads to memory without uncorrectable lines. -/
theorem writeAll_cons {s : State} (cmd : Nat) (hub : Bool) (all ws : List (Nat × Byte)) {va pa : Nat} (b : Byte)
    (clean : s.ms.badLines = []) (h : writeTarget s va = .pa pa) :
    writeAll cmd hub all ((va, b) :: ws) s = writeAll cmd hub all ws { s with ms := s.ms.putByte pa b } := by
  simp [writeAll, writeByte, storeByte, h, clean]

/-- What a list of writes to memory leaves: no fault, and of the state nothing but memory and the LSM bytes known. -/
structure Written (s t : State) (ws : List (Nat × Byte)) (fault : Option Err) : Prop where
  done : fault = none
  frame : t = { s with ms := { s.ms with mem := t.ms.mem, lsmKept := t.ms.lsmKept } }
  others : ∀ a, (∀ w ∈ ws, writeTarget s w.1 ≠ .pa a) → memGet t.ms.mem a = memGet s.ms.mem a
  last : ∀ w a, ws.getLast? = some w → writeTarget s w.1 = .pa a → memGet t.ms.mem a = w.2

theorem writeAll_written (cmd : Nat) (hub : Bool) (all : List (Nat × Byte)) : ∀ (ws : List (Nat × Byte)) (s : State),
    s.MemOk → s.ms.badLines = [] → (∀ w ∈ ws, ∃ a, writeTarget s w.1 = .pa a) →
    Written s (writeAll cmd hub all ws s).1 ws (writeAll cmd hub all ws s).2
  | [], s, _, _, _ => ⟨rfl, rfl, fun _ _ => rfl, fun _ _ h => by simp at h⟩
  | (va, b) :: ws, s, wf, clean, mapped => by
      obtain ⟨pa, hpa⟩ := mapped (va, b) List.mem_cons_self
      rw [writeAll_cons cmd hub all ws b clean hpa]
      let s1 : State := { s with ms := s.ms.putByte pa b }
      -- a write changes no translation: `writeTarget s1` is `writeTarget s`
      have wf1 : s1.MemOk := memSet_wf _ _ _ wf
      obtain ⟨done, frame, others, last⟩ := writeAll_written cmd hub all ws s1 wf1 clean (fun w h => mapped w (List.mem_cons_of_mem _ h))
      have get (a : Nat) : memGet s1.ms.mem a = if a = pa then b else memGet s.ms.mem a := memGet_memSet_of_wf wf pa a b
      refine ⟨done, frame, fun a ha => ?_, fun w a hw ha => ?_⟩
      · have ne : a ≠ pa := fun e => ha (va, b) List.mem_cons_self (e ▸ hpa)
        calc memGet _ a = memGet s1.ms.mem a := others a (fun w h => ha w (List.mem_cons_of_mem _ h))
          _ = memGet s.ms.mem a := by rw [get, if_neg ne]
      · cases ws with
        | nil =>
          obtain rfl : (va, b) = w := by simpa using hw
          obtain rfl : pa = a := by simpa [hpa] using ha
          exact (get pa).trans (if_pos rfl)
        | cons v ws => exact last w a (by simpa using hw) ha

/-- Settles O59, by induction on the list of writes: no write moves where a later one leads. -/
theorem writesReadBack : Obligations.WritesReadBack := by
  refine ⟨fun m a b w => ⟨memSet_wf m a b w, ?_, fun x ne => ?_⟩, fun s cmd hub all ws wf clean mapped t ht => ?_⟩
  · rw [memGet_memSet_of_wf w, if_pos rfl]
  · rw [memGet_memSet_of_wf w, if_neg ne]
  · subst ht
    obtain ⟨done, frame, others, last⟩ := writeAll_written cmd hub all ws s wf clean mapped
    exact ⟨done, frame, others, last⟩

end Sys2Proof.Machine

namespace Sys2Proof.Machine

/-! Lists changed at one place. -/

@[simp] theorem updAt_length {α : Type} (l : List α) (i : Nat) (f : α → α) : (updAt l i f).length = l.length := by
  induction l generalizing i with
  | nil => rfl
  | cons x t ih => cases i <;> simp [updAt, ih]

theorem updAt_getElem? {α : Type} (l : List α) (i k : Nat) (f : α → α) :
    (updAt l i f)[k]? = if k = i then l[k]?.map f else l[k]? := by
  induction l generalizing i k with
  | nil => simp [updAt]
  | cons x t ih => cases i <;> cases k <;> simp [updAt, ih]

theorem updAt_getD_same {α : Type} {l : List α} {i : Nat} (h : i < l.length) (f : α → α) (d e : α) :
    (updAt l i f).getD i d = f (l.getD i e) := by
  rw [List.getD_eq_getElem?_getD, updAt_getElem?, if_pos rfl]
  simp [h]

theorem updAt_getD_ne {α : Type} (l : List α) {i k : Nat} (h : k ≠ i) (f : α → α) (d : α) : (updAt l i f).getD k d = l.getD k d := by
  simp [List.getD_eq_getElem?_getD, updAt_getElem?, h]

/-! The steps of a tile's clock (R31). -/

/-- `k` and `j` differ by at most one step. -/
def StepApart (p q : Nat × Nat) : Prop := p.1 ≤ q.1 + 1 ∧ q.1 ≤ p.1 + 1

theorem tclkSteps_head (c : List Nat) (n k g : Nat) : ∀ q ∈ (tclkSteps c n k g).head?, q.1 ≤ k ∧ k ≤ q.1 + 1 := by
  cases n with
  | zero => simp [tclkSteps]
  | succ n =>
    simp only [tclkSteps]
    split
    · simp
    · split
      · simp
        omega
      · simp

/-- The frequency moves by single steps. -/
theorem tclkSteps_chain (c : List Nat) (n k g : Nat) : (tclkSteps c n k g).IsChain StepApart := by
  induction n generalizing k with
  | zero => exact .singleton _
  | succ n ih =>
    simp only [tclkSteps]
    split
    · refine .cons_cons ⟨by dsimp only; omega, by dsimp only; omega⟩ (List.isChain_cons.mpr ⟨fun q hq => ?_, ih (k + 1)⟩)
      have h := tclkSteps_head c n (k + 1) g q hq
      exact ⟨h.2, by dsimp only; omega⟩
    · split
      · refine .cons_cons ⟨by dsimp only; omega, by dsimp only; omega⟩ (List.isChain_cons.mpr ⟨fun q hq => ?_, ih (k - 1)⟩)
        have h := tclkSteps_head c n (k - 1) g q hq
        exact ⟨h.2, by dsimp only; omega⟩
      · exact .singleton _

/-- The voltage is never below the curve. -/
theorem tclkSteps_aboveCurve {c : List Nat} (mono : ∀ a b, a ≤ b → curveAt c a ≤ curveAt c b) (n k g : Nat) :
    ∀ p ∈ tclkSteps c n k g, curveAt c p.1 ≤ p.2 := by
  induction n generalizing k with
  | zero => simp [tclkSteps]
  | succ n ih =>
    simp only [tclkSteps]
    split
    · simpa [mono k (k + 1) (by omega)] using ih (k + 1)
    · split
      · simpa [mono (k - 1) k (by omega)] using ih (k - 1)
      · simp

/-- With steps enough the goal is reached, at the voltage of its frequency. -/
theorem tclkSteps_getLast? (c : List Nat) (n k g : Nat) (up : g ≤ k + n) (down : k ≤ g + n) :
    (tclkSteps c n k g).getLast? = some (g, curveAt c g) := by
  induction n generalizing k with
  | zero =>
    obtain rfl : k = g := by omega
    rfl
  | succ n ih =>
    simp only [tclkSteps]
    split
    · have h := ih (k + 1) (by omega) (by omega)
      simp [List.getLast?_cons, h]
    · split
      · have h := ih (k - 1) (by omega) (by omega)
        simp [List.getLast?_cons, h]
      · obtain rfl : k = g := by omega
        rfl

theorem tclkEnd_eq (c : List Nat) {k g : Nat} (hk : k ≤ 16) (hg : g ≤ 16) : tclkEnd c k g = (g, curveAt c g) := by
  unfold tclkEnd
  rw [List.getLastD_eq_getLast?, tclkSteps_getLast? c 32 k g (by omega) (by omega)]
  rfl

end Sys2Proof.Machine

namespace Sys2Proof.Machine

/-! The tide governor (R402, R403, R468). -/

theorem getD_le_of_forall {l : List Nat} {b : Nat} (h : ∀ k ∈ l, k ≤ b) (n : Nat) : l.getD n 0 ≤ b := by
  rw [List.getD_eq_getElem?_getD]
  cases e : l[n]? with
  | none => simp
  | some k => exact h k (List.mem_of_getElem? e)

theorem getD_map_range {α : Type} (f : Nat → α) {n k : Nat} (h : n < k) (d : α) : ((List.range k).map f).getD n d = f n := by
  simp [List.getD_eq_getElem?_getD, h]

theorem map_getD_range_four {l : List Nat} (h : l.length = 4) : (List.range 4).map (l.getD · 0) = l := by
  match l, h with
  | [a, b, c, d], _ => rfl

section
variable {s : State} {goal : List Nat} (cur : ∀ k ∈ s.pwr.fcur, k ≤ 16) (top : ∀ k ∈ goal, k ≤ 16) (four : goal.length = 4)
include cur top

theorem setTclk_end (n : Nat) : tclkEnd s.pwr.vcurve (s.pwr.fcur.getD n 0) (goal.getD n 0) =
    (goal.getD n 0, curveAt s.pwr.vcurve (goal.getD n 0)) :=
  tclkEnd_eq _ (getD_le_of_forall cur n) (getD_le_of_forall top n)

include four in
/-- Every tile reaches its goal. -/
theorem setTclk_fcur : (setTclk s goal).fcur = goal := by
  simp only [setTclk, List.map_map, Function.comp_def, setTclk_end cur top]
  exact map_getD_range_four four

/-- A rail that is not parked ends at the voltage of its tile's goal. -/
theorem setTclk_vcur {n : Nat} (h : n < 4) : (setTclk s goal).vcur.getD n 0 =
    if (s.compIsl n).state = PState.retention then s.pwr.vcur.getD n 0 else curveAt s.pwr.vcurve (goal.getD n 0) := by
  simp only [setTclk, List.map_map, Function.comp_def, setTclk_end cur top]
  rw [getD_map_range _ h, getD_map_range _ h]

end

theorem nextF_above {s : State} {m : PowerSample} (h : 10 * s.pwr.limitW < m.powerDw) : nextF s m ≤ s.pwr.fcur.foldl max 0 := by
  simp only [nextF, if_pos h]
  cases e : ((List.range (s.pwr.fcur.foldl max 0 + 1)).reverse.find? (fitsLimit s m)) with
  | none => simp
  | some k =>
    have hk := List.mem_of_find?_eq_some e
    simp only [List.mem_reverse, List.mem_range] at hk
    exact Nat.le_of_lt_succ hk

theorem nextF_le (s : State) (m : PowerSample) : nextF s m ≤ s.pwr.fcur.foldl max 0 + 1 := by
  by_cases h : 10 * s.pwr.limitW < m.powerDw
  · exact Nat.le_succ_of_le (nextF_above h)
  · simp only [nextF, if_neg h]
    split <;> omega

/-- What a tick leaves (R402, R403). -/
structure TickHolds (s : State) (m : PowerSample) (t : State) : Prop where
  power : t.pwr.powerDw = m.powerDw
  hubTj : t.pwr.hubTjDc = m.hubTjDc
  tj : t.pwr.tjDc = m.tjDc.take 4
  four : t.pwr.fcur.length = 4
  low : ∀ k ∈ t.pwr.fcur, k ≤ 16 ∧ k ≤ s.pwr.fcur.foldl max 0 + 1
  held : t.pwr.avsHold = true → t.pwr.fcur = [0, 0, 0, 0]
  limit : t.pwr.limitW = s.pwr.limitW
  above : 10 * s.pwr.limitW < m.powerDw → ∀ k ∈ t.pwr.fcur, k ≤ s.pwr.fcur.foldl max 0
  rails : ∀ n < 4, t.pwr.vcur.getD n 0 =
    if (s.compIsl n).state = PState.retention then s.pwr.vcur.getD n 0 else curveAt s.pwr.vcurve (t.pwr.fcur.getD n 0)
  frame : t = { s with pwr := t.pwr, attn := t.attn }

theorem governorTick_holds (s : State) (m : PowerSample) (up : s.dev.porstLow = false) (cur : ∀ k ∈ s.pwr.fcur, k ≤ 16) :
    Gives (exec (.tideGovernorTick m) s) (TickHolds s m) := by
  refine Gives.next ?_
  rw [if_neg (by simp [up])]
  extract_lets p ticks hold f caps goal set slow hist q s1
  have low : ∀ k ∈ goal, k ≤ 16 ∧ k ≤ f := by
    simp only [goal]
    split
    · simp
    · simp only [List.forall_mem_map, fMax]
      omega
  have top : ∀ k ∈ goal, k ≤ 16 := fun k h => (low k h).1
  have four : goal.length = 4 := by
    simp only [goal]
    split <;> simp [caps]
  have hf : set.fcur = goal := setTclk_fcur cur top four
  have at' (a : Attn) : TickHolds s m { s1 with attn := a } := by
    refine ⟨rfl, rfl, rfl, ?_, fun k hk => ?_, fun h => ?_, rfl, fun above k hk => ?_, fun n h => ?_, rfl⟩
    · exact (congrArg List.length hf).trans four
    · have hk := low k (hf ▸ hk)
      exact ⟨hk.1, hk.2.trans (nextF_le s m)⟩
    · exact hf.trans (if_pos h)
    · exact (low k (hf ▸ hk)).2.trans (nextF_above above)
    · refine (setTclk_vcur cur top h).trans ?_
      rw [← hf]
  clear_value s1
  split
  · exact at' _
  · split
    · exact at' _
    · exact at' s1.attn

/-- A third failure on end takes every tile to 0.6 GHz (R468). -/
theorem avsThirdFailure {s : State} {r : Nat} (ma : Nat) (hr : r < 4) (up : s.dev.porstLow = false)
    (two : 2 ≤ s.pwr.avsFails.getD r 0) (cur : ∀ k ∈ s.pwr.fcur, k ≤ 16) :
    Gives (exec (.avsCurrentRead r false ma) s) (fun t => t.pwr.avsHold = true ∧
      t.pwr.fcur = [0, 0, 0, 0] ∧ (∀ n < 4, t.pwr.vcur.getD n 0 =
        if (s.compIsl n).state = PState.retention then s.pwr.vcur.getD n 0 else curveAt s.pwr.vcurve 0) ∧
      t.pwr.alert = true ∧ t.attn.pending.getLsbD attnERRLOG = true ∧ t.ms = s.ms) := by
  refine Gives.next ?_
  have top : ∀ k ∈ [0, 0, 0, 0], k ≤ 16 := by simp
  rw [if_neg (by simp [up]; omega)]
  extract_lets p src q
  rw [if_neg (by simp), if_neg (by simp only [p]; omega), logError_frame]
  refine ⟨rfl, setTclk_fcur cur top rfl, fun n h => ?_, rfl, ?_, rfl⟩
  · have hv : src.vcur.getD n 0 = _ := setTclk_vcur cur top h
    have zero : [0, 0, 0, 0].getD n 0 = 0 := by
      interval_cases n <;> rfl
    rwa [zero] at hv
  · simp [State.attnEvent, Attn.event, attnERRLOG]

/-- The two locks of ACLK and GCLK are bits 12 and 13. -/
theorem lockMask_getLsbD (k : Nat) : (0x3000 : BitVec 14).getLsbD k = decide (k = 12 ∨ k = 13) := by
  by_cases h : k < 14
  · interval_cases k <;> rfl
  · rw [BitVec.getLsbD_of_ge _ _ (by omega)]
    exact (decide_eq_false (by omega)).symm

/-- Settles O43: the governor's goals are within its bounds, and 32 steps of the clock reach them. -/
theorem governorHoldsItsLimits : Obligations.GovernorHoldsItsLimits := by
  refine ⟨fun s m up _ cur => ?_, fun c n k g mono => ⟨tclkSteps_aboveCurve mono n k g, fun i p q hp hq => ?_⟩,
    fun s r ma hr up fails reads => ⟨?_, fun two => ?_, fun two cur => avsThirdFailure ma hr up two cur⟩, fun s up => ?_⟩
  · obtain ⟨t, e, power, hubTj, tj, four, low, held, limit, above, rails, frame⟩ := governorTick_holds s m up cur
    exact ⟨t, e, power, hubTj, tj, four, low, held, limit, above, rails, frame⟩
  · obtain ⟨hi, rfl⟩ := List.getElem?_eq_some_iff.mp hq
    obtain ⟨_, rfl⟩ := List.getElem?_eq_some_iff.mp hp
    exact (tclkSteps_chain c n k g).getElem i hi
  · refine Gives.next ?_
    rw [if_neg (by simp [up]; omega), if_pos rfl]
    exact ⟨updAt_getD_same (by omega) _ 0 0, updAt_getD_same (by omega) _ 1 0, rfl⟩
  · refine Gives.next ?_
    rw [if_neg (by simp [up]; omega)]
    simp only [if_pos two]
    exact ⟨updAt_getD_same (by omega) _ 0 0, rfl, rfl⟩
  · refine Gives.next ?_
    rw [if_neg (by simp [up])]
    refine ⟨rfl, fun k => ?_, rfl⟩
    rw [BitVec.getLsbD_and, lockMask_getLsbD]

end Sys2Proof.Machine

namespace Sys2Proof.Machine

/-! Page headers: what a cause, an error and a note leave (R443 to R449). -/

section
variable (s : State) (p k : Nat)

@[simp] theorem setEvent_site (n : Nat) : (s.setEvent p k).site n = s.site n := by rw [setEvent_frame]; rfl
@[simp] theorem setEvent_cluster (n : Nat) : (s.setEvent p k).cluster n = s.cluster n := by rw [setEvent_frame]; rfl
@[simp] theorem setEvent_ms : (s.setEvent p k).ms = s.ms := by rw [setEvent_frame]
@[simp] theorem setEvent_dev : (s.setEvent p k).dev = s.dev := by rw [setEvent_frame]
@[simp] theorem setEvent_cmds : (s.setEvent p k).cmds = s.cmds := by rw [setEvent_frame]
@[simp] theorem setEvent_pwr : (s.setEvent p k).pwr = s.pwr := by rw [setEvent_frame]
@[simp] theorem setEvent_comp : (s.setEvent p k).comp = s.comp := by rw [setEvent_frame]

/-- A cause sets its bit of the page's events and no other bit of a header. -/
@[simp] theorem setEvent_hdr (q : Nat) : (s.setEvent p k).hdr q =
    if q = p then { s.hdr p with event := (s.hdr p).event ||| BitVec.ofNat 13 (2 ^ k) } else s.hdr q := by
  have set : (s.setHdr p { s.hdr p with event := (s.hdr p).event ||| BitVec.ofNat 13 (2 ^ k) }).hdr q = _ := State.hdr_setHdr s p q _
  unfold State.setEvent
  simp only
  split
  · exact set
  · split
    · exact set
    · split <;> exact set

end

section
variable (s : State) (p c t r d : Nat)

@[simp] theorem logError_site (n : Nat) : (s.logError p c t r d).site n = s.site n := by rw [logError_frame]; rfl
@[simp] theorem logError_ms : (s.logError p c t r d).ms = s.ms := by rw [logError_frame]

/-- The error is noted in its page's header, and its cause is set. -/
theorem logError_hdr_same : (s.logError p c t r d).hdr p =
    { (s.hdr p).noteError s.dev.timeNs c t d with event := (s.hdr p).event ||| BitVec.ofNat 13 (2 ^ (8 + c)) } := by
  have noted : (s.setHdr p ((s.hdr p).noteError s.dev.timeNs c t d)).hdr p = (s.hdr p).noteError s.dev.timeNs c t d := by simp
  have set (u : State) (h : u.hdr p = (s.hdr p).noteError s.dev.timeNs c t d) : (u.setEvent p (8 + c)).hdr p =
      { (s.hdr p).noteError s.dev.timeNs c t d with event := (s.hdr p).event ||| BitVec.ofNat 13 (2 ^ (8 + c)) } := by
    rw [setEvent_hdr, if_pos rfl, h]
    rfl
  unfold State.logError
  simp only
  split
  · exact set _ noted
  · exact set _ noted

end

/-! Power states of islands (R33, R446). -/

@[simp] theorem State.isl_site (s : State) (n : Nat) : s.isl (.site n) = (s.site n).isl := rfl

/-- A site whose power state changes: a cause on its page, nothing else. -/
theorem changeIsl_site {s : State} {n : Nat} {st : PState} (h : (s.site n).isl.state ≠ st) : changeIsl s (.site n) st =
    (s.setSite n { s.site n with isl := ⟨st, (s.site n).isl.epoch⟩ }).setEvent (0x0500 + n) 12 := by
  simp [changeIsl, h, islandPages, State.setIsl]

/-- A COMPUTE island has no page of its own. -/
theorem changeIsl_compute {s : State} {t : Nat} {st : PState} (h : (s.compIsl t).state ≠ st) : changeIsl s (.compute t) st =
    { s with comp := updAt s.comp t (fun _ => ⟨st, (s.compIsl t).epoch⟩) } := by
  simp [changeIsl, State.isl, h, islandPages, State.setIsl]

/-- COMPUTE `t` reads as it was set. -/
theorem compIsl_set {s : State} {t : Nat} (h : t < s.comp.length) (x : Isl) :
    State.compIsl { s with comp := updAt s.comp t (fun _ => x) } t = x :=
  updAt_getD_same h _ _ Isl.reset

end Sys2Proof.Machine

namespace Sys2Proof.Machine

/-! Units of a core dealt again (R383, R384): commands and the clusters' queues change, their cores do not. -/

/-- The queues of clusters and the commands may differ; which sites serve a cluster's logical cores does not. -/
structure Dealt (s t : State) : Prop where
  frame : t = { s with cmds := t.cmds, clusters := t.clusters }
  map : ∀ k, (t.cluster k).map = (s.cluster k).map
  present : ∀ k, (t.cluster k).present = (s.cluster k).present
  moonFree : ∀ k, (t.cluster k).moonFree = (s.cluster k).moonFree

theorem Dealt.refl (s : State) : Dealt s s := ⟨rfl, fun _ => rfl, fun _ => rfl, fun _ => rfl⟩

theorem Dealt.trans {s t u : State} (h : Dealt s t) (k : Dealt t u) : Dealt s u :=
  ⟨by rw [k.frame, h.frame], fun n => (k.map n).trans (h.map n), fun n => (k.present n).trans (h.present n),
    fun n => (k.moonFree n).trans (h.moonFree n)⟩

theorem Dealt.foldl {α : Type} {f : State → α → State} (h : ∀ s x, Dealt s (f s x)) (l : List α) (s : State) : Dealt s (l.foldl f s) := by
  induction l generalizing s with
  | nil => exact .refl s
  | cons x t ih => exact (h s x).trans (ih (f s x))

section
variable {s t : State} (h : Dealt s t)
include h

theorem Dealt.site (n : Nat) : t.site n = s.site n := by rw [h.frame]; rfl
theorem Dealt.hdr (n : Nat) : t.hdr n = s.hdr n := by rw [h.frame]; rfl
theorem Dealt.ms : t.ms = s.ms := by rw [h.frame]
theorem Dealt.dev : t.dev = s.dev := by rw [h.frame]
theorem Dealt.attn : t.attn = s.attn := by rw [h.frame]

end

theorem updCmd_dealt (s : State) (n : Nat) (f : Cmd → Cmd) : Dealt s (s.updCmd n f) :=
  ⟨rfl, fun _ => rfl, fun _ => rfl, fun _ => rfl⟩

/-- A cluster whose queue, credits or collector change. -/
theorem setCluster_dealt (s : State) (k : Nat) {c : Cluster} (map : c.map = (s.cluster k).map)
    (present : c.present = (s.cluster k).present) (moonFree : c.moonFree = (s.cluster k).moonFree) : Dealt s (s.setCluster k c) := by
  refine ⟨rfl, fun j => ?_, fun j => ?_, fun j => ?_⟩ <;> rw [State.cluster_setCluster] <;> split <;> simp [*]

theorem reopenPart_dealt (s : State) (id k : Nat) : Dealt s (reopenPart s id k) := by
  unfold reopenPart
  split
  · refine Dealt.trans ?_ (updCmd_dealt _ _ _)
    exact setCluster_dealt s k rfl rfl rfl
  · exact .refl s
  · refine Dealt.trans ?_ (updCmd_dealt _ _ _)
    exact setCluster_dealt s k rfl rfl rfl

theorem redeal_dealt (s : State) (id cl : Nat) (us : List Nat) : Dealt s (redeal s id cl us) := by
  unfold redeal
  split
  · exact .refl s
  · split
    · exact .refl s
    · split
      · exact updCmd_dealt s _ _
      · exact (reopenPart_dealt s id _).trans (updCmd_dealt _ _ _)

theorem giveBack_dealt (s : State) (l cl : Nat) (ab : Option (Nat × Nat)) : Dealt s (giveBack s l cl ab) := by
  cases ab with
  | none => exact .refl s
  | some p => exact updCmd_dealt s _ _

theorem dealAbsent_dealt (s : State) (l cl : Nat) : Dealt s (dealAbsent s l cl) := by
  unfold dealAbsent
  refine .foldl (fun s c => ?_) _ s
  extract_lets us s1
  have h1 : Dealt s s1 := updCmd_dealt s _ _
  split
  · exact h1.trans (redeal_dealt s1 c.id cl us)
  · exact h1

theorem noteReplay_dealt (s : State) (n : Nat) (f : Bool) (tile : Option (Nat × Nat)) : Dealt s (noteReplay s n f tile) := by
  cases tile with
  | none => exact .refl s
  | some p => exact updCmd_dealt s _ _

/-! Logical ids that become absent (R20, R384). -/

@[simp] theorem becomesAbsent_site (s : State) (cl l n : Nat) : (becomesAbsent s cl l).site n = s.site n := rfl
@[simp] theorem becomesAbsent_ms (s : State) (cl l : Nat) : (becomesAbsent s cl l).ms = s.ms := rfl

/-- A list that holds `false` at a place, or ends before it. -/
theorem updAt_false_getD (l : List Bool) (i : Nat) : (updAt l i (fun _ => false)).getD i false = false := by
  rw [List.getD_eq_getElem?_getD, updAt_getElem?, if_pos rfl]
  cases l[i]? <;> rfl

theorem becomesAbsent_present (s : State) (cl l : Nat) : ((becomesAbsent s cl l).cluster cl).present.getD (l % 15) false = false := by
  simp only [becomesAbsent, State.cluster_setCluster, if_true, updAt_false_getD]

/-! A core site reset (R386, R398). -/

/-- Stale messages dropped: the hub's counter and a free value. -/
@[simp] theorem noteStale_site (s : State) (n : Nat) : (noteStale s).site n = s.site n := rfl
@[simp] theorem noteStale_ms (s : State) : (noteStale s).ms = s.ms := rfl

/-- A site as a reset leaves it. -/
def Site.wasReset (x : Site) : Site :=
  { x.idle with
    isl := ⟨.off, x.isl.epoch⟩, fenced := false, abandoned := none, resetting := true, valid := Ctr48.zero,
    starve := Ctr48.zero, block := Ctr48.zero, freeze := false, cfg := 0 }

@[simp] theorem loseLsm_site (s : State) (n k : Nat) : (loseLsm s n).site k = s.site k := rfl

theorem turnOff_site (s : State) (n k : Nat) : (turnOff s (.site n)).site k =
    if k = n then { s.site n with isl := ⟨.off, (s.site n).isl.epoch⟩ } else s.site k :=
  State.site_setSite s n k _

/-- A reset turns the site off and loses its LSM; what it does beside that is to commands, headers and clusters. -/
theorem resetSite_spec (s : State) (n : Nat) : (resetSite s n).site n = (s.site n).wasReset ∧ (resetSite s n).ms = (loseLsm s n).ms := by
  unfold resetSite
  extract_lets x cl s1 y z s2 ab
  have d : Dealt (loseLsm (turnOff s (.site n)) n) s1 := noteReplay_dealt _ _ _ _
  have off : s1.site n = { x with isl := ⟨.off, x.isl.epoch⟩ } := by rw [d.site, loseLsm_site, turnOff_site, if_pos rfl]
  have site : s2.site n = x.wasReset := by
    simp only [s2, State.site_setSite, if_true, z, off]
    rfl
  have ms : s2.ms = (loseLsm s n).ms := d.ms
  clear_value s2
  split
  · exact ⟨site, ms⟩
  · next l _ =>
    have g := giveBack_dealt s2 l cl ab
    have a := dealAbsent_dealt (becomesAbsent (giveBack s2 l cl ab) cl l) l cl
    rw [noteStale_site, noteStale_ms, a.site, a.ms, becomesAbsent_site, becomesAbsent_ms, g.site, g.ms]
    exact ⟨site, ms⟩

theorem memGet_filter {m : List Host.Cell} {p : Nat → Bool} {a : Nat} (h : p a = true) : memGet (m.filter (fun c => p c.1)) a = memGet m a := by
  induction m with
  | nil => rfl
  | cons c t ih =>
    by_cases hc : c.1 = a
    · simp [memGet, hc, h]
    · by_cases hp : p c.1
      · simp [memGet, hp, hc, ih]
      · simp [memGet, hp, hc, ih]

/-- Only bytes of the site's own LSM are lost. -/
theorem loseLsm_sameBytes (s : State) (n : Nat) : SameBytesOutside s (loseLsm s n) (0x010000000000 + n * 0x400000) 0x400000 :=
  fun a h => memGet_filter (p := fun x => decide (x < _ ∨ _ ≤ x)) (by simp; omega)

end Sys2Proof.Machine

namespace Sys2Proof.Machine

/-! The page of a core site (R452). -/

section
variable {n : Nat} (h : n < 256)
include h

theorem isCorePage_core : isCorePage (0x0500 + n) = true := by
  simp only [isCorePage, beq_iff_eq]
  omega

theorem corePage_mod : (0x0500 + n) % 256 = n := by omega

theorem pageIsland_core : pageIsland (0x0500 + n) = some (.site n) := by
  have q : (0x0500 + n) / 256 = 5 := by omega
  simp only [pageIsland, q, corePage_mod h]
  rw [if_neg (by omega)]

theorem pageExists_core : pageExists (0x0500 + n) = true := by rw [pageExists, pageIsland_core h, Option.isSome_some]

theorem pageIsl_core (s : State) : pageIsl s (0x0500 + n) = (s.site n).isl := by
  rw [pageIsl, pageIsland_core h]
  rfl

end

/-! `PG_CTRL` of a core page (R445). -/

section
variable {s : State} {n : Nat} (h : n < 256)
include h

/-- A core that is OFF takes `ENABLE` alone. -/
theorem ctrlWrite_off (off : (s.site n).isl.state = .off) (en q sr ec : Bool) : ctrlWrite s (0x0500 + n) en q sr ec =
    movePower (s.setHdr (0x0500 + n) { s.hdr (0x0500 + n) with enable := en }) (0x0500 + n) := by
  simp [ctrlWrite, pageExists_core h, pageIsl_core h, isCorePage_core h, off]

/-- A fenced core takes no power request. -/
theorem ctrlWrite_fenced (on : (s.site n).isl.state ≠ .off) (fenced : (s.site n).fenced = true) (en q sr ec : Bool) :
    ctrlWrite s (0x0500 + n) en q sr ec = s := by
  simp [ctrlWrite, pageExists_core h, pageIsl_core h, isCorePage_core h, corePage_mod h, on, fenced]

/-- The page's control fields as a write sets them. -/
def ctrlSet (s : State) (p : Nat) (en q sr : Bool) : State :=
  s.setHdr p { s.hdr p with enable := en, quiesce := q, softReset := (s.hdr p).softReset || (sr && q) }

section
variable (on : (s.site n).isl.state ≠ .off) (in' : (s.site n).isl.state ≠ .eclipsed) (free : (s.site n).fenced = false) (en q : Bool)
include on in' free

/-- `ENABLE` and `QUIESCE_REQ` move the core. -/
theorem ctrlWrite_power : ctrlWrite s (0x0500 + n) en q false false =
    movePower (ctrlSet s (0x0500 + n) en q false) (0x0500 + n) := by
  simp [ctrlWrite, ctrlSet, pageExists_core h, pageIsl_core h, isCorePage_core h, corePage_mod h, on, in', free]

/-- `SOFT_RESET` without `QUIESCE_REQ` resets the core at once. -/
theorem ctrlWrite_reset : ctrlWrite s (0x0500 + n) en false true false =
    softResetNow (ctrlSet s (0x0500 + n) en false true) (0x0500 + n) := by
  simp [ctrlWrite, ctrlSet, pageExists_core h, pageIsl_core h, isCorePage_core h, corePage_mod h, on, in', free]

end

end

/-- A core's power state changes, and of its page at most the events. -/
structure Moves (s : State) (n : Nat) (st : PState) (t : State) : Prop where
  site : t.site n = { s.site n with isl := ⟨st, (s.site n).isl.epoch⟩ }
  others : ∀ k, k ≠ n → t.site k = s.site k
  enable : (t.hdr (0x0500 + n)).enable = (s.hdr (0x0500 + n)).enable
  quiesce : (t.hdr (0x0500 + n)).quiesce = (s.hdr (0x0500 + n)).quiesce
  ms : t.ms = s.ms
  cmds : t.cmds = s.cmds

theorem setSite_moves (s : State) (n : Nat) (st : PState) :
    Moves s n st (s.setSite n { s.site n with isl := ⟨st, (s.site n).isl.epoch⟩ }) :=
  ⟨by simp, fun k h => by simp [h], rfl, rfl, rfl, rfl⟩

theorem changeIsl_moves {s : State} {n : Nat} {st : PState} (h : (s.site n).isl.state ≠ st) : Moves s n st (changeIsl s (.site n) st) := by
  obtain ⟨site, others, enable, quiesce, ms, cmds⟩ := setSite_moves s n st
  rw [changeIsl_site h]
  refine ⟨?_, fun k hk => ?_, ?_, ?_, ?_, ?_⟩
  · rw [setEvent_site, site]
  · rw [setEvent_site, others k hk]
  · rw [setEvent_hdr, if_pos rfl, ← enable]
  · rw [setEvent_hdr, if_pos rfl, ← quiesce]
  · rw [setEvent_ms, ms]
  · rw [setEvent_cmds, cmds]

section
variable {s : State} {n : Nat} (h : n < 256)
include h

/-- A core that is ON drains. -/
theorem movePower_drain (on : (s.site n).isl.state = .on) (drain : (s.hdr (0x0500 + n)).enable = false ∨ (s.hdr (0x0500 + n)).quiesce = true) :
    Moves s n .quiescing (movePower s (0x0500 + n)) := by
  have e : movePower s (0x0500 + n) = changeIsl s (.site n) .quiescing := by
    simp [movePower, pageIsland_core h, isCorePage_core h, on, drain]
  exact e ▸ changeIsl_moves (by simp [on])

variable (enable : (s.hdr (0x0500 + n)).enable = true) (dep : dependsOk s (.site n) = true)
include enable dep

/-- A core that drains returns. -/
theorem movePower_return (quiescing : (s.site n).isl.state = .quiescing) (hold : (s.hdr (0x0500 + n)).quiesce = false)
    (soft : (s.hdr (0x0500 + n)).softReset = false) : Moves s n .on (movePower s (0x0500 + n)) := by
  have e : movePower s (0x0500 + n) = changeIsl s (.site n) .on := by
    simp [movePower, pageIsland_core h, isCorePage_core h, quiescing, enable, hold, soft, dep]
  exact e ▸ changeIsl_moves (by simp [quiescing])

/-- A core that is OFF begins its self-test (R446). -/
theorem movePower_test (off : (s.site n).isl.state = .off) : Moves s n .test (movePower s (0x0500 + n)) := by
  have e : movePower s (0x0500 + n) = s.setSite n { s.site n with isl := ⟨.test, (s.site n).isl.epoch⟩ } := by
    simp [movePower, pageIsland_core h, isCorePage_core h, off, enable, dep, State.setIsl]
  exact e ▸ setSite_moves s n .test

end

@[simp] theorem ctrlSet_hdr (s : State) (p : Nat) (en q sr : Bool) : (ctrlSet s p en q sr).hdr p =
    { s.hdr p with enable := en, quiesce := q, softReset := (s.hdr p).softReset || (sr && q) } :=
  (State.hdr_setHdr s p p _).trans (if_pos rfl)

theorem softResetNow_core {n : Nat} (h : n < 256) (s : State) : softResetNow s (0x0500 + n) =
    (resetSite s n).setHdr (0x0500 + n) { (resetSite s n).hdr (0x0500 + n) with softReset := true } := by
  simp [softResetNow, isCorePage_core h, corePage_mod h]

/-! A core fenced (R383 steps 1 and 2). -/

/-- Of a tile in progress its core's counters move, and its operands and results have gone through the core's LSM. -/
structure Progresses (s : State) (n : Nat) (t : State) : Prop where
  tile : (t.site n).tile = (s.site n).tile
  others : ∀ k, k ≠ n → t.site k = s.site k
  ms : t.ms = { s.ms with lsm := t.ms.lsm, lsmKept := t.ms.lsmKept }

theorem setSite_progresses (s : State) (n : Nat) {x : Site} (h : x.tile = (s.site n).tile) : Progresses s n (s.setSite n x) :=
  ⟨by rw [State.site_setSite, if_pos rfl, h], fun k hk => by rw [State.site_setSite, if_neg hk], rfl⟩

theorem slotsEnter_progresses (s : State) (n m starve block : Nat) : Progresses s n (s.slotsEnter n m starve block) := by
  unfold State.slotsEnter
  split
  · exact ⟨rfl, fun _ _ => rfl, rfl⟩
  · next c w _ =>
    extract_lets x k u
    split
    · exact ⟨rfl, fun _ _ => rfl, rfl⟩
    · have p : Progresses s n u := setSite_progresses s n rfl
      exact ⟨p.tile, p.others, rfl⟩

theorem arrProgress_progresses (s : State) (n : Nat) : Progresses s n (s.arrProgress n) := by
  unfold State.arrProgress
  extract_lets x f m
  split
  · exact ⟨rfl, fun _ _ => rfl, rfl⟩
  · obtain ⟨tile, others, ms⟩ := slotsEnter_progresses s n m (f 5) (f 6)
    exact ⟨tile, others, ms⟩

/-- A fenced core has no tile; the one it ran is abandoned. -/
theorem fence_spec (s : State) (n : Nat) (resetting faulted : Bool) : (fence s n resetting faulted).site n =
      { ((s.arrProgress n).site n).idle with fenced := true, abandoned := (s.site n).tile, resetting := resetting } ∧
    (∀ k, k ≠ n → (fence s n resetting faulted).site k = s.site k) ∧
    (fence s n resetting faulted).ms = { s.ms with lsm := (fence s n resetting faulted).ms.lsm, lsmKept := (fence s n resetting faulted).ms.lsmKept } := by
  obtain ⟨tile, others, ms⟩ := arrProgress_progresses s n
  unfold fence
  extract_lets u x
  have d := noteReplay_dealt (u.setSite n { x.idle with fenced := true, abandoned := x.tile, resetting := resetting }) n faulted x.tile
  rw [d.ms]
  refine ⟨?_, fun k hk => ?_, ms⟩
  · rw [d.site, State.site_setSite, if_pos rfl, ← tile]
  · rw [d.site, State.site_setSite, if_neg hk, others k hk]

/-- ECLIPSE on a core page fences the core. -/
theorem ctrlWrite_eclipse {s : State} {n : Nat} (can : canFence s n = true) (en q : Bool) : ctrlWrite s (0x0500 + n) en q false true =
    (fence (ctrlSet s (0x0500 + n) en q false) n false false).setHdr (0x0500 + n)
      { (fence (ctrlSet s (0x0500 + n) en q false) n false false).hdr (0x0500 + n) with eclipse := true } := by
  have can' : canFence (ctrlSet s (0x0500 + n) en q false) n = true := can
  simp only [canFence, Bool.and_eq_true, Bool.or_eq_true, decide_eq_true_eq, Bool.not_eq_true', beq_iff_eq] at can
  obtain ⟨⟨h, free⟩, up⟩ := can
  have on : (s.site n).isl.state ≠ .off := by rintro e; simp [e] at up
  have in' : (s.site n).isl.state ≠ .eclipsed := by rintro e; simp [e] at up
  simp only [ctrlSet, Bool.false_and, Bool.or_false] at can' ⊢
  simp [ctrlWrite, pageExists_core h, pageIsl_core h, isCorePage_core h, corePage_mod h, on, in', free, can']

/-- Settles O55: each request is a change of the core's power state, a reset or a fence of it; a fenced core keeps its state. -/
theorem powerRequestsMoveIslands : Obligations.PowerRequestsMoveIslands := by
  intro s n hn
  refine ⟨fun on free => ⟨Gives.next ?_, Gives.next ?_, fun hold => Gives.next ?_⟩, fun off dep => Gives.next ?_,
    fun quiescing free hold soft dep => Gives.next ?_, fun can => Gives.next ?_, fun i fenced on hi => ?_⟩
  · rw [ctrlWrite_power hn (by simp [on]) (by simp [on]) free]
    have m := movePower_drain (s := ctrlSet s (0x0500 + n) false (s.hdr (0x0500 + n)).quiesce false) hn on (.inl (by simp))
    exact ⟨m.site, m.enable.trans (by simp), m.others, m.ms, m.cmds⟩
  · rw [ctrlWrite_power hn (by simp [on]) (by simp [on]) free]
    have m := movePower_drain (s := ctrlSet s (0x0500 + n) (s.hdr (0x0500 + n)).enable true false) hn on (.inr (by simp))
    exact ⟨m.site, m.quiesce.trans (by simp), m.others, m.ms, m.cmds⟩
  · rw [hold, ctrlWrite_reset hn (by simp [on]) (by simp [on]) free, softResetNow_core hn]
    obtain ⟨site, ms⟩ := resetSite_spec (ctrlSet s (0x0500 + n) (s.hdr (0x0500 + n)).enable false true) n
    refine ⟨congrArg (·.isl.state) site, congrArg Site.tile site, congrArg Site.resetting site, congrArg Site.valid site, fun a ha => ?_⟩
    rw [State.setHdr_ms, ms]
    exact loseLsm_sameBytes s n a ha
  · rw [ctrlWrite_off hn off]
    have m := movePower_test (s := s.setHdr (0x0500 + n) { s.hdr (0x0500 + n) with enable := true }) hn (by simp) dep off
    exact ⟨m.site, m.enable.trans (by simp), m.ms, m.others⟩
  · rw [hold, ctrlWrite_power hn (by simp [quiescing]) (by simp [quiescing]) free]
    have m := movePower_return (s := ctrlSet s (0x0500 + n) true false false) hn (by simp) dep quiescing (by simp) (by simp [soft])
    exact ⟨m.site, m.enable.trans (by simp), m.ms⟩
  · rw [ctrlWrite_eclipse can]
    obtain ⟨site, others, ms⟩ := fence_spec (ctrlSet s (0x0500 + n) (s.hdr (0x0500 + n)).enable (s.hdr (0x0500 + n)).quiesce false) n false false
    exact ⟨congrArg Site.fenced site, congrArg Site.tile site, congrArg Site.abandoned site, congrArg Site.resetting site, by simp, others, ms⟩
  · have none' (en q sr ec : Bool) : ctrlWrite s (0x0500 + n) en q sr ec = s := ctrlWrite_fenced hn on fenced en q sr ec
    simp only [List.mem_cons, List.not_mem_nil, or_false] at hi
    rcases hi with rfl | rfl | rfl | rfl | rfl | rfl <;> exact congrArg Host.Outcome.next (none' _ _ _ _)

end Sys2Proof.Machine

namespace Sys2Proof.Machine

/-! Islands that return (R386, R398). -/

/-- A rounding generator is never seeded with 0 (R251). -/
theorem seed_ne_zero (f : Nat) : BitVec.ofNat 32 (max 1 (f % 2 ^ 32)) ≠ 0 := by
  intro h
  have e : max 1 (f % 2 ^ 32) % 2 ^ 32 = 0 := congrArg BitVec.toNat h
  omega

/-- What the return of a core site leaves. -/
structure SiteBack (s : State) (n : Nat) (t : State) : Prop where
  isl : (t.site n).isl = ⟨.on, (s.site n).isl.epoch + 1⟩
  seeded : (t.site n).lfsr ≠ 0
  others : ∀ k, k ≠ n → t.site k = s.site k
  ms : t.ms = s.ms
  conns : t.conns = s.conns

theorem siteBack_spec (s : State) (n : Nat) : SiteBack s n (siteBack s n) ∧
    ∀ l, (s.site n).lcore = some l → l % 15 < (s.cluster (n / 16)).present.length →
      ((siteBack s n).cluster (n / 16)).present.getD (l % 15) false = true := by
  unfold siteBack
  extract_lets f s1 x s2
  have up : s1 = (f.2.setSite n { s.site n with isl := ⟨.on, (s.site n).isl.epoch + 1⟩ }).setHdr (0x0500 + n)
      { bootHdr (0x0500 + n) with locked := true } := rfl
  have hx : x = { s.site n with isl := ⟨.on, (s.site n).isl.epoch + 1⟩ } := (State.site_setSite f.2 n n _).trans (if_pos rfl)
  have site : s2.site n = { s.site n with isl := ⟨.on, (s.site n).isl.epoch + 1⟩, resetting := false, lfsr := BitVec.ofNat 32 (max 1 (f.1 % 2 ^ 32)) } := by
    rw [State.site_setSite, if_pos rfl, hx]
  have back : SiteBack s n s2 := by
    refine ⟨by rw [site], by rw [site]; exact seed_ne_zero _, fun k hk => ?_, rfl, rfl⟩
    rw [State.site_setSite, if_neg hk]
    exact (State.site_setSite f.2 n k _).trans (if_neg hk)
  have present : (s2.cluster (n / 16)).present = (s.cluster (n / 16)).present := rfl
  have lcore : x.lcore = (s.site n).lcore := by rw [hx]
  rw [lcore]
  clear_value s2
  split
  · next none' => exact ⟨back, fun l hl => nomatch none'.symm.trans hl⟩
  · next l some' =>
    obtain ⟨isl, seeded, others, ms, conns⟩ := back
    refine ⟨⟨isl, seeded, others, ms, conns⟩, fun l' hl room => ?_⟩
    obtain rfl : l = l' := Option.some.inj (some'.symm.trans hl)
    rw [State.cluster_setCluster, if_pos rfl]
    exact updAt_getD_same (present ▸ room) _ false false

/-- Headers set at boot are all that changes. -/
theorem bootHdrs_frame (s : State) (i : Island) (lock : Bool) : ∃ l, bootHdrs s i lock = { s with hdrs := l } := by
  unfold bootHdrs
  generalize islandPages i = ps
  induction ps generalizing s with
  | nil => exact ⟨s.hdrs, rfl⟩
  | cons p t ih => exact ih (s.setHdr p { bootHdr p with locked := lock })

theorem checkCoord_hub (s : State) : (checkCoord s).hub = s.hub := by
  unfold checkCoord
  extract_lets ok s1
  split <;> rfl

theorem checkCoord_tlc (s : State) : (checkCoord s).tlc = s.tlc := by
  unfold checkCoord
  extract_lets ok s1
  split <;> rfl

theorem returnOn_hub (s : State) : ∃ l, returnOn s .hub = { s with hub := ⟨.on, s.hub.epoch + 1⟩, hdrs := l } :=
  bootHdrs_frame { s with hub := ⟨.on, s.hub.epoch + 1⟩ } .hub true

/-- The hub returns with a new epoch; a paired Parvon returns away (R376, R398). -/
theorem hubBack_spec (s : State) : (hubBack s).hub = ⟨.on, s.hub.epoch + 1⟩ ∧
    (s.tlc.pair.isSome = true → (hubBack s).tlc.away = true ∧ (hubBack s).tlc.tstate = 1) := by
  unfold hubBack
  obtain ⟨l, up⟩ := returnOn_hub { s with ms := reloadTables s.ms }
  rw [up]
  extract_lets s1 s2 r
  have hub : s2.hub = ⟨.on, s.hub.epoch + 1⟩ := checkCoord_hub s1
  have tlc : s2.tlc = s.tlc := checkCoord_tlc s1
  clear_value s2
  split
  · exact ⟨hub, fun _ => ⟨rfl, rfl⟩⟩
  · next unpaired => exact ⟨hub, fun paired => absurd paired (tlc ▸ unpaired)⟩

/-! The sites of a tile move together (R34). -/

/-- A site's power state after a change. -/
theorem changeIsl_state (s : State) (n m : Nat) (st : PState) : ((changeIsl s (.site n) st).site m).isl.state =
    if m = n then st else (s.site m).isl.state := by
  by_cases h : (s.site n).isl.state = st
  · have e : changeIsl s (.site n) st = s := if_pos h
    rw [e]
    split <;> simp [*]
  · obtain ⟨site, others, -⟩ := changeIsl_moves h
    split
    · next e => rw [e, site]
    · next e => rw [others m e]

/-- Sites, headers and attention may differ. -/
structure SitesOnly (s t : State) : Prop where
  comp : t.comp = s.comp
  pwr : t.pwr = s.pwr
  ms : t.ms = s.ms

theorem changeIsl_sitesOnly (s : State) (n : Nat) (st : PState) : SitesOnly s (changeIsl s (.site n) st) := by
  by_cases h : (s.site n).isl.state = st
  · have e : changeIsl s (.site n) st = s := if_pos h
    rw [e]
    exact ⟨rfl, rfl, rfl⟩
  · rw [changeIsl_site h]
    exact ⟨setEvent_comp _ _ _, setEvent_pwr _ _ _, setEvent_ms _ _ _⟩

/-- Sites of a tile that are in state `a` go to state `b`. -/
def shiftSites (a b : PState) (t : Nat) (l : List Nat) (s : State) : State :=
  l.foldl (fun s k => if (s.site (64 * t + k)).isl.state = a then changeIsl s (.site (64 * t + k)) b else s) s

theorem shiftSites_sitesOnly (a b : PState) (t : Nat) (l : List Nat) (s : State) : SitesOnly s (shiftSites a b t l s) := by
  induction l generalizing s with
  | nil => exact ⟨rfl, rfl, rfl⟩
  | cons k l ih =>
    rw [shiftSites, List.foldl_cons]
    split
    · obtain ⟨comp, pwr, ms⟩ := changeIsl_sitesOnly s (64 * t + k) b
      obtain ⟨comp', pwr', ms'⟩ := ih (changeIsl s (.site (64 * t + k)) b)
      exact ⟨comp'.trans comp, pwr'.trans pwr, ms'.trans ms⟩
    · exact ih s

theorem shiftSites_state {a b : PState} {t n : Nat} (l : List Nat) (s : State)
    (h : (s.site (64 * t + n)).isl.state = b ∨ (n ∈ l ∧ (s.site (64 * t + n)).isl.state = a)) :
    ((shiftSites a b t l s).site (64 * t + n)).isl.state = b := by
  induction l generalizing s with
  | nil => exact h.resolve_right (fun h => nomatch h.1)
  | cons k l ih =>
    rw [shiftSites, List.foldl_cons]
    split
    · refine ih _ ?_
      rw [changeIsl_state]
      split
      · exact .inl rfl
      · next apart =>
        have other : n ≠ k := fun e => apart (e ▸ rfl)
        exact h.imp_right (fun h => ⟨(List.mem_cons.mp h.1).resolve_left other, h.2⟩)
    · next still =>
      refine ih s (h.imp_right (fun h => ⟨(List.mem_cons.mp h.1).resolve_left ?_, h.2⟩))
      rintro rfl
      exact still h.2

/-! Checkpoints that waited for a memory (R365). -/

/-- Islands, sites and memory stay. -/
structure PowerStays (s t : State) : Prop where
  comp : t.comp = s.comp
  pwr : t.pwr = s.pwr
  ms : t.ms = s.ms
  sites : t.sites = s.sites

theorem PowerStays.trans {s t u : State} (h : PowerStays s t) (k : PowerStays t u) : PowerStays s u :=
  ⟨k.comp.trans h.comp, k.pwr.trans h.pwr, k.ms.trans h.ms, k.sites.trans h.sites⟩

theorem PowerStays.foldl {α : Type} {f : State → α → State} (h : ∀ s x, PowerStays s (f s x)) (l : List α) (s : State) :
    PowerStays s (l.foldl f s) := by
  induction l generalizing s with
  | nil => exact ⟨rfl, rfl, rfl, rfl⟩
  | cons x t ih => exact (h s x).trans (ih (f s x))

theorem takeSnapshot_powerStays (s : State) (ctx : Nat) : PowerStays s (takeSnapshot s ctx) := by
  unfold takeSnapshot
  split
  · exact ⟨rfl, rfl, rfl, rfl⟩
  · split
    · exact ⟨rfl, rfl, rfl, rfl⟩
    · split
      · exact ⟨rfl, rfl, rfl, rfl⟩
      · extract_lets snap images s1
        have h1 : PowerStays s s1 := ⟨rfl, rfl, rfl, rfl⟩
        clear_value s1
        refine h1.trans ?_
        exact .foldl (f := fun s u => { s.emit _ with tlc := _ }) (fun _ _ => ⟨rfl, rfl, rfl, rfl⟩) _ s1

end Sys2Proof.Machine

namespace Sys2Proof.Machine

/-! The rows of O42 (R34, R35, R386, R388, R390). -/

theorem comeBack_site {s : State} {n : Nat} (h : n < 256) (off : (s.site n).isl.state = .off ∨ (s.site n).isl.state = .test)
    (dep : dependsOk s (.site n) = true) : comeBack s (.site n) true = siteBack s n := by
  unfold comeBack
  rw [if_neg (by rcases off with e | e <;> simp [e]), if_neg (by simp [dep])]
  exact if_neg (by omega)

theorem comeBack_hub {s : State} (off : s.hub.state = .off) : comeBack s .hub true = hubBack s := by
  unfold comeBack
  rw [if_neg (by simp [State.isl, off]), if_neg (by simp [dependsOk])]
  rfl

/-- A place that was set reads as it was set. -/
theorem updAt_const_getD {α : Type} {l : List α} {i : Nat} (h : i < l.length) (x d : α) : (updAt l i (fun _ => x)).getD i d = x := by
  rw [updAt_getD_same h (fun _ => x) d x]

/-- A tile that goes into RETENTION or wakes from it (R34, R390): its COMPUTE island in state `b`, with it the sites that were in
state `a`, and its rail at `mv`. -/
structure TileMoved (a b : PState) (s : State) (i mv : Nat) (t : State) : Prop where
  comp : t.compIsl i = ⟨b, (s.compIsl i).epoch⟩
  ms : t.ms = s.ms
  rail : t.pwr.vcur.getD i 0 = mv
  sites : ∀ k < 64, (s.site (64 * i + k)).isl.state = a → (t.site (64 * i + k)).isl.state = b

theorem compIsl_congr {s t : State} (h : t.comp = s.comp) (i : Nat) : t.compIsl i = s.compIsl i := by rw [State.compIsl, h, State.compIsl]

theorem shiftSites_all {a b : PState} {i k : Nat} (hk : k < 64) {s : State} (h : (s.site (64 * i + k)).isl.state = a) :
    ((shiftSites a b i (List.range 64) s).site (64 * i + k)).isl.state = b :=
  shiftSites_state _ s (.inr ⟨List.mem_range.mpr hk, h⟩)

theorem wakeSites_eq (s : State) (i : Nat) : wakeSites s i = shiftSites .retention .on i (List.range 64) s := rfl

section
variable {s : State} {i : Nat} (tiles : s.comp.length = 4) (rails : s.pwr.vcur.length = 4) (hi : i < 4)
include tiles rails hi

/-- Its COMPUTE island and sites on again, a tile is unparked. -/
theorem wakeSites_moves {u : State} (e : u = { s with comp := updAt s.comp i (fun _ => ⟨.on, (s.compIsl i).epoch⟩) }) :
    TileMoved .retention .on s i (s.pwr.vrun.getD i 750) (unpark (wakeSites u i) i) := by
  have sites (k : Nat) (hk : k < 64) (h : (u.site (64 * i + k)).isl.state = .retention) := shiftSites_all (b := .on) hk h
  obtain ⟨comp, pwr, ms⟩ := shiftSites_sitesOnly .retention .on i (List.range 64) u
  rw [wakeSites_eq]
  generalize shiftSites .retention .on i (List.range 64) u = w at *
  refine ⟨(compIsl_congr comp i).trans ?_, ms.trans (by rw [e]), ?_, fun k hk h => sites k hk (by rw [e]; exact h)⟩
  · rw [e]
    exact compIsl_set (by omega) _
  · simp only [unpark, pwr, e]
    exact updAt_const_getD (by omega) _ 0

/-- A COMPUTE island wakes with its sites. -/
theorem wakeComplete_moves (asleep : (s.compIsl i).state = .retention) (dep : dependsOk s (.compute i) = true) :
    Gives (exec (.wakeComplete (.compute i) true) s) (TileMoved .retention .on s i (s.pwr.vrun.getD i 750)) := by
  have at' : (s.isl (.compute i)).state = .retention := asleep
  refine Gives.next ?_
  rw [at']
  simp only [dep, Bool.and_self, if_true]
  generalize hu : changeIsl s (.compute i) .on = u
  obtain ⟨comp, ms, rail, sites⟩ := wakeSites_moves tiles rails hi (hu.symm.trans (changeIsl_compute (by simp [asleep])))
  generalize unpark (wakeSites u i) i = t at *
  obtain ⟨comp', pwr', ms', sites'⟩ := PowerStays.foldl takeSnapshot_powerStays (t.ctxs.map Ctx.num) t
  exact ⟨(compIsl_congr comp' i).trans comp, ms'.trans ms, by rw [pwr', rail], fun k hk h => by
    rw [State.site, sites']
    exact sites k hk h⟩

/-- An idle tile parks at 0.60 V. -/
theorem park_moves (on : (s.compIsl i).state = .on) (timed : s.pwr.park10 ≠ 0) (long : 10 * s.pwr.park10 ≤ s.pwr.idleMs.getD i 0)
    (idle : tileIdle s i = true) : Gives (exec (.park i) s) (TileMoved .on .retention s i 600) := by
  refine Gives.next ?_
  rw [if_pos ⟨hi, on, timed, long, idle⟩, changeIsl_compute (by simp [on])]
  extract_lets s0 p s1
  have sites (k : Nat) (hk : k < 64) (h : (s1.site (64 * i + k)).isl.state = .on) := shiftSites_all (b := .retention) hk h
  obtain ⟨comp, pwr, ms⟩ := shiftSites_sitesOnly .on .retention i (List.range 64) s1
  have parked : s1.pwr.vcur.getD i 0 = 600 := updAt_const_getD (rails ▸ hi) _ 0
  have asleep : s1.compIsl i = ⟨.retention, (s.compIsl i).epoch⟩ := compIsl_set (tiles ▸ hi) _
  change TileMoved .on .retention s i 600 (shiftSites .on .retention i (List.range 64) s1)
  generalize shiftSites .on .retention i (List.range 64) s1 = t at *
  exact ⟨(compIsl_congr comp i).trans asleep, ms, pwr ▸ parked, sites⟩

end

/-- A drained core that its page wants OFF, or reset, goes OFF. -/
theorem quiesceComplete_off {s : State} {n : Nat} (hn : n < 256) (quiescing : (s.site n).isl.state = .quiescing)
    (idle : (s.site n).tile = none) (free : (s.site n).fenced = false) (done : holdsWrite s n = false)
    (asked : (s.hdr (0x0500 + n)).enable = false ∨ (s.hdr (0x0500 + n)).softReset = true) :
    Gives (exec (.quiesceComplete (0x0500 + n)) s) (fun t => (t.site n).isl.state = .off ∧ (t.site n).tile = none) := by
  refine Gives.next ?_
  obtain ⟨site, -⟩ := resetSite_spec s n
  extract_lets h keep
  rw [if_neg (by simp [isCorePage_core hn]), if_neg ?_, if_pos (isCorePage_core hn), if_pos (by simp [corePage_mod hn, idle, free, done])]
  · rw [corePage_mod hn]
    exact ⟨congrArg (·.isl.state) site, congrArg Site.tile site⟩
  · rw [pageIsl_core hn]
    rcases asked with e | e <;> simp [quiescing, h, e]

/-- A core that quiesces too long is ON again, and its page captures the event. -/
theorem quiesceTimeout_on {s : State} {n : Nat} (hn : n < 256) (quiescing : (s.site n).isl.state = .quiescing)
    (free : (s.site n).fenced = false) (dep : dependsOk s (.site n) = true) :
    Gives (exec (.quiesceTimeout n) s) (fun t => t.site n = { s.site n with isl := ⟨.on, (s.site n).isl.epoch⟩ } ∧
      (t.hdr (0x0500 + n)).enable = true ∧ (t.hdr (0x0500 + n)).last = captureWord 0 0x20 (0x0500 + n) ∧ t.ms = s.ms) := by
  refine Gives.next ?_
  rw [if_pos ⟨hn, quiescing, free, dep⟩]
  obtain ⟨site, -, -, -, ms, -⟩ := changeIsl_moves (s := s) (n := n) (st := .on) (by simp [quiescing])
  extract_lets page s1 h
  rw [logError_site, logError_ms, logError_hdr_same]
  exact ⟨site, by simp [PageHdr.noteError], rfl, ms⟩

/-- Settles O42: a site and the hub return, a tile wakes and parks, a drained core goes OFF, a slow one is ON again. -/
theorem islandsReturnWakeAndPark : Obligations.IslandsReturnWakeAndPark := by
  refine ⟨fun s n hn ready off asked dep => Gives.next ?_, fun s ready off => Gives.next ?_,
    fun s i tiles rails hi asleep dep => ?_, fun s i tiles rails hi on timed long idle => ?_,
    fun s n hn quiescing => ⟨quiesceComplete_off hn quiescing, quiesceTimeout_on hn quiescing⟩⟩
  · rw [if_pos (by simp [ready, asked]), comeBack_site hn off dep]
    obtain ⟨⟨isl, seeded, others, ms, conns⟩, present⟩ := siteBack_spec s n
    exact ⟨isl, seeded, others, ms, conns, present⟩
  · rw [if_pos (by simp [ready, enabledByCtrl]), comeBack_hub off]
    exact hubBack_spec s
  · obtain ⟨t, e, comp, ms, rail, sites⟩ := wakeComplete_moves tiles rails hi asleep dep
    exact ⟨t, e, comp, ms, rail, sites⟩
  · obtain ⟨t, e, comp, ms, rail, sites⟩ := park_moves tiles rails hi on timed long idle
    exact ⟨t, e, comp, ms, rail, sites⟩

end Sys2Proof.Machine

namespace Sys2Proof.Machine

/-! Onsets of ATTN conditions (R420, R447). -/

/-- A cause counts one onset at most, of its own code. -/
theorem setEvent_counts (s : State) (p k : Nat) : (s.setEvent p k).attn.counts = s.attn.counts ∨
    (s.setEvent p k).attn.counts = updAt s.attn.counts (causeCode (s.hdr p) k) (· + 1) := by
  unfold State.setEvent
  simp only
  split
  · exact .inl rfl
  · split
    · exact .inl rfl
    · split
      · simp only [State.attnOn, Attn.levelOn]
        split
        · exact .inl rfl
        · exact .inr rfl
      · exact .inr rfl

theorem setEvent_counts_length (s : State) (p k : Nat) : (s.setEvent p k).attn.counts.length = s.attn.counts.length := by
  rcases setEvent_counts s p k with e | e <;> simp [e]

/-- The onsets of a code stay, or one is added. -/
theorem setEvent_count (s : State) (p k : Nat) {c : Nat} (h : c < s.attn.counts.length) :
    (s.setEvent p k).attn.counts.getD c 0 = s.attn.counts.getD c 0 ∨
    (s.setEvent p k).attn.counts.getD c 0 = s.attn.counts.getD c 0 + 1 := by
  rcases setEvent_counts s p k with e | e
  · exact .inl (by rw [e])
  · rw [e]
    by_cases hc : c = causeCode (s.hdr p) k
    · exact .inr (hc ▸ updAt_getD_same (hc ▸ h) _ 0 0)
    · exact .inl (updAt_getD_ne _ hc _ 0)

/-- A change of `STATE` raises `ERRLOG` at most (R447). -/
theorem setEvent_state_eclipseCount (s : State) (p : Nat) :
    (s.setEvent p 12).attn.counts.getD attnECLIPSE 0 = s.attn.counts.getD attnECLIPSE 0 := by
  rcases setEvent_counts s p 12 with e | e
  · rw [e]
  · rw [e]
    exact updAt_getD_ne _ (show attnECLIPSE ≠ attnERRLOG by decide) _ 0

/-- A cause whose code is raised in any case counts it once. -/
theorem setEventOnce_count (s : State) (p k : Nat) {c : Nat} (h : c < s.attn.counts.length) :
    (s.setEventOnce p k c).attn.counts.getD c 0 = s.attn.counts.getD c 0 + 1 := by
  unfold State.setEventOnce
  extract_lets s1
  have room : c < s1.attn.counts.length := (setEvent_counts_length s p k).symm ▸ h
  have one : s1.attn.counts.getD c 0 = s.attn.counts.getD c 0 ∨ s1.attn.counts.getD c 0 = s.attn.counts.getD c 0 + 1 := setEvent_count s p k h
  split
  · next e =>
    rw [← e]
    exact updAt_getD_same room _ 0 0
  · next ne => exact one.resolve_left ne

theorem setEventOnce_frame (s : State) (p k c : Nat) : ∃ h a, s.setEventOnce p k c = { s with hdrs := h, attn := a } := by
  unfold State.setEventOnce
  extract_lets s1
  have e : s1 = { s with hdrs := s1.hdrs, attn := s1.attn } := setEvent_frame s p k
  split
  · exact ⟨s1.hdrs, s1.attn.event c, by rw [State.attnEvent, e]⟩
  · exact ⟨_, _, e⟩

section
variable (s : State) (p k c : Nat)

@[simp] theorem setEventOnce_site (n : Nat) : (s.setEventOnce p k c).site n = s.site n := by
  obtain ⟨h, a, e⟩ := setEventOnce_frame s p k c
  rw [e]
  rfl

@[simp] theorem setEventOnce_cluster (n : Nat) : (s.setEventOnce p k c).cluster n = s.cluster n := by
  obtain ⟨h, a, e⟩ := setEventOnce_frame s p k c
  rw [e]
  rfl

@[simp] theorem setEventOnce_ms : (s.setEventOnce p k c).ms = s.ms := by
  obtain ⟨h, a, e⟩ := setEventOnce_frame s p k c
  rw [e]

@[simp] theorem setEventOnce_dev : (s.setEventOnce p k c).dev = s.dev := by
  obtain ⟨h, a, e⟩ := setEventOnce_frame s p k c
  rw [e]

end

/-! Eclipses (R383 to R385). -/

/-- A site in state ECLIPSED: it, its page's events and ATTN but for `ECLIPSE` may differ. -/
structure StateEclipsed (s : State) (n : Nat) (t : State) : Prop where
  state : (t.site n).isl.state = .eclipsed
  others : ∀ k, k ≠ n → t.site k = s.site k
  cluster : ∀ k, t.cluster k = s.cluster k
  ms : t.ms = s.ms
  room : t.attn.counts.length = s.attn.counts.length
  count : t.attn.counts.getD attnECLIPSE 0 = s.attn.counts.getD attnECLIPSE 0

theorem changeIsl_eclipsed (s : State) (n : Nat) : StateEclipsed s n (changeIsl s (.site n) .eclipsed) := by
  by_cases h : (s.site n).isl.state = .eclipsed
  · have e : changeIsl s (.site n) .eclipsed = s := if_pos h
    rw [e]
    exact ⟨h, fun _ _ => rfl, fun _ => rfl, rfl, rfl, rfl⟩
  · obtain ⟨site, others, -, -, ms, -⟩ := changeIsl_moves h
    refine ⟨by rw [site], others, fun k => ?_, ms, ?_, ?_⟩ <;> rw [changeIsl_site h]
    · rw [setEvent_cluster]
      rfl
    · exact setEvent_counts_length _ _ _
    · exact setEvent_state_eclipseCount _ _

/-- What the mark of an eclipse leaves. -/
structure Marked (s : State) (n : Nat) (t : State) : Prop where
  state : (t.site n).isl.state = .eclipsed
  lcore : (t.site n).lcore = none
  fenced : (t.site n).fenced = false
  others : ∀ k, k ≠ n → t.site k = s.site k
  recorded : n ∈ t.dev.eclipsedFlash
  counted : t.attn.counts.getD attnECLIPSE 0 = s.attn.counts.getD attnECLIPSE 0 + 1
  ms : t.ms = s.ms
  map : ∀ k, (t.cluster k).map = (s.cluster k).map

theorem setCluster_map (s : State) {cl : Nat} {c : Cluster} (h : c.map = (s.cluster cl).map) (k : Nat) :
    ((s.setCluster cl c).cluster k).map = (s.cluster k).map := by
  rw [State.cluster_setCluster]
  split
  · next e => rw [h, e]
  · rfl

/-- The record names the site, wherever it stands in it. -/
theorem mem_recorded (n : Nat) (old : List Nat) (moon : Bool) :
    n ∈ if old.contains n then old else if moon then n :: old else old ++ [n] := by
  split
  · next e => exact List.contains_iff_mem.mp e
  · split <;> simp

theorem markEclipsed_marked (s : State) (n : Nat) (graceful moon : Bool) (h : s.attn.counts.length = 11) :
    Marked s n (markEclipsed s n graceful moon) := by
  unfold markEclipsed
  extract_lets x page s1 y s2 hd s3 old flash c s4 d
  obtain ⟨state, others, cluster, ms, room, count⟩ : StateEclipsed s n s1 := changeIsl_eclipsed s n
  have site : s3.site n = { s1.site n with lcore := none, fenced := false, abandoned := none, resetting := false, graceful := false } :=
    (State.site_setSite s1 n n _).trans (if_pos rfl)
  have others3 : ∀ k, k ≠ n → s3.site k = s.site k := fun k hk =>
    ((State.site_setSite s1 n k _).trans (if_neg hk)).trans (others k hk)
  have recorded : n ∈ flash := mem_recorded n old moon
  obtain ⟨sites, ms4, attn, map⟩ : s4.sites = s3.sites ∧ s4.ms = s3.ms ∧ s4.attn = s3.attn ∧ ∀ k, (s4.cluster k).map = (s3.cluster k).map := by
    simp only [s4]
    split
    · exact ⟨rfl, rfl, rfl, setCluster_map s3 rfl⟩
    · exact ⟨rfl, rfl, rfl, fun _ => rfl⟩
  have site4 (k : Nat) : s4.site k = s3.site k := by rw [State.site, sites, State.site]
  have full : attnECLIPSE < s4.attn.counts.length := by
    rw [attn, show s3.attn = s1.attn from rfl, room, h]
    decide
  clear_value s4 flash
  generalize hu : ({ s4 with dev := { d with eclipsedFlash := flash } } : State).logNote page 0x11 _ = u
  have usite (k : Nat) : u.site k = s3.site k := by
    rw [← hu]
    exact site4 k
  have uattn : u.attn = s4.attn := by rw [← hu, State.logNote_attn]
  refine ⟨?_, ?_, ?_, fun k hk => ?_, ?_, ?_, ?_, fun k => ?_⟩
  · rw [setEventOnce_site, usite, site, state]
  · rw [setEventOnce_site, usite, site]
  · rw [setEventOnce_site, usite, site]
  · rw [setEventOnce_site, usite, others3 k hk]
  · rw [setEventOnce_dev, ← hu]
    exact recorded
  · rw [setEventOnce_count u page 0 (uattn ▸ full), uattn, attn]
    exact congrArg (· + 1) count
  · rw [setEventOnce_ms, ← hu, State.logNote_ms, ms4]
    exact ms
  · rw [setEventOnce_cluster, ← hu, ← cluster k]
    exact map k

end Sys2Proof.Machine

namespace Sys2Proof.Machine

/-! ECLIPSE_WRITES_DELIVERED (R383 steps 3 to 5, R384). -/

/-- A logical core finds its new place, or none: site `n`, the record, ATTN and memory stay. -/
structure Rehomed (s : State) (n : Nat) (t : State) : Prop where
  site : t.site n = s.site n
  dev : t.dev = s.dev
  attn : t.attn = s.attn
  ms : t.ms = s.ms

/-- Whether a moon is still to come back. -/
def MoonDown (m : Site) : Prop := m.isl.state = .off ∨ m.isl.state = .test ∨ m.resetting = true

/-- A moon serves a logical core. -/
structure Served (s : State) (cl l : Nat) (epoch : BitVec 16) (t : State) : Prop where
  lcore : (t.site (cl * 16 + 15)).lcore = some l
  epoch : (t.site (cl * 16 + 15)).isl.epoch = epoch
  moonFree : (t.cluster cl).moonFree = false
  map : l % 15 < (s.cluster cl).map.length → (t.cluster cl).map.getD (l % 15) 0 = 15
  absent : MoonDown (s.site (cl * 16 + 15)) → (t.cluster cl).present.getD (l % 15) false = false

theorem becomesAbsent_rehomed (s : State) (cl l n : Nat) : Rehomed s n (dealAbsent (becomesAbsent s cl l) l cl) := by
  have d := dealAbsent_dealt (becomesAbsent s cl l) l cl
  exact ⟨d.site n, d.dev, d.attn, d.ms⟩

theorem becomesAbsent_absent (s : State) (cl l : Nat) :
    ((dealAbsent (becomesAbsent s cl l) l cl).cluster cl).present.getD (l % 15) false = false := by
  rw [(dealAbsent_dealt (becomesAbsent s cl l) l cl).present]
  exact becomesAbsent_present s cl l

/-- Where a moon that serves stays as it is while its logical core is absent. -/
theorem served_of_absent {s t : State} {cl l : Nat} {epoch : BitVec 16} (lcore : (t.site (cl * 16 + 15)).lcore = some l)
    (at' : (t.site (cl * 16 + 15)).isl.epoch = epoch) (moonFree : (t.cluster cl).moonFree = false)
    (map : l % 15 < (s.cluster cl).map.length → (t.cluster cl).map.getD (l % 15) 0 = 15) :
    Served s cl l epoch (dealAbsent (becomesAbsent t cl l) l cl) := by
  have d := dealAbsent_dealt (becomesAbsent t cl l) l cl
  have kept : (becomesAbsent t cl l).cluster cl = { t.cluster cl with present := updAt (t.cluster cl).present (l % 15) (fun _ => false) } :=
    (State.cluster_setCluster t cl cl _).trans (if_pos rfl)
  refine ⟨?_, ?_, ?_, fun room => ?_, fun _ => becomesAbsent_absent t cl l⟩
  · rw [d.site, becomesAbsent_site, lcore]
  · rw [d.site, becomesAbsent_site, at']
  · rw [d.moonFree, kept, moonFree]
  · rw [d.map, kept]
    exact map room

theorem moonServes_served (s : State) (cl l : Nat) (epoch : BitVec 16) {n : Nat} (hn : n ≠ cl * 16 + 15) :
    Rehomed s n (moonServes s cl l epoch) ∧ Served s cl l epoch (moonServes s cl l epoch) := by
  unfold moonServes
  extract_lets s0 m i s1
  have hm : m = { s.site (cl * 16 + 15) with lcore := some l } := (State.site_setSite _ _ _ _).trans (if_pos rfl)
  have moon : s1.site (cl * 16 + 15) = { m with isl := { m.isl with epoch := epoch } } := (State.site_setSite _ _ _ _).trans (if_pos rfl)
  have cluster : s1.cluster cl = { s.cluster cl with map := updAt (s.cluster cl).map (l % 15) (fun _ => 15), moonFree := false } :=
    (State.cluster_setCluster s cl cl _).trans (if_pos rfl)
  have site : s1.site n = s.site n :=
    ((State.site_setSite s0 _ n _).trans (if_neg hn)).trans ((State.site_setSite _ _ n _).trans (if_neg hn))
  have rehomed : Rehomed s n s1 := ⟨site, rfl, rfl, rfl⟩
  have lcore : (s1.site (cl * 16 + 15)).lcore = some l := by rw [moon, hm]
  have at' : (s1.site (cl * 16 + 15)).isl.epoch = epoch := by rw [moon]
  have map (room : l % 15 < (s.cluster cl).map.length) : (s1.cluster cl).map.getD (l % 15) 0 = 15 := by
    rw [cluster]
    exact updAt_const_getD room 15 0
  clear_value s1
  split
  · have r := becomesAbsent_rehomed s1 cl l n
    exact ⟨⟨r.site.trans site, r.dev.trans rehomed.dev, r.attn.trans rehomed.attn, r.ms.trans rehomed.ms⟩,
      served_of_absent lcore at' (by rw [cluster]) map⟩
  · next up => exact ⟨rehomed, lcore, at', by rw [cluster], map, fun down => absurd (by rw [hm]; exact down) up⟩

/-- Whether the free moon of a site's cluster takes its logical core (R383 step 4, R385). -/
def takesMoon (s : State) (n : Nat) : Bool := moonReady s (n / 16) && !lowerFenced s n && n % 16 != 15

theorem eclipseSite_eq {s : State} {n l : Nat} (lcore : (s.site n).lcore = some l) : eclipseSite s n =
    let s2 := giveBack (markEclipsed s n false (takesMoon s n)) l (n / 16) (s.site n).abandoned
    if takesMoon s n then moonServes s2 (n / 16) l (s.site n).isl.epoch else dealAbsent (becomesAbsent s2 (n / 16) l) l (n / 16) := by
  simp only [eclipseSite, lcore, Option.isSome_some, Bool.and_true]
  rfl

/-- What a delivered eclipse leaves: the mark, then the logical core at the moon or nowhere. -/
theorem eclipseSite_eclipsed {s : State} {n l : Nat} (lcore : (s.site n).lcore = some l) (counts : s.attn.counts.length = 11) :
    ∃ u, Marked s n u ∧ Rehomed u n (eclipseSite s n) ∧
      (takesMoon s n = true → Served s (n / 16) l (s.site n).isl.epoch (eclipseSite s n)) ∧
      (takesMoon s n = false → ((eclipseSite s n).cluster (n / 16)).present.getD (l % 15) false = false) := by
  have marked := markEclipsed_marked s n false (takesMoon s n) counts
  have g := giveBack_dealt (markEclipsed s n false (takesMoon s n)) l (n / 16) (s.site n).abandoned
  refine ⟨markEclipsed s n false (takesMoon s n), marked, ?_⟩
  rw [eclipseSite_eq lcore]
  extract_lets s2
  have back {t : State} (r : Rehomed s2 n t) : Rehomed (markEclipsed s n false (takesMoon s n)) n t :=
    ⟨r.site.trans (g.site n), r.dev.trans g.dev, r.attn.trans g.attn, r.ms.trans g.ms⟩
  by_cases take : takesMoon s n = true
  · have apart : n / 16 * 16 + 15 ≠ n := by
      simp only [takesMoon, Bool.and_eq_true, bne_iff_ne] at take
      omega
    obtain ⟨rehomed, core, epoch, moonFree, map, away⟩ := moonServes_served s2 (n / 16) l (s.site n).isl.epoch apart.symm
    have moon : s2.site (n / 16 * 16 + 15) = s.site (n / 16 * 16 + 15) := (g.site _).trans (marked.others _ apart)
    have same : (s2.cluster (n / 16)).map = (s.cluster (n / 16)).map := (g.map _).trans (marked.map _)
    rw [if_pos take]
    exact ⟨back rehomed, fun _ => ⟨core, epoch, moonFree, same ▸ map, moon ▸ away⟩, fun h => absurd take (by simp [h])⟩
  · rw [if_neg take]
    exact ⟨back (becomesAbsent_rehomed s2 _ l n), fun h => absurd h take, fun _ => becomesAbsent_absent s2 _ l⟩

/-- Settles O40: the site is marked ECLIPSED; then its moon serves its logical core, or that becomes absent. -/
theorem eclipsesFollowTheirSteps : Obligations.EclipsesFollowTheirSteps := by
  intro s n l fenced running lcore counts
  refine Gives.next ?_
  rw [if_neg (by simp [fenced]), if_neg (by simp [running])]
  obtain ⟨u, marked, rehomed, served, absent⟩ := eclipseSite_eclipsed lcore counts
  refine ⟨?_, ?_, ?_, ?_, (eclipseSite_keeps s n).marks.eclipses, ?_, rehomed.ms.trans marked.ms, fun ready first apart => ?_, fun none' => absent ?_⟩
  · rw [rehomed.site, marked.state]
  · rw [rehomed.site, marked.lcore]
  · rw [rehomed.site, marked.fenced]
  · rw [rehomed.dev]
    exact marked.recorded
  · rw [rehomed.attn, marked.counted]
  · obtain ⟨core, epoch, moonFree, map, away⟩ := served (by simp [takesMoon, ready, first, apart])
    exact ⟨core, epoch, moonFree, map, fun m hm down => away (hm ▸ down)⟩
  · rcases none' with e | e | e <;> simp [takesMoon, e]

end Sys2Proof.Machine

namespace Sys2Proof.Machine

/-! Floating patterns: sign, exponent and mantissa. -/

/-- The sign bit of a pattern in place. -/
def FloatLayout.signBits (L : FloatLayout) (neg : Bool) : Nat := if neg then 2 ^ (L.ew + L.mw) else 0

/-- A pattern is its sign, exponent and mantissa. -/
theorem FloatLayout.bits_eq (L : FloatLayout) {bits : Nat} (fits : bits < 2 ^ (1 + L.ew + L.mw)) :
    bits = L.signBits ((bits >>> (L.ew + L.mw)) % 2 == 1) + ((bits >>> L.mw) % 2 ^ L.ew * 2 ^ L.mw + bits % 2 ^ L.mw) := by
  have sign : bits / 2 ^ (L.ew + L.mw) < 2 := by
    rw [Nat.div_lt_iff_lt_mul (by positivity)]
    calc bits < 2 ^ (1 + L.ew + L.mw) := fits
      _ = 2 * 2 ^ (L.ew + L.mw) := by ring
  have split : bits / 2 ^ L.mw = 2 ^ L.ew * (bits / 2 ^ (L.ew + L.mw)) + bits / 2 ^ L.mw % 2 ^ L.ew := by
    rw [Nat.add_comm L.ew, pow_add, ← Nat.div_div_eq_div_mul, Nat.div_add_mod]
  simp only [Nat.shiftRight_eq_div_pow, signBits, Nat.mod_eq_of_lt sign]
  calc bits = 2 ^ L.mw * (bits / 2 ^ L.mw) + bits % 2 ^ L.mw := (Nat.div_add_mod ..).symm
    _ = 2 ^ (L.ew + L.mw) * (bits / 2 ^ (L.ew + L.mw)) + (bits / 2 ^ L.mw % 2 ^ L.ew * 2 ^ L.mw + bits % 2 ^ L.mw) := by
      conv_lhs => rw [split]
      ring
    _ = _ := by
      congr 1
      obtain zero | one : bits / 2 ^ (L.ew + L.mw) = 0 ∨ bits / 2 ^ (L.ew + L.mw) = 1 :=
        Nat.le_one_iff_eq_zero_or_eq_one.mp (Nat.le_of_lt_succ sign)
      · simp [zero]
      · simp [one]

/-- A magnitude whose quantum is its own exponent is not rounded: it is the pattern of its exponent and `m`. -/
theorem roundFloat_exact (L : FloatLayout) (mode : Rnd) (u : Nat) (neg : Bool) {m : Nat} {e : Int} (pos : m ≠ 0)
    (quantum : max ((Nat.log2 m : Int) + e) (1 - L.bias) - L.mw = e) {k : Nat} (ex : e + L.mw + L.bias - 1 = k)
    (finite : k * 2 ^ L.mw + m ≤ maxFinite L) :
    roundFloat L mode u (.fin neg m e) = L.signBits neg + (k * 2 ^ L.mw + m) := by
  simp [roundFloat, FloatLayout.signBits, pos, quantum, toQuantum, ex, Nat.not_lt.mpr finite]

/-- The largest finite pattern is the last before the infinities, or for FP8_E4M3 before the NaN (R45). -/
theorem finite_le_maxFinite (L : FloatLayout) {ex mm : Nat} (hex : ex ≤ 2 ^ L.ew - 1) (hmm : mm < 2 ^ L.mw)
    (top : ex = 2 ^ L.ew - 1 → L.e4m3 = true ∧ mm ≠ 2 ^ L.mw - 1) : ex * 2 ^ L.mw + mm ≤ maxFinite L := by
  rcases Nat.lt_or_eq_of_le hex with below | at'
  · have : (ex + 1) * 2 ^ L.mw ≤ (2 ^ L.ew - 1) * 2 ^ L.mw := Nat.mul_le_mul_right _ below
    rw [Nat.add_mul] at this
    simp only [maxFinite]
    split <;> omega
  · obtain ⟨e4m3, notNaN⟩ := top at'
    simp only [maxFinite, e4m3, at', if_true]
    omega

/-- A subnormal or zero pattern. -/
theorem roundFloat_subnormal (L : FloatLayout) (mode : Rnd) (u : Nat) (neg : Bool) {mm : Nat} (hmm : mm < 2 ^ L.mw)
    (finite : mm ≤ maxFinite L) : roundFloat L mode u (.fin neg mm (1 - L.bias - L.mw)) = L.signBits neg + mm := by
  rcases eq_or_ne mm 0 with rfl | pos
  · simp [roundFloat, FloatLayout.signBits]
  · have log : Nat.log2 mm < L.mw := (Nat.log2_lt pos).mpr hmm
    simpa using roundFloat_exact L mode u neg pos (by omega) (k := 0) (by omega) (by simpa using finite)

/-- A normal pattern. -/
theorem roundFloat_normal (L : FloatLayout) (mode : Rnd) (u : Nat) (neg : Bool) {ex mm : Nat} (pos : ex ≠ 0) (hmm : mm < 2 ^ L.mw)
    (finite : ex * 2 ^ L.mw + mm ≤ maxFinite L) :
    roundFloat L mode u (.fin neg (2 ^ L.mw + mm) (ex - L.bias - L.mw)) = L.signBits neg + (ex * 2 ^ L.mw + mm) := by
  obtain ⟨k, rfl⟩ := Nat.exists_eq_succ_of_ne_zero pos
  have log : Nat.log2 (2 ^ L.mw + mm) = L.mw := by
    rw [Nat.log2_eq_iff (by positivity), pow_succ]
    omega
  have same : k * 2 ^ L.mw + (2 ^ L.mw + mm) = (k + 1) * 2 ^ L.mw + mm := by ring
  rw [← same] at finite ⊢
  exact roundFloat_exact L mode u neg (by positivity) (by rw [log]; omega) (by omega) finite

/-- A pattern that is no NaN is its value rounded: for every layout. -/
theorem roundFloat_decodeFloat (L : FloatLayout) (mode : Rnd) (u : Nat) {bits : Nat} (fits : bits < 2 ^ (1 + L.ew + L.mw))
    (number : decodeFloat L bits ≠ .nan) : roundFloat L mode u (decodeFloat L bits) = bits := by
  have whole := L.bits_eq fits
  have hmm : bits % 2 ^ L.mw < 2 ^ L.mw := Nat.mod_lt _ (by positivity)
  have hex : (bits >>> L.mw) % 2 ^ L.ew < 2 ^ L.ew := Nat.mod_lt _ (by positivity)
  unfold decodeFloat at number ⊢
  generalize ((bits >>> (L.ew + L.mw)) % 2 == 1) = neg at *
  generalize (bits >>> L.mw) % 2 ^ L.ew = ex at *
  generalize bits % 2 ^ L.mw = mm at *
  have finite : (ex = 2 ^ L.ew - 1 → L.e4m3 = true ∧ mm ≠ 2 ^ L.mw - 1) → ex * 2 ^ L.mw + mm ≤ maxFinite L :=
    finite_le_maxFinite L (by omega) hmm
  dsimp only at number ⊢
  split at number
  · exact absurd rfl number
  next notNaN =>
    rw [if_neg notNaN]
    split
    next special =>
      obtain ⟨rfl, e4m3⟩ : ex = 2 ^ L.ew - 1 ∧ L.e4m3 = false := by simpa using special
      rw [if_pos special] at number
      have zero : mm = 0 := by
        by_contra nonzero
        simp [nonzero] at number
      simp [zero, roundFloat, e4m3, whole, FloatLayout.signBits]
    next ordinary =>
      have fin := finite (fun top => by
        have e4m3 : L.e4m3 = true := by simpa [top] using ordinary
        exact ⟨e4m3, by simpa [top, e4m3] using notNaN⟩)
      split
      next sub =>
        obtain rfl : ex = 0 := by simpa using sub
        rw [roundFloat_subnormal L mode u neg hmm (by simpa using fin), whole]
        simp
      next normal => rw [roundFloat_normal L mode u neg (by simpa using normal) hmm fin, ← whole]

/-- Settles O58: a finite pattern's magnitude has its own exponent for quantum, so no rounding takes place; a NaN is canonical by
the first row of the rounding. -/
theorem floatsRoundTrip : Obligations.FloatsRoundTrip := by
  intro L _ mode u bits fits
  exact ⟨roundFloat_decodeFloat L mode u fits, fun nan => by rw [nan, roundFloat]⟩

end Sys2Proof.Machine

namespace Sys2Proof.Machine

/-! Races on one line. -/

/-- What one line of bytes may read as in a race: all of it old or all of it new. -/
theorem pickLines_oneLine {l : List (Nat × Byte)} {x : Nat} (one : linesOf l = [x]) (seed : Nat) : pickLines seed l ∈ [[], l] := by
  have all : ∀ p ∈ l, p.1 / 64 = x := fun p hp => by
    have hx : p.1 / 64 ∈ linesOf l := List.mem_eraseDups.mpr (List.mem_map_of_mem hp)
    simpa [one] using hx
  rcases Nat.mod_two_eq_zero_or_one (Config.free seed) with off | on
  · simp [pickLines, one, off]
  · have every : pickLines seed l = l := by
      simp only [pickLines, one, List.zipIdx_singleton]
      simpa [on] using all
    simp [every]

/-- The outcome `o`, whose tiles write at one place, after a round of a race in which `run` reads `first`, then `later`. -/
def OpOut.rerun (o : OpOut) (s : State) (run : State → Except Err OpOut) (p : Place) (first later : List (Nat × Byte)) : OpOut :=
  { o with tiles := ((run (s.racing first later)).toOption.getD o).tiles.filter (fun t => t.1 == p) }

theorem raceRound_onePlace {s : State} {seed : Nat} {alts : List (Nat × Byte)} {run : State → Except Err OpOut} {o : OpOut} {p : Place}
    (one : (o.tiles.map Prod.fst).eraseDups = [p]) :
    raceRound s seed alts run o =
      o.rerun s run p (pickLines seed alts) (pickLines (seed + (linesOf alts).length) alts) := by
  simp only [raceRound, OpOut.rerun, one, List.zipIdx_singleton, List.flatMap_cons, List.flatMap_nil, List.append_nil,
    Nat.mul_zero, Nat.add_zero]
  cases run (s.racing (pickLines seed alts) (pickLines (seed + (linesOf alts).length) alts)) <;> rfl

/-- Where one line changes while a command with one place runs, there is one round, which reads the line old or new. -/
theorem racedOut_oneLine {s : State} {c : Cmd} {run : State → Except Err OpOut} {o : OpOut} {alts : List (Nat × Byte)} {x : Nat}
    {p : Place} (read : o.writes.filter (fun w => racesAt s c w.1) ++ staleBytes s c = alts) (line : linesOf alts = [x])
    (place : (o.tiles.map Prod.fst).eraseDups = [p]) :
    ∃ first ∈ [[], alts], ∃ later ∈ [[], alts],
      racedOut s c run o = { o.rerun s run p first later with draws := o.draws + 1 + 2 * o.byPlace.length } := by
  subst read
  refine ⟨_, pickLines_oneLine line (s.freeCtr + o.draws + 1), _, pickLines_oneLine line (s.freeCtr + o.draws + 1 + 1), ?_⟩
  simp [racedOut, line, Nat.mod_one, raceRound_onePlace place]

/-! An operator's way from its checks to memory. -/

/-- The state in which an outcome takes effect: a finished command's plan holds its scratch. -/
def planHeld (s : State) (c : Cmd) (o : OpOut) : State :=
  match basePlan s c [] with
  | some p => if o.res = .ok then { s with ms := holdPlan s c p, freeCtr := s.freeCtr + p.scratchPages } else s
  | none => s

theorem runPure_mem {s : State} {id op : Nat} {hub : Bool} {b : State → Cmd → Except Err OpOut} {c : Cmd} {o : OpOut}
    (ready : opReady s id op = some c) (ok : b (s.accessing c) c = .ok o) :
    (runOp s id op hub (pureBody b)).ms.mem = (finishOp (planHeld (s.accessing c) c o) c hub (fun t => b t c) o).ms.mem := by
  cases plan : basePlan (s.accessing c) c [] <;> simp only [runOp, ready, State.during, pureBody, ok, planHeld, plan]

/-! A `MATMUL` whose side-table header (R52) is staged but for its byte 9 in memory, on a page that the entries map and the pool
counts as free. The page goes to the plan's undo copy (R117) and loses that byte with its fill of zeros (R183): the offset
0x110 of the tables becomes 0x10, where the output stands. -/

/-- A unit with the given bytes at their offsets, and zeros. -/
def bytesAt (fs : List (Nat × List Byte)) : Unit64 :=
  fs.foldl (fun u f => u.take f.1 ++ f.2 ++ u.drop (f.1 + f.2.length)) (List.replicate 64 0)

/-- The descriptor of a packed tensor of 1 by `n` elements. -/
def rowUnit (base code n side : Nat) : Unit64 :=
  bytesAt [(0, toLE 6 base), (6, toLE 1 code), (7, [2]), (8, toLE 4 1), (12, toLE 4 n), (32, toLE 4 n), (36, toLE 4 1), (56, toLE 6 side)]

/-- `C = A · B + C` for INT8 A of 1 by 1, INT4_G32 B of 1 by 32 and INT8 C. Staged are the header, entry 0 of its table (5), its
scale (1.0) and A (1); the codes of B are 0. -/
def partStagedCmd : Cmd :=
  { Cmd.plain [bytesAt [(0, [1, 5]), (10, [0x40]), (12, toLE 4 1), (16, toLE 4 32), (20, toLE 4 1), (24, toLE 4 1), (32, [5])],
      rowUnit 0x200300 5 1 0, rowUnit 0x200400 6 32 0x200000, rowUnit 0x20001F 5 32 0,
      bytesAt [(0, [2, 5, 0, 1]), (32, toLE 4 0x300)], rowUnit 0x20001F 5 32 0] [] with
    id := 1, cores := some [0]
    stagedData := [(0x200000, 5), (0x200004, 1), (0x200008, 0x10), (0x20000D, 2), (0x200110, 5), (0x200200, 0x80), (0x200201, 0x3F),
      (0x200300, 1)] }

/-- The command in flight; the page at 0x200000 is mapped writable to page 0, and no page counts as in use. -/
def partStaged : State :=
  { State.reset with
    cmds := [partStagedCmd]
    ms := { MemSys.reset with mem := [(9, 1)], ptes := [⟨0, 0, 0x2000001⟩, ⟨1, 0, 0x2001001⟩, ⟨2, 1, mkPte true false false 0 0 0 1⟩] } }

/-- What its operator gives: every element of C is 5. -/
def partStagedOut : OpOut := ⟨.ok, (List.range 32).map (fun k => ((0, 0, 0), [(0x20001F + k, 5)])), [], 513, none⟩

theorem partStaged_ready : opReady partStaged 1 0x01 = some partStagedCmd := by decide +kernel

theorem partStaged_body : mmBody (partStaged.accessing partStagedCmd) partStagedCmd = .ok partStagedOut := by decide +kernel

theorem partStaged_canWrite : CanWrite (partStaged.accessing partStagedCmd) partStagedOut.writes where
  mapped := by
    have target : ∀ w ∈ partStagedOut.writes, writeTarget (partStaged.accessing partStagedCmd) w.1 = .pa (w.1 - 0x200000) := by
      decide +kernel
    exact fun w hw => ⟨_, target w hw⟩
  lines := rfl
  canonical := show Memory.wf [(9, 1)] = true by decide

theorem partStaged_quiet : Quiet (partStaged.accessing partStagedCmd) partStagedCmd partStagedOut :=
  ⟨by decide +kernel, by decide +kernel⟩

/-- After the fill the tables' span takes in the first byte of C. -/
theorem partStaged_races (s : State) (hs : s = planHeld (partStaged.accessing partStagedCmd) partStagedCmd partStagedOut) :
    partStagedOut.writes.filter (fun w => racesAt s partStagedCmd w.1) ++ staleBytes s partStagedCmd = [(0x20001F, 5)] := by
  subst hs
  decide +kernel

/-- Run again in the race, old or new, the command writes 0 to the last element of C. -/
theorem partStaged_last : memGet (runOp partStaged 1 0x01 false (pureBody mmBody)).ms.mem 0x3E = 0 := by
  obtain ⟨first, hf, later, hl, raced⟩ := racedOut_oneLine (run := fun t => mmBody t partStagedCmd) (p := (0, 0, 0))
    (x := 0x8000) (partStaged_races _ rfl) (by decide) (by decide)
  rw [runPure_mem partStaged_ready partStaged_body]
  simp only [finishOp, raced]
  clear raced
  revert first later
  decide +kernel

/-- Refutes O60 (first clause): a `MATMUL` whose RESULT is OK and whose last byte of C is not the 5 that its operator gives. No
hypothesis says that a mapped page is in use, so the plan's own scratch may take the page of the side-table header; then
the command reads where it writes and runs again in that race. -/
theorem not_operatorResultsReachMemory : ¬ Obligations.OperatorResultsReachMemory := by
  rintro ⟨holds, -⟩
  obtain ⟨t, ran, -, landed, -⟩ := holds (0x01, .matmul, pureBody mmBody) (by simp [bodyRows]) partStaged _ 1 partStagedCmd partStagedOut
    partStaged_ready (congrArg (Prod.mk _) partStaged_body) partStaged_canWrite partStaged_quiet .ok rfl
  obtain rfl : runOp partStaged 1 0x01 false (pureBody mmBody) = t := Host.Outcome.next.inj ran
  have five := landed.written 31 (0x20003E, 5) 0x3E (by decide +kernel) (by decide +kernel) (fun j w later hw => by
    have bound : (partStagedOut.byPlace.flatMap Prod.snd).length = 32 := by decide +kernel
    rw [List.getElem?_eq_none (by omega)] at hw
    cases hw)
  rw [partStaged_last] at five
  exact absurd five (by decide)

end Sys2Proof.Machine

namespace Sys2Proof.Machine

/-! A core's counters (R80, R101). -/

/-- How far the tile on a site has come by the time its counters are read, cleared or frozen: its array and its counters move,
frozen counters stay, and outside the site its LSM alone changes. -/
structure Counts (s : State) (n : Nat) (t : State) : Prop where
  site : t.site n = { s.site n with arr := (t.site n).arr, valid := (t.site n).valid, starve := (t.site n).starve, block := (t.site n).block }
  frozen : (s.site n).freeze = true → (t.site n).valid = (s.site n).valid ∧ (t.site n).starve = (s.site n).starve ∧
    (t.site n).block = (s.site n).block
  frame : t = { s with sites := t.sites, freeCtr := t.freeCtr, ms := { s.ms with lsm := t.ms.lsm, lsmKept := t.ms.lsmKept } }

theorem Counts.refl (s : State) (n : Nat) : Counts s n s := ⟨rfl, fun _ => ⟨rfl, rfl, rfl⟩, rfl⟩

@[simp] theorem Ctr48.bump_zero (c : Ctr48) : c.bump 0 = c := if_pos rfl

theorem setSite_counts {s : State} {n : Nat} {x : Site}
    (site : x = { s.site n with arr := x.arr, valid := x.valid, starve := x.starve, block := x.block })
    (frozen : (s.site n).freeze = true → x.valid = (s.site n).valid ∧ x.starve = (s.site n).starve ∧ x.block = (s.site n).block) :
    Counts s n (s.setSite n x) := by
  have at' : (s.setSite n x).site n = x := (State.site_setSite s n n x).trans (if_pos rfl)
  exact ⟨at'.symm ▸ site, at'.symm ▸ frozen, rfl⟩

theorem slotsEnter_counts (s : State) (n m starve block : Nat) : Counts s n (s.slotsEnter n m starve block) := by
  unfold State.slotsEnter
  split
  · exact Counts.refl s n
  · next c w _ =>
    extract_lets x k u
    split
    · exact Counts.refl s n
    · obtain ⟨site, frozen, -⟩ : Counts s n u := setSite_counts rfl fun frozen => by simp [k, x, frozen]
      exact ⟨site, frozen, rfl⟩

theorem arrProgress_counts (s : State) (n : Nat) : Counts s n (s.arrProgress n) := by
  unfold State.arrProgress
  extract_lets x f m
  split
  · exact Counts.refl s n
  · obtain ⟨site, frozen, frame⟩ := slotsEnter_counts s n m (f 5) (f 6)
    exact ⟨site, frozen, congrArg (fun t : State => { t with freeCtr := s.freeCtr + 65536 }) frame⟩

/-- Without a tile nothing moves. -/
theorem arrProgress_idle {s : State} {n : Nat} (idle : (s.site n).tile = none) : s.arrProgress n = s := by
  simp [State.arrProgress, idle]

/-- A write to the core's own site keeps the frame. -/
theorem Counts.setSite_frame {s t : State} {n : Nat} (h : Counts s n t) (x : Site) : t.setSite n x =
    { s with sites := (t.setSite n x).sites, freeCtr := t.freeCtr, ms := { s.ms with lsm := t.ms.lsm, lsmKept := t.ms.lsmKept } } :=
  congrArg (fun u : State => u.setSite n x) h.frame

/-- A write to the core's own site leaves the others. -/
theorem arrProgress_setSite_others {s : State} {n k : Nat} (x : Site) (other : k ≠ n) : ((s.arrProgress n).setSite n x).site k = s.site k := by
  rw [State.site_setSite, if_neg other, (arrProgress_progresses s n).others k other]

section
variable {s : State} {n : Nat}

theorem exec_coreArrCtrClear_answers (hn : n < 256) (up : answers s (0x0500 + n) = true) : exec (.coreArrCtrClear n) s =
    .next ((s.arrProgress n).setSite n (clearCounters ((s.arrProgress n).site n))) :=
  congrArg Host.Outcome.next (if_pos ⟨hn, up⟩)

theorem exec_coreArrCtrFreeze_answers (hn : n < 256) (up : answers s (0x0500 + n) = true) {b : Bool} : exec (.coreArrCtrFreeze n b) s =
    .next ((s.arrProgress n).setSite n { (s.arrProgress n).site n with freeze := b }) :=
  congrArg Host.Outcome.next (if_pos ⟨hn, up⟩)

theorem exec_coreArrCtrClear_silent (down : answers s (0x0500 + n) = false) : exec (.coreArrCtrClear n) s = .next s :=
  congrArg Host.Outcome.next (if_neg (by simp [down]))

theorem exec_coreArrCtrFreeze_silent (down : answers s (0x0500 + n) = false) {b : Bool} : exec (.coreArrCtrFreeze n b) s = .next s :=
  congrArg Host.Outcome.next (if_neg (by simp [down]))

end

/-! The read latches (R439). -/

/-- A latch that a requester's read of a word takes. -/
def latchFor (req p off : Nat) (l : Latch) : Bool := l.1 == req && l.2.1 == p && l.2.2.1 == off

theorem latchHigh_latches (s : State) (req p off : Nat) (w : Word) : (latchHigh s req p off w).latches =
    (req, p, off + 4, w) :: s.latches.filter (fun l => !latchFor req p (off + 4) l) := rfl

@[simp] theorem liveWord_latches (s : State) (l : List Latch) (p off : Nat) : liveWord { s with latches := l } p off = liveWord s p off := rfl

/-- No low word: the requester reads its latch where it has one, which is used up. -/
theorem readLatched_high {p off : Nat} (high : isLowWord p off = false) (s : State) (req : Nat) : readLatched s req p off =
    (((s.latches.find? (latchFor req p off)).map (·.2.2.2)).getD (liveWord s p off),
      { s with latches := s.latches.filter (fun l => !latchFor req p off l) }) := by
  have found : s.latches.find? (fun l => l.1 == req && l.2.1 == p && l.2.2.1 == off) = s.latches.find? (latchFor req p off) := rfl
  rw [readLatched, high, if_neg Bool.false_ne_true, found]
  cases h : s.latches.find? (latchFor req p off) with
  | some l => rfl
  | none =>
    have all : s.latches.filter (fun l => !latchFor req p off l) = s.latches :=
      List.filter_eq_self.mpr fun l hl => by simpa using List.find?_eq_none.mp h l hl
    simp [all]

theorem find?_latchHigh_same (s : State) (req p off : Nat) (w : Word) :
    (latchHigh s req p off w).latches.find? (latchFor req p (off + 4)) = some (req, p, off + 4, w) := by
  simp [latchHigh_latches, latchFor]

/-- Another requester's latches stay. -/
theorem find?_latchHigh_other {q req : Nat} (other : q ≠ req) (s : State) (p off : Nat) (w : Word) :
    (latchHigh s req p off w).latches.find? (latchFor q p (off + 4)) = s.latches.find? (latchFor q p (off + 4)) := by
  have kept (l : Latch) : (!latchFor req p (off + 4) l && latchFor q p (off + 4) l) = latchFor q p (off + 4) l := by
    by_cases h : l.1 = q <;> simp [latchFor, h, other]
  have head : latchFor q p (off + 4) (req, p, off + 4, w) = false := by simp [latchFor, other.symm]
  rw [latchHigh_latches, List.find?_cons_of_neg (by simp [head]), List.find?_filter]
  simp only [Bool.decide_and, Bool.decide_eq_true, kept]

/-- Once its latch is used up, the requester reads the live word. -/
theorem readLatched_again {p off : Nat} (high : isLowWord p off = false) (s : State) (req : Nat) :
    (readLatched (readLatched s req p off).2 req p off).1 = liveWord s p off := by
  have gone : (s.latches.filter (fun l => !latchFor req p off l)).find? (latchFor req p off) = none := by
    simp [List.find?_eq_none]
  rw [readLatched_high high, readLatched_high high]
  simp [gone]

/-- The state that a read of a page's registers shows: a core's running tile has progressed. -/
def readProgress (s : State) (p : Nat) : State := if isCorePage p then s.arrProgress (p % 256) else s

theorem exec_lowWordRead_low {s : State} {p off : Nat} (page : pageExists p = true) (up : powered s p = true) (inPage : off < 0x1000)
    (aligned : off % 4 = 0) (low : isLowWord p off = true) (req : Nat) : exec (.lowWordRead req p off) s =
      .next (latchHigh (readProgress s p) req p off (liveWord (readProgress s p) p (off + 4))) := by
  have room : ¬ 0xFFF < off := by omega
  show execLowWordRead req p off s = _
  simp [execLowWordRead, readWord, readLatched, readProgress, page, up, room, aligned, low]

/-- Beside the running tile's site and its LSM nothing moves. -/
theorem readProgress_frame (s : State) (p : Nat) : readProgress s p = { s with
    sites := (readProgress s p).sites, freeCtr := (readProgress s p).freeCtr,
    ms := { s.ms with lsm := (readProgress s p).ms.lsm, lsmKept := (readProgress s p).ms.lsmKept } } := by
  by_cases core : isCorePage p
  · rw [readProgress, if_pos core]
    exact (arrProgress_counts s (p % 256)).frame
  · rw [readProgress, if_neg core]

theorem readProgress_latches (s : State) (p : Nat) : (readProgress s p).latches = s.latches := by
  rw [readProgress_frame]

theorem readProgress_withLatches (s : State) (p : Nat) (l : List Latch) : { readProgress s p with latches := l } = { s with
    latches := l, sites := (readProgress s p).sites, freeCtr := (readProgress s p).freeCtr,
    ms := { s.ms with lsm := (readProgress s p).ms.lsm, lsmKept := (readProgress s p).ms.lsmKept } } :=
  congrArg (fun t : State => { t with latches := l }) (readProgress_frame s p)

theorem readProgress_other {p : Nat} (other : isCorePage p = false) (s : State) : readProgress s p = s := by
  simp [readProgress, other]

/-- Settles O53: the counters are cleared or frozen after the tile's progress; a latch stands at the head of its list until its
reader takes it, and no other requester finds it. -/
theorem countersClearFreezeAndReadWhole : Obligations.CountersClearFreezeAndReadWhole := by
  refine ⟨fun s n hn => ⟨fun up => ⟨?_, fun b => ?_⟩, fun down => ⟨?_, fun b => ?_⟩⟩, fun s req p off page up inPage aligned low => ?_⟩
  · have moved := arrProgress_counts s n
    rw [exec_coreArrCtrClear_answers hn up]
    refine Gives.next ⟨?_, fun idle => ?_, fun k other => arrProgress_setSite_others _ other, moved.setSite_frame _⟩
    · rw [State.site_setSite, if_pos rfl, clearCounters, moved.site]
      rfl
    · rw [arrProgress_idle idle, State.site_setSite, if_pos rfl]
      exact ⟨rfl, rfl, rfl⟩
  · have moved := arrProgress_counts s n
    rw [exec_coreArrCtrFreeze_answers hn up]
    refine Gives.next ⟨?_, fun idle => ?_, fun frozen => ?_, fun k other => arrProgress_setSite_others _ other, moved.setSite_frame _⟩
    · rw [State.site_setSite, if_pos rfl, moved.site]
    · rw [arrProgress_idle idle, State.site_setSite, if_pos rfl]
      exact ⟨rfl, rfl, rfl⟩
    · rw [State.site_setSite, if_pos rfl]
      exact moved.frozen frozen
  · exact exec_coreArrCtrClear_silent down
  · exact exec_coreArrCtrFreeze_silent down
  · rw [exec_lowWordRead_low page up inPage aligned low req]
    refine Gives.next ⟨?_, fun other => ?_, fun high u hu => ⟨?_, readLatched_again high u req⟩, fun q other high => ?_⟩
    · exact readProgress_withLatches s p (latchHigh _ req p off _).latches
    · rw [readProgress_other other]
      rfl
    · have found : u.latches.find? (latchFor req p (off + 4)) = some (req, p, off + 4, liveWord (readProgress s p) p (off + 4)) := by
        rw [hu]
        exact find?_latchHigh_same _ _ _ _ _
      rw [readLatched_high high, found]
      rfl
    · rw [readLatched_high high, readLatched_high high, find?_latchHigh_other other, readProgress_latches]
      rfl

end Sys2Proof.Machine

namespace Sys2Proof.Machine

/-! Division of units among cores (R122). -/

/-- The place, among `e` cores, of the core that R122 gives unit `k` of `u`: the last whose share starts at or below `k`. -/
def shareOwner (e u k : Nat) : Nat := ((k + 1) * e - 1) / u

theorem shareAt_le_iff {e u j k : Nat} (he : 0 < e) (hu : 0 < u) : shareAt e u j ≤ k ↔ j ≤ shareOwner e u k := by
  have : 0 < (k + 1) * e := Nat.mul_pos k.succ_pos he
  calc shareAt e u j ≤ k
      _ ↔ j * u < (k + 1) * e := by rw [shareAt, ← Nat.lt_succ_iff, Nat.div_lt_iff_lt_mul he]
      _ ↔ j * u ≤ (k + 1) * e - 1 := by omega
      _ ↔ j ≤ shareOwner e u k := (Nat.le_div_iff_mul_le hu).symm

/-- The shares are disjoint and leave no gap: a unit lies in the share of its owner and in no other. -/
theorem shareAt_bounds_iff {e u j k : Nat} (he : 0 < e) (hu : 0 < u) :
    shareAt e u j ≤ k ∧ k < shareAt e u (j + 1) ↔ j = shareOwner e u k := by
  rw [← Nat.not_le, shareAt_le_iff he hu, shareAt_le_iff he hu]
  omega

theorem shareAt_all {e u : Nat} (he : 0 < e) : shareAt e u e = u := Nat.mul_div_cancel_left u he

theorem shareAt_le_all {e u j : Nat} (hj : j ≤ e) : shareAt e u j ≤ u :=
  Nat.div_le_of_le_mul (Nat.mul_le_mul_right u hj)

theorem shareOwner_lt {e u k : Nat} (he : 0 < e) (hk : k < u) : shareOwner e u k < e := by
  rw [← Nat.not_le, ← shareAt_le_iff he (by omega), shareAt_all he]
  omega

/-! The stretches of a command's bands (R122, R304). -/

/-- What the core in place `j` runs of a band of `n` units that begins at unit `base`. -/
def coreShare (cores : List Nat) (n base : Nat) (j : Fin cores.length) : Run :=
  ⟨cores[j], base + shareAt cores.length n j, base + shareAt cores.length n (j + 1)⟩

/-- A unit of the band lies in a core's stretch exactly when the core is its owner. -/
theorem coreShare_holds_iff {cores : List Nat} {n base u : Nat} (lo : base ≤ u) (hi : u < base + n) (j : Fin cores.length) :
    (coreShare cores n base j).next ≤ u ∧ u < (coreShare cores n base j).stop ↔
      j = shareOwner cores.length n (u - base) := by
  have := j.isLt
  rw [← shareAt_bounds_iff (by omega) (by omega)]
  simp only [coreShare]
  omega

/-- No stretch of a band reaches a unit of a later one. -/
theorem coreShare_stop_le {cores : List Nat} {n base : Nat} (j : Fin cores.length) :
    (coreShare cores n base j).stop ≤ base + n :=
  Nat.add_le_add_left (shareAt_le_all j.isLt) base

/-- The stretches of a list of bands are the non-empty shares of the first band and the stretches of the others. -/
theorem mem_bandRuns_cons {cores t : List Nat} {n base : Nat} {r : Run} : r ∈ bandRuns cores (n :: t) base ↔
    (∃ j, coreShare cores n base j = r ∧ r.next < r.stop) ∨ r ∈ bandRuns cores t (base + n) := by
  simp only [bandRuns, List.mem_append, List.mem_filter, List.mem_map, Prod.exists, List.mem_zipIdx_iff_getElem?,
    decide_eq_true_eq]
  refine or_congr_left ⟨?_, ?_⟩
  · rintro ⟨⟨c, j, at_j, rfl⟩, nonempty⟩
    obtain ⟨hj, rfl⟩ := List.getElem?_eq_some_iff.mp at_j
    exact ⟨⟨j, hj⟩, rfl, nonempty⟩
  · rintro ⟨j, rfl, nonempty⟩
    exact ⟨⟨cores[j], j, List.getElem?_eq_getElem j.isLt, rfl⟩, nonempty⟩

theorem le_next_of_mem_bandRuns {cores bands : List Nat} {base : Nat} {r : Run} (hr : r ∈ bandRuns cores bands base) :
    base ≤ r.next := by
  induction bands generalizing base with
  | nil => cases hr
  | cons n t ih =>
    rcases mem_bandRuns_cons.mp hr with ⟨j, rfl, -⟩ | later
    · exact Nat.le_add_right _ _
    · exact (Nat.le_add_right _ _).trans (ih later)

/-- Among the stretches of bands that begin at unit `base`, exactly one holds unit `u`, and it is a core's. -/
def DealtOnce (cores bands : List Nat) (base u : Nat) : Prop :=
  ∃ r ∈ bandRuns cores bands base, (r.next ≤ u ∧ u < r.stop ∧ r.lcore ∈ cores) ∧
    ∀ q ∈ bandRuns cores bands base, q.next ≤ u → u < q.stop → q = r

/-- A unit of the first band is its owner's alone: later bands begin above it. -/
theorem dealtOnce_first {cores : List Nat} (some_core : cores ≠ []) (t : List Nat) {n base u : Nat} (lo : base ≤ u)
    (hi : u < base + n) : DealtOnce cores (n :: t) base u := by
  obtain ⟨owner, howner⟩ : ∃ j : Fin cores.length, j = shareOwner cores.length n (u - base) :=
    ⟨⟨_, shareOwner_lt (List.length_pos_iff.mpr some_core) (by omega)⟩, rfl⟩
  obtain ⟨next, stop⟩ := (coreShare_holds_iff lo hi owner).mpr howner
  refine ⟨coreShare cores n base owner, mem_bandRuns_cons.mpr (.inl ⟨owner, rfl, by omega⟩),
    ⟨next, stop, List.getElem_mem owner.isLt⟩, fun q hq q_next q_stop => ?_⟩
  rcases mem_bandRuns_cons.mp hq with ⟨j, rfl, -⟩ | later
  · have hj := (coreShare_holds_iff lo hi j).mp ⟨q_next, q_stop⟩
    rw [Fin.ext (hj.trans howner.symm)]
  · have := le_next_of_mem_bandRuns later
    omega

/-- A unit above the first band is dealt as the later bands deal it. -/
theorem DealtOnce.cons {cores t : List Nat} {n base u : Nat} (above : base + n ≤ u)
    (h : DealtOnce cores t (base + n) u) : DealtOnce cores (n :: t) base u := by
  obtain ⟨r, hr, holds, only⟩ := h
  refine ⟨r, mem_bandRuns_cons.mpr (.inr hr), holds, fun q hq next stop => ?_⟩
  rcases mem_bandRuns_cons.mp hq with ⟨j, rfl, -⟩ | later
  · have := coreShare_stop_le (n := n) (base := base) j
    omega
  · exact only q later next stop

theorem bandRuns_dealtOnce {cores : List Nat} (some_core : cores ≠ []) {bands : List Nat} {base u : Nat}
    (lo : base ≤ u) (hi : u < base + bands.sum) : DealtOnce cores bands base u := by
  induction bands generalizing base with
  | nil => simp at hi; omega
  | cons n t ih =>
    rw [List.sum_cons] at hi
    by_cases first : u < base + n
    · exact dealtOnce_first some_core t lo first
    · exact .cons (by omega) (ih (by omega) (by omega))

/-- Settles O9, by induction on the bands: a unit of the first band lies in the share of its owner alone, and the shares of the
bands do not meet. -/
theorem unitsAreDealtExactlyOnce : Obligations.UnitsAreDealtExactlyOnce :=
  fun _ _ some_core _ u total => bandRuns_dealtOnce some_core u.zero_le (by omega)

end Sys2Proof.Machine

namespace Sys2Proof.Machine

/-! A held copy-on-write write of a hub block, on a page whose entry is malformed. -/

/-- An entry of level 2 with `V` and bit 3 and no leaf: bit 3 is `COW` in a leaf (R201) and reserved in a pointer (R202). -/
def cowPointer : Pte := ⟨2, 1, 9⟩

/-- A write of command 1 on the page at 0x200000 that took physical page 16 for its copy. -/
def pointerWrite : Held := ⟨1, 0x200000, true, 0, 0x2000000, [(0x200004, 5)]⟩

/-- Command 1, of the video codec, holds that write; the page is WORK memory of a model, and its entry the malformed one. -/
def pointerHeld : State :=
  { State.reset with
    cmds := [{ Cmd.plain [0x11 :: List.replicate 63 0] [] with id := 1 }]
    models := [⟨1, [⟨0x200000, 0x200000, 1⟩], [], 0, 1, false⟩]
    ms := { MemSys.reset with
      held := [pointerWrite], ptes := [⟨0, 0, 0x2000001⟩, ⟨1, 0, 0x2001001⟩, cowPointer], usedPages := [16] } }

/-- With bit 3 cleared the entry is a pointer to a table of level 3 with no entry, and the retry maps a WORK page in its place. -/
theorem pointerHeld_remapped : Gives (exec (.copyComplete 1 0x200000) pointerHeld)
    (fun t => ∀ q, pteAt t.ms.ptes 2 1 = some q → ptePa q.word ≠ ptePa cowPointer.word) :=
  .next (by decide +kernel)

/-- Refutes O29 (third clause, a count of at most 1): the entry does not keep its page. No hypothesis says that the entry is a
leaf: where it is a pointer made malformed by its bit 3, clearing that bit unmaps the page, and a hub block's retry maps it
anew (R210). -/
theorem not_heldWritesFinish : ¬ Obligations.HeldWritesFinish := by
  rintro ⟨-, -, copies⟩
  obtain ⟨-, -, unshared⟩ := copies pointerHeld 1 0x200000 0x200000 pointerWrite cowPointer (by decide +kernel) (by decide +kernel)
    (by decide) (by decide +kernel) (by decide +kernel) (by decide +kernel) (by decide)
  obtain ⟨t, ran, ⟨q, entry, kept, -⟩, -⟩ := unshared (by decide)
  obtain ⟨u, ran', moved⟩ := pointerHeld_remapped
  cases ran.symm.trans ran'
  exact moved q entry kept

end Sys2Proof.Machine

namespace Sys2Proof.Machine

/-! What a record of an error and a change of a command leave unchanged. -/

/-- A byte elsewhere reads as before a write, whatever the form of the memory. -/
theorem memGet_memSet_ne (m : List Host.Cell) {a x : Nat} (b : Byte) (h : x ≠ a) : memGet (memSet m a b) x = memGet m x := by
  induction m with
  | nil =>
    unfold memSet
    split <;> simp [memGet, h.symm]
  | cons c t ih =>
    unfold memSet
    split
    · split <;> simp [memGet, h.symm]
    · split
      · next here => split <;> simp [memGet, here, h.symm]
      · simp [memGet, ih]

@[simp] theorem logNote_part (s : State) (p t d n : Nat) : (s.logNote p t d).part n = s.part n := rfl
@[simp] theorem addMargin_part (s : State) (k i v n : Nat) : (s.addMargin k i v).part n = s.part n := rfl

@[simp] theorem setEventOnce_part (s : State) (p k c n : Nat) : (s.setEventOnce p k c).part n = s.part n := by
  obtain ⟨h, a, e⟩ := setEventOnce_frame s p k c
  rw [e]
  rfl

/-- From `s` to `t` only the error records change: free numbers, page headers, ATTN and the logs. -/
def OnlyLogged (s t : State) : Prop := ∃ n h a l, t = { s with freeCtr := n, hdrs := h, attn := a, logs := l }

theorem OnlyLogged.refl (s : State) : OnlyLogged s s := ⟨_, _, _, _, rfl⟩

theorem OnlyLogged.trans {s t u : State} : OnlyLogged s t → OnlyLogged t u → OnlyLogged s u := by
  rintro ⟨_, _, _, _, rfl⟩ ⟨_, _, _, _, rfl⟩
  exact ⟨_, _, _, _, rfl⟩

theorem logError_onlyLogged (s : State) (p c t r d : Nat) : OnlyLogged s (s.logError p c t r d) := ⟨_, _, _, _, logError_frame ..⟩
theorem setEvent_onlyLogged (s : State) (p k : Nat) : OnlyLogged s (s.setEvent p k) := ⟨_, _, _, _, setEvent_frame ..⟩
theorem captureFault_onlyLogged (s : State) (c : Cmd) (e : Err) : OnlyLogged s (captureFault s c e) := ⟨_, _, _, _, captureFault_frame ..⟩

theorem OnlyLogged.ms {s t : State} : OnlyLogged s t → t.ms = s.ms := by
  rintro ⟨_, _, _, _, rfl⟩
  rfl

theorem OnlyLogged.conns {s t : State} : OnlyLogged s t → t.conns = s.conns := by
  rintro ⟨_, _, _, _, rfl⟩
  rfl

theorem OnlyLogged.cmd? {s t : State} : OnlyLogged s t → ∀ n, t.cmd? n = s.cmd? n := by
  rintro ⟨_, _, _, _, rfl⟩ _
  rfl

theorem OnlyLogged.withFree {s t : State} (h : OnlyLogged s t) (n : Nat) : OnlyLogged s { t with freeCtr := n } :=
  h.trans ⟨_, _, _, _, rfl⟩

theorem OnlyLogged.foldl {α : Type} {f : State → α → State} (step : ∀ s x, OnlyLogged s (f s x)) (l : List α) (s : State) :
    OnlyLogged s (l.foldl f s) := by
  induction l generalizing s with
  | nil => exact .refl s
  | cons x t ih => exact (step s x).trans (ih _)

/-- A change that keeps the commands' numbers is seen on the command it names, and on no other. -/
theorem cmd?_updCmd (s : State) (n m : Nat) {f : Cmd → Cmd} (keep : ∀ d, (f d).id = d.id) :
    (s.updCmd n f).cmd? m = if m = n then (s.cmd? m).map f else s.cmd? m := by
  have numbers : (fun c : Cmd => c.id == m) ∘ (fun d => if d.id == n then f d else d) = fun c => c.id == m := by
    funext d
    by_cases h : d.id = n <;> simp [h, keep]
  rw [State.cmd?, State.updCmd, List.find?_map, numbers, ← State.cmd?]
  cases found : s.cmd? m with
  | none => simp
  | some d =>
    obtain rfl : d.id = m := by simpa using List.find?_some found
    by_cases h : d.id = n <;> simp [h]

section
variable {s u : State} {n : Nat} {f : Cmd → Cmd} (logged : OnlyLogged s u) (keep : ∀ d, (f d).id = d.id)
include logged keep

theorem OnlyLogged.cmd?_updCmd_same {c : Cmd} (found : s.cmd? n = some c) : (u.updCmd n f).cmd? n = some (f c) := by
  rw [cmd?_updCmd u n n keep, if_pos rfl, logged.cmd?, found]
  rfl

theorem OnlyLogged.cmd?_updCmd_ne {m : Nat} (other : m ≠ n) : (u.updCmd n f).cmd? m = s.cmd? m := by
  rw [cmd?_updCmd u n m keep, if_neg other, logged.cmd?]

end

/-! Staging copies (R213). -/

section
variable {s : State} {id : Nat} {c : Cmd}

/-- Whether a command's staging copy waits for sleeping memory or for a free buffer. -/
def stagingWaits (s : State) (c : Cmd) : Prop :=
  asleep s ((spilledRead s c).map (fun t => (t.2.va, t.2.bytes))) = true ∨ bufferFree s c = false

theorem exec_stagingCopyComplete_waits (found : s.cmd? id = some c) (wait : stagingWaits s c) :
    exec (.stagingCopyComplete id) s = .next s := by
  simp only [exec, execStagingCopyComplete, found]
  rw [if_pos]
  rcases wait with h | h <;> simp [h]

variable (found : s.cmd? id = some c) (needs : c.needsStaging = true) (unstaged : c.staged = false) (running : c.result = none)
  (ready : ¬ stagingWaits s c)
include found needs unstaged running ready

/-- A copy that ends well stages the command; a transfer error that the second copy mends is recorded. -/
theorem exec_stagingCopyComplete_good (good : stagingFault s c = none) (mended : ∀ i, copyFails s c ≠ some (i, true)) :
    ∃ u, OnlyLogged s u ∧ (copyFails s c = none → u = { s with freeCtr := u.freeCtr }) ∧
      exec (.stagingCopyComplete id) s = .next (u.updCmd id (fun d => { d with staged := true, stagedData := stagingCopy s c })) := by
  simp only [exec, execStagingCopyComplete, found]
  rw [if_neg (by simpa [needs, unstaged, running, stagingWaits, and_comm] using ready), good]
  rcases fails : copyFails s c with - | ⟨i, - | -⟩
  · exact ⟨_, (OnlyLogged.refl s).withFree _, fun _ => rfl, rfl⟩
  · exact ⟨_, (logError_onlyLogged ..).withFree _, nofun, rfl⟩
  · exact absurd fails (mended i)

/-- A copy that fails ends the command. -/
theorem exec_stagingCopyComplete_bad (bad : stagingFault s c ≠ none ∨ ∃ i, copyFails s c = some (i, true)) :
    ∃ u r, OnlyLogged s u ∧ exec (.stagingCopyComplete id) s = .next (u.updCmd id (Cmd.close r)) := by
  simp only [exec, execStagingCopyComplete, found]
  rw [if_neg (by simpa [needs, unstaged, running, stagingWaits, and_comm] using ready)]
  rcases fault : stagingFault s c with - | ⟨i, - | e⟩
  · obtain ⟨i, fails⟩ := bad.resolve_left (absurd fault)
    rw [fails]
    exact ⟨_, _, ((logError_onlyLogged ..).trans (logError_onlyLogged ..)).withFree _, rfl⟩
  · exact ⟨_, _, (logError_onlyLogged ..).trans (logError_onlyLogged ..), rfl⟩
  · exact ⟨_, _, captureFault_onlyLogged .., rfl⟩

end

/-! A background zero-fill (R183). -/

theorem exec_poolPageZeroFill_waits {s : State} {page : Nat} (asleep : paAsleep s (page * 0x200000) = true) :
    exec (.poolPageZeroFill page) s = .next s := by
  simp [exec, execPoolPageZeroFill, asleep]

theorem exec_poolPageZeroFill_fills {s : State} {page : Nat} (dirty : s.ms.zeroing.contains page = true)
    (awake : paAsleep s (page * 0x200000) = false) : exec (.poolPageZeroFill page) s =
      .next { s with ms := zeroFill { s.ms with zeroing := s.ms.zeroing.filter (· != page) } (page * 0x200000) 0x200000 } := by
  simp only [exec, execPoolPageZeroFill]
  rw [if_pos (by simp [dirty, awake, -List.contains_eq_mem])]

/-! A scrub pass (R195, R196, R399, R459). -/

/-- Bytes stored at places `x + k` are seen there only. -/
theorem putByte_foldl (x : Nat) (b : Nat → Byte) (ks : List Nat) (ms : MemSys) :
    (ks.foldl (fun ms k => ms.putByte (x + k) (b k)) ms).badLines = ms.badLines ∧
    ∀ a, (∀ k ∈ ks, a ≠ x + k) → memGet (ks.foldl (fun ms k => ms.putByte (x + k) (b k)) ms).mem a = memGet ms.mem a := by
  induction ks generalizing ms with
  | nil => exact ⟨rfl, fun _ _ => rfl⟩
  | cons k ks ih =>
    obtain ⟨lines, bytes⟩ := ih (ms.putByte (x + k) (b k))
    exact ⟨lines, fun a ha => (bytes a fun j hj => ha j (.tail k hj)).trans (memGet_memSet_ne _ _ (ha k (.head ks)))⟩

/-- A pass over partition `p` that meets lines `l` leaves other partitions, the die marks and what it does not list here; a byte
changes only where a line is beyond the code's bounds. -/
structure Scrubbed (p : Nat) (l : List LineErr) (s t : State) : Prop where
  others : ∀ q, q ≠ p → t.part q = s.part q
  dieFailed : (t.part p).dieFailed = (s.part p).dieFailed
  badLines : t.ms.badLines = s.ms.badLines
  wear : t.wear = s.wear
  dev : t.dev = s.dev
  bytes : ∀ a, (∀ e ∈ l, correctable (s.part p).dieFailed e = false → a / 64 ≠ e.line / 64) → memGet t.ms.mem a = memGet s.ms.mem a

namespace Scrubbed
variable {p : Nat} {l : List LineErr} {s t u : State}

theorem refl (p : Nat) (l : List LineErr) (s : State) : Scrubbed p l s s := ⟨fun _ _ => rfl, rfl, rfl, rfl, rfl, fun _ _ => rfl⟩

theorem trans (h : Scrubbed p l s t) (k : Scrubbed p l t u) : Scrubbed p l s u where
  others q hq := (k.others q hq).trans (h.others q hq)
  dieFailed := k.dieFailed.trans h.dieFailed
  badLines := k.badLines.trans h.badLines
  wear := k.wear.trans h.wear
  dev := k.dev.trans h.dev
  bytes a ha := (k.bytes a (h.dieFailed ▸ ha)).trans (h.bytes a ha)

theorem cons (e : LineErr) (h : Scrubbed p l s t) : Scrubbed p (e :: l) s t where
  __ := h
  bytes a ha := h.bytes a fun d hd => ha d (.tail e hd)

theorem of_onlyLogged (l : List LineErr) (h : OnlyLogged s t) : Scrubbed p l s t := by
  obtain ⟨_, _, _, _, rfl⟩ := h
  exact ⟨fun _ _ => rfl, rfl, rfl, rfl, rfl, fun _ _ => rfl⟩

theorem of_setPart {x : Partition} (marks : x.dieFailed = (s.part p).dieFailed) : Scrubbed p l s (s.setPart p x) where
  others q hq := by simp [hq]
  dieFailed := by simp [marks]
  badLines := rfl
  wear := rfl
  dev := rfl
  bytes _ _ := rfl

/-- A corrected line is counted; no byte changes. -/
theorem of_correctLine (e : LineErr) : Scrubbed p l s (correctLine s p e) :=
  (of_onlyLogged l (logError_onlyLogged ..)).trans (.of_setPart rfl)

/-- A line whose errors are not detected gets other data. -/
theorem of_miscorrect {e : LineErr} (mem : e ∈ l) (beyond : correctable (s.part p).dieFailed e = false) :
    Scrubbed p l s (miscorrect s (e.line / 64 * 64)) where
  others _ _ := rfl
  dieFailed := rfl
  badLines := (putByte_foldl _ _ _ _).1
  wear := rfl
  dev := rfl
  bytes a ha := (putByte_foldl _ _ _ _).2 a fun k hk => by
    have := ha e mem beyond
    have := List.mem_range.mp hk
    omega

end Scrubbed

theorem scrubLines_scrubbed (p : Nat) (l : List LineErr) (s : State) : Scrubbed p l s (scrubLines p l s).1 := by
  induction l generalizing s with
  | nil => exact .refl p [] s
  | cons e t ih =>
    unfold scrubLines
    extract_lets line s0 r
    split
    · exact (ih s).cons e
    · split
      · exact (Scrubbed.of_correctLine e).trans ((ih _).cons e)
      · next beyond =>
        have drawn : Scrubbed p (e :: t) s s0 := .of_onlyLogged _ ((OnlyLogged.refl s).withFree _)
        split
        · exact drawn.trans ((ih s0).cons e)
        · have corrected : Scrubbed p (e :: t) s (correctLine s0 p e) := drawn.trans (.of_correctLine e)
          exact corrected.trans ((Scrubbed.of_miscorrect (.head t) (by rw [corrected.dieFailed]; simpa using beyond)).trans ((ih _).cons e))

/-- The uncorrectable lines of a pass: those of the partition that were known, those it detects and those reported. -/
def scrubFound (s : State) (p : Nat) (l : List LineErr) (reported : List Nat) : List Nat :=
  let mine (l : List Nat) : List Nat := (l.map (fun a => a / 64 * 64)).filter (fun a => decide (a < 0x1000000000) && paPartition a == p)
  (mine s.ms.badLines ++ (scrubLines p l s).2 ++ mine reported).eraseDups

/-- The state after a pass has read every line and recorded each uncorrectable one. -/
def scrubRead (s : State) (p : Nat) (l : List LineErr) (reported : List Nat) : State :=
  (scrubFound s p l reported).foldl (fun s a => (s.logError (0x0600 + p) 1 0x05 0 a).setEvent (0x0600 + p) 1) (scrubLines p l s).1

/-- The state after a whole pass. -/
def scrubPassed (s : State) (p : Nat) (l : List LineErr) (reported : List Nat) (margin : Nat) : State :=
  let t := scrubRead s p l reported
  let lines := t.ms.badLines ++ (scrubFound s p l reported).filter (fun a => !t.ms.badLines.contains a)
  (({ t with ms := { t.ms with badLines := lines } } : State).addMargin 1 p margin).setPart p
    { t.part p with scrubPercent := 100, lastPassH := 0, marginPct := margin }

section
variable {s : State} {p : Nat} {l : List LineErr} {reported : List Nat} {margin : Nat}

theorem exec_scrub_off (off : (s.stkIsl (p / 64)).state ≠ .on) : exec (.scrub p l reported margin) s = .next s := by
  simp [exec, execScrub, off]

theorem exec_scrub_on (hp : p < 256) (on : (s.stkIsl (p / 64)).state = .on) :
    exec (.scrub p l reported margin) s = .next (scrubPassed s p l reported margin) := by
  simp only [exec, execScrub]
  rw [if_neg (by simp [on, hp])]
  rfl

theorem mem_scrubFound {a : Nat} (ha : a ∈ reported) (stack : a / 64 * 64 < 0x1000000000) (here : paPartition (a / 64 * 64) = p) :
    a / 64 * 64 ∈ scrubFound s p l reported := by
  have mine : a / 64 * 64 ∈ (reported.map (fun a => a / 64 * 64)).filter (fun a => decide (a < 0x1000000000) && paPartition a == p) :=
    List.mem_filter.mpr ⟨List.mem_map_of_mem ha, by simp [stack, here]⟩
  exact List.mem_eraseDups.mpr (List.mem_append_right _ mine)

theorem scrubRead_scrubbed : Scrubbed p l s (scrubRead s p l reported) :=
  (scrubLines_scrubbed p l s).trans (.of_onlyLogged l (.foldl (fun _ _ => (logError_onlyLogged ..).trans (setEvent_onlyLogged ..)) _ _))

end

/-! A die marked failed (R195, R394, R459). -/

theorem exec_dieMarkedFailed_few {s : State} {p d : Nat} (few : dieErrors s p d ≤ 1024) : exec (.dieMarkedFailed p d) s = .next s := by
  simp [exec, execDieMarkedFailed, few]

theorem exec_dieMarkedFailed_many {s : State} {p d : Nat} (hp : p < 256) (hd : d < 10) (many : 1024 < dieErrors s p d) :
    exec (.dieMarkedFailed p d) s = .next
      (((s.setPart p { s.part p with dieFailed := (s.part p).dieFailed ||| BitVec.ofNat 10 (2 ^ d) }).logNote (0x0600 + p) 0x06
        (p + d * 256)).setEventOnce (0x0600 + p) 0 attnERRLOG) := by
  simp only [exec, execDieMarkedFailed]
  rw [if_neg (by omega)]

/-- Settles O31, row by row: a staging copy waits, ends well or ends its command; the fill and the pass leave what their own
operations leave; the marking is one onset. -/
theorem memoryHousekeeping : Obligations.MemoryHousekeeping := by
  refine ⟨?staging, ?fill, ?scrub, fun s p d few => exec_dieMarkedFailed_few few, ?die⟩
  case staging =>
    intro s id c found needs unstaged running
    refine ⟨exec_stagingCopyComplete_waits found, fun awake buffer => ?_⟩
    have ready : ¬ stagingWaits s c := by simp [stagingWaits, awake, buffer]
    constructor
    · intro good mended
      obtain ⟨u, logged, plain, ran⟩ := exec_stagingCopyComplete_good found needs unstaged running ready good mended
      refine ⟨_, ran, logged.cmd?_updCmd_same (fun _ => by rfl) found, fun n hn => logged.cmd?_updCmd_ne (fun _ => by rfl) hn, logged.ms,
        fun never => ?_⟩
      rw [plain never]
      rfl
    · intro bad
      obtain ⟨u, r, logged, ran⟩ := exec_stagingCopyComplete_bad found needs unstaged running ready bad
      exact ⟨_, ran, ⟨_, r, logged.cmd?_updCmd_same (fun _ => by rfl) found, rfl⟩, logged.ms, logged.conns⟩
  case fill =>
    intro s page dirty
    refine ⟨exec_poolPageZeroFill_waits, fun awake => ⟨_, exec_poolPageZeroFill_fills dirty awake, ?_, fun a lo hi => ?_, fun a out => ?_,
      fun l => ?_, rfl⟩⟩
    · simp [zeroFill]
    · exact (memGet_memClear ..).trans (if_pos ⟨lo, hi⟩)
    · exact (memGet_memClear ..).trans (if_neg out)
    · simp only [zeroFill, List.mem_filter, decide_eq_true_eq]
      exact and_congr_right fun _ => by omega
  case scrub =>
    intro s p margin n bad hp
    refine ⟨exec_scrub_off, fun on => ⟨_, exec_scrub_on hp on, ?_⟩⟩
    have read : Scrubbed p n s (scrubRead s p n bad) := scrubRead_scrubbed
    refine ⟨?_, ?_, ?_, ?_, fun q hq => ?_, fun a ha stack here => ?_, fun a ha => ?_, ?_, read.bytes⟩
    · simp [scrubPassed]
    · simp [scrubPassed]
    · simp [scrubPassed]
    · simpa [scrubPassed] using read.dieFailed
    · rw [scrubPassed, State.part_setPart, if_neg hq]
      exact read.others q hq
    · simp [scrubPassed, mem_scrubFound ha stack here, em]
    · simp [scrubPassed, read.badLines, ha]
    · simp [scrubPassed, State.addMargin, read.wear, read.dev]
  case die =>
    intro s p d hp hd many codes
    refine ⟨_, exec_dieMarkedFailed_many hp hd many, ?_, fun q hq => ?_, ?_, ?_⟩
    · rw [setEventOnce_part, logNote_part, State.part_setPart, if_pos rfl]
      simp only [BitVec.getLsbD_or, BitVec.getLsbD_ofNat, Nat.testBit_two_pow_self, hd, decide_true, Bool.and_self, Bool.or_true]
    · simp [hq]
    · exact setEventOnce_count _ _ _ (by simp [codes, attnERRLOG])
    · simp

end Sys2Proof.Machine

namespace Sys2Proof.Machine

/-! The staging copy in a plan's prediction (R214). -/

/-- A ceiling is the least multiple at or above: it reaches `a` and exceeds it by less than one divisor. -/
theorem cdiv_bounds (a : Nat) {b : Nat} (pos : 0 < b) : a ≤ b * cdiv a b ∧ b * cdiv a b < a + b := by
  have whole : b * cdiv a b + (a + b - 1) % b = a + b - 1 := Nat.div_add_mod ..
  have rest : (a + b - 1) % b < b := Nat.mod_lt _ pos
  omega

theorem withSpill_predCycles (p : Plan) {b : Nat} (reads : b ≠ 0) :
    (withSpill p b).predCycles = max p.predCycles (cdiv (b * 14) 5460) := by
  simp [withSpill, reads]

theorem planOf_of_basePlan {s : State} {c : Cmd} {kept : List (Nat × Nat)} {p : Plan} (base : basePlan s c kept = some p) :
    planOf s c kept = some (withSpill p (spilledBytesRead s c)) := by
  simp [planOf, base]

/-- Settles O11: the prediction's second term is the ceiling of 14 b over 5460. The lemmas above hold for every list `kept`; the
statement quantifies over lists of numbers, each taken as a pair of equal numbers. -/
theorem spilledReadsPredictTheirStaging : Obligations.SpilledReadsPredictTheirStaging := by
  intro s c kept p base reads
  obtain ⟨reached, least⟩ := cdiv_bounds (spilledBytesRead s c * 14) (b := 5460) (by decide)
  exact ⟨_, planOf_of_basePlan base, _, _, rfl, by omega, by omega, withSpill_predCycles p reads⟩

end Sys2Proof.Machine

namespace Sys2Proof.Machine

/-! Walks (R203, R204, R206). -/

theorem mem_evictInto (free ways : Nat) (mine : List Pte) (p : Pte) : p ∈ evictInto free ways mine p := by
  simp only [evictInto]
  split
  · exact List.mem_cons_self
  · exact List.mem_cons_self

theorem mem_tlbFill (free n : Nat) (l : List Pte) (p : Pte) : p ∈ tlbFill free n l p := by
  unfold tlbFill
  split
  · exact mem_evictInto ..
  · exact List.mem_append_left _ (mem_evictInto ..)

theorem mem_fillTlb_same (free : Nat) (ms : MemSys) (n : Nat) (p : Pte) : p ∈ (alFind n (fillTlb free ms n p).tlbs).getD [] := by
  simp [fillTlb, alFind_alSet, mem_tlbFill]

theorem fillTlb_ne (free : Nat) (ms : MemSys) {n k : Nat} (p : Pte) (other : k ≠ n) :
    alFind k (fillTlb free ms n p).tlbs = alFind k ms.tlbs := by
  simp [fillTlb, alFind_alSet, other]

@[simp] theorem fillWalkCache_ptes (free : Nat) (ms : MemSys) (va : Nat) : (fillWalkCache free ms va).ptes = ms.ptes := rfl

theorem logError_last (s : State) (p c t r d : Nat) : ((s.logError p c t r d).hdr p).last = captureWord c t d := by
  rw [logError_hdr_same]
  rfl

theorem logError_uncorrected (s : State) (p t r d : Nat) :
    ((s.logError p 1 t r d).hdr p).uncorrected = satInc16 (s.hdr p).uncorrected := by
  rw [logError_hdr_same]
  rfl

/-- The state after a walk's way down: the pointers met are in the walk cache (R204), and the counter of free numbers advances. -/
def walked (s : State) (va : Nat) : State :=
  { s with freeCtr := s.freeCtr + 2, ms := fillWalkCache (Config.free s.freeCtr) s.ms va }

/-- The state after a walk that ended on the leaf `p`. -/
def walkFilled (s : State) (tlb va : Nat) (p : Pte) : State :=
  { walked s va with ms := fillTlb (Config.free ((walked s va).freeCtr + 1)) (walked s va).ms tlb p }

theorem exec_walkComplete_down {s : State} {tlb : Nat} (va : Nat) (w : Bool) (down : tlbUp s tlb = false ∨ tlbUp s 16 = false) :
    exec (.walkComplete tlb va w) s = .next s := by
  simp [exec, execWalkComplete, down]

section
variable {s : State} {tlb va : Nat} {w : Bool} {p : Pte} (real : tlb ≤ 16) (up : tlbUp s tlb = true) (hub : tlbUp s 16 = true)
include real up hub

/-- None of the reasons for which a walk does nothing holds. -/
theorem walk_runs : ¬ (16 < tlb ∨ tlbUp s tlb = false ∨ tlbUp s 16 = false) := by
  simp [up, hub, real]

theorem exec_walkComplete_fills (leaf : leafOf s.ms.ptes va = some p) (form : pteMalformed p = false)
    (permits : w = false ∨ pteW p.word = true) : exec (.walkComplete tlb va w) s = .next (walkFilled s tlb va p) := by
  have permitted : (w && !pteW p.word) = false := by simpa [← Bool.not_eq_true, imp_iff_not_or] using permits
  simp [exec, execWalkComplete, walk_runs real up hub, walked, walkFilled, leaf, form, permitted]

theorem exec_walkComplete_work {m : Model} {r : Range} (unmapped : leafOf s.ms.ptes va = none)
    (range : rangeOf s.models va = some (m, r)) (work : r.kind = 1) : exec (.walkComplete tlb va w) s = .next (walked s va) := by
  simp [exec, execWalkComplete, walk_runs real up hub, walked, unmapped, range, work]

theorem exec_walkComplete_malformed (leaf : leafOf s.ms.ptes va = some p) (form : pteMalformed p = true) :
    exec (.walkComplete tlb va w) s =
      .next ((walked s va).logError (tlbPage tlb) 1 0x14 Res.translationFault.code va) := by
  simp [exec, execWalkComplete, walk_runs real up hub, walked, leaf, form]

theorem exec_walkComplete_missing (unmapped : leafOf s.ms.ptes va = none)
    (outside : ∀ m r, rangeOf s.models va = some (m, r) → r.kind ≠ 1) : exec (.walkComplete tlb va w) s =
      .next ((walked s va).logError (tlbPage tlb) 1 0x14 Res.translationFault.code va) := by
  cases range : rangeOf s.models va with
  | none => simp [exec, execWalkComplete, walk_runs real up hub, walked, unmapped, range]
  | some x => simp [exec, execWalkComplete, walk_runs real up hub, walked, unmapped, range, outside x.1 x.2 range]

theorem exec_walkComplete_protected (leaf : leafOf s.ms.ptes va = some p) (form : pteMalformed p = false)
    (readOnly : pteW p.word = false) : exec (.walkComplete tlb va true) s =
      .next ((walkFilled s tlb va p).logError (tlbPage tlb) 1 0x15 Res.writeProtected.code va) := by
  simp [exec, execWalkComplete, walk_runs real up hub, walked, walkFilled, leaf, form, readOnly]

end

/-- A translation fault after the way down leaves the memory system but for the walk cache, and is captured and counted. -/
theorem walked_faults (s : State) (va page r : Nat) :
    ((walked s va).logError page 1 0x14 r va).ms = { s.ms with walkCache := ((walked s va).logError page 1 0x14 r va).ms.walkCache } ∧
    (((walked s va).logError page 1 0x14 r va).hdr page).last = captureWord 1 0x14 va ∧
    (((walked s va).logError page 1 0x14 r va).hdr page).uncorrected = satInc16 (s.hdr page).uncorrected :=
  ⟨by rw [logError_ms]; rfl, logError_last .., logError_uncorrected ..⟩

/-- Settles O30, by what the descent ends on. -/
theorem walksFillOrFault : Obligations.WalksFillOrFault := by
  refine fun s tlb va w real => ⟨exec_walkComplete_down va w, fun up hub => ⟨?fills, ?work, ?faults, ?guarded⟩⟩
  case fills =>
    intro p leaf form permits
    exact ⟨_, exec_walkComplete_fills real up hub leaf form permits, mem_fillTlb_same .., fun n other => fillTlb_ne _ _ _ other, rfl⟩
  case work =>
    rintro unmapped ⟨m, r, range, work⟩
    exact ⟨_, exec_walkComplete_work real up hub unmapped range work, rfl⟩
  case faults =>
    rintro (⟨p, leaf, form⟩ | ⟨unmapped, outside⟩)
    · exact ⟨_, exec_walkComplete_malformed real up hub leaf form, walked_faults ..⟩
    · exact ⟨_, exec_walkComplete_missing real up hub unmapped outside, walked_faults ..⟩
  case guarded =>
    rintro p leaf form rfl readOnly
    refine ⟨_, exec_walkComplete_protected real up hub leaf form readOnly, fun a => ?_, ?_, logError_last ..⟩
    · rw [logError_ms]
      rfl
    · rw [logError_ms]
      rfl

end Sys2Proof.Machine

namespace Sys2Proof.Machine

/-! Sums over GF(2) of numbers made of fields. -/

/-- Fields side by side add field by field. -/
theorem add_two_pow_mul_xor (k : Nat) {a b : Nat} (c d : Nat) (ha : a < 2 ^ k) (hb : b < 2 ^ k) :
    (a + 2 ^ k * c) ^^^ (b + 2 ^ k * d) = (a ^^^ b) + 2 ^ k * (c ^^^ d) := by
  have low : ((a + 2 ^ k * c) ^^^ (b + 2 ^ k * d)) % 2 ^ k = a ^^^ b := by
    simp [Nat.xor_mod_two_pow, Nat.mod_eq_of_lt ha, Nat.mod_eq_of_lt hb]
  have high : ((a + 2 ^ k * c) ^^^ (b + 2 ^ k * d)) / 2 ^ k = c ^^^ d := by
    simp [Nat.xor_div_two_pow, Nat.add_mul_div_left, Nat.div_eq_of_lt ha, Nat.div_eq_of_lt hb]
  rw [← low, ← high, Nat.mod_add_div]

theorem two_mul_xor (u v : Nat) : 2 * (u ^^^ v) = 2 * u ^^^ 2 * v := by
  simpa using (add_two_pow_mul_xor 1 (a := 0) (b := 0) u v (by decide) (by decide)).symm

/-- A number is its lowest bit beside the bits above. -/
theorem lowBit_xor_double (v : Nat) : v % 2 ^^^ 2 * (v / 2) = v := by
  have split := add_two_pow_mul_xor 1 (a := v % 2) (b := 0) 0 (v / 2) (by omega) (by decide)
  simpa [Nat.mod_add_div] using split

/-! Maps over GF(2), as lists of columns (R241, R243). -/

/-- `f` adds over GF(2) on the numbers of `n` bits. -/
def GfAdditive (n : Nat) (f : Nat → Nat) : Prop :=
  ∀ u v, u < 2 ^ n → v < 2 ^ n → f (u ^^^ v) = f u ^^^ f v

/-- `f` is a linear map of `n` bits into `n` bits. -/
structure GfLinear (n : Nat) (f : Nat → Nat) : Prop where
  lt : ∀ v, v < 2 ^ n → f v < 2 ^ n
  additive : GfAdditive n f

/-- The columns of `f`: its images of the `n` single bits. -/
def gfColumns (n : Nat) (f : Nat → Nat) : List Nat := (List.range n).map (fun k => f (2 ^ k))

theorem GfAdditive.map_zero {n : Nat} {f : Nat → Nat} (add : GfAdditive n f) : f 0 = 0 := by
  simpa using add 0 0 (by positivity) (by positivity)

theorem GfAdditive.comp_double {n : Nat} {f : Nat → Nat} (add : GfAdditive (n + 1) f) : GfAdditive n (fun v => f (2 * v)) := by
  intro u v hu hv
  simpa [two_mul_xor] using add (2 * u) (2 * v) (by omega) (by omega)

/-- The columns of a map on one bit more: the image of the lowest bit, then those of the map of the bits above. -/
theorem gfColumns_succ (n : Nat) (f : Nat → Nat) : gfColumns (n + 1) f = f 1 :: gfColumns n (fun v => f (2 * v)) := by
  simp [gfColumns, List.range_succ_eq_map, pow_succ, mul_comm, Function.comp_def]

/-- A linear map is the sum of its columns at the set bits. -/
theorem gfApply_gfColumns {n v : Nat} {f : Nat → Nat} (add : GfAdditive n f) (hv : v < 2 ^ n) :
    gfApply (gfColumns n f) v = f v := by
  induction n generalizing f v with
  | zero =>
    obtain rfl : v = 0 := by simpa using hv
    exact add.map_zero.symm
  | succ n ih =>
    have low : (if v % 2 = 1 then f 1 else 0) = f (v % 2) := by
      rcases Nat.mod_two_eq_zero_or_one v with bit | bit <;> simp [bit, add.map_zero]
    have split := add (v % 2) (2 * (v / 2)) (by omega) (by omega)
    rw [lowBit_xor_double] at split
    rw [gfColumns_succ, gfApply, low, ih add.comp_double (by omega), split]

theorem GfLinear.twice {n : Nat} {f : Nat → Nat} (lin : GfLinear n f) : GfLinear n f^[2] where
  lt v hv := lin.lt _ (lin.lt v hv)
  additive u v hu hv := by
    simp only [Function.iterate_succ, Function.iterate_zero, Function.comp_apply, id]
    rw [lin.additive u v hu hv, lin.additive _ _ (lin.lt u hu) (lin.lt v hv)]

/-- Squaring a matrix gives the columns of the map applied twice. -/
theorem gfColumns_square {n : Nat} {f : Nat → Nat} (lin : GfLinear n f) :
    (gfColumns n f).map (gfApply (gfColumns n f)) = gfColumns n f^[2] := by
  rw [gfColumns, List.map_map, gfColumns]
  refine List.map_congr_left fun k hk => ?_
  have hk : (2 : Nat) ^ k < 2 ^ n := Nat.pow_lt_pow_right (by decide) (List.mem_range.mp hk)
  exact gfApply_gfColumns lin.additive (lin.lt _ hk)

/-- Square and multiply is iteration, for every linear map and every exponent of as many bits as there are rounds. -/
theorem gfPower_gfColumns {n : Nat} {f : Nat → Nat} (lin : GfLinear n f) {rounds d v : Nat} (hd : d < 2 ^ rounds)
    (hv : v < 2 ^ n) : gfPower rounds (gfColumns n f) d v = f^[d] v := by
  induction rounds generalizing f d v with
  | zero =>
    obtain rfl : d = 0 := by simpa using hd
    rfl
  | succ rounds ih =>
    by_cases zero : d = 0
    · simp [gfPower, zero]
    have low : (if d % 2 = 1 then gfApply (gfColumns n f) v else v) = f^[d % 2] v := by
      rcases Nat.mod_two_eq_zero_or_one d with bit | bit <;> simp [bit, gfApply_gfColumns lin.additive hv]
    have lowLt : f^[d % 2] v < 2 ^ n := by
      rcases Nat.mod_two_eq_zero_or_one d with bit | bit <;> simp [bit, hv, lin.lt v hv]
    calc gfPower (rounds + 1) (gfColumns n f) d v
        = gfPower rounds (gfColumns n f^[2]) (d / 2) (f^[d % 2] v) := by
          rw [gfPower, if_neg zero, gfColumns_square lin, low]
      _ = (f^[2])^[d / 2] (f^[d % 2] v) := ih lin.twice (by omega) lowLt
      _ = f^[d] v := by
          rw [← Function.iterate_mul, ← Function.iterate_add_apply, Nat.div_add_mod]

/-! The generator's step is linear (R239). -/

/-- The four words of a state stand side by side. -/
theorem xsPack_eq_nested (x y z w : Nat) : xsPack x y z w = x + 2 ^ 32 * (y + 2 ^ 32 * (z + 2 ^ 32 * w)) := by
  rw [xsPack]
  ring

theorem xsPack_lt {x y z w : Nat} (hx : x < 2 ^ 32) (hy : y < 2 ^ 32) (hz : z < 2 ^ 32) (hw : w < 2 ^ 32) :
    xsPack x y z w < 2 ^ 128 := by
  rw [xsPack]
  omega

theorem xsPack_xor {x y z x' y' z' : Nat} (w w' : Nat) (hx : x < 2 ^ 32) (hy : y < 2 ^ 32) (hz : z < 2 ^ 32)
    (hx' : x' < 2 ^ 32) (hy' : y' < 2 ^ 32) (hz' : z' < 2 ^ 32) :
    xsPack x y z w ^^^ xsPack x' y' z' w' = xsPack (x ^^^ x') (y ^^^ y') (z ^^^ z') (w ^^^ w') := by
  simp only [xsPack_eq_nested, add_two_pow_mul_xor 32 _ _ hx hx', add_two_pow_mul_xor 32 _ _ hy hy',
    add_two_pow_mul_xor 32 _ _ hz hz']

theorem m32_lt (v : Nat) : m32 v < 2 ^ 32 := Nat.mod_lt _ (by decide)

theorem m32_xor (u v : Nat) : m32 (u ^^^ v) = m32 u ^^^ m32 v := Nat.xor_mod_two_pow

/-- What R239 mixes into the new word from the oldest one. -/
def xsMix (x : Nat) : Nat := x ^^^ m32 (x <<< 11)

/-- The new word of a step, from the oldest word and the newest (R239). -/
def xsFresh (x w : Nat) : Nat := w ^^^ (w >>> 19) ^^^ xsMix x ^^^ (xsMix x >>> 8)

/-- A step drops the oldest word, moves the others down and puts the new one on top. -/
theorem xsStep_eq_xsPack (st : Nat) :
    xsStep st = xsPack (m32 (st >>> 32)) (m32 (st >>> 64)) (st >>> 96) (xsFresh (m32 st) (st >>> 96)) := rfl

theorem xsMix_lt {x : Nat} (hx : x < 2 ^ 32) : xsMix x < 2 ^ 32 := Nat.xor_lt_two_pow hx (m32_lt _)

theorem xsMix_xor (x y : Nat) : xsMix (x ^^^ y) = xsMix x ^^^ xsMix y := by
  simp only [xsMix, Nat.shiftLeft_xor_distrib, m32_xor]
  ac_rfl

theorem xsFresh_lt {x w : Nat} (hx : x < 2 ^ 32) (hw : w < 2 ^ 32) : xsFresh x w < 2 ^ 32 :=
  have shifted {v : Nat} (n : Nat) (hv : v < 2 ^ 32) : v >>> n < 2 ^ 32 := (Nat.shiftRight_le v n).trans_lt hv
  Nat.xor_lt_two_pow (Nat.xor_lt_two_pow (Nat.xor_lt_two_pow hw (shifted 19 hw)) (xsMix_lt hx)) (shifted 8 (xsMix_lt hx))

theorem xsFresh_xor (x y w v : Nat) : xsFresh (x ^^^ y) (w ^^^ v) = xsFresh x w ^^^ xsFresh y v := by
  simp only [xsFresh, xsMix_xor, Nat.shiftRight_xor_distrib]
  ac_rfl

theorem topWord_lt {st : Nat} (h : st < 2 ^ 128) : st >>> 96 < 2 ^ 32 := by
  rw [Nat.shiftRight_eq_div_pow]
  omega

theorem xsStep_linear : GfLinear 128 xsStep where
  lt st h := by
    rw [xsStep_eq_xsPack]
    exact xsPack_lt (m32_lt _) (m32_lt _) (topWord_lt h) (xsFresh_lt (m32_lt _) (topWord_lt h))
  additive u v hu hv := by
    simp only [xsStep_eq_xsPack, Nat.shiftRight_xor_distrib, m32_xor, xsFresh_xor]
    exact (xsPack_xor _ _ (m32_lt _) (m32_lt _) (topWord_lt hu) (m32_lt _) (m32_lt _) (topWord_lt hv)).symm

theorem xsMatrix_eq_gfColumns : xsMatrix = gfColumns 128 xsStep := rfl

/-- Settles O10: the step is linear, its matrix holds its columns, and square and multiply iterates every linear map. -/
theorem jumpEqualsSteps : Obligations.JumpEqualsSteps := by
  unfold Obligations.JumpEqualsSteps
  intro d st hd hst
  rw [xsJump, xsMatrix_eq_gfColumns]
  exact gfPower_gfColumns xsStep_linear hd hst

end Sys2Proof.Machine

namespace Sys2Proof.Machine

/-! Contexts and connections by their numbers. -/

theorem ctx?_num {s : State} {n : Nat} {x : Ctx} (h : s.ctx? n = some x) : x.num = n := by
  simpa using List.find?_some h

theorem conn?_id {s : State} {n : Nat} {c : Conn} (h : s.conn? n = some c) : c.id = n := by
  simpa using List.find?_some h

/-- Changing the entries of one key leaves the keys, and so the search, as they were. -/
theorem find?_map_keyed {α : Type} (key : α → Nat) (l : List α) (n m : Nat) {f : α → α} (keep : ∀ d, key d = n → key (f d) = n) :
    (l.map (fun d => if key d == n then f d else d)).find? (fun d => key d == m) =
      if m = n then (l.find? (fun d => key d == m)).map f else l.find? (fun d => key d == m) := by
  have keys : (fun d => key d == m) ∘ (fun d => if key d == n then f d else d) = fun d => key d == m := by
    funext d
    by_cases h : key d = n <;> simp [h, keep]
  rw [List.find?_map, keys]
  cases found : l.find? (fun d => key d == m) with
  | none => simp
  | some d =>
    obtain rfl : key d = m := by simpa using List.find?_some found
    by_cases h : key d = n <;> simp [h]

theorem ctx?_setCtx (s : State) (x : Ctx) (m : Nat) :
    (s.setCtx x).ctx? m = if m = x.num then (s.ctx? m).map (fun _ => x) else s.ctx? m :=
  find?_map_keyed Ctx.num s.ctxs x.num m (fun _ _ => rfl)

theorem ctx?_dropCtx (s : State) (n m : Nat) : (s.dropCtx n).ctx? m = if m = n then none else s.ctx? m := by
  simp only [State.ctx?, State.dropCtx, List.find?_filter]
  by_cases h : m = n
  · rw [if_pos h, List.find?_eq_none]
    grind
  · rw [if_neg h]
    congr 1
    grind

theorem conn?_updConn (s : State) (n m : Nat) {f : Conn → Conn} (keep : ∀ d, d.id = n → (f d).id = n) :
    (s.updConn n f).conn? m = if m = n then (s.conn? m).map f else s.conn? m :=
  find?_map_keyed Conn.id s.conns n m keep

theorem ctx?_setCtx_same {s : State} {x y : Ctx} {n : Nat} (found : s.ctx? n = some x) (num : y.num = n) :
    (s.setCtx y).ctx? n = some y := by
  rw [ctx?_setCtx, if_pos num.symm, found]
  rfl

theorem ctx?_setCtx_ne (s : State) {y : Ctx} {m : Nat} (other : m ≠ y.num) : (s.setCtx y).ctx? m = s.ctx? m := by
  rw [ctx?_setCtx, if_neg other]

theorem conn?_updConn_same {s : State} {c : Conn} {n : Nat} {f : Conn → Conn} (found : s.conn? n = some c)
    (keep : ∀ d, d.id = n → (f d).id = n) : (s.updConn n f).conn? n = some (f c) := by
  rw [conn?_updConn s n n keep, if_pos rfl, found]
  rfl

theorem conn?_updConn_ne (s : State) {n m : Nat} {f : Conn → Conn} (other : m ≠ n) (keep : ∀ d, d.id = n → (f d).id = n) :
    (s.updConn n f).conn? m = s.conn? m := by
  rw [conn?_updConn s n m keep, if_neg other]

/-! Completions of a Parvon that does not mirror. -/

/-- Records were queued for a connection or written: its rings and counts but for `SEQ` stay. -/
structure Conn.Recorded (c d : Conn) : Prop where
  frame : d = { c with nextSeq := d.nextSeq, outq := d.outq, held := d.held }
  seq : c.nextSeq ≤ d.nextSeq

theorem Conn.Recorded.refl (c : Conn) : c.Recorded c := ⟨rfl, le_rfl⟩

theorem Conn.Recorded.trans {c d e : Conn} (h : c.Recorded d) (k : d.Recorded e) : c.Recorded e :=
  ⟨by rw [k.frame, h.frame], h.seq.trans k.seq⟩

/-- From `s` to `t` contexts completed, closed, pinned or took instances, and nothing else changed: no context is new, what
left the block left it, every connection only wrote records, and a graph's current version stands. -/
structure Completed (s t : State) : Prop where
  frame : t = { s with ctxs := t.ctxs, conns := t.conns, ms := t.ms, graphs := t.graphs, holds := t.holds, egress := t.egress }
  mem : t.ms.mem = s.ms.mem
  out : ∀ e ∈ s.egress, e ∈ t.egress
  noCtx : ∀ n, s.ctx? n = none → t.ctx? n = none
  noConn : ∀ n, s.conn? n = none → t.conn? n = none
  conn : ∀ n c, s.conn? n = some c → ∃ d, t.conn? n = some d ∧ c.Recorded d
  graph : ∀ id g, s.graph? id = some g → g.deleted = false → ∃ h, t.graph? id = some h ∧ h.deleted = false ∧ h.cur = g.cur

namespace Completed

variable {s t u : State}

theorem refl (s : State) : Completed s s :=
  ⟨rfl, rfl, fun _ h => h, fun _ h => h, fun _ h => h, fun _ c h => ⟨c, h, .refl c⟩, fun _ g h k => ⟨g, h, k, rfl⟩⟩

theorem trans (h : Completed s t) (k : Completed t u) : Completed s u where
  frame := by rw [k.frame, h.frame]
  mem := k.mem.trans h.mem
  out e he := k.out e (h.out e he)
  noCtx n hn := k.noCtx n (h.noCtx n hn)
  noConn n hn := k.noConn n (h.noConn n hn)
  conn n c hc := by
    obtain ⟨d, hd, r⟩ := h.conn n c hc
    obtain ⟨e, he, q⟩ := k.conn n d hd
    exact ⟨e, he, r.trans q⟩
  graph id g hg live := by
    obtain ⟨g1, h1, live1, cur1⟩ := h.graph id g hg live
    obtain ⟨g2, h2, live2, cur2⟩ := k.graph id g1 h1 live1
    exact ⟨g2, h2, live2, cur2.trans cur1⟩

theorem attn (h : Completed s t) : t.attn = s.attn := by rw [h.frame]
theorem models (h : Completed s t) : t.models = s.models := by rw [h.frame]
theorem cmds (h : Completed s t) : t.cmds = s.cmds := by rw [h.frame]
theorem tlc (h : Completed s t) : t.tlc = s.tlc := by rw [h.frame]
theorem mirroring (h : Completed s t) : mirroring t = mirroring s := by rw [Machine.mirroring, h.tlc, Machine.mirroring]
theorem recordBytes (h : Completed s t) (seq : Nat) (o : OutRec) : recordBytes t seq o = recordBytes s seq o := by
  simp only [Machine.recordBytes, State.status, h.attn]

/-- Changes of contexts alone, none of them new. -/
theorem of_ctxs {l : List Ctx} (old : ∀ n, s.ctx? n = none → State.ctx? { s with ctxs := l } n = none) :
    Completed s { s with ctxs := l } :=
  ⟨rfl, rfl, fun _ h => h, old, fun _ h => h, fun _ c h => ⟨c, h, .refl c⟩, fun _ g h k => ⟨g, h, k, rfl⟩⟩

/-- Changes of the memory system that leave its bytes. -/
theorem of_ms {ms : MemSys} (bytes : ms.mem = s.ms.mem) : Completed s { s with ms := ms } :=
  ⟨rfl, bytes, fun _ h => h, fun _ h => h, fun _ h => h, fun _ c h => ⟨c, h, .refl c⟩, fun _ g h k => ⟨g, h, k, rfl⟩⟩

theorem of_holds (l : List Hold) : Completed s { s with holds := l } :=
  ⟨rfl, rfl, fun _ h => h, fun _ h => h, fun _ h => h, fun _ c h => ⟨c, h, .refl c⟩, fun _ g h k => ⟨g, h, k, rfl⟩⟩

theorem foldl {α : Type} {f : State → α → State} (step : ∀ s x, Machine.mirroring s = false → Completed s (f s x)) (l : List α) (s : State)
    (alone : Machine.mirroring s = false) : Completed s (l.foldl f s) := by
  induction l generalizing s with
  | nil => exact .refl s
  | cons x t ih =>
    have first := step s x alone
    exact first.trans (ih _ (first.mirroring.trans alone))

end Completed

theorem setCtx_completed (s : State) (x : Ctx) : Completed s (s.setCtx x) :=
  .of_ctxs (fun n h => by
    change (s.setCtx x).ctx? n = none
    rw [ctx?_setCtx]
    split <;> simp [h])

theorem dropCtx_completed (s : State) (n : Nat) : Completed s (s.dropCtx n) :=
  .of_ctxs (fun m h => by
    change (s.dropCtx n).ctx? m = none
    rw [ctx?_dropCtx]
    split <;> simp [h])

theorem emit_completed (s : State) (e : Egress) : Completed s (s.emit e) :=
  ⟨rfl, rfl, fun _ h => List.mem_append_left _ h, fun _ h => h, fun _ h => h, fun _ c h => ⟨c, h, .refl c⟩, fun _ g h k => ⟨g, h, k, rfl⟩⟩

theorem updConn_completed {s : State} {n : Nat} {f : Conn → Conn} (keep : ∀ d, d.id = n → (f d).id = n)
    (rec : ∀ d, s.conn? n = some d → d.Recorded (f d)) : Completed s (s.updConn n f) := by
  refine ⟨rfl, rfl, fun _ h => h, fun _ h => h, fun m h => ?_, fun m c h => ?_, fun _ g h k => ⟨g, h, k, rfl⟩⟩
  · rw [conn?_updConn s n m keep, h]
    simp
  · rw [conn?_updConn s n m keep, h]
    by_cases at_n : m = n
    · subst at_n
      exact ⟨f c, if_pos rfl, rec c h⟩
    · exact ⟨c, if_neg at_n, .refl c⟩

/-- The first entry found stays the first where what is filtered out is not it. -/
theorem find?_filter_of_find? {α : Type} {p q : α → Bool} {a : α} : ∀ {l : List α}, l.find? q = some a → p a = true → (l.filter p).find? q = some a
  | x :: l, found, keep => by
      by_cases hq : q x = true
      · obtain rfl : x = a := by simpa [hq] using found
        simp [keep, hq]
      · have later : l.find? q = some a := by simpa [hq] using found
        by_cases hp : p x = true
        · simp [hp, hq, find?_filter_of_find? later keep]
        · simp [hp, find?_filter_of_find? later keep]

theorem graph?_retire {s : State} {id : Nat} {g : Graph} (found : s.graph? id = some g) (live : g.deleted = false) :
    (retire s).graph? id = some { g with versions := g.versions.filter (isLive s g) } := by
  have kept : (s.graphs.map (fun g => { g with versions := g.versions.filter (isLive s g) })).find? (fun g => g.id == id) =
      some { g with versions := g.versions.filter (isLive s g) } := by
    rw [List.find?_map, show (fun g : Graph => g.id == id) ∘ _ = fun g => g.id == id from rfl, show s.graphs.find? _ = some g from found]
    rfl
  exact find?_filter_of_find? kept (by simp [live])

theorem settlePins_completed (s : State) : Completed s (settlePins s) := by
  refine ⟨rfl, setPte_foldl_mem _ _ _, fun _ h => h, fun _ h => h, fun _ h => h, fun _ c h => ⟨c, h, .refl c⟩, fun id g found live => ?_⟩
  exact ⟨_, graph?_retire found live, live, rfl⟩

theorem repin_completed (s : State) : Completed s (repin s) := .of_ms (setPte_foldl_mem _ _ _)

theorem dropPages_mem (l : List Nat) (ms : MemSys) : (l.foldl dropPage ms).mem = ms.mem := by
  induction l generalizing ms with
  | nil => rfl
  | cons p t ih => exact (ih _).trans (dropPage_mem ms p)

theorem closeCtx_completed (s : State) (n : Nat) : Completed s (closeCtx s n) := by
  have dropped := dropCtx_completed s n
  have freed : Completed (s.dropCtx n) { s.dropCtx n with ms := dropScratch s.ms (keptKey n) } := .of_ms (dropPages_mem _ _)
  exact ((dropped.trans freed).trans (.of_holds _)).trans (settlePins_completed _)

theorem ctx?_closeCtx (s : State) (n m : Nat) : (closeCtx s n).ctx? m = if m = n then none else s.ctx? m := ctx?_dropCtx s n m

theorem sendRecord_completed (s : State) (c : Conn) (h : HeldRec) : Completed s (sendRecord s c h) := by
  unfold sendRecord
  extract_lets s1 s2
  have h2 : Completed s s2 := by
    simp only [s2]
    split
    · exact (emit_completed s _).trans (emit_completed _ _)
    · exact emit_completed s _
  split
  · exact h2.trans (closeCtx_completed s2 _)
  · exact h2

/-- Alone, a record is numbered and written, or held for a connection that no client has reattached. -/
theorem writeOne_completed {s : State} (alone : mirroring s = false) {c : Conn} (found : s.conn? c.id = some c) (o : OutRec) :
    Completed s (writeOne s c o) := by
  unfold writeOne
  extract_lets seq h keep s1 closed ring s2
  have h1 : Completed s s1 := updConn_completed (fun _ h => h) (fun d hd => by
    obtain rfl : c = d := Option.some.inj (found.symm.trans hd)
    exact ⟨rfl, Nat.le_succ _⟩)
  simp only [alone, Bool.false_and, Bool.false_eq_true, if_false]
  split
  · exact h1.trans (sendRecord_completed s1 c h)
  · split
    · exact h1.trans (closeCtx_completed s1 _)
    · exact h1

theorem drainLoop_completed : ∀ (n conn : Nat) {s : State}, mirroring s = false → Completed s (drainLoop n conn s)
  | 0, _, s, _ => .refl s
  | n + 1, conn, s, alone => by
      unfold drainLoop
      split
      · exact .refl s
      · next c found =>
        obtain rfl := conn?_id found
        split
        · exact .refl s
        · split
          · have first := writeOne_completed alone found ‹OutRec›
            exact first.trans (drainLoop_completed n _ (first.mirroring.trans alone))
          · exact .refl s

theorem enqueue_completed {s : State} (alone : mirroring s = false) (conn : Nat) (o : OutRec) : Completed s (enqueue s conn o) := by
  have queued : Completed s (s.updConn conn (fun c => { c with outq := c.outq ++ [o] })) :=
    updConn_completed (fun _ h => h) (fun _ _ => ⟨rfl, le_rfl⟩)
  exact queued.trans (drainLoop_completed _ conn alone)

theorem complete_completed {s : State} (alone : mirroring s = false) (x : Ctx) (r : Res) : Completed s (complete s x r) := by
  unfold complete
  split
  · exact closeCtx_completed s _
  · extract_lets start stop o
    exact (setCtx_completed s _).trans (enqueue_completed (s := s.setCtx _) alone _ o)

theorem takeInstance_completed (s : State) (n : Nat) : Completed s (takeInstance s n) := by
  unfold takeInstance
  split
  · exact .refl s
  · split
    · exact .refl s
    · split
      · exact .refl s
      · exact setCtx_completed s _

theorem pinCtx_completed {s : State} (alone : mirroring s = false) (n : Nat) : Completed s (pinCtx s n) := by
  unfold pinCtx
  split
  · exact .refl s
  · split
    · exact .refl s
    · split
      · exact complete_completed alone _ _
      · exact (setCtx_completed s _).trans (repin_completed _)

theorem admitCtx_completed {s : State} (alone : mirroring s = false) (n : Nat) : Completed s (admitCtx s n) :=
  (pinCtx_completed alone n).trans (takeInstance_completed _ n)

theorem endHold_completed {s : State} (alone : mirroring s = false) (n : Nat) : Completed s (endHold s n) :=
  (Completed.of_holds _).trans (.foldl (fun _ n h => pinCtx_completed h n) _ _ alone)

/-! A record that is written at once. -/

theorem record_mem_sendRecord (s : State) (c : Conn) (h : HeldRec) :
    Egress.record c.id (recordVa c h.seq) h.bytes ∈ (sendRecord s c h).egress := by
  unfold sendRecord
  extract_lets s1 s2
  have h1 : Egress.record c.id (recordVa c h.seq) h.bytes ∈ s1.egress := List.mem_append_right _ (List.mem_singleton_self _)
  have h2 : Egress.record c.id (recordVa c h.seq) h.bytes ∈ s2.egress := by
    simp only [s2]
    split
    · exact (emit_completed s1 _).out _ h1
    · exact h1
  split
  · exact (closeCtx_completed s2 _).out _ h2
  · exact h2

@[simp] theorem sendRecord_conns (s : State) (c : Conn) (h : HeldRec) : (sendRecord s c h).conns = s.conns := by
  unfold sendRecord
  cases h.notify <;> cases h.ctx <;> rfl

theorem sendRecord_ctxs (s : State) (c : Conn) {h : HeldRec} (bare : h.ctx = none) : (sendRecord s c h).ctxs = s.ctxs := by
  unfold sendRecord
  rw [bare]
  cases h.notify <;> rfl

theorem ctx?_sendRecord (s : State) (c : Conn) {h : HeldRec} {n : Nat} (closes : h.ctx = some n) : (sendRecord s c h).ctx? n = none := by
  unfold sendRecord
  rw [closes]
  exact (ctx?_closeCtx _ n n).trans (if_pos rfl)

/-- Connection `n` is `c`, attached, with nothing waiting and room for a record; no twin is awaited. -/
structure RecordReady (s : State) (n : Nat) (c : Conn) : Prop where
  conn : s.conn? n = some c
  attached : c.attached = true
  idle : c.outq = []
  room : c.nextSeq - 1 - c.cqHead < c.cqRecords
  alone : mirroring s = false

/-- Record `o` was the next of connection `n`, and its context is closed. -/
structure RecordWritten (s t : State) (n : Nat) (c : Conn) (o : OutRec) : Prop where
  sent : Egress.record n (recordVa c c.nextSeq) (recordBytes s c.nextSeq o) ∈ t.egress
  conn : t.conn? n = some { c with nextSeq := c.nextSeq + 1 }
  bare : o.ctx = none → t.ctxs = s.ctxs
  closed : ∀ k, o.ctx = some k → t.ctx? k = none

theorem drainLoop_one {s : State} {n : Nat} {c : Conn} {o : OutRec} (found : s.conn? n = some c) (queue : c.outq = [o])
    (room : c.nextSeq - 1 - c.cqHead < c.cqRecords) : drainLoop 1 n s = writeOne s c o := by
  simp only [drainLoop, found, queue, if_pos room]

theorem writeOne_attached {s : State} {c : Conn} (alone : mirroring s = false) (attached : c.attached = true) (o : OutRec) :
    writeOne s c o = sendRecord (s.updConn c.id (fun d => { d with nextSeq := c.nextSeq + 1, outq := d.outq.drop 1 })) c
      ⟨c.nextSeq, recordBytes s c.nextSeq o, o.notify, o.ctx⟩ := by
  simp [writeOne, alone, attached]

/-- Queuing the one record of a connection that is ready is to number it and send it. -/
theorem enqueue_ready {s : State} {n : Nat} {c : Conn} (ready : RecordReady s n c) (o : OutRec) : ∃ q : State,
    enqueue s n o = sendRecord q { c with outq := [o] } ⟨c.nextSeq, recordBytes s c.nextSeq o, o.notify, o.ctx⟩ ∧
      q = { s with conns := q.conns } ∧ q.conn? n = some { c with nextSeq := c.nextSeq + 1 } := by
  obtain ⟨found, attached, idle, room, alone⟩ := ready
  obtain rfl := conn?_id found
  have queued : (s.updConn c.id (fun d => { d with outq := d.outq ++ [o] })).conn? c.id = some { c with outq := [o] } := by
    refine (conn?_updConn_same found ?_).trans ?_
    · exact fun _ h => h
    · rw [idle, List.nil_append]
  refine ⟨(s.updConn c.id (fun d => { d with outq := d.outq ++ [o] })).updConn c.id
    (fun d => { d with nextSeq := c.nextSeq + 1, outq := d.outq.drop 1 }), ?_, rfl, ?_⟩
  · rw [enqueue, drain, queued]
    refine (drainLoop_one queued rfl room).trans (writeOne_attached ?_ attached o)
    exact alone
  · refine (conn?_updConn_same queued ?_).trans ?_
    · exact fun _ h => h
    · rw [List.drop_one, List.tail_cons, ← idle]

theorem enqueue_written {s : State} {n : Nat} {c : Conn} (ready : RecordReady s n c) (o : OutRec) :
    RecordWritten s (enqueue s n o) n c o := by
  obtain ⟨q, sent, frame, conn⟩ := enqueue_ready ready o
  have id := conn?_id ready.conn
  rw [sent]
  refine ⟨?_, ?_, fun bare => ?_, fun k closes => ctx?_sendRecord q _ closes⟩
  · rw [← id]
    exact record_mem_sendRecord q { c with outq := [o] } _
  · rw [← conn, State.conn?, sendRecord_conns, State.conn?]
  · rw [sendRecord_ctxs q _ bare, frame]

theorem CanComplete.ready {s : State} {x : Ctx} {c : Conn} (can : CanComplete s x c) : RecordReady s x.conn c :=
  ⟨can.conn, can.attached, can.idle, can.room, can.alone⟩

/-- A request that can complete does so at once, whatever has been noted in its context. -/
theorem complete_recordSent {s : State} {x y : Ctx} {c : Conn} (can : CanComplete s x c) (r : Res) (num : y.num = x.num := by rfl)
    (conn : y.conn = x.conn := by rfl) (req : y.reqId = x.reqId := by rfl) (typ : y.typ = x.typ := by rfl) :
    RecordSent (complete s y r) x c r := by
  obtain ⟨found, attached, idle, room, alone⟩ := can
  have some_conn : ¬ (s.conn? y.conn).isNone = true := by simp [conn, found]
  rw [complete, if_neg some_conn]
  extract_lets start stop o
  have ready : RecordReady (s.setCtx { y with state := .closing, issuing := false, toRead := [], reads := [] }) y.conn c :=
    ⟨conn ▸ found, attached, idle, room, alone⟩
  obtain ⟨sent, next, -, closed⟩ := enqueue_written ready o
  refine ⟨⟨o, req, typ, rfl, ?_⟩, ?_, ?_⟩
  · rw [((setCtx_completed s _).trans (enqueue_completed (s := s.setCtx _) alone _ o)).recordBytes, conn?_id found, ← conn]
    exact sent
  · exact closed _ (congrArg some num)
  · exact ⟨_, (congrArg (State.conn? _) conn.symm).trans next, Nat.lt_succ_self c.nextSeq⟩

theorem RecordSent.mono {t u : State} {x : Ctx} {c : Conn} {r : Res} (h : RecordSent t x c r) (k : Completed t u) : RecordSent u x c r := by
  obtain ⟨⟨o, req, typ, res, sent⟩, closed, d, conn, later⟩ := h
  obtain ⟨e, he, q⟩ := k.conn _ d conn
  exact ⟨⟨o, req, typ, res, by rw [k.recordBytes]; exact k.out _ sent⟩, k.noCtx _ closed, e, he, later.trans_le q.seq⟩

end Sys2Proof.Machine

namespace Sys2Proof.Machine

/-! Rows that wait for the twin (R364), on a Parvon that does not mirror. -/

/-- Alone, a gated row is its local action. -/
theorem exec_gated_alone {i : Instr} {s : State} (row : isGatedRow i = true) (alone : mirroring s = false) :
    exec i s = .next (localAction i s) := by
  unfold isGatedRow at row
  split at row
  case h_16 => cases row
  all_goals exact congrArg Host.Outcome.next (gated_alone _ _ _ s alone)

theorem exec_gated_gives {i : Instr} {s : State} {P : State → Prop} (row : isGatedRow i = true) (alone : mirroring s = false)
    (h : P (localAction i s)) : Gives (exec i s) P := ⟨_, exec_gated_alone row alone, h⟩

/-! Doorbells (R266, R267). -/

/-- `SQ_TAIL` and its count of ignored values after a write. -/
def Conn.tailAfter (c : Conn) : Option Nat → Nat × Nat
  | some v => if v < c.sqTail ∨ c.head + c.sqSlots < v then (c.sqTail, c.ignoredTail + 1) else (v, c.ignoredTail)
  | none => (c.sqTail, c.ignoredTail)

/-- `CQ_HEAD` and its count of ignored values after a write. -/
def Conn.headAfter (c : Conn) : Option Nat → Nat × Nat
  | some v => if v < c.cqHead ∨ c.lastWritten < v then (c.cqHead, c.ignoredHead + 1) else (v, c.ignoredHead)
  | none => (c.cqHead, c.ignoredHead)

/-- The connection after a doorbell write: its slots first, then the two counts. -/
def Conn.rung (c : Conn) (slots : List (Nat × Unit64)) (t h : Option Nat) : Conn :=
  { c with ring := slots.foldl (fun r w => alSet (w.1 % c.sqSlots) (slice w.2 0 64) r) c.ring
           sqTail := (c.tailAfter t).1, ignoredTail := (c.tailAfter t).2
           cqHead := (c.headAfter h).1, ignoredHead := (c.headAfter h).2 }

section
variable (c : Conn) {v : Nat}

theorem Conn.tailAfter_inside (lo : c.sqTail ≤ v) (hi : v ≤ c.head + c.sqSlots) : c.tailAfter (some v) = (v, c.ignoredTail) :=
  if_neg (by omega)

theorem Conn.tailAfter_outside (out : v < c.sqTail ∨ c.head + c.sqSlots < v) : c.tailAfter (some v) = (c.sqTail, c.ignoredTail + 1) :=
  if_pos out

theorem Conn.headAfter_inside (lo : c.cqHead ≤ v) (hi : v ≤ c.lastWritten) : c.headAfter (some v) = (v, c.ignoredHead) :=
  if_neg (by omega)

theorem Conn.headAfter_outside (out : v < c.cqHead ∨ c.lastWritten < v) : c.headAfter (some v) = (c.cqHead, c.ignoredHead + 1) :=
  if_pos out

end

theorem drain_idle {s : State} {n : Nat} {c : Conn} (found : s.conn? n = some c) (idle : c.outq = []) : drain s n = s := by
  rw [drain, found]
  simp [idle, drainLoop]

theorem doorbellRow_served {s : State} {n : Nat} {c : Conn} (found : s.conn? n = some c) (attached : c.attached = true)
    (serves : serving s = true) (idle : c.outq = []) (slots : List (Nat × Unit64)) (t h : Option Nat) :
    doorbellRow n slots t h s = s.updConn n (fun _ => c.rung slots t h) := by
  have id : (c.rung slots t h).id = n := show c.id = n from conn?_id found
  have rung : doorbellRow n slots t h s = drain (s.updConn n (fun _ => c.rung slots t h)) n := by
    rw [doorbellRow, found]
    dsimp -zeta only
    rw [if_neg (by simp [serves, attached])]
    extract_lets c1 c2 c3
    have tail : c2 = { c1 with sqTail := (c.tailAfter t).1, ignoredTail := (c.tailAfter t).2 } := by
      cases t with
      | none => rfl
      | some v =>
        by_cases out : v < c.sqTail ∨ c.head + c.sqSlots < v
        · rw [c.tailAfter_outside out]
          exact if_pos out
        · rw [Conn.tailAfter, if_neg out]
          exact if_neg out
    have head : c3 = c.rung slots t h := by
      cases h with
      | none => exact tail
      | some v =>
        simp only [c3, tail, Conn.rung]
        by_cases out : v < c.cqHead ∨ c.lastWritten < v
        · rw [c.headAfter_outside out]
          exact if_pos out
        · rw [Conn.headAfter, if_neg out]
          exact if_neg out
    rw [head]
  rw [rung, drain_idle (conn?_updConn_same found (fun _ _ => id)) idle]

theorem slice_whole {w : Unit64} (whole : w.length = 64) : slice w 0 64 = w := by
  simp [slice, List.take_of_length_le whole.le, whole]

/-- The last slot written holds what was written, whatever was written before it. -/
theorem Conn.slot_rung (c : Conn) {slots : List (Nat × Unit64)} {k : Nat} {w : Unit64} (last : slots.getLast? = some (k, w)) (whole : w.length = 64)
    (t h : Option Nat) : (c.rung slots t h).slot k = w := by
  obtain ⟨before, rfl⟩ := List.getLast?_eq_some_iff.mp last
  simp [Conn.slot, Conn.rung, List.foldl_append, alFind_alSet, slice_whole whole]

/-- Settles O23: a doorbell replaces its connection by the one after the write, and each count follows its own bounds. -/
theorem doorbellsMoveTheCounts : Obligations.DoorbellsMoveTheCounts := by
  unfold Obligations.DoorbellsMoveTheCounts
  intro s n c slots t h found attached serves alone idle
  refine exec_gated_gives rfl alone ?_
  rw [localAction, doorbellRow_served found attached serves idle]
  have id : (c.rung slots t h).id = n := show c.id = n from conn?_id found
  refine ⟨c.rung slots t h, conn?_updConn_same found (fun _ _ => id), rfl, ?_, ?_, ?_, ?_, ?_, ?_, ?_, ?_, rfl, rfl, rfl⟩
  · rintro v rfl lo hi
    exact Prod.ext_iff.mp (c.tailAfter_inside lo hi)
  · rintro v rfl out
    exact Prod.ext_iff.mp (c.tailAfter_outside out)
  · rintro v rfl lo hi
    exact Prod.ext_iff.mp (c.headAfter_inside lo hi)
  · rintro v rfl out
    exact Prod.ext_iff.mp (c.headAfter_outside out)
  · rintro rfl
    exact ⟨rfl, rfl⟩
  · rintro rfl
    exact ⟨rfl, rfl⟩
  · intro k w last whole
    exact c.slot_rung last whole t h
  · intro m other
    exact conn?_updConn_ne s other (fun _ _ => id)

end Sys2Proof.Machine

namespace Sys2Proof.Machine

/-! RDMA READs of a context (R262, R277). -/

/-- The READs of a data queue pair that each context of a connection has outstanding, added up. -/
theorem readsOut_eq_sum (s : State) (conn d : Nat) :
    readsOut s conn d = (s.ctxs.map (fun y => if y.conn = conn then y.reads.count d else 0)).sum := by
  unfold readsOut
  induction s.ctxs with
  | nil => rfl
  | cons y l ih =>
    by_cases here : y.conn = conn <;> simp [here, ← ih]

/-- Only the connection and the READs outstanding of a context count. -/
theorem readsOut_setCtx_congr (s : State) {x y : Ctx} (num : x.num = y.num) (conn : x.conn = y.conn) (reads : x.reads = y.reads) (k d : Nat) :
    readsOut (s.setCtx x) k d = readsOut (s.setCtx y) k d := by
  simp only [readsOut_eq_sum, State.setCtx, List.map_map]
  congr 2
  funext z
  by_cases h : z.num = y.num <;> simp [num, h, conn, reads]

/-- The outstanding READs of a context that count on a connection and queue pair. -/
def Ctx.readsOn (conn d : Nat) (y : Ctx) : Nat := if y.conn = conn then y.reads.count d else 0

/-- One more READ of a context on queue pair `p`, where `x` is the only context of its number. -/
theorem readsOut_issue {s : State} {x y : Ctx} {p : Nat} (mem : x ∈ s.ctxs) (only : ∀ z ∈ s.ctxs, z.num = x.num → z = x)
    (num : y.num = x.num) (conn : y.conn = x.conn) (reads : y.reads = x.reads ++ [p]) (d : Nat) :
    readsOut s x.conn d + (if p = d then 1 else 0) ≤ readsOut (s.setCtx y) x.conn d := by
  let after (z : Ctx) : Ctx := if z.num == y.num then y else z
  have at_x : (after x).readsOn x.conn d = x.readsOn x.conn d + (if p = d then 1 else 0) := by
    simp [after, Ctx.readsOn, num, conn, reads, List.count_singleton]
  have le (z : Ctx) (hz : z ∈ s.ctxs) : z.readsOn x.conn d ≤ (after z).readsOn x.conn d := by
    by_cases h : z.num = y.num
    · obtain rfl := only z hz (h.trans num)
      exact at_x ▸ Nat.le_add_right _ _
    · simp [after, h]
  rw [readsOut_eq_sum, readsOut_eq_sum]
  change (s.ctxs.map (Ctx.readsOn x.conn d)).sum + _ ≤ ((s.ctxs.map after).map (Ctx.readsOn x.conn d)).sum
  obtain ⟨a, b, split⟩ := List.append_of_mem mem
  rw [split] at le ⊢
  have left : (a.map (Ctx.readsOn x.conn d)).sum ≤ ((a.map after).map (Ctx.readsOn x.conn d)).sum := by
    rw [List.map_map]
    exact List.sum_le_sum (fun z hz => le z (by simp [hz]))
  have right : (b.map (Ctx.readsOn x.conn d)).sum ≤ ((b.map after).map (Ctx.readsOn x.conn d)).sum := by
    rw [List.map_map]
    exact List.sum_le_sum (fun z hz => le z (by simp [hz]))
  simp only [List.map_append, List.map_cons, List.sum_append, List.sum_cons, at_x]
  omega

/-- A READ as it leaves the block. -/
def readEgress (conn : Nat) (p : Nat × Nat × Nat × Nat) : Egress := .rdmaRead conn p.1 p.2.1 p.2.2.1 p.2.2.2

/-- Of the READs that context `x` has due in `s`, the first `k` are issued in `t`: in order, each while fewer than 16 of its
queue pair are outstanding, and the next only where 16 are. -/
structure ReadsIssued (s t : State) (x : Ctx) (k : Nat) : Prop where
  ctx : t.ctx? x.num = some { x with toRead := x.toRead.drop k, reads := x.reads ++ (x.toRead.take k).map Prod.fst }
  others : ∀ m, m ≠ x.num → t.ctx? m = s.ctx? m
  frame : t = { s with ctxs := t.ctxs, egress := s.egress ++ (x.toRead.take k).map (readEgress x.conn) }
  few : ∀ d, ((x.toRead.take k).map Prod.fst).count d ≠ 0 →
    readsOut s x.conn d + ((x.toRead.take k).map Prod.fst).count d ≤ 16
  full : ∀ p, x.toRead[k]? = some p → 16 ≤ readsOut t x.conn p.1

/-- A context that has been set is the only one of its number. -/
theorem setCtx_only {s : State} {x z : Ctx} (mem : z ∈ (s.setCtx x).ctxs) (num : z.num = x.num) : z = x := by
  obtain ⟨d, -, rfl⟩ := List.mem_map.mp mem
  by_cases h : d.num = x.num <;> simp_all

theorem ReadsIssued.none {s : State} {x : Ctx} (found : s.ctx? x.num = some x) (stop : ∀ p, x.toRead[0]? = some p → 16 ≤ readsOut s x.conn p.1) :
    ReadsIssued s s x 0 where
  ctx := by simp [found]
  others _ _ := rfl
  frame := by simp
  few d h := by simp at h
  full := stop

/-- The context once its first READ due is issued. -/
def Ctx.issueRead (x : Ctx) (p : Nat × Nat × Nat × Nat) (rest : List (Nat × Nat × Nat × Nat)) : Ctx :=
  { x with toRead := rest, reads := x.reads ++ [p.1] }

theorem ReadsIssued.cons {s t : State} {x : Ctx} {p : Nat × Nat × Nat × Nat} {rest : List (Nat × Nat × Nat × Nat)} {k : Nat}
    (mem : x ∈ s.ctxs) (only : ∀ z ∈ s.ctxs, z.num = x.num → z = x) (due : x.toRead = p :: rest) (free : ¬ 16 ≤ readsOut s x.conn p.1)
    (next : ReadsIssued ((s.setCtx (x.issueRead p rest)).emit (readEgress x.conn p)) t (x.issueRead p rest) k) : ReadsIssued s t x (k + 1) where
  ctx := by
    rw [due]
    exact next.ctx.trans (by simp [Ctx.issueRead])
  others m other := (next.others m other).trans (ctx?_setCtx_ne s other)
  frame := by
    rw [due]
    exact next.frame.trans (by simp [State.emit, State.setCtx, Ctx.issueRead])
  few d h := by
    have grew := readsOut_issue (y := x.issueRead p rest) mem only rfl rfl rfl d
    have later := next.few d
    change _ → readsOut (s.setCtx (x.issueRead p rest)) x.conn d + ((rest.take k).map Prod.fst).count d ≤ 16 at later
    rw [due] at h ⊢
    simp only [List.take_succ_cons, List.map_cons, List.count_cons, beq_iff_eq] at h ⊢
    by_cases none_later : ((rest.take k).map Prod.fst).count d = 0
    · rw [none_later] at h ⊢
      obtain rfl : p.1 = d := by by_contra ne; simp [ne] at h
      simp only [if_true]
      omega
    · have := later none_later
      omega
  full q hq := next.full q (by rw [due] at hq; exact hq)

/-- With fuel for every READ due, `issueReads` issues them as far as their queue pairs allow. -/
theorem issueReads_issued : ∀ (fuel : Nat) {s : State} {x : Ctx}, s.ctx? x.num = some x → (∀ z ∈ s.ctxs, z.num = x.num → z = x) →
    x.toRead.length ≤ fuel → ∃ k, ReadsIssued s (issueReads x.num fuel s) x k
  | 0, s, x, found, _, enough => ⟨0, .none found (fun p hp => by simp [List.eq_nil_of_length_eq_zero (Nat.le_zero.mp enough)] at hp)⟩
  | fuel + 1, s, x, found, only, enough => by
    cases due : x.toRead with
    | nil =>
      rw [issueReads, found]
      simp only [due]
      exact ⟨0, .none found (by simp [due])⟩
    | cons p rest =>
      rw [issueReads, found]
      simp only [due]
      split
      · next many => exact ⟨0, .none found (by simpa [due] using many)⟩
      · next free =>
        have mem := List.mem_of_find?_eq_some found
        have found' : ((s.setCtx (x.issueRead p rest)).emit (readEgress x.conn p)).ctx? x.num = some (x.issueRead p rest) :=
          ctx?_setCtx_same found rfl
        have enough' : rest.length ≤ fuel := by simpa [due] using enough
        obtain ⟨k, next⟩ := issueReads_issued fuel (x := x.issueRead p rest) found' (fun _ => setCtx_only) enough'
        exact ⟨k + 1, .cons mem only due free next⟩

theorem beginReads_issued {s : State} {x z : Ctx} (found : s.ctx? x.num = some z) (es : List Entry) : ∃ k,
    ReadsIssued (s.setCtx { x with toRead := es.flatMap readPieces, reads := [] }) (beginReads s x es)
      { x with toRead := es.flatMap readPieces, reads := [] } k :=
  issueReads_issued _ (x := { x with toRead := es.flatMap readPieces, reads := [] }) (ctx?_setCtx_same found rfl) (fun _ => setCtx_only) le_rfl

theorem issueReads_completed (n : Nat) : ∀ (fuel : Nat) (s : State), Completed s (issueReads n fuel s)
  | 0, s => .refl s
  | fuel + 1, s => by
    unfold issueReads
    split
    · exact .refl s
    · split
      · exact .refl s
      · split
        · exact .refl s
        · exact ((setCtx_completed s _).trans (emit_completed _ _)).trans (issueReads_completed n fuel _)

theorem beginReads_completed (s : State) (x : Ctx) (es : List Entry) : Completed s (beginReads s x es) :=
  (setCtx_completed s _).trans (issueReads_completed _ _ _)

theorem readPieces_le {e : Entry} {p : Nat × Nat × Nat × Nat} (mem : p ∈ readPieces e) : p.2.2.2 ≤ 0x100000 := by
  obtain ⟨k, -, rfl⟩ := List.mem_map.mp mem
  exact Nat.min_le_left _ _

/-! Numbers of contexts (R302). -/

/-- Among one number more than are used, one is free. -/
theorem lowestFree'_notMem (used : List Nat) : lowestFree' used ∉ used := by
  unfold lowestFree'
  cases found : (List.range (used.length + 1)).find? (fun n => !used.contains n) with
  | some n => simpa using List.find?_some found
  | none =>
    have all : List.range (used.length + 1) ⊆ used := fun n hn => by simpa using List.find?_eq_none.mp found n hn
    have := (List.subperm_of_subset List.nodup_range all).length_le
    simp at this

theorem freshNum_eq {s : State} (promised : s.tlc.promised = none) (awaiting : s.tlc.awaiting = []) :
    freshNum s = lowestFree' (s.ctxs.map Ctx.num) := by
  simp [freshNum, promised, awaiting]

/-- The context opened under a free number is found there. -/
theorem ctx?_append_new {s : State} {x : Ctx} (free : x.num ∉ s.ctxs.map Ctx.num) : State.ctx? { s with ctxs := s.ctxs ++ [x] } x.num = some x := by
  have none_before : s.ctxs.find? (fun c => c.num == x.num) = none :=
    List.find?_eq_none.mpr (fun y hy h => free (List.mem_map.mpr ⟨y, hy, by simpa using h⟩))
  simp [State.ctx?, none_before]

/-! Items of the ring (R268, R275). -/

theorem hasRoom_room {s : State} {c : Conn} (h : hasRoom s c = true) : c.nextSeq - 1 - c.cqHead < c.cqRecords := by
  have := of_decide_eq_true h
  omega

section
variable {s : State} {n : Nat} {c : Conn} (found : s.conn? n = some c) (attached : c.attached = true) (serves : serving s = true)
include found attached serves

theorem itemConsumeRow_send {ds : List Unit64} {rest : List (List Unit64)} (sends : c.sends = ds :: rest) : itemConsumeRow n s =
    if s.ctxs.length < 65536 then sendRow n ds (s.updConn n (fun d => { d with sends := rest })) else s := by
  simp [itemConsumeRow, found, sends, attached, serves]

variable (sends : c.sends = []) (waiting : c.head < c.sqTail) (room : hasRoom s c = true)
include sends waiting room

/-- With nothing in the receive buffers, the ring's head is consumed. -/
theorem itemConsumeRow_head : itemConsumeRow n s =
    if (decide (1 ≤ itemType (c.slot c.head) ∧ itemType (c.slot c.head) ≤ 8) && itemSerial (c.slot c.head) == c.expected) = true then
      if c.sqTail < c.head + itemLen (c.slot c.head) + 1 ∨ 65536 ≤ s.ctxs.length then s
      else if headerOk c (c.slot c.head) then openItem s c ((List.range (itemLen (c.slot c.head) + 1)).map (fun k => c.slot (c.head + k)))
      else enqueue (leaveSlots s c (itemLen (c.slot c.head) + 1) (itemSerial (c.slot c.head))) n (bareRec (itemReq (c.slot c.head))
        (itemType (c.slot c.head)) (itemNotify (c.slot c.head)) .badDescriptor 0)
    else enqueue (s.updConn n (fun e => { e with head := e.head + skipped c (c.sqTail - c.head) c.head })) n
      (ringRec (skipped c (c.sqTail - c.head) c.head)) := by
  simp [itemConsumeRow, consumeRow, found, sends, attached, serves, waiting, room, Nat.add_assoc]

theorem itemConsumeRow_resyncs (wrong : itemSerial (c.slot c.head) ≠ c.expected ∨ itemType (c.slot c.head) = 0 ∨ 8 < itemType (c.slot c.head)) :
    itemConsumeRow n s = enqueue (s.updConn n (fun e => { e with head := e.head + skipped c (c.sqTail - c.head) c.head })) n
      (ringRec (skipped c (c.sqTail - c.head) c.head)) := by
  have start : ¬ (decide (1 ≤ itemType (c.slot c.head) ∧ itemType (c.slot c.head) ≤ 8) && itemSerial (c.slot c.head) == c.expected) = true := by
    simp only [Bool.and_eq_true, decide_eq_true_eq, beq_iff_eq]
    omega
  rw [itemConsumeRow_head found attached serves sends waiting room, if_neg start]

variable (lo : 1 ≤ itemType (c.slot c.head)) (hi : itemType (c.slot c.head) ≤ 8) (serial : itemSerial (c.slot c.head) = c.expected)
include lo hi serial

theorem itemConsumeRow_started : itemConsumeRow n s =
    if c.sqTail < c.head + itemLen (c.slot c.head) + 1 ∨ 65536 ≤ s.ctxs.length then s
    else if headerOk c (c.slot c.head) then openItem s c ((List.range (itemLen (c.slot c.head) + 1)).map (fun k => c.slot (c.head + k)))
    else enqueue (leaveSlots s c (itemLen (c.slot c.head) + 1) (itemSerial (c.slot c.head))) n (bareRec (itemReq (c.slot c.head))
      (itemType (c.slot c.head)) (itemNotify (c.slot c.head)) .badDescriptor 0) := by
  rw [itemConsumeRow_head found attached serves sends waiting room, if_pos (by simp [lo, hi, serial])]

theorem itemConsumeRow_waits (waits : c.sqTail < c.head + itemLen (c.slot c.head) + 1 ∨ 65536 ≤ s.ctxs.length) : itemConsumeRow n s = s := by
  rw [itemConsumeRow_started found attached serves sends waiting room lo hi serial, if_pos waits]

variable (here : c.head + itemLen (c.slot c.head) + 1 ≤ c.sqTail) (free : s.ctxs.length < 65536)
include here free

theorem itemConsumeRow_opens (good : headerOk c (c.slot c.head) = true) :
    itemConsumeRow n s = openItem s c ((List.range (itemLen (c.slot c.head) + 1)).map (fun k => c.slot (c.head + k))) := by
  rw [itemConsumeRow_started found attached serves sends waiting room lo hi serial, if_neg (by omega), if_pos good]

theorem itemConsumeRow_refuses (bad : headerOk c (c.slot c.head) = false) : itemConsumeRow n s =
    enqueue (leaveSlots s c (itemLen (c.slot c.head) + 1) (itemSerial (c.slot c.head))) n (bareRec (itemReq (c.slot c.head))
      (itemType (c.slot c.head)) (itemNotify (c.slot c.head)) .badDescriptor 0) := by
  rw [itemConsumeRow_started found attached serves sends waiting room lo hi serial, if_neg (by omega), if_neg (by simp [bad])]

end

end Sys2Proof.Machine

namespace Sys2Proof.Machine

theorem headerOk_start {c : Conn} {d : Unit64} (h : headerOk c d = true) : 1 ≤ itemType d ∧ itemType d ≤ 8 ∧ itemSerial d = c.expected := by
  simp only [headerOk, Bool.and_eq_true, decide_eq_true_eq, beq_iff_eq] at h
  tauto

/-- The state in which an item's context has been opened and its slots taken. -/
def itemOpened (s : State) (c : Conn) (descs : List Unit64) : State :=
  { leaveSlots s c descs.length (itemSerial (descs.getD 0 [])) with ctxs := s.ctxs ++ [newCtx s (freshNum s) c descs] }

/-- From the opened context on, consuming an item completes, admits or reads; a patch draws a free value and begins a hold. -/
theorem openItem_completed {s : State} (alone : mirroring s = false) (c : Conn) (descs : List Unit64) :
    ∃ q f h, Completed (itemOpened s c descs) q ∧ openItem s c descs = { q with freeCtr := f, holds := h } := by
  unfold openItem
  extract_lets n x left s1 reading g wide
  have reads : Completed s1 reading := beginReads_completed s1 x _
  split
  · exact ⟨_, _, _, complete_completed (s := s1) alone x _, rfl⟩
  · split
    · exact ⟨_, _, _, admitCtx_completed (s := s1) alone n, rfl⟩
    · split
      · exact ⟨_, _, _, reads, rfl⟩
      · split
        · exact ⟨_, _, _, reads, rfl⟩
        · exact ⟨_, _, _, .refl s1, rfl⟩

/-- A well-formed item other than a launch has its context. -/
theorem openItem_ctx {s : State} {c : Conn} {descs : List Unit64} (free : freshNum s ∉ s.ctxs.map Ctx.num)
    (good : itemOk c descs = true) (notLaunch : itemType (descs.getD 0 []) ≠ 1) :
    ∃ x, (openItem s c descs).ctx? (freshNum s) = some x ∧ x.conn = c.id ∧ x.reqId = itemReq (descs.getD 0 []) ∧
      x.typ = itemType (descs.getD 0 []) ∧ x.descs = descs := by
  have opened : (itemOpened s c descs).ctx? (freshNum s) = some (newCtx s (freshNum s) c descs) := ctx?_append_new (x := newCtx s _ c descs) free
  obtain ⟨k, issued⟩ := beginReads_issued (x := newCtx s (freshNum s) c descs) opened (ofKind 3 descs)
  have reads := issued.ctx
  unfold openItem
  extract_lets n x left s1 reading g wide
  rw [if_neg (by simp [good]), if_neg (show x.typ ≠ 1 from notLaunch)]
  split
  · exact ⟨_, reads, rfl, rfl, rfl, rfl⟩
  · split
    · exact ⟨_, reads, rfl, rfl, rfl, rfl⟩
    · exact ⟨_, opened, rfl, rfl, rfl, rfl⟩

/-- A record that follows a move of the ring's head alone. -/
theorem enqueue_moved {s : State} {n : Nat} {c : Conn} (ready : RecordReady s n c) {f : Conn → Conn} (keep : ∀ d, d.id = n → (f d).id = n)
    {head expected : Nat} (moved : f c = { c with head := head, expected := expected }) {o : OutRec} (bare : o.ctx = none) :
    ∃ d, (enqueue (s.updConn n f) n o).conn? n = some d ∧ d.head = head ∧ d.expected = expected ∧ d.nextSeq = c.nextSeq + 1 ∧
      Egress.record n (recordVa c c.nextSeq) (recordBytes s c.nextSeq o) ∈ (enqueue (s.updConn n f) n o).egress ∧
      (enqueue (s.updConn n f) n o).ctxs = s.ctxs := by
  have after : RecordReady (s.updConn n f) n { c with head := head, expected := expected } :=
    ⟨moved ▸ conn?_updConn_same ready.conn keep, ready.attached, ready.idle, ready.room, ready.alone⟩
  have written := enqueue_written after o
  exact ⟨_, written.conn, rfl, rfl, rfl, written.sent, written.bare bare⟩

/-- What consuming an item leaves, whatever becomes of it. -/
theorem openItem_frame {s : State} {n : Nat} {c : Conn} (found : s.conn? n = some c) (alone : mirroring s = false) (descs : List Unit64) :
    ∃ d, (openItem s c descs).conn? n = some d ∧ d.head = c.head + descs.length ∧
      d.expected = (itemSerial (descs.getD 0 []) + 1) % 65536 ∧ d.sqTail = c.sqTail ∧
      SameBytes s (openItem s c descs) ∧ (openItem s c descs).models = s.models ∧ (openItem s c descs).cmds = s.cmds := by
  obtain rfl := conn?_id found
  obtain ⟨q, f, h, completed, eq⟩ := openItem_completed alone c descs
  have left : (itemOpened s c descs).conn? c.id =
      some { c with head := c.head + descs.length, expected := (itemSerial (descs.getD 0 []) + 1) % 65536 } := by
    refine (conn?_updConn_same found ?_).trans rfl
    exact fun _ h => h
  obtain ⟨d, conn, recorded⟩ := completed.conn _ _ left
  rw [eq]
  refine ⟨d, conn, ?_, ?_, ?_, fun a => congrArg (memGet · a) completed.mem, completed.models, completed.cmds⟩
  all_goals rw [recorded.frame]

/-- The descriptors of the item at the ring's head. -/
def Conn.headItem (c : Conn) : List Unit64 := (List.range (itemLen (c.slot c.head) + 1)).map (fun k => c.slot (c.head + k))

theorem Conn.headItem_first (c : Conn) : c.headItem.getD 0 [] = c.slot c.head := by
  simp [Conn.headItem, List.range_succ_eq_map]

theorem Conn.headItem_length (c : Conn) : c.headItem.length = itemLen (c.slot c.head) + 1 := by
  simp [Conn.headItem]

/-- Settles O24: SENDs run first; at the ring's head a header is opened, refused with a record, waits, or is skipped. -/
theorem itemsAreConsumedInOrder : Obligations.ItemsAreConsumedInOrder := by
  unfold Obligations.ItemsAreConsumedInOrder
  intro s n c found attached serves alone promised awaiting
  have run : exec (.itemConsume n) s = .next (itemConsumeRow n s) := exec_gated_alone rfl alone
  rw [run]
  refine ⟨fun ds rest sends => ?_, fun sends waiting idle room => ?_⟩
  · rw [itemConsumeRow_send found attached serves sends]
    exact ⟨fun free => by rw [if_pos free], fun full => by rw [if_neg (Nat.not_lt.mpr full)]⟩
  have ready : RecordReady s n c := ⟨found, attached, idle, hasRoom_room room, alone⟩
  refine ⟨fun good here free => ?opens, fun lo hi serial bad here free => ?refuses, fun waits good => ?waits, fun wrong => ?resyncs⟩
  case opens =>
    obtain ⟨lo, hi, serial⟩ := headerOk_start good
    intro descs all
    rw [← Conn.headItem] at all
    rw [itemConsumeRow_opens found attached serves sends waiting room lo hi serial here free good, ← Conn.headItem, all]
    obtain ⟨d, conn, head, expected, tail, bytes, models, cmds⟩ := openItem_frame found alone c.headItem
    rw [c.headItem_length, ← Nat.add_assoc] at head
    rw [c.headItem_first, serial] at expected
    refine Gives.next ⟨d, conn, head, expected, tail, fun whole notLaunch => ?_, bytes, models, cmds⟩
    rw [← c.headItem_first] at notLaunch
    obtain ⟨x, opened, ofConn, req, typ, items⟩ := openItem_ctx (s := s) (freshNum_eq promised awaiting ▸ lowestFree'_notMem _) whole notLaunch
    rw [← freshNum_eq promised awaiting]
    rw [c.headItem_first] at req typ
    exact ⟨x, opened, ofConn.trans (conn?_id found), req, typ, items⟩
  case refuses =>
    rw [itemConsumeRow_refuses found attached serves sends waiting room lo hi serial here free bad, leaveSlots, conn?_id found, serial]
    obtain ⟨d, conn, head, expected, seq, record, ctxs⟩ := enqueue_moved ready
      (f := fun d => { d with head := d.head + (itemLen (c.slot c.head) + 1), expected := (c.expected + 1) % 65536 }) (fun _ h => h) rfl
      (o := bareRec (itemReq (c.slot c.head)) (itemType (c.slot c.head)) (itemNotify (c.slot c.head)) .badDescriptor 0) rfl
    rw [← Nat.add_assoc] at head
    exact Gives.next ⟨d, bareRec _ _ _ .badDescriptor 0, conn, head, expected, seq, rfl, rfl, rfl, record, ctxs⟩
  case waits =>
    obtain ⟨lo, hi, serial⟩ := headerOk_start good
    rw [itemConsumeRow_waits found attached serves sends waiting room lo hi serial waits]
  case resyncs =>
    rw [itemConsumeRow_resyncs found attached serves sends waiting room wrong]
    obtain ⟨d, conn, head, expected, seq, record, ctxs⟩ := enqueue_moved ready
      (f := fun e => { e with head := e.head + skipped c (c.sqTail - c.head) c.head }) (fun _ h => h) rfl
      (o := ringRec (skipped c (c.sqTail - c.head) c.head)) rfl
    exact Gives.next ⟨d, ringRec _, conn, head, expected, seq, rfl, rfl, rfl, record, ctxs⟩

end Sys2Proof.Machine

namespace Sys2Proof.Machine

/-! Writes change the memory system alone. -/

def OnlyMemory (s t : State) : Prop := ∃ ms, t = { s with ms := ms }

theorem OnlyMemory.refl (s : State) : OnlyMemory s s := ⟨_, rfl⟩

theorem OnlyMemory.trans {s t u : State} : OnlyMemory s t → OnlyMemory t u → OnlyMemory s u := by
  rintro ⟨_, rfl⟩ ⟨_, rfl⟩
  exact ⟨_, rfl⟩

theorem mapWork_onlyMemory (s : State) (va home : Nat) : OnlyMemory s (mapWork s va home) := by
  unfold mapWork
  split
  · exact .refl s
  · split
    · exact .refl s
    · split
      · exact .refl s
      · split
        · exact .refl s
        · exact ⟨_, rfl⟩

theorem storeByte_onlyMemory {s t : State} {ws : List (Nat × Byte)} {pa va : Nat} {b : Byte} (h : storeByte s ws pa va b = .ok t) :
    OnlyMemory s t := by
  unfold storeByte at h
  split at h
  · split at h
    · cases h
      exact ⟨_, rfl⟩
    · cases h
  · cases h
    exact ⟨_, rfl⟩

theorem writeByte_onlyMemory {s t : State} {cmd : Nat} {hub : Bool} {ws : List (Nat × Byte)} {va : Nat} {b : Byte}
    (h : writeByte s cmd hub ws va b = .ok t) : OnlyMemory s t := by
  unfold writeByte at h
  split at h
  · cases h
  · exact storeByte_onlyMemory h
  · split at h
    · simp only at h
      split at h
      · exact (mapWork_onlyMemory s va _).trans (storeByte_onlyMemory h)
      · cases h
      · cases h
      · cases h
    · cases h
      exact ⟨_, rfl⟩
  · simp only at h
    split at h
    · exact OnlyMemory.trans (t := { s with ms := s.ms.setPte _ }) ⟨_, rfl⟩ (storeByte_onlyMemory h)
    · split at h
      · cases h
        exact ⟨_, rfl⟩
      · split at h
        · cases h
        · cases h
          exact ⟨_, rfl⟩

theorem writeAll_onlyMemory (cmd : Nat) (hub : Bool) (all : List (Nat × Byte)) : ∀ (ws : List (Nat × Byte)) (s : State),
    OnlyMemory s (writeAll cmd hub all ws s).1
  | [], s => .refl s
  | (va, b) :: t, s => by
      unfold writeAll
      split
      · exact .refl s
      · next h => exact (writeByte_onlyMemory h).trans (writeAll_onlyMemory cmd hub all t _)

/-! Launches (R277, R312). -/

/-- A context that has been set to `y`, and nothing else. -/
theorem setCtx_becomes {s : State} {n : Nat} {x y : Ctx} (found : s.ctx? n = some x) (num : y.num = n) : CtxBecomes s (s.setCtx y) n y :=
  ⟨ctx?_setCtx_same found num, fun _ other => ctx?_setCtx_ne s (num ▸ other), rfl⟩

theorem takeInstance_free {s : State} {n j : Nat} {x : Ctx} (found : s.ctx? n = some x) (typ : x.typ = 1) (queued : x.state = .queued)
    (pinned : x.ver ≠ 0) (free : freeInstance s x = some j) :
    takeInstance s n = s.setCtx { x with state := .input, inst := j, taken := true, startNs := s.dev.timeNs } := by
  simp [takeInstance, found, typ, queued, pinned, free]

/-- The scalar registers of a launch that begins: its SCALAR entries, then the register of its offset (R277 step 2, R312). -/
def launchRegs (v : Version) (x : Ctx) : List DWord :=
  let regs := (ofKind 2 x.descs).foldl (fun l e => updAt l e.slot (fun _ => BitVec.ofNat 64 e.va)) x.sregs
  if 1 < v.instances then updAt regs v.instReg (fun _ => BitVec.ofNat 64 (x.inst * v.instStride)) else regs

section
variable {s : State} {n : Nat} {x : Ctx} {v : Version} {c : Conn} (found : s.ctx? n = some x) (version : launchVersion s x = some v)
  (conn : s.conn? x.conn = some c) (typ : x.typ = 1) (input : x.state = .input) (fresh : x.reading = false)
include found version conn typ input fresh

theorem runGraphRow_reads (good : entryFailure c v (entriesOf x.descs) = none) :
    runGraphRow n s = beginReads s { x with sregs := launchRegs v x, reading := true } (ofKind 0 x.descs) := by
  simp only [runGraphRow, found, version, conn, typ, input, fresh, good, ne_eq, not_true_eq_false, Bool.false_eq_true, or_self, if_false]
  rfl

theorem runGraphRow_fails {r : Res} (bad : entryFailure c v (entriesOf x.descs) = some r) : runGraphRow n s = complete s x r := by
  simp [runGraphRow, found, version, conn, typ, input, fresh, bad]

end

theorem inputsPlacedRow_places {s : State} {n : Nat} {x : Ctx} {v : Version} {data : List (List Byte)} (found : s.ctx? n = some x)
    (version : launchVersion s x = some v) (input : x.state = .input) (reading : x.reading = true) (own : isRestoring s n = false)
    (fits : dataFits x data = true) (awake : asleep s ((inputWrites v x data).map (fun p => (p.1, p.2.length))) = false)
    {ws : List (Nat × Byte)} (all : ws = (inputWrites v x data).flatMap (fun p => spread p.1 p.2))
    (placed : (writeAll 0 true ws ws (readsDone s x)).2 = none) : inputsPlacedRow n data s = (writeAll 0 true ws ws (readsDone s x)).1.setCtx
      { x with toRead := [], reads := [], state := .running, reading := false, issuing := true, pcGraph := x.graph, pcVer := x.ver, pc := 0 } := by
  have result : writeAll 0 true ws ws (readsDone s x) = ((writeAll 0 true ws ws (readsDone s x)).1, none) := Prod.ext rfl placed
  simp only [inputsPlacedRow, found, version]
  rw [if_neg (by simp [input, reading, own, fits, awake]), ← all, result]

theorem mapE_zipWith {α β γ : Type} {f : α → Except Err β} (g : α → β → γ) : ∀ {l : List α} {outs : List β}, l.map f = outs.map Except.ok →
    mapE (fun e => (f e).map (g e)) l = .ok (List.zipWith g l outs)
  | [], [], _ => rfl
  | a :: l, b :: outs, h => by
      simp only [List.map_cons, List.cons.injEq] at h
      rw [mapE, h.1, mapE_zipWith g h.2]
      rfl

section
variable {s : State} {n : Nat} {x : Ctx} {v : Version} (found : s.ctx? n = some x) (version : launchVersion s x = some v)
  (running : x.state = .running) (ended : x.issuing = false) (quiet : inFlight s n = [])
  (awake : asleep s ((ofKind 1 x.descs).map (fun e => (slotVa v x e.slot, e.len))) = false)
include found version running ended quiet awake

theorem graphEndRow_fails {r : Res} (failed : x.failure = some r) : graphEndRow n s = complete s { x with detail := launchKey x } r := by
  simp only [graphEndRow, found, version]
  rw [if_neg (by simp [running, ended, quiet, awake])]
  simp only [failed]

theorem graphEndRow_writes (good : x.failure = none) {outs : List (List Byte)}
    (read : (ofKind 1 x.descs).map (fun e => readBytes s (slotVa v x e.slot) e.len) = outs.map Except.ok) : graphEndRow n s =
      (s.setCtx { x with detail := launchKey x, state := .output }).emits
        (List.zipWith (fun e b => Egress.rdmaWrite x.conn e.dqp e.rkey e.va b) (ofKind 1 x.descs) outs) := by
  rw [graphEndRow, found]
  dsimp -zeta only
  rw [version]
  dsimp -zeta only
  rw [if_neg (by simp [running, ended, quiet, awake])]
  extract_lets y
  have all := mapE_zipWith (f := fun (e : Entry) => readBytes s (slotVa v y e.slot) e.len) (l := ofKind 1 y.descs)
    (fun e b => Egress.rdmaWrite y.conn e.dqp e.rkey e.va b) read
  rw [show y.failure = none from good]
  dsimp only
  rw [all]

end

theorem outputsAcknowledgedRow_completes {s : State} {n : Nat} {x : Ctx} (found : s.ctx? n = some x) (output : x.state = .output) :
    outputsAcknowledgedRow n s = complete s { x with outNs := s.dev.timeNs } x.finalResult := by
  simp [outputsAcknowledgedRow, found, output]

/-! Registers of a launch. -/

theorem foldl_updAt_length {α β : Type} (at_ : β → Nat) (val : β → α) (es : List β) (l : List α) :
    (es.foldl (fun l e => updAt l (at_ e) (fun _ => val e)) l).length = l.length := by
  induction es generalizing l with
  | nil => rfl
  | cons e es ih => simp [ih]

theorem launchRegs_inst {v : Version} {x : Ctx} (many : 1 < v.instances) (inside : v.instReg < x.sregs.length) :
    (launchRegs v x).getD v.instReg 0 = BitVec.ofNat 64 (x.inst * v.instStride) := by
  rw [launchRegs, if_pos many]
  exact updAt_getD_same (by rwa [foldl_updAt_length]) _ _ 0

theorem launchRegs_scalar {v : Version} {x : Ctx} {e : Entry} (only : ofKind 2 x.descs = [e]) (apart : v.instances ≤ 1 ∨ e.slot ≠ v.instReg)
    (inside : e.slot < x.sregs.length) : (launchRegs v x).getD e.slot 0 = BitVec.ofNat 64 e.va := by
  have scalar : (updAt x.sregs e.slot (fun _ => BitVec.ofNat 64 e.va)).getD e.slot 0 = BitVec.ofNat 64 e.va := updAt_getD_same inside _ _ 0
  simp only [launchRegs, only, List.foldl_cons, List.foldl_nil]
  split
  · rw [updAt_getD_ne _ (by omega), scalar]
  · exact scalar

/-- Settles O25: each row of a launch on its own way, a failure completing it. -/
theorem launchesRunFromInputToOutput : Obligations.LaunchesRunFromInputToOutput := by
  unfold Obligations.LaunchesRunFromInputToOutput
  refine ⟨?acquire, ?run, ?reads, ?runFails, ?place, ?finish, ?finishFails, ?acknowledge⟩
  case acquire =>
    intro s n j x alone found typ queued pinned free
    refine exec_gated_gives rfl alone ?_
    rw [localAction, instanceAcquireRow, takeInstance_free found typ queued pinned free]
    have num := ctx?_num found
    exact setCtx_becomes found num
  case run =>
    intro s n x v c alone found version conn typ input fresh good
    refine ⟨{ x with sregs := launchRegs v x, reading := true }, ?_, rfl, launchRegs_inst, fun e => launchRegs_scalar⟩
    rw [exec_gated_alone rfl alone, localAction, runGraphRow_reads found version conn typ input fresh good]
  case reads =>
    rintro s t x z es ps found rfl rfl
    obtain ⟨k, ctx, others, frame, few, full⟩ := beginReads_issued found es
    refine ⟨fun p mem => ?_, k, ctx, fun m other => (others m other).trans (ctx?_setCtx_ne s other), frame, fun d some_ => ?_, full⟩
    · obtain ⟨e, -, piece⟩ := List.mem_flatMap.mp mem
      exact readPieces_le piece
    · have same : readsOut (s.setCtx { x with reads := [] }) x.conn d =
        readsOut (s.setCtx { x with toRead := es.flatMap readPieces, reads := [] }) x.conn d := by
        apply readsOut_setCtx_congr <;> rfl
      rw [same]
      exact few d some_
  case runFails =>
    intro s n x v c r can found version typ input fresh bad
    refine exec_gated_gives rfl can.alone ?_
    rw [localAction, runGraphRow_fails found version can.conn typ input fresh bad]
    exact complete_recordSent can r
  case place =>
    intro s q n data x v alone found version input reading own fits awake hq ws all placed
    subst hq
    refine exec_gated_gives rfl alone ?_
    rw [localAction, inputsPlacedRow_places found version input reading own fits awake all placed]
    have num := ctx?_num found
    have done : (readsDone s x).ctx? n = some { x with toRead := [], reads := [] } := ctx?_setCtx_same found num
    obtain ⟨ms, written⟩ := writeAll_onlyMemory 0 true ws ws (readsDone s x)
    have here : (writeAll 0 true ws ws (readsDone s x)).1.ctx? n = some { x with toRead := [], reads := [] } := by rw [written]; exact done
    have elsewhere (m : Nat) (other : m ≠ n) : (writeAll 0 true ws ws (readsDone s x)).1.ctx? m = s.ctx? m := by
      rw [written]
      exact ctx?_setCtx_ne s (num ▸ other)
    refine ⟨ctx?_setCtx_same here num, rfl, fun m other => (ctx?_setCtx_ne _ (num ▸ other)).trans (elsewhere m other), ?_, ?_, ?_, ?_⟩
    all_goals
      simp only [State.setCtx]
      rw [written]
      rfl
  case finish =>
    intro s n x v alone found version running ended quiet awake good outs read
    refine exec_gated_gives rfl alone ?_
    rw [localAction, graphEndRow_writes found version running ended quiet awake good read]
    have num := ctx?_num found
    exact ⟨ctx?_setCtx_same found num, rfl⟩
  case finishFails =>
    intro s n x v c r can found version running ended quiet awake failed
    refine exec_gated_gives rfl can.alone ?_
    rw [localAction, graphEndRow_fails found version running ended quiet awake failed]
    exact complete_recordSent can r
  case acknowledge =>
    intro s n x c can found output
    refine exec_gated_gives rfl can.alone ?_
    rw [localAction, outputsAcknowledgedRow_completes found output]
    exact complete_recordSent can x.finalResult

end Sys2Proof.Machine

namespace Sys2Proof.Machine

/-! Work that stops (R276, R306): commands, their memory and their error records change; requests and models stand. -/

/-- Connections, contexts, models, the twin and what has left the block are as before. -/
structure OnlyWork (s t : State) : Prop where
  conns : t.conns = s.conns
  ctxs : t.ctxs = s.ctxs
  models : t.models = s.models
  tlc : t.tlc = s.tlc
  egress : t.egress = s.egress

namespace OnlyWork

variable {s t u : State}

theorem refl (s : State) : OnlyWork s s := ⟨rfl, rfl, rfl, rfl, rfl⟩

theorem trans (h : OnlyWork s t) (k : OnlyWork t u) : OnlyWork s u :=
  ⟨k.conns.trans h.conns, k.ctxs.trans h.ctxs, k.models.trans h.models, k.tlc.trans h.tlc, k.egress.trans h.egress⟩

theorem of_onlyMemory : OnlyMemory s t → OnlyWork s t := by
  rintro ⟨_, rfl⟩
  exact ⟨rfl, rfl, rfl, rfl, rfl⟩

theorem of_onlyLogged : OnlyLogged s t → OnlyWork s t := by
  rintro ⟨_, _, _, _, rfl⟩
  exact ⟨rfl, rfl, rfl, rfl, rfl⟩

theorem foldl {α : Type} {f : State → α → State} (step : ∀ s x, OnlyWork s (f s x)) (l : List α) (s : State) : OnlyWork s (l.foldl f s) := by
  induction l generalizing s with
  | nil => exact .refl s
  | cons x t ih => exact (step s x).trans (ih _)

theorem withMs (h : OnlyWork s t) (ms : MemSys) : OnlyWork s { t with ms := ms } := ⟨h.conns, h.ctxs, h.models, h.tlc, h.egress⟩

theorem withFree (h : OnlyWork s t) (n : Nat) : OnlyWork s { t with freeCtr := n } := ⟨h.conns, h.ctxs, h.models, h.tlc, h.egress⟩

theorem withParts (h : OnlyWork s t) (ms : MemSys) (q : Vcc) : OnlyWork s { t with ms := ms, vcc := q } :=
  ⟨h.conns, h.ctxs, h.models, h.tlc, h.egress⟩

end OnlyWork

theorem dropCmd_onlyWork (s : State) (n : Nat) : OnlyWork s (s.dropCmd n) := ⟨rfl, rfl, rfl, rfl, rfl⟩

theorem updCmd_onlyWork (s : State) (n : Nat) (f : Cmd → Cmd) : OnlyWork s (s.updCmd n f) := ⟨rfl, rfl, rfl, rfl, rfl⟩

theorem failHeld_onlyWork (s : State) (c : Cmd) (e : Err) : OnlyWork s (failHeld s c e) :=
  (OnlyWork.of_onlyLogged (captureFault_onlyLogged s c e)).trans (updCmd_onlyWork _ _ _)

theorem writeAll_onlyWork (cmd : Nat) (hub : Bool) (all ws : List (Nat × Byte)) (s : State) : OnlyWork s (writeAll cmd hub all ws s).1 :=
  .of_onlyMemory (writeAll_onlyMemory cmd hub all ws s)

theorem during_onlyWork (s : State) (c : Cmd) {f : State → State} (h : ∀ t, OnlyWork t (f t)) : OnlyWork s (s.during c f) :=
  have first : OnlyWork s (s.accessing c) := ⟨rfl, rfl, rfl, rfl, rfl⟩
  OnlyWork.withMs (first.trans (h _)) _

theorem retryHeld_onlyWork (s : State) (h : Held) : OnlyWork s (retryHeld s h) := by
  unfold retryHeld
  split
  · exact .refl s
  · next c _ =>
    refine during_onlyWork s c (fun t => ?_)
    have written := writeAll_onlyWork h.cmd (isHub c.opcode) h.writes h.writes t
    split
    · next eq =>
      rw [eq] at written
      exact written
    · next eq =>
      rw [eq] at written
      exact written.trans (failHeld_onlyWork _ c _)

theorem serveLock_onlyWork (old : Nat) : ∀ (fuel : Nat) (s : State), OnlyWork s (serveLock old fuel s)
  | 0, s => .refl s
  | fuel + 1, s => by
      have memory (ms : MemSys) : OnlyWork s { s with ms := ms } := (OnlyWork.refl s).withMs ms
      unfold serveLock
      split
      · exact .refl s
      · exact ((memory _).trans (retryHeld_onlyWork _ _)).trans (serveLock_onlyWork old fuel _)
      · split
        · split
          · exact memory _
          · exact ((memory _).trans (failHeld_onlyWork _ _ _)).trans (serveLock_onlyWork old fuel _)
          · exact (memory _).trans (serveLock_onlyWork old fuel _)
        · exact ((memory _).trans (retryHeld_onlyWork _ _)).trans (serveLock_onlyWork old fuel _)

theorem releaseHeld_onlyWork (s : State) (cmd : Nat) : OnlyWork s (releaseHeld s cmd) :=
  ((OnlyWork.refl s).withMs _).trans (.foldl (fun t old => serveLock_onlyWork old _ t) _ _)

theorem freeReleased_onlyWork (s : State) (id : Nat) : OnlyWork s (freeReleased s id) := (OnlyWork.refl s).withMs _

theorem dropParts_onlyWork (s : State) (id : Nat) (ks : List Nat) : OnlyWork s (dropParts s id ks) :=
  have credit (t : State) (k : Nat) : OnlyWork t (returnCredit t id k) := ⟨rfl, rfl, rfl, rfl, rfl⟩
  (OnlyWork.foldl credit ks s).trans (updCmd_onlyWork _ _ _)

theorem discardCmd_onlyWork (s : State) (c : Cmd) : OnlyWork s (discardCmd s c) := by
  unfold discardCmd
  extract_lets s1 s2 q q1
  have dropped : OnlyWork s s1 := dropParts_onlyWork s _ _
  have freed : OnlyWork s (freeReleased s1 c.id) := dropped.trans (freeReleased_onlyWork s1 c.id)
  have stopped : OnlyWork s s2 := freed.trans (releaseHeld_onlyWork _ c.id)
  exact (stopped.trans (dropCmd_onlyWork s2 c.id)).withParts _ _

theorem kvBody_onlyWork (s : State) (c : Cmd) : OnlyWork s (kvBody s c).1 := by
  unfold kvBody
  split
  · exact .refl s
  · exact .refl s
  · exact (OnlyWork.refl s).withMs _

theorem leaveHalf_onlyWork (s : State) (c : Cmd) : OnlyWork s (leaveHalf s c) := by
  unfold leaveHalf
  split
  · exact .refl s
  · split
    · unfold stopScatter
      have body := kvBody_onlyWork s c
      split
      · next eq =>
        rw [eq] at body
        exact (body.withFree _).trans (writeAll_onlyWork _ _ _ _ _)
      · exact .refl s
    · exact ((OnlyWork.refl s).withFree _).trans (writeAll_onlyWork _ _ _ _ _)

theorem stopCmd_onlyWork (s : State) (c : Cmd) (r : Res) : OnlyWork s (stopCmd s c r) := by
  unfold stopCmd
  extract_lets waiting
  split
  · exact discardCmd_onlyWork s c
  · split
    · exact ((leaveHalf_onlyWork s c).trans (dropParts_onlyWork _ _ _)).trans (updCmd_onlyWork _ _ _)
    · exact dropParts_onlyWork s _ _

/-! Requests that end with their connection (R265). -/

/-- Requests and their work ended: no connection is new, what left the block left it, models and the twin's state stand. -/
structure WoundUp (s t : State) : Prop where
  models : t.models = s.models
  tlc : t.tlc = s.tlc
  out : ∀ e ∈ s.egress, e ∈ t.egress
  noConn : ∀ n, s.conn? n = none → t.conn? n = none

namespace WoundUp

variable {s t u : State}

theorem refl (s : State) : WoundUp s s := ⟨rfl, rfl, fun _ h => h, fun _ h => h⟩

theorem trans (h : WoundUp s t) (k : WoundUp t u) : WoundUp s u :=
  ⟨k.models.trans h.models, k.tlc.trans h.tlc, fun e he => k.out e (h.out e he), fun n hn => k.noConn n (h.noConn n hn)⟩

theorem of_completed (h : Completed s t) : WoundUp s t := ⟨h.models, h.tlc, h.out, h.noConn⟩

theorem of_onlyWork (h : OnlyWork s t) : WoundUp s t :=
  ⟨h.models, h.tlc, fun _ => by rw [h.egress]; exact id, fun n => by rw [State.conn?, State.conn?, h.conns]; exact id⟩

theorem mirroring (h : WoundUp s t) : mirroring t = mirroring s := by rw [Machine.mirroring, h.tlc, Machine.mirroring]

theorem foldl {α : Type} {f : State → α → State} (step : ∀ s x, Machine.mirroring s = false → WoundUp s (f s x)) (l : List α) (s : State)
    (alone : Machine.mirroring s = false) : WoundUp s (l.foldl f s) := by
  induction l generalizing s with
  | nil => exact .refl s
  | cons x t ih =>
    have first := step s x alone
    exact first.trans (ih _ (first.mirroring.trans alone))

end WoundUp

theorem stopCtx_woundUp {s : State} (alone : mirroring s = false) (n : Nat) (r : Res) : WoundUp s (stopCtx s n r) := by
  unfold stopCtx
  split
  · exact .refl s
  · split
    · exact .of_completed (complete_completed alone _ r)
    · exact .of_completed (complete_completed alone _ r)
    · exact (WoundUp.of_completed (setCtx_completed s _)).trans (.of_onlyWork (.foldl (fun t c => stopCmd_onlyWork t c r) _ _))
    · exact .of_completed (setCtx_completed s _)
    · exact .refl s

/-- A connection that closes is gone, and its closing leaves the block; models stand. -/
theorem closeConn_closed {s : State} {n : Nat} {c : Conn} (found : s.conn? n = some c) (alone : mirroring s = false) :
    (closeConn s n).conn? n = none ∧ Egress.closed n ∈ (closeConn s n).egress ∧ (closeConn s n).models = s.models := by
  unfold closeConn
  rw [if_neg (by simp [found])]
  extract_lets s1
  have gone : s1.conn? n = none := by simp [s1, State.conn?, State.emit]
  have told : Egress.closed n ∈ s1.egress := List.mem_append_right _ (List.mem_singleton_self _)
  have ended : WoundUp s1 ((s1.ctxs.filter (fun x => x.conn == n)).foldl (fun s x =>
      if x.state = .running then stopCtx s x.num .aborted else endHold (closeCtx s x.num) x.num) s1) := by
    refine .foldl (fun t x alone => ?_) _ s1 alone
    split
    · exact stopCtx_woundUp alone _ _
    · have closed := closeCtx_completed t x.num
      exact .of_completed (closed.trans (endHold_completed (closed.mirroring.trans alone) _))
  exact ⟨ended.noConn n gone, ended.out _ told, ended.models⟩

end Sys2Proof.Machine

namespace Sys2Proof.Machine

/-! Opening and joining a connection (R263, R264). -/

/-- A new connection for a request: its rings are empty and its counts at their start. -/
def openedConn (q : CmReq) (id : Nat) : Conn :=
  { id := id, port := q.port, addr := q.addr, joined := 0, sqVa := 0, dbVa := 0, sqRkey := 0, sends := [], sqSlots := q.sqSlots, dataQps := q.dataQps,
    cqRecords := q.cqRecords, cqVa := q.cqVa, cqRkey := q.cqRkey, ring := [], sqTail := 0, head := 0, cqHead := 0, nextSeq := 1, expected := 0,
    ignoredTail := 0, ignoredHead := 0, attached := true, mirroredPeer := false, outq := [], held := [], rateLimited := [] }

/-- The addresses and the key that a reply tells. -/
def Conn.placed (c : Conn) (n : Nat) : Conn :=
  { c with sqVa := Config.free n, dbVa := Config.free (n + 1), sqRkey := Config.free (n + 2) }

theorem sendRep_eq (s : State) (c : Conn) :
    sendRep s c = { s.updConn c.id (fun _ => c.placed s.freeCtr) with
      egress := s.egress ++ [.cmRep c.id (c.placed s.freeCtr).repBytes], freeCtr := s.freeCtr + 3 } := rfl

/-- A change of a connection that was just added is a change of it alone. -/
theorem updConn_added {s : State} {c : Conn} (free : s.conn? c.id = none) (d : Conn) (n : Nat) :
    ({ s with conns := s.conns ++ [c], nextConn := n }).updConn c.id (fun _ => d) = { s with conns := s.conns ++ [d], nextConn := n } := by
  have old : s.conns.map (fun e => if e.id == c.id then d else e) = s.conns :=
    (List.map_congr_left (fun e mem => if_neg (List.find?_eq_none.mp free e mem))).trans (List.map_id _)
  simp only [State.updConn, List.map_append, old, List.map_cons, List.map_nil, beq_self_eq_true, if_true]

theorem connectionSetupRow_opens {s : State} {q : CmReq} (new : q.resume = 0) (control : q.dataOf = none) (serves : serving s = true)
    (accepts : acceptsReq s q.addr = true) (shape : reqShapeOk q = true) (fits : fitsLimits s q 1 = true) :
    connectionSetupRow q s =
      sendRep { s with conns := s.conns ++ [openedConn q (connId s s.nextConn)], nextConn := s.nextConn + 1 } (openedConn q (connId s s.nextConn)) := by
  rw [connectionSetupRow, if_neg (by simp [serves]), control]
  simp only [new, accepts, shape, fits]
  rfl

theorem connectionSetupRow_rejects {s : State} {q : CmReq} (new : q.resume = 0) (control : q.dataOf = none) (serves : serving s = true)
    (bad : acceptsReq s q.addr = false ∨ reqShapeOk q = false ∨ fitsLimits s q 1 = false) : connectionSetupRow q s = s.emit .cmReject := by
  rw [connectionSetupRow, if_neg (by simp [serves]), control]
  dsimp only
  rw [if_neg (by omega), if_neg]
  rcases bad with h | h | h <;> simp [h]

theorem connectionSetupRow_joins {s : State} {q : CmReq} {k : Nat} (data : q.dataOf = some k) (serves : serving s = true) :
    connectionSetupRow q s = joinRow k q s := by
  rw [connectionSetupRow, if_neg (by simp [serves]), data]

theorem joinRow_joins {s : State} {q : CmReq} {k : Nat} {c : Conn} (found : s.conn? k = some c) (supported : q.supported = true)
    (accepts : acceptsReq s q.addr = true) (attached : c.attached = true) (port : q.port = c.port) (missing : c.joined < c.dataQps) :
    joinRow k q s = (s.updConn k (fun d => { d with joined := d.joined + 1 })).emit (.cmRep k []) := by
  rw [joinRow, found]
  exact if_pos (by simp [supported, accepts, attached, port, missing])

theorem joinRow_rejects {s : State} {q : CmReq} {k : Nat} (bad : ∀ c, s.conn? k = some c →
      (q.supported = false ∨ acceptsReq s q.addr = false ∨ c.attached = false ∨ q.port ≠ c.port ∨ c.dataQps ≤ c.joined)) :
    joinRow k q s = s.emit .cmReject := by
  unfold joinRow
  split
  · rfl
  · next c found =>
    refine if_neg ?_
    rcases bad c found with h | h | h | h | h <;> simp [h]

/-! Resuming a connection (R265, R374). -/

/-- A connection that its client takes up again. -/
def Conn.resumed (c : Conn) (q : CmReq) : Conn :=
  { c with port := q.port, addr := q.addr, joined := 0, sqSlots := q.sqSlots, dataQps := q.dataQps, cqRecords := q.cqRecords, cqVa := q.cqVa,
           cqRkey := q.cqRkey, ring := [], sqTail := c.head, cqHead := max c.cqHead q.resumeCqHead, attached := true, held := [] }

/-- What is written again for a record held for the client. -/
def Conn.rewritten (d : Conn) (h : HeldRec) : List Egress :=
  .record d.id (recordVa d h.seq) h.bytes :: (if h.notify then [.notify d.id (h.seq % 2 ^ 32)] else [])

theorem resumeRow_resumes {s : State} {q : CmReq} {c : Conn} (again : q.resume = 1) (control : q.dataOf = none) (serves : serving s = true)
    (found : s.conn? q.resumeConn = some c) (gone : c.attached = false) (mirrored : c.mirroredPeer = true) (accepts : acceptsReq s q.addr = true)
    (shape : reqShapeOk q = true) (fits : fitsLimits s q 0 = true) :
    resumeRow q s = drain ((sendRep (s.updConn c.id (fun _ => c.resumed q)) (c.resumed q)).emits
      ((c.held.filter (fun h => decide (q.resumeCqHead < h.seq))).flatMap (c.resumed q).rewritten)) c.id := by
  rw [resumeRow, if_neg (by simp [again, control, serves]), found]
  exact if_neg (by simp [gone, mirrored, accepts, shape, fits])

theorem resumeRow_rejects {s : State} {q : CmReq} (again : q.resume = 1) (control : q.dataOf = none) (serves : serving s = true)
    (bad : ∀ c, s.conn? q.resumeConn = some c →
      (c.attached = true ∨ c.mirroredPeer = false ∨ acceptsReq s q.addr = false ∨ reqShapeOk q = false ∨ fitsLimits s q 0 = false)) :
    resumeRow q s = s.emit .cmReject := by
  rw [resumeRow, if_neg (by simp [again, control, serves])]
  split
  · next c found =>
    refine if_pos ?_
    rcases bad c found with h | h | h | h | h <;> simp [h]
  · rfl

/-- A connection taken up again with no record queued: its reply and the records above the client's `CQ_HEAD` leave the block. -/
theorem resumeRow_idle {s : State} {q : CmReq} {c : Conn} (again : q.resume = 1) (control : q.dataOf = none) (serves : serving s = true)
    (found : s.conn? q.resumeConn = some c) (gone : c.attached = false) (mirrored : c.mirroredPeer = true) (accepts : acceptsReq s q.addr = true)
    (shape : reqShapeOk q = true) (fits : fitsLimits s q 0 = true) (idle : c.outq = []) :
    ∃ d t, d = (c.resumed q).placed s.freeCtr ∧ resumeRow q s = t ∧ t.conn? q.resumeConn = some d ∧ t.ctxs = s.ctxs ∧
      t.egress = s.egress ++ [.cmRep c.id d.repBytes] ++ (c.held.filter (fun h => decide (q.resumeCqHead < h.seq))).flatMap (c.resumed q).rewritten := by
  have id : c.id = q.resumeConn := conn?_id found
  have taken : (s.updConn c.id (fun _ => c.resumed q)).conn? c.id = some (c.resumed q) := by
    refine (conn?_updConn_same (c := c) (id ▸ found) ?_).trans ?_
    · exact fun _ _ => rfl
    · rfl
  have told : (sendRep (s.updConn c.id (fun _ => c.resumed q)) (c.resumed q)).conn? c.id = some ((c.resumed q).placed s.freeCtr) := by
    refine (conn?_updConn_same taken ?_).trans ?_
    · exact fun _ _ => rfl
    · rfl
  refine ⟨_, _, rfl, resumeRow_resumes again control serves found gone mirrored accepts shape fits, ?_⟩
  have still (es : List Egress) : ((sendRep (s.updConn c.id (fun _ => c.resumed q)) (c.resumed q)).emits es).conn? c.id =
      some ((c.resumed q).placed s.freeCtr) := told
  rw [drain_idle (still _) idle]
  exact ⟨id ▸ told, rfl, rfl⟩

/-! Naks and rate limits (R262). -/

theorem execRemoteAccessNak_sent {s : State} {n : Nat} {c : Conn} (found : s.conn? n = some c) (attached : c.attached = true)
    (serves : serving s = true) (k : Nat) : execRemoteAccessNak n k s = .next (s.emit (.nak n k)) := by
  rw [execRemoteAccessNak, found]
  exact congrArg Host.Outcome.next (if_pos (by simp [attached, serves]))

/-- A connection with a rate limit on one of its queue pairs. -/
def Conn.limited (c : Conn) (k : Nat) : Conn :=
  { c with rateLimited := if c.rateLimited.contains k then c.rateLimited else c.rateLimited ++ [k] }

theorem Conn.mem_limited (c : Conn) (k : Nat) : k ∈ (c.limited k).rateLimited := by
  unfold Conn.limited
  dsimp only
  split
  · next h => exact List.contains_iff_mem.mp h
  · exact List.mem_append_right _ (List.mem_singleton_self k)

theorem execCnpReceived_limits {s : State} {n k : Nat} {c : Conn} (found : s.conn? n = some c) (attached : c.attached = true)
    (serves : serving s = true) (inside : k ≤ c.dataQps) :
    execCnpReceived n k s = .next ((s.updConn n (fun d => d.limited k)).emit (.rateLimit n k)) := by
  rw [execCnpReceived, found]
  exact congrArg Host.Outcome.next (if_pos (by simp [attached, serves, inside]))

theorem connectionCloseRow_closes {s : State} {n : Nat} {c : Conn} (found : s.conn? n = some c) (attached : c.attached = true) :
    connectionCloseRow n s = closeConn s n := by
  rw [connectionCloseRow, found]
  exact if_pos attached

theorem connectionExpiryRow_closes {s : State} {n : Nat} {c : Conn} (found : s.conn? n = some c) (gone : c.attached = false) :
    connectionExpiryRow n s = closeConn s n := by
  rw [connectionExpiryRow, found]
  exact if_neg (by simp [gone])

/-- Settles O28, by the branch that each row takes; a closing ends the connection's requests one by one. -/
theorem connectionsOpenAndClose : Obligations.ConnectionsOpenAndClose := by
  refine ⟨fun s q new control serves alone => ⟨?_, ?_⟩, fun s q k data serves alone => ⟨?_, ?_⟩, fun s q again control serves alone => ⟨?_, ?_⟩,
    fun s n c found => ⟨?_, ?_, ?_, ?_⟩⟩
  · intro accepts shape fits free
    refine exec_gated_gives rfl alone ?_
    show ∃ c, _
    refine ⟨(openedConn q (connId s s.nextConn)).placed s.freeCtr, ?_⟩
    rw [show localAction (.connectionSetup q) s = connectionSetupRow q s from rfl,
      connectionSetupRow_opens new control serves accepts shape fits, sendRep_eq, updConn_added free]
    exact ⟨rfl, rfl, rfl, rfl, rfl, rfl, rfl, rfl, rfl, rfl, rfl, rfl, rfl, rfl, rfl, rfl, rfl⟩
  · exact fun bad => exec_gated_gives rfl alone (connectionSetupRow_rejects new control serves bad)
  · intro c found supported accepts attached port missing
    refine exec_gated_gives rfl alone ?_
    rw [show localAction (.connectionSetup q) s = connectionSetupRow q s from rfl,
      connectionSetupRow_joins data serves, joinRow_joins found supported accepts attached port missing]
    refine ⟨?_, fun m other => ?_, rfl⟩
    · refine (conn?_updConn_same found ?_).trans ?_
      · exact fun _ h => h
      · rfl
    · refine conn?_updConn_ne s other ?_
      exact fun _ h => h
  · exact fun bad => exec_gated_gives rfl alone ((connectionSetupRow_joins data serves).trans (joinRow_rejects bad))
  · intro c found gone mirrored accepts shape fits idle
    obtain ⟨d, t, told, row, conn, ctxs, out⟩ := resumeRow_idle again control serves found gone mirrored accepts shape fits idle
    refine exec_gated_gives rfl alone ?_
    rw [show localAction (.resume q) s = t from row]
    have rewritten {h : HeldRec} (mem : h ∈ c.held) (above : q.resumeCqHead < h.seq) {e : Egress} (he : e ∈ (c.resumed q).rewritten h) : e ∈ t.egress := by
      rw [out]
      exact List.mem_append_right _ (List.mem_flatMap.mpr ⟨h, List.mem_filter.mpr ⟨mem, decide_eq_true above⟩, he⟩)
    subst told
    refine ⟨_, conn, rfl, rfl, rfl, rfl, rfl, rfl, rfl, rfl, rfl, rfl, rfl, rfl, rfl, ?_, fun h mem above => ⟨?_, fun notify => ?_⟩, ctxs⟩
    · rw [out]
      exact List.mem_append_left _ (List.mem_append_right _ (List.mem_singleton_self _))
    · exact rewritten mem above (List.mem_cons_self ..)
    · refine rewritten mem above ?_
      rw [Conn.rewritten, if_pos notify]
      exact List.mem_cons_of_mem _ (List.mem_singleton_self _)
  · exact fun bad => exec_gated_gives rfl alone (resumeRow_rejects again control serves bad)
  · intro attached alone
    refine exec_gated_gives rfl alone ?_
    rw [show localAction (.connectionClose n) s = connectionCloseRow n s from rfl, connectionCloseRow_closes found attached]
    exact closeConn_closed found alone
  · intro gone alone
    refine exec_gated_gives rfl alone ?_
    rw [show localAction (.unattachedConnectionExpiry n) s = connectionExpiryRow n s from rfl, connectionExpiryRow_closes found gone]
    exact closeConn_closed found alone
  · exact fun attached serves k => ⟨_, execRemoteAccessNak_sent found attached serves k, rfl⟩
  · intro attached serves k inside
    refine ⟨_, execCnpReceived_limits found attached serves inside, ⟨c.limited k, ?_, c.mem_limited k, rfl⟩, rfl⟩
    refine (conn?_updConn_same found ?_).trans ?_
    · exact fun _ h => h
    · rfl

end Sys2Proof.Machine

namespace Sys2Proof.Machine

/-! Changes of models and graphs (R272, R311, R316): what they touch. -/

/-- Memory and graphs alone have changed. -/
def GraphsChanged (s t : State) : Prop := ∃ ms gr, t = { s with ms := ms, graphs := gr }

/-- Memory, models, graphs and what asks for attention alone have changed. -/
def StoreChanged (s t : State) : Prop := ∃ ms mo gr at', t = { s with ms := ms, models := mo, graphs := gr, attn := at' }

section
variable {s t u : State}

theorem OnlyMemory.graphs : OnlyMemory s t → GraphsChanged s t := by
  rintro ⟨_, rfl⟩
  exact ⟨_, _, rfl⟩

theorem GraphsChanged.trans : GraphsChanged s t → GraphsChanged t u → GraphsChanged s u := by
  rintro ⟨_, _, rfl⟩ ⟨_, _, rfl⟩
  exact ⟨_, _, rfl⟩

theorem GraphsChanged.models : GraphsChanged s t → t.models = s.models := by
  rintro ⟨_, _, rfl⟩
  rfl

theorem GraphsChanged.store : GraphsChanged s t → StoreChanged s t := by
  rintro ⟨_, _, rfl⟩
  exact ⟨_, _, _, _, rfl⟩

theorem StoreChanged.refl (s : State) : StoreChanged s s := ⟨_, _, _, _, rfl⟩

theorem StoreChanged.trans : StoreChanged s t → StoreChanged t u → StoreChanged s u := by
  rintro ⟨_, _, _, _, rfl⟩ ⟨_, _, _, _, rfl⟩
  exact ⟨_, _, _, _, rfl⟩

theorem StoreChanged.canComplete {x : Ctx} {c : Conn} : StoreChanged s t → CanComplete s x c → CanComplete t x c := by
  rintro ⟨_, _, _, _, rfl⟩ ⟨conn, attached, idle, room, alone⟩
  exact ⟨conn, attached, idle, room, alone⟩

end

/-! Memory of a load (R209, R212). -/

theorem firmwareWrite_onlyMemory (all : List (Nat × Byte)) : ∀ (ws : List (Nat × Byte)) {s t : State}, firmwareWrite all ws s = .ok t → OnlyMemory s t
  | [], s, _, h => by
      cases h
      exact .refl s
  | (va, b) :: ws, s, t, h => by
      unfold firmwareWrite at h
      split at h
      · exact firmwareWrite_onlyMemory all ws h
      · split at h
        · cases h
        · next stored => exact (storeByte_onlyMemory stored).trans (firmwareWrite_onlyMemory all ws h)

theorem firmwareWrite_error (all : List (Nat × Byte)) : ∀ (ws : List (Nat × Byte)) {s : State} {e : Err}, firmwareWrite all ws s = .error e →
    e.1 = .memoryUncorrected
  | [], s, e, h => by cases h
  | (va, b) :: ws, s, e, h => by
      unfold firmwareWrite at h
      split at h
      · exact firmwareWrite_error all ws h
      · split at h
        · next stored =>
          cases h
          unfold storeByte at stored
          split at stored
          · split at stored <;> cases stored
            rfl
          · cases stored
        · exact firmwareWrite_error all ws h

theorem takeCap_onlyMemory {s : State} {n : Nat} {q : Nat × State} (h : takeCap s n = some q) : OnlyMemory s q.2 := by
  simp only [takeCap, Option.map_eq_some_iff] at h
  obtain ⟨a, -, rfl⟩ := h
  exact ⟨_, rfl⟩

theorem mapCapacity_onlyMemory : ∀ (l : List (Nat × Nat)) {s t : State}, mapCapacity l s = some t → OnlyMemory s t
  | [], s, _, h => by
      cases h
      exact .refl s
  | (level, va) :: l, s, t, h => by
      unfold mapCapacity at h
      split at h
      · cases h
      · next pa s1 taken =>
        have entered (p : Pte) : OnlyMemory s1 { s1 with ms := s1.ms.setPte p } := ⟨_, rfl⟩
        exact ((takeCap_onlyMemory taken).trans (entered _)).trans (mapCapacity_onlyMemory l h)

theorem placeMoved_onlyMemory : ∀ (l : List (Nat × Nat)) {s : State} {acc : List ((Nat × Nat) × Nat)}
    {q : List ((Nat × Nat) × Nat) × State}, placeMoved l s acc = some q → OnlyMemory s q.2
  | [], s, _, _, h => by
      cases h
      exact .refl s
  | k :: l, s, acc, q, h => by
      unfold placeMoved at h
      split at h
      · cases h
      · next taken => exact (takeCap_onlyMemory taken).trans (placeMoved_onlyMemory l h)

theorem mapWeights_onlyMemory (m : Model) (small : List Nat) (moved : List ((Nat × Nat) × Nat)) : ∀ (l : List MPage) {s t : State},
    mapWeights m small moved l s = some t → OnlyMemory s t
  | [], s, _, h => by
      cases h
      exact .refl s
  | p :: l, s, t, h => by
      have memory (ms : MemSys) : OnlyMemory s { s with ms := ms } := ⟨_, rfl⟩
      unfold mapWeights at h
      dsimp only at h
      split at h
      · exact (memory _).trans (mapWeights_onlyMemory m small moved l h)
      · split at h
        · cases h
        · exact (memory _).trans (mapWeights_onlyMemory m small moved l h)

theorem mapModel_onlyMemory {s t : State} {m : Model} {small : List Nat} {keys caps : List (Nat × Nat)} {wp : List MPage}
    (h : ((mapCapacity caps s).bind (fun s1 => (placeMoved keys s1 []).bind (fun q => mapWeights m small q.1 wp q.2))) = some t) :
    OnlyMemory s t := by
  simp only [Option.bind_eq_some_iff] at h
  obtain ⟨s1, capacity, q, moved, weights⟩ := h
  exact ((mapCapacity_onlyMemory _ capacity).trans (placeMoved_onlyMemory _ moved)).trans (mapWeights_onlyMemory _ _ _ _ weights)

theorem placeModel_changes (s : State) (id : Nat) (mf : Manifest) (image : List Byte) : StoreChanged s (placeModel s id mf image).1 := by
  -- unfolded as a function, as in `placeModel_keeps`
  generalize shape : placeModel = f
  delta placeModel at shape
  subst shape
  beta_reduce
  simp only []
  split
  · exact .refl s
  · split
    · exact .refl s
    · next s2 mapped =>
      split
      · exact .refl s
      · next s3 written =>
        obtain ⟨ms, rfl⟩ : OnlyMemory s s3 := (mapModel_onlyMemory mapped).trans (firmwareWrite_onlyMemory _ _ written)
        split
        · exact ⟨_, _, _, _, rfl⟩
        · exact ⟨_, _, _, _, rfl⟩

theorem loadModel_changes (s : State) (id : Nat) (manifest image : List Byte) : StoreChanged s (loadModel s id manifest image).1 := by
  unfold loadModel
  split
  · exact .refl s
  · split
    · exact .refl s
    · split
      · exact .refl s
      · exact placeModel_changes s id _ image

/-! An unload (R272). -/

theorem restage_onlyMemory (s : State) (model : Nat) : OnlyMemory s (restage s model) := by
  unfold restage
  extract_lets n have'
  split
  · exact .refl s
  · exact ⟨_, rfl⟩

theorem clearPlan_changes (s : State) : StoreChanged s (clearPlan s) := by
  unfold clearPlan
  split
  · exact .refl s
  · exact ⟨_, _, _, _, rfl⟩

theorem clearPlan_models (s : State) : (clearPlan s).models = s.models := by
  unfold clearPlan
  split <;> rfl

theorem unmapModel_onlyMemory (s : State) (m : Model) : OnlyMemory s (unmapModel s m) := ⟨_, rfl⟩

theorem keepVersions_changes (s : State) (keep : Graph → Version → Bool) : GraphsChanged s (keepVersions s keep) := ⟨_, _, rfl⟩

theorem filterModels_changes (s : State) (p : Model → Bool) : StoreChanged s { s with models := s.models.filter p } := ⟨_, _, _, _, rfl⟩

theorem filterGraphs_changes (s : State) (p : Graph → Bool) : GraphsChanged s { s with graphs := s.graphs.filter p } := ⟨_, _, rfl⟩

/-- An unload's model is gone and the others stand. -/
theorem unloadNow_changes (s : State) (m : Model) :
    StoreChanged s (unloadNow s m) ∧ (unloadNow s m).models = s.models.filter (fun x => x.id != m.id) := by
  unfold unloadNow
  extract_lets s1 s2 s2' s3
  have unmapped : GraphsChanged s s1 := (unmapModel_onlyMemory s m).graphs
  have dropped := filterModels_changes s1 (fun x => x.id != m.id)
  have after : GraphsChanged { s1 with models := s1.models.filter (fun x => x.id != m.id) } s3 :=
    ((keepVersions_changes _ _).trans (filterGraphs_changes _ _)).trans (restage_onlyMemory s2' m.id).graphs
  have changed : StoreChanged s s3 := (unmapped.store.trans dropped).trans after.store
  have left : s3.models = s.models.filter (fun x => x.id != m.id) := by rw [after.models, unmapped.models]
  split
  · exact ⟨changed, left⟩
  · exact ⟨changed.trans (clearPlan_changes s3), (clearPlan_models s3).trans left⟩

theorem unloadResult_changes (s : State) (k : Nat) : StoreChanged s (unloadResult s k).1 := by
  unfold unloadResult
  split
  · exact .refl s
  · split
    · exact .refl s
    · exact (unloadNow_changes s _).1

theorem unloadResult_result (s : State) (k : Nat) : (unloadResult s k).2.1 = if 1 ≤ k ∧ k ≤ 63 then .ok else .badDescriptor := by
  unfold unloadResult
  split
  · rw [if_neg (by omega)]
  · rw [if_pos (by omega)]
    split <;> rfl

theorem find?_filter_same (l : List Model) (k : Nat) : (l.filter (fun m => m.id != k)).find? (fun m => m.id == k) = none := by
  simp

theorem find?_filter_other (l : List Model) {k n : Nat} (other : n ≠ k) :
    (l.filter (fun m => m.id != k)).find? (fun m => m.id == n) = l.find? (fun m => m.id == n) := by
  rw [List.find?_filter]
  congr 1
  funext m
  by_cases h : m.id = n <;> simp [h, other]

theorem unloadResult_refused {s : State} {k : Nat} (bad : ¬(1 ≤ k ∧ k ≤ 63)) : (unloadResult s k).1 = s := by
  rw [unloadResult, if_pos (by omega)]

/-- An unload takes exactly the models of its number. -/
theorem unloadResult_models {s : State} {k : Nat} (inside : 1 ≤ k ∧ k ≤ 63) :
    (unloadResult s k).1.model? k = none ∧ ∀ n, n ≠ k → (unloadResult s k).1.model? n = s.model? n := by
  rw [unloadResult, if_neg (by omega)]
  cases found : s.model? k with
  | none => exact ⟨found, fun _ _ => rfl⟩
  | some m =>
    have id : m.id = k := by simpa using List.find?_some found
    have models : (unloadNow s m).models = s.models.filter (fun x => x.id != k) := id ▸ (unloadNow_changes s m).2
    have lookup (n : Nat) : (unloadNow s m).model? n = (s.models.filter (fun x => x.id != k)).find? (fun x => x.id == n) := congrArg _ models
    exact ⟨(lookup k).trans (find?_filter_same _ k), fun n other => (lookup n).trans (find?_filter_other _ other)⟩

/-! A version that becomes current (R311, R313). -/

theorem settlePins_changes (s : State) : GraphsChanged s (settlePins s) := ⟨_, _, rfl⟩

theorem find?_append_keyed {l : List Graph} {g : Graph} (free : l.find? (fun h => h.id == g.id) = none) :
    (l ++ [g]).find? (fun h => h.id == g.id) = some g := by
  rw [List.find?_append, free]
  simp

/-- A graph stands with version `n` current. -/
def IsCurrent (s : State) (id n : Nat) : Prop := ∃ g, s.graph? id = some g ∧ g.deleted = false ∧ g.cur = n

theorem IsCurrent.version {s : State} {id n : Nat} : IsCurrent s id n → (s.graph? id).map Graph.cur = some n := by
  rintro ⟨g, found, -, rfl⟩
  rw [found, Option.map_some]

theorem IsCurrent.completed {s t : State} {id n : Nat} (h : Completed s t) : IsCurrent s id n → IsCurrent t id n := by
  rintro ⟨g, found, live, rfl⟩
  exact h.graph id g found live

theorem IsCurrent.onlyMemory {s t : State} {id n : Nat} : OnlyMemory s t → IsCurrent s id n → IsCurrent t id n := by
  rintro ⟨_, rfl⟩ h
  exact h

/-- The version just installed is its graph's current one, and models stand. -/
theorem installVersion_installs (s : State) (id model : Nat) (v : Version) :
    GraphsChanged s (installVersion s id model v) ∧ IsCurrent (installVersion s id model v) id v.num := by
  unfold installVersion
  extract_lets ms s0 s1
  have entered : GraphsChanged s s1 ∧ IsCurrent s1 id v.num := by
    simp only [s1]
    split
    · next g found =>
      refine ⟨⟨_, _, rfl⟩, { g with model := model, deleted := false, cur := v.num, versions := g.versions ++ [v] }, ?_, rfl, rfl⟩
      refine (find?_map_keyed Graph.id s0.graphs id id ?_).trans ?_
      · exact fun _ h => h
      · rw [if_pos rfl, show s0.graphs.find? _ = some g from found]
        rfl
    · next free => exact ⟨⟨_, _, rfl⟩, _, find?_append_keyed (g := ⟨id, model, false, v.num, [v]⟩) free, rfl, rfl⟩
  have staged := restage_onlyMemory (settlePins s1) model
  exact ⟨(entered.1.trans (settlePins_changes s1)).trans staged.graphs, (entered.2.completed (settlePins_completed s1)).onlyMemory staged⟩

theorem require_error {p : Bool} {r : Res} {e : Err} (h : require p r = .error e) : e.1 = r := by
  unfold require at h
  split at h <;> cases h
  rfl

theorem storeRoom_error {s : State} {g : Option Graph} {n : Nat} {e : Err} (h : storeRoom s g n = .error e) : e.1 ≠ .ok := by
  unfold storeRoom at h
  cases versions : require _ Res.graphVersionLimit with
  | error f =>
    rw [versions] at h
    cases h
    exact require_error versions ▸ nofun
  | ok =>
    rw [versions] at h
    exact require_error h ▸ nofun

/-- What a store of a graph does: it is refused, deletes the graph, or installs its next version. -/
inductive StoreOutcome (s : State) (id model : Nat) (image : List Byte) : State × Res × Nat → Prop
  | refused (r : Res) (d : Nat) (bad : r ≠ .ok) : StoreOutcome s id model image (s, r, d)
  | deleted (t : State) (empty : image = []) (changed : GraphsChanged s t) : StoreOutcome s id model image (t, .ok, 0)
  | installed (v : Version) (d : Nat) (num : v.num = nextVersion (s.graph? id)) :
      StoreOutcome s id model image (installVersion s id model v, .ok, d)

theorem storeGraph_outcome (s : State) (id model : Nat) (image : List Byte) : StoreOutcome s id model image (storeGraph s id model image) := by
  unfold storeGraph
  extract_lets +onlyGivenNames g
  have named : g = s.graph? id := rfl
  clear_value g
  split
  · next empty =>
    split
    · next x =>
      split
      · exact .refused _ _ nofun
      · have marked : GraphsChanged s (s.updGraph id (fun y => { y with deleted := true })) := ⟨_, _, rfl⟩
        exact .deleted _ (List.isEmpty_iff.mp empty) ((marked.trans (settlePins_changes _)).trans (restage_onlyMemory _ x.model).graphs)
    · exact .refused _ _ nofun
  · refine iteInduction (motive := StoreOutcome s id model image) (fun _ => .refused _ _ nofun) (fun _ => ?_)
    split
    · exact .refused _ _ nofun
    · split
      · exact .refused _ _ nofun
      · split
        · next room => exact .refused _ _ (storeRoom_error room)
        · exact .installed _ _ (congrArg nextVersion named)

theorem StoreOutcome.changes {s : State} {id model : Nat} {image : List Byte} {q : State × Res × Nat} (h : StoreOutcome s id model image q) :
    GraphsChanged s q.1 := by
  cases h with
  | refused => exact (OnlyMemory.refl s).graphs
  | deleted _ _ changed => exact changed
  | installed v => exact (installVersion_installs s id model v).1

theorem StoreOutcome.current {s : State} {id model : Nat} {image : List Byte} {q : State × Res × Nat} (h : StoreOutcome s id model image q)
    (bytes : image ≠ []) (ok : q.2.1 = .ok) : IsCurrent q.1 id (nextVersion (s.graph? id)) := by
  cases h with
  | refused r d bad => exact absurd ok bad
  | deleted _ empty => exact absurd empty bytes
  | installed v d num => exact num ▸ (installVersion_installs s id model v).2

/-! A patch (R316). -/

/-- What a patch does: it is refused, or its bytes are written and the next version is installed. -/
inductive PatchOutcome (s : State) (id : Nat) : State × Res × Nat → Prop
  | refused (r : Res) (d : Nat) (bad : r ≠ .ok) : PatchOutcome s id (s, r, d)
  | installed (g : Graph) (t : State) (v : Version) (d : Nat) (found : s.graph? id = some g) (num : v.num = g.cur + 1) (changed : StoreChanged s t) :
      PatchOutcome s id (installVersion t id g.model v, .ok, d)

theorem patchGraph_outcome (s : State) (id : Nat) (image : List Byte) : PatchOutcome s id (patchGraph s id image) := by
  unfold patchGraph
  split
  · exact .refused _ _ nofun
  · next g found =>
    split
    · exact .refused _ _ nofun
    · split
      · exact .refused _ _ nofun
      · extract_lets +onlyGivenNames num segs origin
        split
        · exact .refused _ _ nofun
        · split
          · next room => exact .refused _ _ (storeRoom_error room)
          · refine iteInduction (motive := PatchOutcome s id) (fun _ => .refused _ _ nofun) (fun _ => ?_)
            refine iteInduction (motive := PatchOutcome s id) (fun _ => .refused _ _ nofun) (fun _ => ?_)
            refine iteInduction (motive := PatchOutcome s id) (fun _ => .refused _ _ nofun) (fun _ => ?_)
            extract_lets +onlyGivenNames ws
            split
            · next failed => exact .refused _ _ (firmwareWrite_error _ _ failed ▸ nofun)
            · next s1 written =>
              extract_lets fresh s2
              have marked : StoreChanged s1 s2 := ⟨_, _, _, _, rfl⟩
              exact .installed g s2 _ _ found rfl ((firmwareWrite_onlyMemory _ _ written).graphs.store.trans marked)

theorem PatchOutcome.changes {s : State} {id : Nat} {q : State × Res × Nat} (h : PatchOutcome s id q) : StoreChanged s q.1 := by
  cases h with
  | refused => exact .refl s
  | installed g t v d found num changed => exact changed.trans (installVersion_installs t id g.model v).1.store

theorem PatchOutcome.current {s : State} {id : Nat} {q : State × Res × Nat} {g : Graph} (h : PatchOutcome s id q) (found : s.graph? id = some g)
    (ok : q.2.1 = .ok) : IsCurrent q.1 id (g.cur + 1) := by
  cases h with
  | refused r d bad => exact absurd ok bad
  | installed h t v d named num changed =>
    obtain rfl : h = g := Option.some.inj (named.symm.trans found)
    exact num ▸ (installVersion_installs t id h.model v).2

/-! The rows on a Parvon that acts alone (R362, R364). -/

/-- A context whose change has its RESULT. -/
def Ctx.answered (x : Ctx) (r : Res) (detail : Nat) : Ctx :=
  { x with toRead := [], reads := [], detail := BitVec.ofNat 64 detail, failure := if r.isOk then none else some r, info := x.info ||| r.infoBit }

theorem endChange_alone {s : State} (alone : mirroring s = false) (x : Ctx) (r : Res) (detail : Nat) :
    endChange s x [] r detail = endHold (complete s (x.answered r detail) r) x.num := by
  rw [endChange, alone, if_neg Bool.false_ne_true]
  exact if_pos rfl

/-- A change made here alone completes its request and stands. -/
theorem change_completes {s : State} {x : Ctx} {c : Conn} {u : Mirror} {apply : State → State × Res × Nat} (can : CanComplete s x c)
    (single : paired s = false) (first : isSecondary s = false) (stays : StoreChanged s (apply s).1) :
    RecordSent (change s x u apply) x c (apply s).2.1 ∧ Completed (apply s).1 (change s x u apply) := by
  have can1 := stays.canComplete can
  rw [change, if_neg (by simp [first])]
  extract_lets r
  rw [if_neg (by simp [single]), endChange_alone can1.alone]
  have completed : Completed r.1 (complete r.1 (x.answered r.2.1 r.2.2) r.2.1) := complete_completed can1.alone _ _
  have ended : Completed (complete r.1 (x.answered r.2.1 r.2.2) r.2.1) (endHold (complete r.1 (x.answered r.2.1 r.2.2) r.2.1) x.num) :=
    endHold_completed (completed.mirroring.trans can1.alone) x.num
  exact ⟨(complete_recordSent can1 r.2.1).mono ended, completed.trans ended⟩

theorem changeCtx_ready {s : State} {n typ : Nat} {x : Ctx} (found : s.ctx? n = some x) (type : x.typ = typ) (input : x.state = .input)
    (free : changeBusy s n = false) : changeCtx s n typ = some x := by
  rw [changeCtx, found]
  exact if_pos ⟨type, input, free⟩

theorem CanComplete.readsDone {s : State} {x : Ctx} {c : Conn} (can : CanComplete s x c) : CanComplete (readsDone s x) x c :=
  ⟨can.conn, can.attached, can.idle, can.room, can.alone⟩

section
variable {s : State} {n : Nat} {x : Ctx} {d : Unit64} (found : s.ctx? n = some x) (input : x.state = .input) (free : changeBusy s n = false)
  (desc : x.descs.getD 0 [] = d)
include found input free desc

theorem exec_loadModel_reads {man w : List Byte} (type : x.typ = 2) (load : byteAt d 9 = 0) (first : blobFits x 0 man = true)
    (second : blobFits x 1 w = true) (awake : loadAsleep s (loadModel s (byteAt d 8) man w).1 = false) :
    exec (.loadModel n man w) s =
      .next (change (readsDone s x) x (.model 0 (byteAt d 8) man w) (fun s => loadModel s (byteAt d 8) man w)) := by
  subst desc
  show execLoadModel n man w s = _
  rw [execLoadModel, changeCtx_ready found type input free]
  exact congrArg Host.Outcome.next (if_pos ⟨load, first, second, awake⟩)

theorem exec_unloadModel_changes (type : x.typ = 2) (unload : byteAt d 9 = 1) (unused : launchesOf s (byteAt d 8) = false) :
    exec (.unloadModel n) s = .next (change s x (.model 1 (byteAt d 8) [] []) (fun s => unloadResult s (byteAt d 8))) := by
  subst desc
  show execUnloadModel n s = _
  rw [execUnloadModel, changeCtx_ready found type input free]
  exact congrArg Host.Outcome.next (if_pos ⟨unload, unused⟩)

theorem exec_storeGraph_reads {img : List Byte} (type : x.typ = 3) (fits : blobFits x 0 img = true) :
    exec (.storeGraph n img) s =
      .next (change (readsDone s x) x (.graph (fld d 8 0 12) (byteAt d 10) img) (fun s => storeGraph s (fld d 8 0 12) (byteAt d 10) img)) := by
  subst desc
  show execStoreGraph n img s = _
  rw [execStoreGraph, changeCtx_ready found type input free]
  exact congrArg Host.Outcome.next (if_pos fits)

theorem exec_patchGraph_reads {img : List Byte} {h : Hold} (type : x.typ = 4) (fits : blobFits x 0 img = true)
    (held : s.holds.find? (fun h => h.graph == fld d 8 0 12) = some h) (mine : h.ctx = n) (covers : holdFits s h img = true)
    (awake : asleep s (patchSpans s (fld d 8 0 12) img) = false) :
    exec (.patchGraph n img) s = .next (change (readsDone s x) x (.patch (fld d 8 0 12) img) (fun s => patchGraph s (fld d 8 0 12) img)) := by
  show execPatchGraph n img s = _
  rw [execPatchGraph, changeCtx_ready found type input free]
  dsimp only
  rw [desc, held]
  exact congrArg Host.Outcome.next (if_pos (by simp [fits, mine, covers, awake]))

end

/-- Settles O27: a change touches no request and no connection, so its request completes at once, and nothing of its completion
touches models or the version that is current. -/
theorem modelAndGraphChangesComplete : Obligations.ModelAndGraphChangesComplete := by
  intro s q n x c d can single first found desc done input free
  subst done
  have can1 := can.readsDone
  refine ⟨fun man w type load blob0 blob1 awake => ?_, fun type unload unused => ?_, fun img type fits => ?_,
    fun img g h type fits held mine covers awake graph => ?_⟩
  · obtain ⟨sent, kept⟩ := change_completes (u := .model 0 (byteAt d 8) man w) (apply := fun s => loadModel s (byteAt d 8) man w)
      can1 single first (loadModel_changes _ _ _ _)
    exact ⟨_, exec_loadModel_reads found input free desc type load blob0 blob1 awake, sent, kept.models⟩
  · obtain ⟨sent, kept⟩ := change_completes (u := .model 1 (byteAt d 8) [] []) (apply := fun s => unloadResult s (byteAt d 8))
      can single first (unloadResult_changes s _)
    have models (k : Nat) := congrArg (List.find? (fun m : Model => m.id == k)) kept.models
    refine ⟨_, exec_unloadModel_changes found input free desc type unload unused, unloadResult_result s _ ▸ sent, fun lo hi => ?_, fun k other => ?_⟩
    · exact (models _).trans (unloadResult_models ⟨lo, hi⟩).1
    · refine (models k).trans ?_
      by_cases inside : 1 ≤ byteAt d 8 ∧ byteAt d 8 ≤ 63
      · exact (unloadResult_models inside).2 k other
      · rw [unloadResult_refused inside]
        rfl
  · have outcome := storeGraph_outcome (readsDone s x) (fld d 8 0 12) (byteAt d 10) img
    obtain ⟨sent, kept⟩ := change_completes (u := .graph (fld d 8 0 12) (byteAt d 10) img)
      (apply := fun s => storeGraph s (fld d 8 0 12) (byteAt d 10) img) can1 single first outcome.changes.store
    exact ⟨_, exec_storeGraph_reads found input free desc type fits, sent, fun bytes ok => ((outcome.current bytes ok).completed kept).version,
      kept.models.trans outcome.changes.models⟩
  · have outcome := patchGraph_outcome (readsDone s x) (fld d 8 0 12) img
    obtain ⟨sent, kept⟩ := change_completes (u := .patch (fld d 8 0 12) img) (apply := fun s => patchGraph s (fld d 8 0 12) img)
      can1 single first outcome.changes
    exact ⟨_, exec_patchGraph_reads found input free desc type fits held mine covers awake, sent,
      fun ok => ((outcome.current graph ok).completed kept).version⟩

end Sys2Proof.Machine

namespace Sys2Proof.Machine

/-! ABORT while a record of another connection names a running launch (R276, R313). -/

/-- A descriptor of a type, a REQ_ID and its first operand word. -/
def plainUnit (typ req word : Nat) : Unit64 := toLE 4 typ ++ toLE 4 req ++ toLE 4 word ++ List.replicate 52 0

/-- A connection with empty rings and room for 4 records. -/
def idleConn : Conn :=
  { id := 1, port := 0, addr := 9, joined := 0, sqVa := 0, dbVa := 0, sqRkey := 0, sqSlots := 64, dataQps := 1, cqRecords := 4, cqVa := 0x1000,
    cqRkey := 7, ring := [], sqTail := 0, head := 0, cqHead := 0, nextSeq := 1, expected := 0, ignoredTail := 0, ignoredHead := 0,
    attached := true, mirroredPeer := false, outq := [], held := [], sends := [], rateLimited := [] }

/-- Connection 2: the record that waits on it names context 1, a launch of connection 1. -/
def strayConn : Conn := { idleConn with id := 2, outq := [{ bareRec 3 1 false .ok 0 with ctx := some 1 }] }

/-- ABORT of REQ_ID 3, the running launch and the patch of graph 7 that have it, and a launch of connection 2 that waits for the patch. -/
def abortOfThree : Ctx := newCtx State.reset 0 idleConn [plainUnit 5 9 3]
def runningThree : Ctx := { newCtx State.reset 1 idleConn [plainUnit 1 3 1] with state := .running, issuing := true, ver := 1 }
def patchThree : Ctx := newCtx State.reset 2 idleConn [plainUnit 4 3 7]
def waitingLaunch : Ctx := newCtx State.reset 3 strayConn [plainUnit 1 5 7]

def strayed : State :=
  { State.reset with
    conns := [idleConn, strayConn], ctxs := [abortOfThree, runningThree, patchThree, waitingLaunch], holds := [⟨2, 7, none⟩] }

theorem strayed_canComplete : CanComplete strayed abortOfThree idleConn :=
  ⟨by decide +kernel, rfl, rfl, by decide +kernel, by decide +kernel⟩

/-- The patch that stops lets the waiting launch pin; it fails, and with its record the stray one is written, which closes context 1. -/
theorem strayed_abort : (abortRow (.ctx 0) strayed).ctx? 1 = none := by decide +kernel

theorem exec_abort_alone {s : State} (alone : mirroring s = false) (src : ReqSrc) : exec (.abort src) s = .next (abortRow src s) :=
  exec_gated_alone rfl alone

/-- Refutes O26: the statement does not ask that a record which waits on a connection names a context of that connection that is closing.
In `strayed` the first record of connection 2 names the running launch of connection 1. ABORT fails that launch and then stops the patch;
the end of the patch's hold completes the launch that waited, on connection 2, and the record before it closes the running launch: no
context is left with ABORTED. -/
theorem not_controlRequestsAnswer : ¬ Obligations.ControlRequestsAnswer := by
  unfold Obligations.ControlRequestsAnswer
  rintro ⟨abort, -⟩
  obtain ⟨t, ran, -, stopped, -⟩ := abort strayed 0 abortOfThree idleConn strayed_canComplete (by decide +kernel) (by decide +kernel)
    (by decide +kernel) (by decide +kernel) [1, 2] (by decide +kernel)
  have same : abortRow (.ctx 0) strayed = t := Host.Outcome.next.inj ((exec_abort_alone strayed_canComplete.alone _).symm.trans ran)
  obtain ⟨failed, -⟩ := stopped 1 (by decide) runningThree (by decide +kernel)
  obtain ⟨z, found, -⟩ := failed (by decide +kernel) (by decide +kernel)
  rw [← same, strayed_abort] at found
  cases found

end Sys2Proof.Machine

namespace Sys2Proof.Machine

/-! The place of a context after its command (R293, R299): counts of events and the place move, the context does not. -/

/-- An event's counts move and nothing else. -/
theorem Ctx.bumpEvent_frame (x : Ctx) (ev i c : Nat) : x.bumpEvent ev i c = { x with events := (x.bumpEvent ev i c).events } := by
  unfold Ctx.bumpEvent
  split
  · rfl
  · split <;> rfl

@[simp] theorem Ctx.bumpEvent_num (x : Ctx) (ev i c : Nat) : (x.bumpEvent ev i c).num = x.num := by rw [Ctx.bumpEvent_frame]

@[simp] theorem unwind_num : ∀ (l : List Frame) (x : Ctx), (unwind l x).num = x.num
  | [], _ => rfl
  | f :: t, x => by
      simp only [unwind]
      split
      · rfl
      · exact unwind_num t _

@[simp] theorem Ctx.goto_num (x : Ctx) (t : Option Nat) : (x.goto t).num = x.num := by
  cases t with
  | none => exact unwind_num x.calls x
  | some _ => rfl

@[simp] theorem Ctx.step_num (x : Ctx) (v : Version) : (x.step v).num = x.num := x.goto_num _

/-! A control command that runs (R288, R290, R303). -/

theorem waitingOf_ctx? {s : State} {n : Nat} {x : Ctx} {v : Version} {us : List Unit64} (h : waitingOf s n = some (x, v, us)) :
    s.ctx? n = some x := by
  unfold waitingOf at h
  split at h
  · cases h
  · next y found =>
    split at h
    · cases h
    · simp only at h
      split at h
      · cases h
        exact found
      · cases h

theorem nextOf_waiting {s : State} {n : Nat} {q : Ctx × Version × List Unit64} (h : nextOf s n = some q) : waitingOf s n = some q := by
  unfold nextOf at h
  split at h
  · exact h
  · cases h

theorem nextOf_ctx? {s : State} {n : Nat} {x : Ctx} {v : Version} {us : List Unit64} (h : nextOf s n = some (x, v, us)) :
    s.ctx? n = some x := waitingOf_ctx? (nextOf_waiting h)

theorem NextIs.found {s : State} {n op : Nat} {x : Ctx} {v : Version} {u : Unit64} : NextIs s n op x v u → s.ctx? n = some x :=
  fun ⟨_, next, _⟩ => nextOf_ctx? next

/-- A context of which its core has taken a command. -/
theorem setCtx_turned {s : State} {n : Nat} {x y : Ctx} (found : s.ctx? n = some x) (num : y.num = x.num) :
    CtxTurned s ((s.turned n).setCtx y) n y := by
  have here : (s.turned n).ctx? n = some x := found
  obtain ⟨now, others, -⟩ := setCtx_becomes here (num.trans (ctx?_num found))
  exact ⟨now, others, rfl, rfl, rfl⟩

section
variable {s : State} {n op : Nat} {x : Ctx} {v : Version} {u : Unit64} {f : Ctx → Version → Unit64 → Option Ctx} (next : NextIs s n op x v u)
include next

theorem runControl_runs {y : Ctx} (out : f x v u = some y) : runControl s n op f = (s.turned n).setCtx (y.bumpEvent (hdrSignal u) 1 1) := by
  obtain ⟨us, next, rfl, opcode⟩ := next
  simp only [runControl, next]
  rw [if_pos opcode, out]

theorem runControl_refuses (out : f x v u = none) : runControl s n op f = (s.turned n).setCtx (x.fail .badDescriptor) := by
  obtain ⟨us, next, rfl, opcode⟩ := next
  simp only [runControl, next]
  rw [if_pos opcode, out]

theorem runControl_turned {y : Ctx} (out : f x v u = some y) (num : y.num = x.num) :
    CtxTurned s (runControl s n op f) n (y.bumpEvent (hdrSignal u) 1 1) := by
  rw [runControl_runs next out]
  exact setCtx_turned next.found (by rw [Ctx.bumpEvent_num, num])

theorem runControl_failed (out : f x v u = none) : CtxTurned s (runControl s n op f) n (x.fail .badDescriptor) := by
  rw [runControl_refuses next out]
  exact setCtx_turned next.found rfl

end

/-! Waits (R294). -/

theorem eventsMet_iff {x : Ctx} {u : Unit64} : eventsMet x u = true ↔ ∀ k < 4, x.satisfied (leAt u (8 + 2 * k) 2) = true := by
  simp [eventsMet]

section
variable {s : State} {n : Nat} {x : Ctx} {v : Version} {u : Unit64}

theorem exec_waitEvent_met (next : NextIs s n 0x85 x v u) (met : eventsMet x u = true) :
    exec (.waitEvent n) s = .next (runControl s n 0x85 (fun x v _ => some (x.step v))) := by
  obtain ⟨us, next, rfl, -⟩ := next
  simp only [exec, execWaitEvent, next]
  rw [if_pos met]

theorem exec_waitEvent_waits (next : NextIs s n 0x85 x v u) (unmet : eventsMet x u = false) : exec (.waitEvent n) s = .next s := by
  obtain ⟨us, next, rfl, -⟩ := next
  simp only [exec, execWaitEvent, next]
  rw [if_neg (Bool.eq_false_iff.mp unmet)]

theorem exec_fence_free (none' : inFlight s n = []) :
    exec (.fence n) s = .next (runControl s n 0x8A (fun x v _ => some (x.step v))) := by
  simp [exec, execFence, none']

theorem exec_fence_waits (some' : inFlight s n ≠ []) : exec (.fence n) s = .next s := by
  simp [exec, execFence, some']

theorem exec_signalEvent_free (next : NextIs s n 0x86 x v u) (none' : inFlight s n = []) :
    exec (.signalEvent n) s = .next ((s.turned n).setCtx ((x.step v).bumpEvent (hdrSignal u) 1 1)) := by
  obtain ⟨us, next, rfl, opcode⟩ := next
  simp only [exec, execSignalEvent, next]
  rw [if_neg (not_not.mpr opcode), none']
  rfl

/-- The context after a `SIGNAL_EVENT` that waits for the commands `ids`. -/
def Ctx.signalLate (x : Ctx) (ev : Nat) (ids : List Nat) : Ctx :=
  { x.bumpEvent ev 1 0 with lateSignals := (x.bumpEvent ev 1 0).lateSignals ++ [(ev, ids)] }

theorem exec_signalEvent_late (next : NextIs s n 0x86 x v u) (some' : inFlight s n ≠ []) :
    exec (.signalEvent n) s = .next ((s.turned n).setCtx ((x.step v).signalLate (hdrSignal u) (inFlight s n))) := by
  obtain ⟨us, next, rfl, opcode⟩ := next
  simp only [exec, execSignalEvent, next]
  rw [if_neg (not_not.mpr opcode), if_neg (by simpa using some')]
  rfl

end

/-- Settles O12: every row is a control command that turns its core's round, or leaves the state as it is. -/
theorem nopsWaitsAndFencesAdvance : Obligations.NopsWaitsAndFencesAdvance := by
  unfold Obligations.NopsWaitsAndFencesAdvance
  intro s n x v u
  refine ⟨fun next => ?_, fun next met => ?_, fun next ⟨k, hk, unmet⟩ => ?_, fun next none' => ?_, fun _ some' => ?_, fun next none' => ?_,
    fun next some' => ?_, fun next => ?_⟩
  case refine_1 => exact Gives.next (runControl_turned next rfl (x.step_num v))
  case refine_2 =>
    rw [exec_waitEvent_met next (eventsMet_iff.mpr met)]
    exact Gives.next (runControl_turned next rfl (x.step_num v))
  case refine_3 =>
    refine exec_waitEvent_waits next (Bool.eq_false_iff.mpr fun met => ?_)
    exact Bool.eq_false_iff.mp unmet (eventsMet_iff.mp met k hk)
  case refine_4 =>
    rw [exec_fence_free none']
    exact Gives.next (runControl_turned next rfl (x.step_num v))
  case refine_5 => exact exec_fence_waits some'
  case refine_6 =>
    rw [exec_signalEvent_free next none']
    exact Gives.next (setCtx_turned next.found (by simp))
  case refine_7 =>
    rw [exec_signalEvent_late next some']
    exact Gives.next ⟨_, rfl, setCtx_turned next.found (by simp [Ctx.signalLate])⟩
  case refine_8 => exact Gives.next (runControl_turned next rfl (unwind_num x.calls x))

end Sys2Proof.Machine

namespace Sys2Proof.Machine

/-! Orbits (R295). -/

/-- The passes that an `ORBIT_BEGIN` asks for. -/
def orbitPasses (x : Ctx) (u : Unit64) : Nat := if fld u 8 21 1 = 1 then (x.sreg (fld u 12 0 6)).toNat else fld u 8 0 21

/-- Whether an `ORBIT_END` leaves its orbit early. -/
def orbitQuits (x : Ctx) (u : Unit64) : Bool := fld u 8 3 1 == 1 && (x.pred (fld u 8 0 3) != (fld u 8 4 1 == 1))

/-- The context at an `ORBIT_END`: a resumed launch's step that ran in full ends with it (R237). -/
def Ctx.endFullStep (x : Ctx) : Ctx := if x.fullStep = true then { x with inFull := false, fullStep := false } else x

@[simp] theorem Ctx.endFullStep_num (x : Ctx) : x.endFullStep.num = x.num := by
  unfold Ctx.endFullStep
  split <;> rfl

section
variable {s : State} {n : Nat} {x : Ctx} {v : Version} {u : Unit64} (next : NextIs s n 0x81 x v u)
include next

theorem orbitBegin_fails (bad : 4 ≤ x.orbits.length ∨ 1048576 < orbitPasses x u) :
    Gives (exec (.orbitBegin n) s) (fun t => CtxTurned s t n (x.fail .badDescriptor)) :=
  Gives.next (runControl_failed next (if_pos bad))

theorem orbitBegin_skips (shallow : x.orbits.length < 4) (zero : orbitPasses x u = 0) :
    Gives (exec (.orbitBegin n) s) (fun t => CtxTurned s t n
      ((x.goto (afterOrbit v ((versionCmds v.segs).filter (fun c => decide (x.pc < c.1))) 0)).bumpEvent (hdrSignal u) 1 1)) := by
  have good : ¬(4 ≤ x.orbits.length ∨ 1048576 < orbitPasses x u) := by omega
  exact Gives.next (runControl_turned next ((if_neg good).trans (if_pos zero)) (x.goto_num _))

theorem orbitBegin_opens (shallow : x.orbits.length < 4) (some' : 1 ≤ orbitPasses x u) (few : orbitPasses x u ≤ 1048576) {body : Nat}
    (inside : v.next x.pc = some body) : Gives (exec (.orbitBegin n) s) (fun t => CtxTurned s t n
      ({ (x : Ctx) with pc := body, orbits := x.orbits ++ [Orbit.mk (orbitPasses x u) 0 body] }.bumpEvent (hdrSignal u) 1 1)) := by
  have good : ¬(4 ≤ x.orbits.length ∨ 1048576 < orbitPasses x u) := by omega
  have passes : orbitPasses x u ≠ 0 := by omega
  refine Gives.next (runControl_turned next (((if_neg good).trans (if_neg passes)).trans ?_) rfl)
  rw [inside]
  rfl

end

section
variable {s : State} {n : Nat} {x : Ctx} {v : Version} {u : Unit64} {o : Orbit} (next : NextIs s n 0x82 x v u)
  (inner : x.orbits.getLast? = some o)
include next inner

theorem orbitEnd_leavesEarly (quit : orbitQuits x u = true) (more : o.c + 1 < o.n) : Gives (exec (.orbitEnd n) s) (fun t => CtxTurned s t n
    (({ x.endFullStep.note .okEarlyExit with orbits := x.endFullStep.orbits.dropLast }.step v).bumpEvent (hdrSignal u) 1 1)) := by
  unfold orbitQuits at quit
  refine Gives.next (runControl_turned next ?_ (by simp [Ctx.note]))
  simp only [inner, quit, Bool.true_and, Bool.true_or, more, decide_true, if_true]
  rfl

theorem orbitEnd_leavesAtEnd (last : o.c + 1 = o.n) : Gives (exec (.orbitEnd n) s) (fun t => CtxTurned s t n
    (({ x.endFullStep with orbits := x.endFullStep.orbits.dropLast }.step v).bumpEvent (hdrSignal u) 1 1)) := by
  refine Gives.next (runControl_turned next ?_ (by simp))
  simp only [inner, last, lt_irrefl, decide_false, Bool.and_false, BEq.rfl, Bool.or_true, if_true, Bool.false_eq_true, if_false]
  rfl

theorem orbitEnd_goesBack (stay : orbitQuits x u = false) (more : o.c + 1 ≠ o.n) : Gives (exec (.orbitEnd n) s) (fun t => CtxTurned s t n
    ({ x.endFullStep with pc := o.body, orbits := x.endFullStep.orbits.dropLast ++ [{ o with c := o.c + 1 }] }.bumpEvent (hdrSignal u) 1 1)) := by
  unfold orbitQuits at stay
  refine Gives.next (runControl_turned next ?_ (by simp))
  simp only [inner, stay, Bool.false_and, Bool.false_or, beq_iff_eq, more, Bool.false_eq_true, if_false]
  rfl

end

/-- Settles O13: each way of R295's pseudo-code is one way of its row. -/
theorem orbitsLoop : Obligations.OrbitsLoop := by
  unfold Obligations.OrbitsLoop
  refine fun s n x v u => ⟨fun next k passes => ?_, fun next o inner quit hquit y hy => ?_⟩
  · obtain rfl : k = orbitPasses x u := passes
    exact ⟨orbitBegin_fails next, orbitBegin_skips next, fun shallow some' few _ => orbitBegin_opens next shallow some' few⟩
  · obtain rfl : quit = orbitQuits x u := hquit
    obtain rfl : y = x.endFullStep := hy
    exact ⟨orbitEnd_leavesEarly next inner, orbitEnd_leavesAtEnd next inner, orbitEnd_goesBack next inner⟩

/-! Sources and scalar registers (R296, R297). -/

section
variable {s : State} {n : Nat} {x : Ctx} {v : Version} {u : Unit64}

theorem scalarOp_writes (next : NextIs s n 0x8B x v u) {a b : DWord} (first : x.src (byteAt u 10) (BitVec.ofNat 64 (leAt u 16 8)) = some a)
    (second : x.src (byteAt u 11) (BitVec.ofNat 64 (leAt u 16 8)) = some b) : Gives (exec (.scalarOp n) s) (fun t => CtxTurned s t n
      (((x.setSreg (fld u 9 0 6) (scalarFn (fld u 8 0 5) a b)).step v).bumpEvent (hdrSignal u) 1 1)) :=
  Gives.next (runControl_turned next (by simp only [first, second]) (Ctx.step_num _ v))

theorem scalarOp_fails (next : NextIs s n 0x8B x v u) (closed : x.src (byteAt u 10) (BitVec.ofNat 64 (leAt u 16 8)) = none ∨
    x.src (byteAt u 11) (BitVec.ofNat 64 (leAt u 16 8)) = none) :
    Gives (exec (.scalarOp n) s) (fun t => CtxTurned s t n (x.fail .badDescriptor)) := by
  refine Gives.next (runControl_failed next ?_)
  rcases closed with h | h
  · simp only [h]
  · cases first : x.src (byteAt u 10) (BitVec.ofNat 64 (leAt u 16 8)) <;> simp only [first, h]

theorem setPred_fails (next : NextIs s n 0x83 x v u) (closed : x.src (byteAt u 12) (BitVec.ofNat 64 (leAt u 16 8)) = none ∨
    x.src (byteAt u 13) (BitVec.ofNat 64 (leAt u 16 8)) = none) :
    Gives (exec (.setPred n) s) (fun t => CtxTurned s t n (x.fail .badDescriptor)) := by
  refine Gives.next (runControl_failed next ?_)
  rcases closed with h | h
  · simp only [h]
  · cases first : x.src (byteAt u 12) (BitVec.ofNat 64 (leAt u 16 8)) <;> simp only [first, h]

theorem timestamp_writes (next : NextIs s n 0x8C x v u) : Gives (exec (.timestamp n) s) (fun t => CtxTurned s t n
    (((x.setSreg (fld u 8 0 6) (BitVec.ofNat 64 s.dev.timeNs)).step v).bumpEvent (hdrSignal u) 1 1)) :=
  Gives.next (runControl_turned next rfl (Ctx.step_num _ v))

end

section
variable (a b : DWord)

theorem scalarFn_add : (scalarFn 1 a b).toNat = (a.toNat + b.toNat) % 2 ^ 64 := BitVec.toNat_add a b
theorem scalarFn_mul : (scalarFn 3 a b).toNat = a.toNat * b.toNat % 2 ^ 64 := BitVec.toNat_mul a b

theorem scalarFn_sub : (scalarFn 2 a b).toNat = (a.toNat + (2 ^ 64 - b.toNat)) % 2 ^ 64 := by
  rw [Nat.add_comm]
  exact BitVec.toNat_sub a b

theorem scalarFn_min : (scalarFn 10 a b).toInt = min a.toInt b.toInt := (apply_ite BitVec.toInt _ a b).trans (min_def _ _).symm
theorem scalarFn_max : (scalarFn 11 a b).toInt = max a.toInt b.toInt := (apply_ite BitVec.toInt _ b a).trans (max_def _ _).symm
theorem scalarFn_minu : (scalarFn 12 a b).toNat = min a.toNat b.toNat := (apply_ite BitVec.toNat _ a b).trans (min_def _ _).symm
theorem scalarFn_maxu : (scalarFn 13 a b).toNat = max a.toNat b.toNat := (apply_ite BitVec.toNat _ b a).trans (max_def _ _).symm

end

/-- Settles O15: the rows by their operands, the operations by those of `BitVec`. -/
theorem scalarOpsWriteTheirRegister : Obligations.ScalarOpsWriteTheirRegister := by
  unfold Obligations.ScalarOpsWriteTheirRegister
  refine ⟨?_, fun a b => ⟨scalarFn_add a b, scalarFn_mul a b, scalarFn_min a b, scalarFn_max a b, scalarFn_minu a b, scalarFn_maxu a b,
    scalarFn_sub a b⟩⟩
  rintro s n x v u _ rfl
  exact ⟨fun next _ _ => scalarOp_writes next, scalarOp_fails, setPred_fails, timestamp_writes⟩

/-! Jumps, calls and prefetches (R298 to R300). -/

/-- Whether a `JUMP_IF` jumps. -/
def jumps (x : Ctx) (u : Unit64) : Prop :=
  fld u 8 3 2 = 0 ∨ (fld u 8 3 2 = 1 ∧ x.pred (fld u 8 0 3) = true) ∨ (fld u 8 3 2 = 2 ∧ x.pred (fld u 8 0 3) = false)

section
variable {s : State} {n : Nat} {x : Ctx} {v : Version} {u : Unit64}

theorem jumpIf_jumps (next : NextIs s n 0x84 x v u) (holds : jumps x u) : Gives (exec (.jumpIf n) s) (fun t => CtxTurned s t n
    ((x.goto (unitAhead v.lens x.pc (leAt u 12 3))).bumpEvent (hdrSignal u) 1 1)) :=
  Gives.next (runControl_turned next (if_pos holds) (x.goto_num _))

theorem jumpIf_steps (next : NextIs s n 0x84 x v u) (fails : ¬ jumps x u) :
    Gives (exec (.jumpIf n) s) (fun t => CtxTurned s t n ((x.step v).bumpEvent (hdrSignal u) 1 1)) :=
  Gives.next (runControl_turned next (if_neg fails) (x.step_num v))

/-- The context that has called version `m` of the graph `id` from a command of `v` (R299). -/
def Ctx.calling (x : Ctx) (v : Version) (id m : Nat) : Ctx :=
  { x with
    calls := ⟨x.pcGraph, x.pcVer, (v.next x.pc).getD endPc, x.orbits.length⟩ :: x.calls
    pins := if (alFind id x.pins).isSome then x.pins else x.pins ++ [(id, m)]
    pcGraph := id
    pcVer := m
    pc := 0 }

theorem repin_mem (s : State) : (repin s).ms.mem = s.ms.mem := setPte_foldl_mem _ _ _

theorem callGraph_calls (next : NextIs s n 0x87 x v u) (shallow : x.calls.length < 4) {m : Nat}
    (callee : calleeVersion s x (fld u 8 0 12) = some m) : Gives (exec (.callGraph n) s) (fun t => ∃ r, t = repin r ∧
      CtxTurned s r n ((x.calling v (fld u 8 0 12) m).bumpEvent (hdrSignal u) 1 1)) := by
  refine Gives.next ⟨_, rfl, runControl_turned next ?_ rfl⟩
  rw [if_neg (by omega), callee]
  rfl

theorem callGraph_fails (next : NextIs s n 0x87 x v u) (bad : 4 ≤ x.calls.length ∨ calleeVersion s x (fld u 8 0 12) = none) :
    Gives (exec (.callGraph n) s) (fun t => ∃ r, t = repin r ∧ CtxTurned s r n (x.fail .badDescriptor)) := by
  refine Gives.next ⟨_, rfl, runControl_failed next ?_⟩
  split
  · rfl
  · next shallow => simp only [bad.resolve_left shallow]

end

/-- Of the memory system the TLBs alone have changed. -/
def OnlyTlbs (a b : MemSys) : Prop := b = { a with tlbs := b.tlbs }

theorem OnlyTlbs.foldl {α : Type} {f : MemSys → α → MemSys} (step : ∀ m x, OnlyTlbs m (f m x)) (l : List α) (m : MemSys) :
    OnlyTlbs m (l.foldl f m) := by
  induction l generalizing m with
  | nil => rfl
  | cons x t ih => exact (ih (f m x)).trans (congrArg (fun q : MemSys => { q with tlbs := (t.foldl f (f m x)).tlbs }) (step m x))

theorem fillTlb_onlyTlbs (free : Nat) (ms : MemSys) (n : Nat) (p : Pte) : OnlyTlbs ms (fillTlb free ms n p) := rfl

/-- What a `PREFETCH` with the units `us` brings in, from the state `r` in which its context has gone on (R300). -/
def prefetched (r : State) (x : Ctx) (us : List Unit64) : State :=
  let d := parseDesc x.sregs (us.getD 1 [])
  if fld (us.getD 0 []) 8 0 1 = 1 then prefetchGraph r (fld (us.getD 0 []) 12 0 12)
  else if d.good && d.fmt?.isSome && d.count != 0 then prefetchPages r d
  else r

/-- From `r` to `t` only translations held by TLBs and the command cache change; the cache only where `graph` holds. -/
structure Fetched (graph : Prop) (r t : State) : Prop where
  cache : ¬ graph → t.cmdCache = r.cmdCache
  frame : t = { r with freeCtr := t.freeCtr, cmdCache := t.cmdCache, ms := { r.ms with tlbs := t.ms.tlbs } }

theorem Fetched.ctx? {graph : Prop} {r t : State} (h : Fetched graph r t) (n : Nat) : t.ctx? n = r.ctx? n := by rw [h.frame]; rfl

theorem Fetched.turns {graph : Prop} {r t : State} (h : Fetched graph r t) : t.turns = r.turns := by rw [h.frame]

/-- After a control command that brings translations in. -/
theorem Fetched.after {graph : Prop} {s r t : State} (h : Fetched graph r t)
    (control : r = { s with ctxs := r.ctxs, turns := r.turns, cmdCache := r.cmdCache }) : t = { s with
      ctxs := t.ctxs, turns := t.turns, freeCtr := t.freeCtr, cmdCache := t.cmdCache, ms := { s.ms with tlbs := t.ms.tlbs } } := by
  obtain ⟨_, _, _, rfl⟩ : ∃ n c l, t = { r with freeCtr := n, cmdCache := c, ms := { r.ms with tlbs := l } } := ⟨_, _, _, h.frame⟩
  obtain ⟨_, _, _, rfl⟩ : ∃ x n c, r = { s with ctxs := x, turns := n, cmdCache := c } := ⟨_, _, _, control⟩
  rfl

theorem prefetchPages_fetched (graph : Prop) (r : State) (d : Desc) : Fetched graph r (prefetchPages r d) := by
  unfold prefetchPages
  extract_lets hit up fill
  have fills (ms : MemSys) (p : Pte) : OnlyTlbs ms (fill ms p) := OnlyTlbs.foldl (fun m n => fillTlb_onlyTlbs _ m n p) up ms
  have only : OnlyTlbs r.ms (hit.foldl fill r.ms) := OnlyTlbs.foldl fills hit r.ms
  exact ⟨fun _ => rfl, congrArg (fun ms => { r with freeCtr := r.freeCtr + 16, ms := ms }) only⟩

theorem prefetched_fetched (r : State) (x : Ctx) (us : List Unit64) : Fetched (fld (us.getD 0 []) 8 0 1 = 1) r (prefetched r x us) := by
  unfold prefetched
  extract_lets d
  split
  · next graph =>
    unfold prefetchGraph
    split <;> exact ⟨fun h => absurd graph h, rfl⟩
  · split
    · exact prefetchPages_fetched _ r d
    · exact ⟨fun _ => rfl, rfl⟩

theorem exec_prefetch {s : State} {n : Nat} {x : Ctx} {v : Version} {us : List Unit64} (next : nextOf s n = some (x, v, us))
    (opcode : hdrOpcode (us.getD 0 []) = 0x89) :
    exec (.prefetch n) s = .next (prefetched (runControl s n 0x89 (fun x v _ => some (x.step v))) x us) := by
  simp only [exec, execPrefetch, next]
  rw [if_neg (not_not.mpr opcode)]
  rfl

/-- Settles O16: JUMP_IF by its condition, CALL_GRAPH by its callee, PREFETCH by what its two forms bring in. -/
theorem jumpsCallsAndPrefetch : Obligations.JumpsCallsAndPrefetch := by
  unfold Obligations.JumpsCallsAndPrefetch
  intro s n x v u
  refine ⟨jumpIf_jumps, fun next other => jumpIf_steps next ?_, fun next shallow m callee => ?_, fun next bad => ?_, ?_⟩
  · unfold jumps
    grind
  · obtain ⟨_, ran, r, rfl, turned⟩ := callGraph_calls next shallow callee
    obtain ⟨now, others, -, -, frame⟩ := turned
    rw [Ctx.bumpEvent_frame] at now
    refine ⟨_, ran, _, now, rfl, rfl, rfl, rfl, rfl, rfl, rfl, others, fun a => ?_, ?_⟩
    · rw [repin_mem, frame]
    · rw [frame]
      exact ⟨rfl, rfl, rfl⟩
  · obtain ⟨_, ran, r, rfl, turned⟩ := callGraph_fails next bad
    refine ⟨_, ran, turned.now, ?_⟩
    rw [turned.frame]
    rfl
  · intro next
    obtain ⟨now, others, turn, cache, frame⟩ := runControl_turned (f := fun x v _ => some (x.step v)) next rfl (x.step_num v)
    obtain ⟨us, next, rfl, opcode⟩ := next
    rw [exec_prefetch next opcode]
    have fetched := prefetched_fetched (runControl s n 0x89 (fun x v _ => some (x.step v))) x us
    exact Gives.next ⟨(fetched.ctx? n).trans now, fun k other => (fetched.ctx? k).trans (others k other), fetched.turns.trans turn,
      fun pages => (fetched.cache (by omega)).trans cache, fetched.after frame⟩

end Sys2Proof.Machine

namespace Sys2Proof.Machine

/-! The work of an operator command (R70, R206, R250): what it touches on its way to a result. -/

/-- From `s` to `t` command `id` works: beside the command itself, memory, generators, scalar registers and error records stay. -/
structure WorksFor (id : Nat) (s t : State) : Prop where
  others : ∀ n, n ≠ id → t.cmd? n = s.cmd? n
  stays : ∀ c, s.cmd? id = some c → ∃ d, t.cmd? id = some d
  frame : ∃ n ms xs cs si pa h a l j, t = { s with
    freeCtr := n, ms := ms, ctxs := xs, cmds := cs, sites := si, parts := pa, hdrs := h, attn := a, logs := l, jmpJumps := j }

namespace WorksFor
variable {id : Nat} {s t u : State}

/-- A change of memory, generators, registers and records alone. -/
theorem of_frame (id : Nat) (s : State) (n : Nat) (ms : MemSys) (xs : List Ctx) (si : List (Nat × Site)) (pa : List (Nat × Partition))
    (h : List (Nat × PageHdr)) (a : Attn) (l : List Log) (j : Ctr48) : WorksFor id s { s with
      freeCtr := n, ms := ms, ctxs := xs, sites := si, parts := pa, hdrs := h, attn := a, logs := l, jmpJumps := j } :=
  ⟨fun _ _ => rfl, fun c found => ⟨c, found⟩, _, _, _, _, _, _, _, _, _, _, rfl⟩

theorem refl (id : Nat) (s : State) : WorksFor id s s := of_frame id s _ _ _ _ _ _ _ _ _

theorem trans (h : WorksFor id s t) (k : WorksFor id t u) : WorksFor id s u where
  others n other := (k.others n other).trans (h.others n other)
  stays c found := by
    obtain ⟨d, found⟩ := h.stays c found
    exact k.stays d found
  frame := by
    obtain ⟨_, _, _, _, _, _, _, _, _, _, rfl⟩ := h.frame
    obtain ⟨_, _, _, _, _, _, _, _, _, _, rfl⟩ := k.frame
    exact ⟨_, _, _, _, _, _, _, _, _, _, rfl⟩

theorem foldl {α : Type} {f : State → α → State} (step : ∀ s x, WorksFor id s (f s x)) (l : List α) (s : State) : WorksFor id s (l.foldl f s) := by
  induction l generalizing s with
  | nil => exact refl id s
  | cons x t ih => exact (step s x).trans (ih _)

theorem of_onlyMemory : OnlyMemory s t → WorksFor id s t := by
  rintro ⟨_, rfl⟩
  exact of_frame id s _ _ _ _ _ _ _ _ _

theorem of_onlyLogged : OnlyLogged s t → WorksFor id s t := by
  rintro ⟨_, _, _, _, rfl⟩
  exact of_frame id s _ _ _ _ _ _ _ _ _

theorem withMs (h : WorksFor id s t) (ms : MemSys) : WorksFor id s { t with ms := ms } := h.trans (of_frame id t _ _ _ _ _ _ _ _ _)

/-- The command gets its result at the end of its work. -/
theorem result (h : WorksFor id s t) {c : Cmd} (found : s.cmd? id = some c) {f : Cmd → Cmd} (keep : ∀ d, (f d).id = d.id) {r : Res}
    (ends : ∀ d, (f d).result = some r) : CommandRan s (t.updCmd id f) id := by
  obtain ⟨d, now⟩ := h.stays c found
  have others (n : Nat) (other : n ≠ id) : (t.updCmd id f).cmd? n = s.cmd? n := by
    rw [cmd?_updCmd t id n keep, if_neg other, h.others n other]
  have here : (t.updCmd id f).cmd? id = some (f d) := by
    rw [cmd?_updCmd t id id keep, if_pos rfl, now]
    rfl
  obtain ⟨_, _, _, _, _, _, _, _, _, _, rfl⟩ := h.frame
  exact ⟨⟨f d, r, here, ends d⟩, others, rfl, rfl, rfl, rfl, rfl, rfl, rfl, rfl⟩

end WorksFor

theorem updCmd_worksFor (s : State) (id : Nat) {f : Cmd → Cmd} (keep : ∀ d, (f d).id = d.id) : WorksFor id s (s.updCmd id f) where
  others n other := by rw [cmd?_updCmd s id n keep, if_neg other]
  stays c found := by
    rw [cmd?_updCmd s id id keep, if_pos rfl, found]
    exact ⟨f c, rfl⟩
  frame := ⟨_, _, _, _, _, _, _, _, _, _, rfl⟩

theorem advanceLfsr_worksFor (id : Nat) (s : State) (c : Cmd) : WorksFor id s (advanceLfsr s c) := by
  unfold advanceLfsr
  split
  · exact .refl id s
  · split
    · refine .foldl (fun t p => ?_) _ s
      split
      · exact .of_frame id t _ _ _ _ _ _ _ _ _
      · exact .refl id t
    · exact .foldl (fun t n => .of_frame id t _ _ _ _ _ _ _ _ _) _ s

theorem setSregs_worksFor (id : Nat) (s : State) (ctx : Nat) (l : List (Nat × DWord)) : WorksFor id s (setSregs s ctx l) :=
  .foldl (fun t _ => .of_frame id t _ _ _ _ _ _ _ _ _) l s

theorem writeTiles_onlyMemory (cmd : Nat) (hub : Bool) (on : Nat → Bool) : ∀ (l : List ((Place × List (Nat × Byte)) × Nat)) (s : State),
    OnlyMemory s (writeTiles cmd hub on l s).1
  | [], s => .refl s
  | (t, k) :: ts, s => by
      unfold writeTiles
      split
      · exact (writeAll_onlyMemory cmd hub t.2 t.2 s).trans (writeTiles_onlyMemory cmd hub on ts _)
      · exact writeTiles_onlyMemory cmd hub on ts s

theorem beginWrites_worksFor (s : State) (c : Cmd) (o : OpOut) : WorksFor c.id s (beginWrites s c o) := by
  unfold beginWrites
  extract_lets s1 jumps
  have generators : WorksFor c.id s s1 := ((WorksFor.of_frame c.id s _ _ _ _ _ _ _ _ _).trans (advanceLfsr_worksFor c.id _ c)).trans
    (updCmd_worksFor _ c.id (f := fun d => { d with was := replacedBytes s o.writes }) fun _ => rfl)
  exact generators.trans (.of_frame c.id s1 _ _ _ _ _ _ _ _ _)

theorem applyOut_worksFor (s : State) (c : Cmd) (hub : Bool) (o : OpOut) : WorksFor c.id s (applyOut s c hub o).1 := by
  have written (on : Nat → Bool) : WorksFor c.id s (writeTiles c.id hub on o.byPlace.zipIdx (beginWrites s c o)).1 :=
    (beginWrites_worksFor s c o).trans (.of_onlyMemory (writeTiles_onlyMemory c.id hub on _ _))
  unfold applyOut
  extract_lets s2 w
  split
  · exact (written _).trans (.of_onlyLogged (captureFault_onlyLogged _ c _))
  · exact (written _).trans (.of_onlyLogged (captureFault_onlyLogged _ c _))
  · exact (written _).trans (setSregs_worksFor c.id _ c.ctx o.sregs)

/-- An outcome applied ends the command's work with a result. -/
theorem finishOp_ran {s u : State} {c d : Cmd} (begun : WorksFor c.id s u) (found : s.cmd? c.id = some d) (hub : Bool)
    (run : State → Except Err OpOut) (o : OpOut) : CommandRan s (finishOp u c hub run o) c.id := by
  unfold finishOp
  extract_lets q again r _ t
  have applied : WorksFor c.id s r.1 := (begun.trans (.of_frame c.id u _ _ _ _ _ _ _ _ _)).trans (applyOut_worksFor _ c hub q)
  have used : WorksFor c.id s t := by
    simp only [t]
    split
    · exact applied
    · exact applied.withMs _
  exact used.result found (fun _ => rfl) (r := r.2) (fun _ => rfl)

/-- A fault before the work ends the command with its code. -/
theorem captureFault_ran {s u : State} {id : Nat} {d : Cmd} (begun : WorksFor id s u) (found : s.cmd? id = some d) (c : Cmd) (e : Err) :
    CommandRan s ((captureFault u c e).updCmd id (Cmd.close e.1)) id :=
  WorksFor.result (begun.trans (.of_onlyLogged (captureFault_onlyLogged u c e))) found (fun _ => rfl) (r := e.1) (fun _ => rfl)

/-- A command that has run keeps its result whatever else of it changes. -/
theorem CommandRan.updCmd {s t : State} {id : Nat} (h : CommandRan s t id) {f : Cmd → Cmd} (keep : ∀ d, (f d).id = d.id)
    (result : ∀ d, (f d).result = d.result) : CommandRan s (t.updCmd id f) id := by
  obtain ⟨⟨d, r, now, ended⟩, others, conns, models, graphs, tlc, fre, pwr, mgc, dev⟩ := h
  refine ⟨⟨f d, r, ?_, (result d).trans ended⟩, fun n other => ?_, conns, models, graphs, tlc, fre, pwr, mgc, dev⟩
  · rw [cmd?_updCmd t id id keep, if_pos rfl, now]
    rfl
  · rw [cmd?_updCmd t id n keep, if_neg other, others n other]

/-- What runs with a command's accesses in progress. -/
theorem during_ran {s : State} {id : Nat} {c : Cmd} {f : State → State} (ran : CommandRan (s.accessing c) (f (s.accessing c)) id) :
    CommandRan s (s.during c f) id := by
  obtain ⟨result, others, conns, models, graphs, tlc, fre, pwr, mgc, dev⟩ := ran
  exact ⟨result, others, conns, models, graphs, tlc, fre, pwr, mgc, dev⟩

theorem opReady_found {s : State} {id op : Nat} {c : Cmd} (ready : opReady s id op = some c) : s.cmd? id = some c ∧ c.id = id ∧ c.result = none := by
  unfold opReady at ready
  split at ready
  · next d found =>
    split at ready
    · next can =>
      cases ready
      exact ⟨found, by simpa using List.find?_some found, can.2.1⟩
    · cases ready
  · cases ready

/-- Nothing that has a result is ready. -/
theorem opReady_done {s : State} {id : Nat} (op : Nat) {c : Cmd} {r : Res} (found : s.cmd? id = some c) (done : c.result = some r) :
    opReady s id op = none := by
  simp [opReady, found, done]

theorem runOp_ran {s : State} {id op : Nat} {c : Cmd} (ready : opReady s id op = some c) (hub : Bool)
    {body : State → Cmd → State × Except Err OpOut} (memory : ∀ t d, OnlyMemory t (body t d).1) : CommandRan s (runOp s id op hub body) id := by
  obtain ⟨found, rfl, -⟩ := opReady_found ready
  simp only [runOp, ready]
  refine during_ran ?_
  have here : (s.accessing c).cmd? c.id = some c := found
  have begun : WorksFor c.id (s.accessing c) (body (s.accessing c) c).1 := .of_onlyMemory (memory _ c)
  split
  · next s1 e out =>
    rw [out] at begun
    exact captureFault_ran begun here c e
  · next s1 o out =>
    rw [out] at begun
    refine finishOp_ran ?_ here hub _ o
    split
    · split
      · exact begun.trans (.of_frame c.id s1 _ _ _ _ _ _ _ _ _)
      · exact begun
    · exact begun

theorem runOp_done {s : State} {id : Nat} {c : Cmd} {r : Res} (found : s.cmd? id = some c) (done : c.result = some r) (op : Nat) (hub : Bool)
    (body : State → Cmd → State × Except Err OpOut) : runOp s id op hub body = s := by
  simp only [runOp, opReady_done op found done]

/-- `SAMPLE_STEP` also takes the kept copies and remembers its map and its images. -/
theorem runSample_ran {s : State} {id : Nat} {c : Cmd} (ready : opReady s id 0x09 = some c) : CommandRan s (runSample s id) id := by
  obtain ⟨found, rfl, -⟩ := opReady_found ready
  simp only [runSample, ready]
  refine during_ran ?_
  have here : (s.accessing c).cmd? c.id = some c := found
  split
  · next e _ => exact captureFault_ran (.refl c.id _) here c e
  · next o staged _ =>
    refine CommandRan.updCmd ?_ (fun _ => rfl) (fun _ => rfl)
    exact finishOp_ran (.of_frame c.id (s.accessing c) _ _ _ _ _ _ _ _ _) here false _ o.out

/-! The rows. -/

theorem kvBody_onlyMemory (s : State) (c : Cmd) : OnlyMemory s (kvBody s c).1 := by
  unfold kvBody
  split
  · exact .refl s
  · exact .refl s
  · exact ⟨_, rfl⟩

theorem forkBody_onlyMemory (s : State) (c : Cmd) : OnlyMemory s (forkBody s c).1 := by
  unfold forkBody
  split
  · exact .refl s
  · exact .refl s
  · exact ⟨_, rfl⟩

theorem releaseBody_onlyMemory (s : State) (c : Cmd) : OnlyMemory s (releaseBody s c).1 := by
  unfold releaseBody
  split
  · exact .refl s
  · exact .refl s
  · exact ⟨_, rfl⟩

/-- A row runs a ready command of the opcode `op` to its result, and a command that has one no more. -/
def RunsOnce (op : Nat) (row : Nat → Instr) : Prop :=
  ∀ (s : State) (id : Nat) (c : Cmd), (opReady s id op = some c → Gives (exec (row id) s) (fun t => CommandRan s t id)) ∧
    (∀ r, s.cmd? id = some c → c.result = some r → exec (row id) s = .next s)

theorem runsOnce_of_runOp {op : Nat} {row : Nat → Instr} {body : State → Cmd → State × Except Err OpOut}
    (memory : ∀ t d, OnlyMemory t (body t d).1) (runs : ∀ s id, exec (row id) s = .next (runOp s id op false body)) : RunsOnce op row := by
  refine fun s id c => ⟨fun ready => ?_, fun r found done => ?_⟩
  · rw [runs]
    exact Gives.next (runOp_ran ready false memory)
  · rw [runs, runOp_done found done]

theorem runsOnce_of_pure {op : Nat} {row : Nat → Instr} (b : State → Cmd → Except Err OpOut)
    (runs : ∀ s id, exec (row id) s = .next (runOp s id op false (pureBody b))) : RunsOnce op row :=
  runsOnce_of_runOp (fun t _ => .refl t) runs

theorem sampleStep_runsOnce : RunsOnce 0x09 .sampleStep := by
  refine fun s id c => ⟨fun ready => Gives.next (runSample_ran ready), fun r found done => ?_⟩
  simp only [exec, execSampleStep, runSample, opReady_done _ found done]

theorem operatorRows_runOnce : ∀ r ∈ operatorRows, RunsOnce r.1 r.2 := by
  simp only [operatorRows, List.forall_mem_cons]
  exact ⟨runsOnce_of_pure mmBody fun _ _ => rfl, runsOnce_of_pure cvBody fun _ _ => rfl, runsOnce_of_pure poolBody fun _ _ => rfl,
    runsOnce_of_pure atBody fun _ _ => rfl, runsOnce_of_pure abBody fun _ _ => rfl, runsOnce_of_pure nrBody fun _ _ => rfl,
    runsOnce_of_pure smBody fun _ _ => rfl, runsOnce_of_pure vcBody fun _ _ => rfl, sampleStep_runsOnce,
    runsOnce_of_pure rfBody fun _ _ => rfl, runsOnce_of_pure stBody fun _ _ => rfl, runsOnce_of_pure boxBody fun _ _ => rfl,
    runsOnce_of_pure nmsBody fun _ _ => rfl, runsOnce_of_runOp kvBody_onlyMemory fun _ _ => rfl, runsOnce_of_pure copyBody fun _ _ => rfl,
    runsOnce_of_pure gatherBody fun _ _ => rfl, fun _ none' => nomatch none'⟩

section
variable {s : State} {id : Nat} {c : Cmd} (ready : opReady s id 0x13 = some c)
include ready

theorem isFork_ready (release : Bool) : isFork s id release = ((parseFk c.u0).release == release) := by
  obtain ⟨found, -, -⟩ := opReady_found ready
  simp only [isFork, found]

theorem exec_fork (op : (parseFk c.u0).release = false) :
    Gives (exec (.fork id) s) (fun t => CommandRan s t id) ∧ exec (.release id) s = .next s := by
  have forks : exec (.fork id) s = .next (runOp s id 0x13 false forkBody) :=
    congrArg Host.Outcome.next (if_pos (by rw [isFork_ready ready, op]; rfl))
  refine ⟨?_, congrArg Host.Outcome.next (if_neg (by rw [isFork_ready ready, op]; decide))⟩
  rw [forks]
  exact Gives.next (runOp_ran ready false forkBody_onlyMemory)

theorem exec_release (op : (parseFk c.u0).release = true) :
    Gives (exec (.release id) s) (fun t => CommandRan s t id) ∧ exec (.fork id) s = .next s := by
  have releases : exec (.release id) s = .next (runOp s id 0x13 false releaseBody) :=
    congrArg Host.Outcome.next (if_pos (by rw [isFork_ready ready, op]; rfl))
  refine ⟨?_, congrArg Host.Outcome.next (if_neg (by rw [isFork_ready ready, op]; decide))⟩
  rw [releases]
  exact Gives.next (runOp_ran ready false releaseBody_onlyMemory)

end

/-- Settles O7: each row is one way to run a ready command, and the shared run ends it with a result. -/
theorem operatorCommandsRunOnce : Obligations.OperatorCommandsRunOnce := by
  unfold Obligations.OperatorCommandsRunOnce
  exact ⟨fun r row s id c => operatorRows_runOnce r row s id c, fun s id c ready => ⟨exec_fork ready, exec_release ready⟩⟩

end Sys2Proof.Machine

namespace Sys2Proof.Machine

/-! The round of a core's contexts (R303). -/

/-- How far a context stands from where its core's round goes on. -/
def roundKey (s : State) (n : Nat) : Nat := (n + 65536 - s.turns.getD (n % 4) 0) % 65536

theorem inTurn_iff {s : State} {n : Nat} : inTurn s n = true ↔
    ∀ y ∈ s.ctxs, y.num % 4 = n % 4 → canGo s y.num = true → y.num = n ∨ roundKey s n ≤ roundKey s y.num := by
  simp only [inTurn, roundKey, List.all_eq_true, Bool.or_eq_true, bne_iff_ne, beq_iff_eq, decide_eq_true_eq, Bool.not_eq_true']
  refine forall₂_congr fun y _ => ?_
  by_cases same : y.num % 4 = n % 4
  · rw [same]
    grind
  · simp [same]

theorem canGo_found {s : State} {n : Nat} (go : canGo s n = true) : ∃ x ∈ s.ctxs, x.num = n := by
  unfold canGo at go
  split at go
  · cases go
  · next x _ _ waiting =>
    have found := waitingOf_ctx? waiting
    exact ⟨x, List.mem_of_find?_eq_some found, ctx?_num found⟩

/-- Of the contexts of a core that can go on, the one first in the round has the turn. -/
theorem exists_inTurn {s : State} {n : Nat} (go : canGo s n = true) : ∃ m, m % 4 = n % 4 ∧ canGo s m = true ∧ inTurn s m = true := by
  obtain ⟨m, ⟨core, goes⟩, first⟩ := exists_minimalFor_of_wellFoundedLT (fun m => m % 4 = n % 4 ∧ canGo s m = true) (roundKey s) ⟨n, rfl, go⟩
  refine ⟨m, core, goes, inTurn_iff.mpr fun y _ same other => Or.inr ?_⟩
  exact (Nat.le_total (roundKey s m) (roundKey s y.num)).elim id (first ⟨same.trans core, other⟩)

/-- After its turn a context stands last in the round. -/
theorem roundKey_turned {s : State} {n m : Nat} (cores : s.turns.length = 4) (core : n % 4 = m % 4) :
    roundKey (s.turned n) m = (m + 65536 - (n + 1) % 65536) % 65536 := by
  have turn : (s.turned n).turns.getD (m % 4) 0 = (n + 1) % 65536 := by
    rw [← core]
    exact updAt_getD_same (by omega) _ 0 0
  rw [roundKey, turn]

theorem not_inTurn_turned {s : State} {n m : Nat} (cores : s.turns.length = 4) (hn : n < 65536) (hm : m < 65536) (other : n ≠ m)
    (core : n % 4 = m % 4) (go : canGo (s.turned n) m = true) : inTurn (s.turned n) n = false := by
  refine Bool.eq_false_iff.mpr fun turn => ?_
  obtain ⟨y, mem, rfl⟩ := canGo_found go
  have before := (inTurn_iff.mp turn y mem core.symm go).resolve_left other.symm
  rw [roundKey_turned cores rfl, roundKey_turned cores core] at before
  omega

/-! Issue (R288, R304, R305). -/

theorem partClusters_nodup (s : State) (m : Nat) : (partClusters s (maskClusters m)).Nodup := (List.nodup_range.filter _).filter _

theorem takeCredits_frame (ks : List Nat) (s : State) : ∃ cl, takeCredits s ks = { s with clusters := cl } := by
  induction ks generalizing s with
  | nil => exact ⟨_, rfl⟩
  | cons k ks ih => exact ih (s.setCluster k { s.cluster k with credits := (s.cluster k).credits - 1 })

theorem takeCredits_cluster {ks : List Nat} (once : ks.Nodup) (s : State) (k : Nat) : (takeCredits s ks).cluster k =
    if k ∈ ks then { s.cluster k with credits := (s.cluster k).credits - 1 } else s.cluster k := by
  induction ks generalizing s with
  | nil => rfl
  | cons j ks ih =>
    obtain ⟨new, once⟩ := List.nodup_cons.mp once
    refine (ih once (s.setCluster j { s.cluster j with credits := (s.cluster j).credits - 1 })).trans ?_
    by_cases here : k = j
    · subst here
      simp [new]
    · simp [here]

/-- A command as its context gives it, before its plan is made. -/
def unplanned (s : State) (x : Ctx) (us : List Unit64) : Cmd :=
  let u := us.getD 0 []
  let mask := maskClusters (hdrMask u)
  { Cmd.plain us x.sregs with
    id := s.nextCmd, ctx := x.num, graph := x.pcGraph, unit := x.pc, mask := mask, cores := some (s.enabledCores mask),
    orbitCtrs := x.orbits.map Orbit.c, signal := hdrSignal u, frozen := frozenFor s x u, settleRef := x.settle, inFull := x.inFull,
    parts := (partClusters s mask).map (fun k => ⟨k, s.hub.epoch, .sent⟩),
    codec := if hdrOpcode u = 0x11 ∨ hdrOpcode u = 0x12 then some CodecRun.fresh else none, issuedNs := s.dev.timeNs }

/-- The plan adds units, their division, the prediction and the staging. -/
theorem mkCmd_unplanned (s : State) (x : Ctx) (us : List Unit64) : ∃ work runs redo cycles staging, mkCmd s x us =
    { unplanned s x us with work := work, runs := runs, redo := redo, predCycles := cycles, needsStaging := staging } := by
  unfold mkCmd
  extract_lets u mask op cores c0 spill
  split
  · exact ⟨_, _, _, _, _, rfl⟩
  · exact ⟨_, _, _, _, _, rfl⟩

/-- A command as it is issued from context `x`, with parts to the clusters `ks` (R304). -/
structure Issued (s : State) (x : Ctx) (us : List Unit64) (ks : List Nat) (c : Cmd) : Prop where
  id : c.id = s.nextCmd
  ctx : c.ctx = x.num
  units : c.units = us
  running : c.result = none
  unit : c.unit = x.pc
  sregs : c.sregs = x.sregs
  signal : c.signal = hdrSignal (us.getD 0 [])
  parts : c.parts = ks.map (fun k => ⟨k, s.hub.epoch, .sent⟩)

theorem mkCmd_issued (s : State) (x : Ctx) (us : List Unit64) : Issued s x us (partClusters s (maskClusters (hdrMask (us.getD 0 [])))) (mkCmd s x us) := by
  obtain ⟨_, _, _, _, _, e⟩ := mkCmd_unplanned s x us
  rw [e]
  exact ⟨rfl, rfl, rfl, rfl, rfl, rfl, rfl, rfl⟩

section
variable {s : State} {x : Ctx} {us : List Unit64} {ks : List Nat} {c : Cmd} (issued : Issued s x us ks c)
include issued

theorem Issued.phaseOf (k : Nat) : c.phaseOf k = some .sent ↔ k ∈ ks := by
  rw [Cmd.phaseOf, issued.parts, List.find?_map]
  simp [Function.comp_def, ← Option.isSome_iff_exists]

theorem Issued.clusters : c.parts.map Part.cluster = ks := by
  rw [issued.parts, List.map_map]
  exact List.map_id ks

end

section
variable {s : State} {n : Nat} {x : Ctx} {v : Version} {us : List Unit64} (next : nextOf s n = some (x, v, us))
include next

theorem exec_commandIssue_issues (operator : hdrOpcode (us.getD 0 []) < 0x80) (can : canIssue s x us = true) {ks : List Nat}
    (hks : ks = partClusters s (maskClusters (hdrMask (us.getD 0 [])))) : ∃ keys q, exec (.commandIssue n) s = .next {
      (takeCredits (s.turned n) ks).setCtx { (x.step v).bumpEvent (hdrSignal (us.getD 0 [])) 1 0 with planKeys := keys } with
      cmds := s.cmds ++ [mkCmd s x us], nextCmd := s.nextCmd + 1, vcc := q } := by
  obtain rfl := hks
  have issued := mkCmd_issued s x us
  obtain ⟨cl, taken⟩ := takeCredits_frame (partClusters s (maskClusters (hdrMask (us.getD 0 [])))) (s.turned n)
  simp only [exec, execCommandIssue, next]
  rw [if_pos ⟨operator, can⟩, issued.clusters, issued.signal, taken]
  exact ⟨_, _, rfl⟩

theorem exec_commandIssue_waits (cannot : canIssue s x us = false) : exec (.commandIssue n) s = .next s := by
  simp only [exec, execCommandIssue, next]
  rw [if_neg (by simp [cannot])]

end

theorem canIssue_noCredit {s : State} {x : Ctx} {us : List Unit64} {k : Nat} (masked : k ∈ partClusters s (maskClusters (hdrMask (us.getD 0 []))))
    (empty : (s.cluster k).credits = 0) : canIssue s x us = false := by
  have spent : (partClusters s (maskClusters (hdrMask (us.getD 0 [])))).all (fun k => decide (0 < (s.cluster k).credits)) = false := by
    rw [List.all_eq_false]
    exact ⟨k, masked, by simp [empty]⟩
  simp only [canIssue, spent, Bool.false_and]

/-! Parts (R304, R387, R388). -/

theorem phaseOf_setPhase (c : Cmd) (k : Nat) (f : PartPhase) : (c.setPhase k f).phaseOf k = (c.phaseOf k).map (fun _ => f) := by
  have keys : (fun p : Part => p.cluster == k) ∘ (fun p => if p.cluster = k then { p with phase := f } else p) = fun p => p.cluster == k := by
    funext p
    by_cases h : p.cluster = k <;> simp [h]
  simp only [Cmd.phaseOf, Cmd.setPhase, List.find?_map, keys]
  cases found : c.parts.find? (fun p => p.cluster == k) with
  | none => rfl
  | some p =>
    have here : p.cluster = k := by simpa using List.find?_some found
    simp [here]

/-- The part of a command that has one on cluster `k` enters the phase `f`. -/
theorem phase_updCmd_setPhase {s : State} {id k : Nat} {c : Cmd} (found : s.cmd? id = some c) (part : (c.phaseOf k).isSome = true) (f : PartPhase) :
    ((s.updCmd id (Cmd.setPhase k f)).cmd? id).bind (fun d => d.phaseOf k) = some f := by
  obtain ⟨p, phase⟩ := Option.isSome_iff_exists.mp part
  rw [cmd?_updCmd s id id (f := Cmd.setPhase k f) (fun _ => rfl), if_pos rfl, found]
  exact (phaseOf_setPhase c k f).trans (by rw [phase]; rfl)

section
variable {s : State} {id k : Nat} {c : Cmd} (found : s.cmd? id = some c) (sent : c.phaseOf k = some .sent)
include found sent

theorem exec_partCommit_accepts (fresh : c.staleAt s k = false) (on : (s.svcIsl (k / 4)).state = .on) : exec (.partCommit id k) s =
    .next ((s.setCluster k { s.cluster k with queue := (s.cluster k).queue ++ [id] }).updCmd id (Cmd.setPhase k .accepted)) := by
  simp [exec, execPartCommit, found, sent, fresh, on]

theorem exec_partCommit_stale (stale : c.staleAt s k = true) : exec (.partCommit id k) s = .next s.dropStale := by
  simp [exec, execPartCommit, found, sent, stale]

theorem exec_partCommit_down (fresh : c.staleAt s k = false) (down : (s.svcIsl (k / 4)).state ≠ .on) : exec (.partCommit id k) s = .next s := by
  simp [exec, execPartCommit, found, sent, fresh, down]

end

/-- Settles O17: the issued command by its plan's frame, the round by the least distance, the parts by their phase. -/
theorem issueTakesCreditsAndQueues : Obligations.IssueTakesCreditsAndQueues := by
  unfold Obligations.IssueTakesCreditsAndQueues
  refine ⟨fun s n idle => ?_, fun s n x v us next operator ks hks => ⟨fun can => ?_, fun ⟨k, masked, empty⟩ => ?_⟩, fun s n => exists_inTurn,
    fun s n m cores hn hm => not_inTurn_turned cores hn hm, fun s id k c found sent => ⟨fun fresh on => ?_, exec_partCommit_stale found sent,
      exec_partCommit_down found sent⟩⟩
  · simp only [exec, execCommandIssue, idle]
  · obtain ⟨keys, q, ran⟩ := exec_commandIssue_issues next operator can hks
    have issued := mkCmd_issued s x us
    rw [← hks] at issued
    have once : ks.Nodup := hks ▸ partClusters_nodup s _
    have credits := takeCredits_cluster once (s.turned n)
    have found := nextOf_ctx? next
    obtain ⟨cl, taken⟩ := takeCredits_frame ks (s.turned n)
    rw [taken] at ran credits
    have becomes := setCtx_becomes (s := { s.turned n with clusters := cl }) (x := x)
      (y := { (x.step v).bumpEvent (hdrSignal (us.getD 0 [])) 1 0 with planKeys := keys }) found (by simp [ctx?_num found])
    refine ⟨_, ran, ⟨_, rfl, issued.id, issued.ctx.trans (ctx?_num found), issued.units, issued.running, issued.unit, issued.sregs, issued.phaseOf⟩,
      ⟨_, becomes.now, rfl⟩, becomes.others, fun k hk => ?_, fun k hk => ?_, rfl, rfl, rfl⟩
    · exact (credits k).trans (if_pos hk)
    · exact (credits k).trans (if_neg hk)
  · exact exec_commandIssue_waits next (canIssue_noCredit (hks ▸ masked) empty)
  · rw [exec_partCommit_accepts found sent fresh on]
    refine Gives.next ⟨?_, ?_, fun j other => ?_, rfl⟩
    · exact congrArg Cluster.queue ((State.cluster_setCluster s k k _).trans (if_pos rfl))
    · exact phase_updCmd_setPhase (s := s.setCluster k _) found (by rw [sent]; rfl) .accepted
    · exact (State.cluster_setCluster s k j _).trans (if_neg other)

end Sys2Proof.Machine

namespace Sys2Proof.Machine

/-! The completion collector (R305, R307). -/

/-- The collector alone has moved: its queues and its place in their round. -/
structure OnlyCollected (s t : State) : Prop where
  cluster : ∀ k, ∃ q, t.cluster k = { s.cluster k with collector := q }
  frame : ∃ cl n, t = { s with clusters := cl, collNext := n }

theorem OnlyCollected.refl (s : State) : OnlyCollected s s := ⟨fun _ => ⟨_, rfl⟩, _, _, rfl⟩

theorem OnlyCollected.trans {s t u : State} (h : OnlyCollected s t) (k : OnlyCollected t u) : OnlyCollected s u where
  cluster j := by
    obtain ⟨q, first⟩ := h.cluster j
    obtain ⟨p, second⟩ := k.cluster j
    exact ⟨p, by rw [second, first]⟩
  frame := by
    obtain ⟨_, _, rfl⟩ := h.frame
    obtain ⟨_, _, rfl⟩ := k.frame
    exact ⟨_, _, rfl⟩

theorem collectOne_onlyCollected (s : State) : OnlyCollected s (collectOne s) := by
  unfold collectOne
  split
  · exact .refl s
  · next k _ =>
    refine ⟨fun j => ?_, _, _, rfl⟩
    change ∃ q, (s.setCluster k { s.cluster k with collector := (s.cluster k).collector.drop 1 }).cluster j = { s.cluster j with collector := q }
    rw [State.cluster_setCluster]
    split
    · next here => exact ⟨_, by rw [here]⟩
    · exact ⟨_, rfl⟩

theorem collectAll_onlyCollected (id : Nat) : ∀ (n : Nat) (s : State), OnlyCollected s (collectAll id n s)
  | 0, s => .refl s
  | n + 1, s => by
      unfold collectAll
      split
      · exact (collectOne_onlyCollected s).trans (collectAll_onlyCollected id n _)
      · exact .refl s

/-- From empty queues the collector takes nothing. -/
theorem collectOne_empty {s : State} (empty : ∀ j < 16, (s.cluster j).collector = []) : collectOne s = s := by
  have none' : ((List.range 16).map (fun k => (s.collNext + k) % 16)).find? (fun k => !(s.cluster k).collector.isEmpty) = none := by
    rw [List.find?_eq_none]
    intro k mem
    obtain ⟨j, -, rfl⟩ := List.mem_map.mp mem
    simp [empty _ (Nat.mod_lt _ (by decide : 16 > 0))]
  simp only [collectOne, none']

/-- A part returns its credit and its completion enters the collector's queue. -/
def enterCollector (s : State) (id k : Nat) : State :=
  let t := (returnCredit s id k).updCmd id (Cmd.setPhase k .collected)
  t.setCluster k { t.cluster k with collector := (t.cluster k).collector ++ [id] }

theorem enterCollector_cluster (s : State) (id k j : Nat) : (enterCollector s id k).cluster j = if j = k then
    { s.cluster k with credits := (s.cluster k).credits + 1, queue := (s.cluster k).queue.filter (· != id),
                       collector := (s.cluster k).collector ++ [id] } else s.cluster j := by
  have returned (i : Nat) : ((returnCredit s id k).updCmd id (Cmd.setPhase k .collected)).cluster i = if i = k then
      { s.cluster k with credits := (s.cluster k).credits + 1, queue := (s.cluster k).queue.filter (· != id) } else s.cluster i :=
    State.cluster_setCluster s k i _
  unfold enterCollector
  rw [State.cluster_setCluster, returned, returned, if_pos rfl]
  split <;> rfl

section
variable {s : State} {id k : Nat} {c : Cmd} (found : s.cmd? id = some c)
include found

theorem enterCollector_phase (part : (c.phaseOf k).isSome = true) :
    ((enterCollector s id k).cmd? id).bind (fun d => d.phaseOf k) = some .collected :=
  phase_updCmd_setPhase (s := returnCredit s id k) found part .collected

omit found in
theorem enterCollector_cmd? {m : Nat} (other : m ≠ id) : (enterCollector s id k).cmd? m = s.cmd? m :=
  (cmd?_updCmd (returnCredit s id k) id m (f := Cmd.setPhase k .collected) (fun _ => rfl)).trans (if_neg other)

theorem exec_partComplete_enters (fresh : c.staleAt s k = false) (taken : c.phaseOf k = some .accepted ∨ c.phaseOf k = some .started)
    (done : partDone s c k = true) : exec (.partComplete id k) s = .next (enterCollector (collectOne s) id k) := by
  simp only [exec, execPartComplete, found, fresh, Bool.false_eq_true, if_false]
  rw [if_pos ⟨taken, done⟩]
  rfl

end

theorem partDone_iff {s : State} {c : Cmd} {k : Nat} : partDone s c k = true ↔
    reportsWork c k = false ∨ (c.result.isSome = true ∧ clusterDone s c k = true ∧ ∀ h ∈ s.ms.held, h.cmd ≠ c.id) := by
  simp [partDone, and_assoc]

/-! A context after one of its commands (R290, R294). -/

/-- Number and pending checkpoint of a context stay. -/
def Ctx.SameHold (x y : Ctx) : Prop := y.num = x.num ∧ y.ckptCmd = x.ckptCmd

theorem Ctx.SameHold.trans {x y z : Ctx} (h : x.SameHold y) (k : y.SameHold z) : x.SameHold z := ⟨k.1.trans h.1, k.2.trans h.2⟩

theorem Ctx.bumpEvent_sameHold (x : Ctx) (ev i c : Nat) : x.SameHold (x.bumpEvent ev i c) := by
  rw [Ctx.bumpEvent_frame]
  exact ⟨rfl, rfl⟩

theorem Ctx.lateDone_sameHold (id : Nat) (x : Ctx) : x.SameHold (x.lateDone id) := by
  have bumps : ∀ (due : List Nat) (y : Ctx), y.SameHold (due.foldl (fun y ev => y.bumpEvent ev 0 1) y) := by
    intro due
    induction due with
    | nil => exact fun _ => ⟨rfl, rfl⟩
    | cons ev due ih => exact fun y => (y.bumpEvent_sameHold ev 0 1).trans (ih _)
  unfold Ctx.lateDone
  exact Ctx.SameHold.trans ⟨rfl, rfl⟩ (bumps _ _)

theorem Ctx.afterCmd_sameHold (x : Ctx) (c : Cmd) (r : Res) : x.SameHold (x.afterCmd c r) := by
  unfold Ctx.afterCmd
  extract_lets y1 y2 y3 y4
  have h1 : x.SameHold y1 := by
    simp only [y1]
    split <;> exact ⟨rfl, rfl⟩
  have h2 : x.SameHold y2 := by
    simp only [y2]
    split <;> exact h1
  have h3 : x.SameHold y3 := by
    simp only [y3]
    split
    · split <;> exact h2
    · exact h2
  have h4 : x.SameHold y4 := by
    simp only [y4]
    split <;> exact h3
  exact (h4.trans (y4.bumpEvent_sameHold _ _ _)).trans (Ctx.lateDone_sameHold _ _)

theorem ctx?_updCtx (s : State) (n m : Nat) {f : Ctx → Ctx} (keep : ∀ d, d.num = n → (f d).num = n) :
    (s.updCtx n f).ctx? m = if m = n then (s.ctx? m).map f else s.ctx? m :=
  find?_map_keyed Ctx.num s.ctxs n m keep

theorem takeSnapshot_free {s : State} {n : Nat} {x : Ctx} (found : s.ctx? n = some x) (free : x.ckptCmd = none) : takeSnapshot s n = s := by
  simp only [takeSnapshot, found, free]

/-! Layers that leave a hold (R333). -/

/-- Codec engines and the codec side of commands alone change, and no command comes. -/
structure HoldsMoved (s t : State) : Prop where
  gone : ∀ n, s.cmd? n = none → t.cmd? n = none
  frame : ∃ cs v, t = { s with cmds := cs, vcc := v }

theorem HoldsMoved.refl (s : State) : HoldsMoved s s := ⟨fun _ h => h, _, _, rfl⟩

theorem HoldsMoved.trans {s t u : State} (h : HoldsMoved s t) (k : HoldsMoved t u) : HoldsMoved s u where
  gone n none' := k.gone n (h.gone n none')
  frame := by
    obtain ⟨_, _, rfl⟩ := h.frame
    obtain ⟨_, _, rfl⟩ := k.frame
    exact ⟨_, _, rfl⟩

theorem HoldsMoved.foldl {α : Type} {f : State → α → State} (step : ∀ s x, HoldsMoved s (f s x)) (l : List α) (s : State) :
    HoldsMoved s (l.foldl f s) := by
  induction l generalizing s with
  | nil => exact .refl s
  | cons x t ih => exact (step s x).trans (ih _)

theorem syncHold_holdsMoved (s : State) (id : Nat) : HoldsMoved s (syncHold s id) := by
  unfold syncHold
  split
  · split
    · exact ⟨fun _ h => h, _, _, rfl⟩
    · exact .refl s
  · exact .refl s

theorem updCodec_holdsMoved (s : State) (id : Nat) (f : CodecRun → CodecRun) : HoldsMoved s (s.updCodec id f) where
  gone n none' :=
    (cmd?_updCmd s id n (f := fun c => { c with codec := c.codec.map f }) (fun _ => rfl)).trans (by simp [none'])
  frame := ⟨_, _, rfl⟩

theorem leaveHold_holdsMoved (s : State) (id : Nat) (out : List Nat) (ready : Bool) : HoldsMoved s (leaveHold s id out ready) :=
  (updCodec_holdsMoved s id _).trans (syncHold_holdsMoved _ id)

theorem releaseHolds_holdsMoved (s : State) : HoldsMoved s (releaseHolds s) := by
  refine .foldl (fun t c => ?_) s.cmds s
  split
  · extract_lets now
    split
    · exact .refl t
    · exact leaveHold_holdsMoved t _ _ _
  · exact .refl t

/-! Completion of a command (R290, R291). -/

/-- The state that a command has left: its entries are collected, its memory is free, its context has its outcome. -/
def commandLeft (s : State) (id : Nat) (c : Cmd) (r : Res) : State :=
  let t := (freeReleased (collectAll id 8192 s) id).dropCmd id
  { t with ms := dropCmdScratch t.ms id }.updCtx c.ctx (fun y => y.afterCmd c r)

theorem commandLeft_frame (s : State) (id : Nat) (c : Cmd) (r : Res) : ∃ cl n ms, commandLeft s id c r =
    ({ s with clusters := cl, collNext := n, ms := ms }.dropCmd id).updCtx c.ctx (fun y => y.afterCmd c r) := by
  obtain ⟨_, _, collected⟩ := (collectAll_onlyCollected id 8192 s).frame
  unfold commandLeft
  rw [collected]
  exact ⟨_, _, _, rfl⟩

theorem cmd?_dropCmd (s : State) (n : Nat) : (s.dropCmd n).cmd? n = none := by
  rw [State.cmd?, State.dropCmd, List.find?_eq_none]
  intro c mem
  simpa using (List.mem_filter.mp mem).2

section
variable {s : State} {id : Nat} {c : Cmd} {r : Res} {x : Ctx} (found : s.ctx? c.ctx = some x)
include found

theorem commandLeft_ctx? : (commandLeft s id c r).ctx? c.ctx = some (x.afterCmd c r) := by
  obtain ⟨cl, n, ms, left⟩ := commandLeft_frame s id c r
  rw [left, ctx?_updCtx _ c.ctx c.ctx (fun d num => (d.afterCmd_sameHold c r).1.trans num), if_pos rfl]
  exact congrArg (Option.map _) found

theorem exec_commandComplete_leaves (cmd : s.cmd? id = some c) (done : c.result = some r) (parts : c.parts.all (fun p => p.phase == .collected) = true)
    (written : ∀ h ∈ s.ms.held, h.cmd ≠ id) (plain : isBoundary s x c = false) (free : x.ckptCmd = none) (alone : c.coll = none) :
    exec (.commandComplete id) s = .next (releaseHolds (commandLeft s id c r)) := by
  have unheld : s.ms.held.any (fun h => h.cmd == id) = false := by simpa using written
  have snapshot : takeSnapshot (commandLeft s id c r) c.ctx = commandLeft s id c r :=
    takeSnapshot_free (commandLeft_ctx? found) ((x.afterCmd_sameHold c r).2.trans free)
  simp only [exec, execCommandComplete, cmd, done, found, parts, unheld, plain, alone, Bool.not_true, Bool.false_and, Bool.or_false,
    Bool.false_eq_true, if_false]
  exact congrArg (fun t => Host.Outcome.next (releaseHolds t)) snapshot

end

/-- Settles O19: the collector by what it moves, the completion by what its command leaves, the checkpoint by its context. -/
theorem completionCollectsAndSignals : Obligations.CompletionCollectsAndSignals := by
  unfold Obligations.CompletionCollectsAndSignals
  refine ⟨fun s id k c found fresh taken done => ?_, fun s id c r x cmd done found parts written plain free alone => ?_, fun s n x sn found pending => ?_⟩
  · rw [exec_partComplete_enters found fresh taken (partDone_iff.mpr done)]
    obtain ⟨cluster, _, _, frame⟩ := collectOne_onlyCollected s
    have here : (collectOne s).cmd? id = some c := by rw [frame]; exact found
    have part : (c.phaseOf k).isSome = true := by rcases taken with phase | phase <;> rw [phase] <;> rfl
    obtain ⟨q, same⟩ := cluster k
    have entered := enterCollector_cluster (collectOne s) id k
    have mine := (entered k).trans (if_pos rfl)
    rw [same] at mine
    refine Gives.next ⟨?_, ?_, ?_, enterCollector_phase here part, fun empty inside => ⟨?_, fun j other => ?_⟩, fun m other => ?_, ?_⟩
    · rw [mine]
    · rw [mine]
    · rw [mine]
      simp
    · rw [entered, if_pos rfl, collectOne_empty empty]
      simp [empty k inside]
    · rw [entered, if_neg other, collectOne_empty empty]
    · rw [enterCollector_cmd? other, frame]
      rfl
    · rw [frame]
      rfl
  · rw [exec_commandComplete_leaves found cmd done parts written plain free alone]
    obtain ⟨gone, _, _, frame⟩ := releaseHolds_holdsMoved (commandLeft s id c r)
    obtain ⟨_, _, _, left⟩ := commandLeft_frame s id c r
    have dropped : (commandLeft s id c r).cmd? id = none := by
      rw [left]
      exact cmd?_dropCmd _ id
    have context := commandLeft_ctx? (id := id) (r := r) found
    refine Gives.next ⟨gone id dropped, ?_, ?_, ?_, ?_⟩
    · rw [frame]
      exact context
    all_goals
      rw [frame, left]
      rfl
  · have num := ctx?_num found
    simp only [exec, execCheckpointCommit, found, pending]
    exact Gives.next (setCtx_becomes found num)

end Sys2Proof.Machine

namespace Sys2Proof.Machine

/-! The array of a core that takes a unit (R76, R79, R100). -/

section
variable {x : Arr} {c : Cmd} {u : WorkUnit} (slots : u.slots ≠ 0)
include slots

theorem assign_bank : (x.assign c u).bank = 1 - x.bank := by rw [Arr.assign, if_neg slots]

/-- The bank of the unit's first tile accumulates, the other one is free. -/
theorem assign_bankState (k : Nat) : (x.assign c u).bankState k = if k < x.banks.length ∧ k = 1 - x.bank then 1 else 0 := by
  rw [Arr.bankState, Arr.assign, if_neg slots]
  by_cases inside : k < x.banks.length <;> simp [inside]

end

/-- A core with a tile shows `BUSY` beside the states of its banks. -/
theorem arrStatus_busy {x : Site} (tile : x.tile.isSome = true) (states : ∀ k, x.arr.bankState k ≤ 3) : x.arrStatus.getLsbD 6 = true := by
  have b0 := states 0
  have b1 := states 1
  simp only [Arr.bankState] at b0 b1
  unfold Site.arrStatus
  extract_lets bank full
  have low : bank 0 + 4 * bank 1 + (if full 0 = true then 16 else 0) + (if full 1 = true then 32 else 0) < 2 ^ 6 := by
    simp only [bank]
    split <;> split <;> omega
  rw [if_pos tile, BitVec.getLsbD_ofNat, Nat.add_comm, Nat.testBit_two_pow_add_eq (i := 6), Nat.testBit_lt_two_pow low]
  rfl

/-! TILE_DISPATCH (R304, R384). -/

section
variable {s : State} {n : Nat} {p : Pick} {c : Cmd}

/-- The site of an assigned tile. -/
def Site.assigned (x : Site) (c : Cmd) (k : Nat) : Site :=
  { x with tile := some (c.id, k), cfg := arrCfg c (c.work.getD k noUnit), arr := x.arr.assign c (c.work.getD k noUnit) }

theorem assignTile_site (k : Nat) : (assignTile s n p c).site k = if k = n then (s.site n).assigned c p.unit else s.site k := by
  unfold assignTile
  extract_lets cl x u q s1 s2
  have same : s1.site k = s.site k := by
    simp only [s1]
    split <;> rfl
  exact (State.site_setSite s1 n k _).trans (by rw [same]; rfl)

/-- With the first tile of a command the cluster's cache is empty. -/
theorem assignTile_cluster (k : Nat) : (assignTile s n p c).cluster k =
    if k = n / 16 ∧ c.phaseOf (n / 16) = some .accepted then { s.cluster (n / 16) with csc := [] } else s.cluster k := by
  unfold assignTile
  extract_lets cl x u q s1 s2
  change s1.cluster k = _
  by_cases first : c.phaseOf cl = some .accepted
  · simp only [s1, if_pos first, State.cluster_setCluster]
    by_cases here : k = cl
    · rw [if_pos here, if_pos ⟨here, first⟩]
    · rw [if_neg here, if_neg (fun h => here h.1)]
  · simp only [s1, if_neg first]
    rw [if_neg (fun h => first h.2)]

theorem assignTile_frame : ∃ si cl im, assignTile s n p c = { s with sites := si, clusters := cl, pwr := { s.pwr with idleMs := im } } := by
  unfold assignTile
  extract_lets cl x u q s1 s2
  have first : ∃ l, s1 = { s with clusters := l } := by
    simp only [s1]
    split <;> exact ⟨_, rfl⟩
  clear_value s1
  obtain ⟨_, rfl⟩ := first
  exact ⟨_, _, _, rfl⟩

/-- The command whose unit a core has taken: it is dealt to no other (R304, R384). -/
def Cmd.unitTaken (cl l : Nat) (p : Pick) (c : Cmd) : Cmd :=
  if p.redo then { c with redo := c.redo.erase (cl, p.unit) }
  else { c with runs := c.runs.map (fun r => if r.lcore = l ∧ r.next = p.unit then { r with next := r.next + 1 } else r) }

theorem Cmd.unitTaken_id (cl l : Nat) (p : Pick) (c : Cmd) : (c.unitTaken cl l p).id = c.id := by
  unfold Cmd.unitTaken
  split <;> rfl

theorem Cmd.unitTaken_phaseOf (cl l : Nat) (p : Pick) (c : Cmd) (k : Nat) : (c.unitTaken cl l p).phaseOf k = c.phaseOf k := by
  unfold Cmd.unitTaken
  split <;> rfl

/-- The state after a tile has been dispatched. -/
def dispatched (s : State) (n l : Nat) (p : Pick) (c : Cmd) : State :=
  ((assignTile s n p c).updCmd p.cmd (Cmd.setPhase (n / 16) .started)).updCmd p.cmd (Cmd.unitTaken (n / 16) l p)

theorem exec_tileDispatch_takes {l : Nat} (lcore : (s.site n).lcore = some l) (free : siteFree s n = true)
    (unit : nextUnit s (n / 16) l = some p) (redo : p.redo = true → lowestFree s (n / 16) l = true) (found : s.cmd? p.cmd = some c) :
    exec (.tileDispatch n) s = .next (dispatched s n l p c) := by
  have turn : (p.redo && !lowestFree s (n / 16) l) = false := by
    cases again : p.redo
    · rfl
    · simp [redo again]
  simp only [exec, execTileDispatch, lcore, free, unit, turn, found, Bool.not_true, Bool.false_eq_true, if_false]
  rfl

theorem dispatched_cmd? (found : s.cmd? p.cmd = some c) (l m : Nat) : (dispatched s n l p c).cmd? m =
    if m = p.cmd then some ((c.setPhase (n / 16) .started).unitTaken (n / 16) l p) else s.cmd? m := by
  have cmds : ∀ k, (assignTile s n p c).cmd? k = s.cmd? k := by
    obtain ⟨_, _, _, e⟩ := assignTile_frame (s := s) (n := n) (p := p) (c := c)
    rw [e]
    exact fun _ => rfl
  rw [dispatched, cmd?_updCmd _ p.cmd m (Cmd.unitTaken_id (n / 16) l p), cmd?_updCmd _ p.cmd m (f := Cmd.setPhase (n / 16) .started) (fun _ => rfl), cmds]
  split
  · next here =>
    rw [here, found]
    rfl
  · rfl

theorem dispatched_frame (l : Nat) : ∃ si cl cs im, dispatched s n l p c =
    { s with sites := si, clusters := cl, cmds := cs, pwr := { s.pwr with idleMs := im } } := by
  obtain ⟨_, _, _, e⟩ := assignTile_frame (s := s) (n := n) (p := p) (c := c)
  unfold dispatched
  rw [e]
  exact ⟨_, _, _, _, rfl⟩

end

/-! Writes that land (R183, R206). -/

theorem writeAll_lands (cmd : Nat) (hub : Bool) (all : List (Nat × Byte)) : ∀ (ws : List (Nat × Byte)) (s : State), CanWrite s ws →
    WritesLanded s (writeAll cmd hub all ws s).1 ws
  | [], _, _ => ⟨fun _ _ _ at' => by simp at at', fun _ _ _ => rfl⟩
  | (va, b) :: ws, s, can => by
      refine ⟨fun i w a at' leads last => ?_, fun a apart _ => (writeAll_written cmd hub all _ s can.canonical can.lines can.mapped).others a apart⟩
      obtain ⟨pa, hpa⟩ := can.mapped (va, b) List.mem_cons_self
      have rest : ∀ w ∈ ws, ∃ a, writeTarget s w.1 = .pa a := fun w mem => can.mapped w (List.mem_cons_of_mem _ mem)
      have canonical : State.MemOk { s with ms := s.ms.putByte pa b } := memSet_wf _ _ _ can.canonical
      rw [writeAll_cons cmd hub all ws b can.lines hpa]
      cases i with
      | zero =>
        obtain rfl : (va, b) = w := by simpa using at'
        obtain rfl : pa = a := WriteTo.pa.inj (hpa.symm.trans leads)
        have apart : ∀ q ∈ ws, writeTarget s q.1 ≠ .pa pa := fun q mem => by
          obtain ⟨j, at'⟩ := List.mem_iff_getElem?.mp mem
          exact last (j + 1) q (Nat.succ_pos j) at'
        refine ((writeAll_written cmd hub all ws _ canonical can.lines rest).others pa apart).trans ?_
        exact (memGet_memSet_of_wf can.canonical pa pa b).trans (if_pos rfl)
      | succ i =>
        exact (writeAll_lands cmd hub all ws { s with ms := s.ms.putByte pa b } ⟨rest, can.lines, canonical⟩).written i w a at' leads
          (fun j q later at' => last (j + 1) q (Nat.succ_lt_succ later) at')

/-! Who holds a write (R188). -/

/-- What `heldSite` looks at stays: commands, held writes, the tiles on the sites and which cores are enabled. -/
structure SameHolders (s t : State) : Prop where
  cmds : t.cmds = s.cmds
  held : t.ms.held = s.ms.held
  svc : t.svc = s.svc
  comp : t.comp = s.comp
  site : ∀ k, (t.site k).tile = (s.site k).tile ∧ (t.site k).isl = (s.site k).isl ∧ (t.site k).resetting = (s.site k).resetting
  cluster : ∀ k, (t.cluster k).map = (s.cluster k).map ∧ (t.cluster k).present = (s.cluster k).present

namespace SameHolders
variable {s t u : State} (h : SameHolders s t)

theorem trans (h : SameHolders s t) (k : SameHolders t u) : SameHolders s u where
  cmds := k.cmds.trans h.cmds
  held := k.held.trans h.held
  svc := k.svc.trans h.svc
  comp := k.comp.trans h.comp
  site n := by
    obtain ⟨tile, isl, resetting⟩ := h.site n
    obtain ⟨tile', isl', resetting'⟩ := k.site n
    exact ⟨tile'.trans tile, isl'.trans isl, resetting'.trans resetting⟩
  cluster n := by
    obtain ⟨map, present⟩ := h.cluster n
    obtain ⟨map', present'⟩ := k.cluster n
    exact ⟨map'.trans map, present'.trans present⟩

include h

theorem cmd? (n : Nat) : t.cmd? n = s.cmd? n := by rw [State.cmd?, h.cmds, State.cmd?]

theorem siteOfIndex (cl k : Nat) : t.siteOfIndex cl k = s.siteOfIndex cl k := by
  obtain ⟨map, present⟩ := h.cluster cl
  simp only [State.siteOfIndex, map, present]

theorem enabledIn (cl : Nat) : t.enabledIn cl = s.enabledIn cl := by
  have tile : t.clusterUp cl = s.clusterUp cl := by simp only [State.clusterUp, State.svcIsl, State.compIsl, h.svc, h.comp]
  simp only [State.enabledIn, tile, h.siteOfIndex, (h.site _).2.1, (h.site _).2.2]

theorem coresOf (c : Cmd) : coresOf t c = coresOf s c := by
  simp only [Machine.coresOf, State.enabledCores, funext h.enabledIn]

theorem heldSite (w : Held) : heldSite t w = heldSite s w := by
  simp only [Machine.heldSite, h.cmd?, shareSite, h.coresOf, State.siteOfLcore, h.siteOfIndex, (h.site _).1]

theorem holdsWrite (n : Nat) : holdsWrite t n = holdsWrite s n := by
  simp only [Machine.holdsWrite, h.held, h.heldSite]

theorem siteWrites (n : Nat) : t.siteWrites n = s.siteWrites n := by
  simp only [State.siteWrites, State.tileUnit, h.cmd?, (h.site _).1]

theorem tileUnit (n : Nat) : t.tileUnit n = s.tileUnit n := by
  simp only [State.tileUnit, h.cmd?, (h.site _).1]

end SameHolders

theorem slotsEnter_sameHolders (s : State) (n m starve block : Nat) : SameHolders s (s.slotsEnter n m starve block) := by
  obtain ⟨site, -, frame⟩ := slotsEnter_counts s n m starve block
  have others := (slotsEnter_progresses s n m starve block).others
  refine ⟨by rw [frame], by rw [frame], by rw [frame], by rw [frame], fun k => ?_, fun k => by rw [frame]; exact ⟨rfl, rfl⟩⟩
  by_cases here : k = n
  · rw [here, site]
    exact ⟨rfl, rfl, rfl⟩
  · rw [others k here]
    exact ⟨rfl, rfl, rfl⟩

/-! TILE_COMPLETE (R73, R80, R101, R194). -/

/-- A tile's writes change memory, the cache of its cluster and free numbers alone. -/
structure TileWritten (s t : State) : Prop where
  cluster : ∀ k, ∃ l, t.cluster k = { s.cluster k with csc := l }
  frame : ∃ f cl mem kept, t = { s with freeCtr := f, clusters := cl, ms := { s.ms with mem := mem, lsmKept := kept } }

theorem TileWritten.refl (s : State) : TileWritten s s := ⟨fun _ => ⟨_, rfl⟩, _, _, _, _, rfl⟩

theorem TileWritten.sameHolders {s t : State} (h : TileWritten s t) : SameHolders s t := by
  obtain ⟨cluster, _, _, _, _, frame⟩ := h
  refine ⟨by rw [frame], by rw [frame], by rw [frame], by rw [frame], fun k => by rw [frame]; exact ⟨rfl, rfl, rfl⟩, fun k => ?_⟩
  obtain ⟨l, e⟩ := cluster k
  rw [e]
  exact ⟨rfl, rfl⟩

theorem TileWritten.site {s t : State} (h : TileWritten s t) (k : Nat) : t.site k = s.site k := by
  obtain ⟨-, _, _, _, _, rfl⟩ := h
  rfl

theorem cscUse_cluster (s : State) (cl : Nat) (c : Cmd) (ws : List (Nat × Byte)) (k : Nat) :
    ∃ l, (s.cscUse cl c ws).cluster k = { s.cluster k with csc := l } := by
  unfold State.cscUse
  extract_lets q all read s1
  change ∃ l, s1.cluster k = _
  simp only [s1, State.cluster_setCluster]
  split
  · next here =>
    subst here
    exact ⟨_, rfl⟩
  · exact ⟨_, rfl⟩

section
variable {s : State} {n : Nat} {c : Cmd} {w : WorkUnit} (unit : s.tileUnit n = some (c, w)) (can : CanWrite (s.accessing c) (s.siteWrites n))
include unit can

/-- The writes of a tile that can write stand in memory afterwards. -/
theorem tileWrites_landed : TileWritten s (tileWrites s n) ∧ WritesLanded (s.accessing c) (tileWrites s n) (s.siteWrites n) := by
  cases writes : s.siteWrites n with
  | nil =>
    have idle : tileWrites s n = s := by simp only [tileWrites, unit, writes]
    rw [idle]
    exact ⟨.refl s, fun _ _ _ at' => by simp at at', fun _ _ _ => rfl⟩
  | cons q ws =>
    rw [writes] at can
    obtain ⟨written, kept⟩ := writeAll_lands c.id false (q :: ws) (q :: ws) _ can
    obtain ⟨done, frame, -⟩ := writeAll_written c.id false (q :: ws) (q :: ws) (s.accessing c) can.canonical can.lines can.mapped
    have out : writeAll c.id false (q :: ws) (q :: ws) (s.accessing c) = ((writeAll c.id false (q :: ws) (q :: ws) (s.accessing c)).1, none) :=
      Prod.ext rfl done
    generalize (writeAll c.id false (q :: ws) (q :: ws) (s.accessing c)).1 = t at out written kept frame
    have wrote : tileWrites s n = ({ t with ms := { t.ms with view := s.ms.view } } : State).cscUse (n / 16) c (q :: ws) := by
      simp only [tileWrites, unit, writes, State.during, out]
    have same (k : Nat) : t.cluster k = s.cluster k := by
      rw [frame]
      rfl
    rw [wrote]
    refine ⟨⟨fun k => ?_, ?_⟩, written, kept⟩
    · obtain ⟨l, e⟩ := cscUse_cluster { t with ms := { t.ms with view := s.ms.view } } (n / 16) c (q :: ws) k
      exact ⟨l, e.trans (congrArg (fun x : Cluster => { x with csc := l }) (same k))⟩
    · rw [frame]
      exact ⟨_, _, _, _, rfl⟩

end

/-- The last slots of a tile enter: each of the core's counters rises unless it is frozen or all slots were in (R80, R101). -/
theorem slotsEnter_site {s : State} {n : Nat} {c : Cmd} {w : WorkUnit} (unit : s.tileUnit n = some (c, w)) {m : Nat}
    (on : (s.site n).arr.issued ≤ m) (starve block : Nat) : (s.slotsEnter n m starve block).site n =
      let k (j : Nat) : Nat := if (s.site n).freeze || (s.site n).arr.total ≤ (s.site n).arr.issued then 0 else j
      { s.site n with
        arr := (s.site n).arr.entered s c w m, valid := (s.site n).valid.bump (k (m - (s.site n).arr.issued)),
        starve := (s.site n).starve.bump (k starve), block := (s.site n).block.bump (k block) } := by
  simp only [State.slotsEnter, unit, if_neg (Nat.not_lt.mpr on)]
  exact (State.site_setSite s n n _).trans (if_pos rfl)

/-- No counter moves when all slots have entered already. -/
theorem slotsEnter_done {s : State} {n m : Nat} (done : (s.site n).arr.total ≤ (s.site n).arr.issued) (starve block : Nat) :
    ((s.slotsEnter n m starve block).site n).valid = (s.site n).valid ∧ ((s.slotsEnter n m starve block).site n).starve = (s.site n).starve ∧
      ((s.slotsEnter n m starve block).site n).block = (s.site n).block := by
  cases unit : s.tileUnit n with
  | none => simp only [State.slotsEnter, unit, and_self]
  | some q =>
    by_cases on : (s.site n).arr.issued ≤ m
    · rw [slotsEnter_site unit on]
      simp [done]
    · have idle : s.slotsEnter n m starve block = s := by simp only [State.slotsEnter, unit, if_pos (Nat.lt_of_not_le on)]
      rw [idle]
      exact ⟨rfl, rfl, rfl⟩

/-- Giving back undo pages writes no byte. -/
theorem freeUndo_memory (s : State) (n : Nat) : OnlyMemory s (freeUndo s n) ∧ (freeUndo s n).ms.mem = s.ms.mem := by
  unfold freeUndo
  split
  · split
    · split
      · exact ⟨⟨_, rfl⟩, dropPages_mem _ _⟩
      · exact ⟨.refl s, rfl⟩
    · exact ⟨.refl s, rfl⟩
  · exact ⟨.refl s, rfl⟩

theorem freeUndo_site (s : State) (n k : Nat) : (freeUndo s n).site k = s.site k := by
  obtain ⟨⟨_, e⟩, -⟩ := freeUndo_memory s n
  rw [e]
  rfl

/-- Writes that took no page stand in every state with that memory. -/
theorem WritesLanded.of_mem {s t u : State} {ws : List (Nat × Byte)} (h : WritesLanded s t ws) (pages : t.ms.usedPages = s.ms.usedPages)
    (mem : u.ms.mem = t.ms.mem) : WritesLanded s u ws where
  written i w a at' leads last := mem ▸ h.written i w a at' leads last
  kept a apart _ := mem ▸ h.kept a apart (fun used => pages ▸ used)

/-- The site and the memory after a tile has ended. -/
def tileEnded (s : State) (n : Nat) (u : WorkUnit) : State :=
  (freeUndo s n).setSite n { (freeUndo s n).site n with tile := none, arr := ((freeUndo s n).site n).arr.finish u }

theorem tileEnded_site (s : State) (n : Nat) (u : WorkUnit) (k : Nat) : (tileEnded s n u).site k =
    if k = n then { s.site n with tile := none, arr := (s.site n).arr.finish u } else s.site k := by
  rw [tileEnded, State.site_setSite, freeUndo_site, freeUndo_site]

section
variable {s : State} {n b d id u : Nat} (tile : (s.site n).tile = some (id, u)) (free : (s.site n).fenced = false)
  (held : holdsWrite s n = false) (awake : asleep s ((s.siteWrites n).map (fun w => (w.1, 1))) = false)
  (can : ∀ c w, s.tileUnit n = some (c, w) → CanWrite ((s.slotsEnter n (s.site n).arr.total b d).accessing c) (s.siteWrites n))
include can

/-- A tile whose writes can be made makes them: they change no site, and they stand in memory. -/
theorem lastWrites_written : TileWritten (s.slotsEnter n (s.site n).arr.total b d) (tileWrites (s.slotsEnter n (s.site n).arr.total b d) n) ∧
    ∀ c w, s.tileUnit n = some (c, w) → WritesLanded ((s.slotsEnter n (s.site n).arr.total b d).accessing c)
      (tileWrites (s.slotsEnter n (s.site n).arr.total b d) n) (s.siteWrites n) := by
  have same := slotsEnter_sameHolders s n (s.site n).arr.total b d
  generalize s.slotsEnter n (s.site n).arr.total b d = s' at can same
  rw [← same.tileUnit n, ← same.siteWrites n] at can ⊢
  cases unit : s'.tileUnit n with
  | none =>
    have idle : tileWrites s' n = s' := by simp only [tileWrites, unit]
    rw [idle]
    exact ⟨.refl s', fun _ _ none' => nomatch none'⟩
  | some q =>
    obtain ⟨c, w⟩ := q
    have landed := tileWrites_landed unit (can c w unit)
    refine ⟨landed.1, fun _ _ same => ?_⟩
    cases same
    exact landed.2

include tile free held awake

/-- A tile with nothing to wait for ends. -/
theorem exec_tileComplete_ends : exec (.tileComplete n (s.site n).arr.total b d) s =
    .next (tileEnded (tileWrites (s.slotsEnter n (s.site n).arr.total b d) n) n (((s.tileUnit n).map Prod.snd).getD noUnit)) := by
  have still : holdsWrite (tileWrites (s.slotsEnter n (s.site n).arr.total b d) n) n = false :=
    (((slotsEnter_sameHolders s n _ b d).trans (lastWrites_written can).1.sameHolders).holdsWrite n).trans held
  have guard : ((s.site n).tile.isNone || (s.site n).fenced || holdsWrite s n || (s.site n).arr.total != (s.site n).arr.total ||
      asleep s ((s.siteWrites n).map (fun w => (w.1, 1)))) = false := by simp [tile, free, held, awake]
  refine congrArg Host.Outcome.next ?_
  extract_lets x w s1 s2 y
  exact (if_neg (ne_true_of_eq_false guard)).trans (if_neg (ne_true_of_eq_false still))

end

/-- A tile that is not there, is fenced, waits for a page or for its memory, or has another number of slots does not end. -/
theorem exec_tileComplete_waits {s : State} {n v b d : Nat} (h : (s.site n).tile = none ∨ (s.site n).fenced = true ∨
    holdsWrite s n = true ∨ v ≠ (s.site n).arr.total ∨ asleep s ((s.siteWrites n).map (fun w => (w.1, 1))) = true) :
    exec (.tileComplete n v b d) s = .next s := by
  refine congrArg Host.Outcome.next (if_pos ?_)
  rcases h with h | h | h | h | h <;> simp [h]

/-- Settles O18: a dispatched tile is assigned to its site's array, and the writes of an ending tile stand in memory since a tile
that can write takes no page. -/
theorem tilesRunOnTheirSite : Obligations.TilesRunOnTheirSite := by
  refine ⟨fun s n l p c lcore free unit redo found u hu => ?_, fun s n b d id u tile free held awake can => ?_,
    fun s n v b d => exec_tileComplete_waits⟩
  · subst hu
    have id : c.id = p.cmd := by simpa using List.find?_some found
    rw [exec_tileDispatch_takes lcore free unit redo found]
    have site (k : Nat) : (dispatched s n l p c).site k = if k = n then (s.site n).assigned c p.unit else s.site k := assignTile_site k
    have mine : (dispatched s n l p c).site n = (s.site n).assigned c p.unit := (site n).trans (if_pos rfl)
    have cluster (k : Nat) : (dispatched s n l p c).cluster k =
      if k = n / 16 ∧ c.phaseOf (n / 16) = some .accepted then { s.cluster (n / 16) with csc := [] } else s.cluster k := assignTile_cluster (p := p) k
    refine Gives.next ⟨?_, fun slots two => ?_, fun k other => (site k).trans (if_neg other), fun first => (cluster _).trans (if_pos ⟨rfl, first⟩),
      fun later => (cluster _).trans (if_neg fun h => later h.2), fun k other => (cluster k).trans (if_neg fun h => other h.1), fun has => ?_,
      fun m other => (dispatched_cmd? found l m).trans (if_neg other), ?_⟩
    · rw [mine, Site.assigned, id]
    · rw [mine]
      have state (k : Nat) := assign_bankState (x := (s.site n).arr) (c := c) slots k
      refine ⟨arrStatus_busy rfl fun k => ?_, ?_⟩
      · exact (state k).trans_le (by split <;> omega)
      · refine (state _).trans (if_pos ?_)
        have bank : ((s.site n).assigned c p.unit).arr.bank = 1 - (s.site n).arr.bank := assign_bank slots
        rw [bank, two]
        exact ⟨by omega, rfl⟩
    · rw [dispatched_cmd? found, if_pos rfl]
      obtain ⟨f, hf⟩ := Option.isSome_iff_exists.mp has
      rw [Option.bind_some, Cmd.unitTaken_phaseOf, phaseOf_setPhase, hf]
      rfl
    · obtain ⟨_, _, _, _, frame⟩ := dispatched_frame (s := s) (n := n) (p := p) (c := c) l
      rw [frame]
  · rw [exec_tileComplete_ends tile free held awake can]
    obtain ⟨wrote, landed⟩ := lastWrites_written can
    have site (w : WorkUnit) (k : Nat) : (tileEnded (tileWrites (s.slotsEnter n (s.site n).arr.total b d) n) n w).site k =
        if k = n then { (s.slotsEnter n (s.site n).arr.total b d).site n with tile := none, arr := ((s.slotsEnter n (s.site n).arr.total b d).site n).arr.finish w }
        else (s.slotsEnter n (s.site n).arr.total b d).site k := by rw [tileEnded_site, wrote.site, wrote.site]
    have mine (w : WorkUnit) := (site w n).trans (if_pos rfl)
    refine Gives.next ⟨?_, fun k other => ?_, fun c w unit on => ⟨fun counting => ?_, fun frozen => ?_⟩, fun done => ?_, fun c w unit => ?_⟩
    · rw [mine]
    · rw [site, if_neg other, (slotsEnter_progresses s n _ b d).others k other]
    · rw [mine, slotsEnter_site unit (Nat.le_of_lt on)]
      simp [counting, Nat.not_le.mpr on]
    · rw [mine]
      exact (slotsEnter_counts s n _ b d).frozen frozen
    · rw [mine]
      exact slotsEnter_done done b d
    · refine (landed c w unit).of_mem ?_ (freeUndo_memory _ n).2
      obtain ⟨_, _, _, _, frame⟩ := wrote.frame
      rw [frame]
      rfl

end Sys2Proof.Machine

namespace Sys2Proof.Machine

/-! Codec frames (R323, R329, R333, R337, R338): what a frame touches on its way to a result. -/

/-- From `s` to `t` the codec complex alone changes. -/
def OnlyVideo (s t : State) : Prop := ∃ v, t = { s with vcc := v }

theorem OnlyVideo.refl (s : State) : OnlyVideo s s := ⟨_, rfl⟩

theorem OnlyVideo.trans {s t u : State} : OnlyVideo s t → OnlyVideo t u → OnlyVideo s u := by
  rintro ⟨_, rfl⟩ ⟨_, rfl⟩
  exact ⟨_, rfl⟩

theorem OnlyWork.ctx? {s t : State} (h : OnlyWork s t) (n : Nat) : t.ctx? n = s.ctx? n := congrArg (List.find? _) h.ctxs

theorem advanceLfsr_onlyWork (s : State) (c : Cmd) : OnlyWork s (advanceLfsr s c) := by
  unfold advanceLfsr
  split
  · exact .refl s
  · split
    · refine .foldl (fun t p => ?_) _ s
      split
      · exact ⟨rfl, rfl, rfl, rfl, rfl⟩
      · exact .refl t
    · refine .foldl (fun t n => ?_) _ s
      exact ⟨rfl, rfl, rfl, rfl, rfl⟩

theorem beginWrites_onlyWork (s : State) (c : Cmd) (o : OpOut) : OnlyWork s (beginWrites s c o) := by
  obtain ⟨conns, ctxs, models, tlc, egress⟩ := advanceLfsr_onlyWork { s with freeCtr := s.freeCtr + o.draws } c
  exact ⟨conns, ctxs, models, tlc, egress⟩

/-- Scalar registers of a context leave every other context alone. -/
theorem setSregs_ctx?_ne (s : State) {ctx n : Nat} (other : n ≠ ctx) (l : List (Nat × DWord)) : (setSregs s ctx l).ctx? n = s.ctx? n := by
  induction l generalizing s with
  | nil => rfl
  | cons p l ih =>
    have first : (s.setSregOf ctx p.1 p.2).ctx? n = s.ctx? n :=
      (ctx?_updCtx s ctx n (f := fun x => x.setSreg p.1 p.2) (fun _ num => num)).trans (if_neg other)
    exact (ih _).trans first

/-- An outcome applied changes no context but the command's own. -/
theorem applyOut_ctx?_ne (s : State) (c : Cmd) (hub : Bool) (o : OpOut) {n : Nat} (other : n ≠ c.ctx) :
    (applyOut s c hub o).1.ctx? n = s.ctx? n := by
  have written (on : Nat → Bool) : OnlyWork s (writeTiles c.id hub on o.byPlace.zipIdx (beginWrites s c o)).1 :=
    (beginWrites_onlyWork s c o).trans (.of_onlyMemory (writeTiles_onlyMemory c.id hub on _ _))
  unfold applyOut
  extract_lets s2 w
  split
  · exact ((written _).trans (.of_onlyLogged (captureFault_onlyLogged _ c _))).ctx? n
  · exact ((written _).trans (.of_onlyLogged (captureFault_onlyLogged _ c _))).ctx? n
  · exact (setSregs_ctx?_ne _ other _).trans ((written _).ctx? n)

/-- A freed command is on no engine. -/
theorem freeEngine_cmd_ne (s : State) (id : Nat) : ∀ e ∈ (freeEngine s id).vcc.engines, e.cmd ≠ some id := by
  intro e mem
  obtain ⟨d, -, rfl⟩ := List.mem_map.mp mem
  split
  · exact nofun
  · assumption

theorem closeFrame_cmd_ne (s : State) (c : Cmd) (r : Except Err CodecOut) : ∀ e ∈ (closeFrame s c r).vcc.engines, e.cmd ≠ some c.id := by
  cases r with
  | error e => exact freeEngine_cmd_ne _ c.id
  | ok o => exact freeEngine_cmd_ne _ c.id

/-- Sessions, counters and engines come after an outcome applied. -/
theorem closeFrame_ok (s : State) (c : Cmd) (o : CodecOut) :
    OnlyVideo ((applyOut s c true o.out).1.updCmd c.id (Cmd.close (applyOut s c true o.out).2)) (closeFrame s c (.ok o)) := by
  simp only [closeFrame]
  refine OnlyVideo.trans ?_ ⟨_, rfl⟩
  have session (t : State) (p : Prop) [Decidable p] (v : Vcc) : OnlyVideo t (if p then { t with vcc := v } else t) := by
    split
    · exact ⟨_, rfl⟩
    · exact .refl t
  split
  · exact (session _ _ _).trans ⟨_, rfl⟩
  · exact session _ _ _

/-- A frame ends with its command's work, its result, and then the codec complex: a fault or an outcome applied. -/
theorem closeFrame_ends (s : State) (c : Cmd) (r : Except Err CodecOut) : ∃ u res, WorksFor c.id s u ∧
    (∀ n, n ≠ c.ctx → u.ctx? n = s.ctx? n) ∧ OnlyVideo (u.updCmd c.id (Cmd.close res)) (closeFrame s c r) := by
  cases r with
  | error e =>
    have logged := captureFault_onlyLogged s c e
    exact ⟨captureFault s c e, e.1, .of_onlyLogged logged, fun n _ => (OnlyWork.of_onlyLogged logged).ctx? n, _, rfl⟩
  | ok o =>
    exact ⟨_, _, applyOut_worksFor s c true o.out, fun n other => applyOut_ctx?_ne s c true o.out other, closeFrame_ok s c o⟩

/-- A command that runs its frame's end has closed the frame, whatever the frame's outcome. -/
theorem during_frameClosed {s : State} {c : Cmd} (found : s.cmd? c.id = some c) (body : State → Except Err CodecOut) :
    FrameClosed s (s.during c (fun t => closeFrame t c (body t))) c.id := by
  have free := closeFrame_cmd_ne (s.accessing c) c (body (s.accessing c))
  obtain ⟨u, res, works, ctxs, v, ends⟩ := closeFrame_ends (s.accessing c) c (body (s.accessing c))
  obtain ⟨result, others, conns, models, graphs, -⟩ := works.result (s := s.accessing c) found (f := Cmd.close res) (fun _ => rfl) (fun _ => rfl)
  simp only [State.during]
  rw [ends] at free ⊢
  exact ⟨result, free, others, fun n other => ctxs n (other c found).symm, conns, models, graphs⟩

/-- Settles O20: a frame works for its command, ends it with a result, and last frees its engine. -/
theorem codecFramesFinish : Obligations.CodecFramesFinish := by
  refine ⟨fun s id pic c e ready engine => ?_, fun s id coded c r ready run engine sampled holding => ?_⟩
  · obtain ⟨found, rfl, -⟩ := opReady_found ready
    have ran : exec (.codecDec c.id pic) s = .next (s.during c (fun t => closeFrame t c (decBody t c pic))) := by
      simp [exec, execCodecDec, ready, engine]
    rw [ran]
    exact Gives.next (during_frameClosed found _)
  · obtain ⟨found, rfl, -⟩ := opReady_found ready
    have ran : exec (.codecEnc c.id coded) s = .next (s.during c (fun t => closeFrame t c (encBody t c coded))) := by
      simp [exec, execCodecEnc, ready, run, engine, sampled, holding]
    rw [ran]
    exact Gives.next (during_frameClosed found _)

end Sys2Proof.Machine

namespace Sys2Proof.Machine

/-! Events of the codec complex (R321, R328, R333, R338, R339): the command they name and its engine change. -/

theorem OnlyVideo.cmd? {s t : State} : OnlyVideo s t → ∀ n, t.cmd? n = s.cmd? n := by
  rintro ⟨_, rfl⟩ _
  rfl

section
variable {s : State} {id : Nat} {c : Cmd}

theorem cmd?_updCodec_same (found : s.cmd? id = some c) (f : CodecRun → CodecRun) :
    (s.updCodec id f).cmd? id = some { c with codec := c.codec.map f } := by
  rw [State.updCodec, cmd?_updCmd s id id (f := fun c => { c with codec := c.codec.map f }) (fun _ => rfl), if_pos rfl, found]
  rfl

theorem cmd?_updCodec_ne {n : Nat} (other : n ≠ id) (f : CodecRun → CodecRun) : (s.updCodec id f).cmd? n = s.cmd? n :=
  (cmd?_updCmd s id n (f := fun c => { c with codec := c.codec.map f }) (fun _ => rfl)).trans (if_neg other)

end

/-! `HOLDING` follows the command (R339). -/

theorem syncHold_engines (s : State) (id : Nat) : ∃ es, syncHold s id = { s with vcc := { s.vcc with engines := es } } := by
  unfold syncHold
  split
  · split
    · exact ⟨_, rfl⟩
    · exact ⟨_, rfl⟩
  · exact ⟨_, rfl⟩

theorem syncHold_onlyVideo (s : State) (id : Nat) : OnlyVideo s (syncHold s id) := by
  obtain ⟨es, frame⟩ := syncHold_engines s id
  exact ⟨_, frame⟩

/-- Of the command's own engine nothing but `HOLDING` changes. -/
theorem syncHold_engine {s : State} {k : Nat} (real : k < s.vcc.engines.length) (id : Nat) (d : Engine) :
    ∃ h, (syncHold s id).vcc.engines.getD k d = { s.vcc.engines.getD k d with holding := h } := by
  unfold syncHold
  split
  · split
    · next r _ e _ =>
      by_cases here : k = e
      · subst here
        exact ⟨_, updAt_getD_same real _ d d⟩
      · exact ⟨_, updAt_getD_ne _ here _ d⟩
    · exact ⟨_, rfl⟩
  · exact ⟨_, rfl⟩

/-- The engines of other commands stay. -/
theorem syncHold_engine_ne {s : State} {id k : Nat} (elsewhere : ∀ r, (s.cmd? id).bind Cmd.codec = some r → r.engine ≠ some k) (d : Engine) :
    (syncHold s id).vcc.engines.getD k d = s.vcc.engines.getD k d := by
  unfold syncHold
  split
  · next r run =>
    split
    · next e on =>
      have other : k ≠ e := fun here => elsewhere r run (here ▸ on)
      exact updAt_getD_ne _ other _ d
    · rfl
  · rfl

/-! CODEC_ENGINE_START (R338). -/

theorem nextCodec_found {s : State} {encode : Bool} {c : Cmd} (next : nextCodec s encode = some c) : s.cmd? c.id = some c := by
  obtain ⟨n, -, found⟩ := List.mem_filterMap.mp (List.mem_of_find?_eq_some next)
  have id : c.id = n := by simpa using List.find?_some found
  rw [id, found]

theorem idleEngine_lt {s : State} {encode : Bool} {e : Nat} (idle : idleEngine s encode = some e) : e < 6 := by
  have mem := List.mem_of_find?_eq_some idle
  cases encode <;> simp at mem <;> omega

/-- The command has its engine and is in no queue. -/
def engineTaken (s : State) (encode : Bool) (c : Cmd) (e : Nat) : State :=
  let codec := if encode then (parseEnc c.u0).codec else (parseDec c).codec
  let t := (s.updEngine e (fun x => { x with busy := true, codec := codec, cmd := some c.id })).updCodec c.id
    (fun r => { r with engine := some e })
  { t with vcc := { t.vcc with decQueue := t.vcc.decQueue.filter (· != c.id), encQueue := t.vcc.encQueue.filter (· != c.id) } }

section
variable {s : State} {encode : Bool} {c : Cmd} {e : Nat}

theorem exec_codecEngineStart (next : nextCodec s encode = some c) (idle : idleEngine s encode = some e) :
    exec (.codecEngineStart encode) s = .next (syncHold (engineTaken s encode c e) c.id) := by
  simp only [exec, execCodecEngineStart, next, idle]
  rfl

theorem engineTaken_engine (real : e < s.vcc.engines.length) (d : Engine) : ∃ codec, (engineTaken s encode c e).vcc.engines.getD e d =
    { s.vcc.engines.getD e d with busy := true, codec := codec, cmd := some c.id } :=
  ⟨_, updAt_getD_same real _ d d⟩

theorem engineTaken_engine_ne {k : Nat} (other : k ≠ e) (d : Engine) :
    (engineTaken s encode c e).vcc.engines.getD k d = s.vcc.engines.getD k d :=
  updAt_getD_ne _ other _ d

/-- The command knows the engine it has taken. -/
theorem engineTaken_run (found : s.cmd? c.id = some c) {r : CodecRun}
    (run : ((engineTaken s encode c e).cmd? c.id).bind Cmd.codec = some r) : r.engine = some e := by
  have now : (engineTaken s encode c e).cmd? c.id = some { c with codec := c.codec.map fun r => { r with engine := some e } } :=
    cmd?_updCodec_same (s := s.updEngine e _) found _
  rw [now] at run
  obtain ⟨_, -, rfl⟩ := Option.map_eq_some_iff.mp run
  rfl

theorem engineTaken_queues (b : Bool) :
    c.id ∉ (if b then (engineTaken s encode c e).vcc.encQueue else (engineTaken s encode c e).vcc.decQueue) := by
  cases b <;> simp [engineTaken]

end

/-! Guards of a frame in progress (R328). -/

/-- The reason of a guard, unless an earlier one stands. -/
def CodecRun.guarded (reason : Nat) (r : CodecRun) : CodecRun :=
  { r with abortReason := if r.abortReason = 0 then reason else r.abortReason }

theorem guardFires_notes {s : State} {e id : Nat} (decode : e < 4) (busy : (s.vcc.engines.getD e Engine.reset).cmd = some id) (reason : Nat) :
    guardFires s e reason = s.updCodec id (CodecRun.guarded reason) := by
  simp only [guardFires, Nat.not_le.mpr decode, if_false, busy]
  rfl

/-! Layers at the boundary and at the end of their hold (R333). -/

/-- An event of a command at a time: its codec side changes by `f`, and what follows is `HOLDING` and `DEV_TIME`. -/
theorem timedCodec {s : State} {id : Nat} {c : Cmd} {r : CodecRun} (found : s.cmd? id = some c) (run : c.codec = some r) (ns : Nat)
    (f : CodecRun → CodecRun) {t : State} (ends : t = syncHold ((timeReaches s ns).updCodec id f) id) :
    t.cmd? id = some { c with codec := some (f r) } ∧ (∀ k, k ≠ id → t.cmd? k = s.cmd? k) ∧
    t = { s with cmds := t.cmds, vcc := t.vcc, dev := { s.dev with timeNs := max s.dev.timeNs ns } } := by
  subst ends
  have video := syncHold_onlyVideo ((timeReaches s ns).updCodec id f) id
  refine ⟨?_, fun k other => ?_, ?_⟩
  · rw [video.cmd?, cmd?_updCodec_same (s := timeReaches s ns) found, run]
    rfl
  · exact (video.cmd? k).trans (cmd?_updCodec_ne other f)
  · obtain ⟨v, frame⟩ := video
    rw [frame]
    rfl

/-- The layers of a command, with their places, whose event is not satisfied. -/
def lateLayers (c : Cmd) (x : Ctx) : List (Layer × Nat) := (encLayers c).zipIdx.filter (fun l => !x.satisfied l.1.event)

theorem mem_lateLayers {c : Cmd} {x : Ctx} {j : Nat} :
    j ∈ (lateLayers c x).map Prod.snd ↔ ∃ l, (encLayers c)[j]? = some l ∧ x.satisfied l.event = false := by
  simp [lateLayers, List.mem_zipIdx_iff_getElem?]

theorem mem_heldLayers {c : Cmd} {x : Ctx} {j : Nat} : j ∈ ((lateLayers c x).filter (fun l => l.1.policy == 2)).map Prod.snd ↔
    ∃ l, (encLayers c)[j]? = some l ∧ x.satisfied l.event = false ∧ l.policy = 2 := by
  simp [lateLayers, List.mem_zipIdx_iff_getElem?, and_comm (a := Layer.policy _ = 2)]

/-- The codec side of a command whose layers are sampled at the boundary `ns`. -/
def CodecRun.atBoundary (c : Cmd) (x : Ctx) (ns : Nat) (r : CodecRun) : CodecRun :=
  { r with sampled := true, late := (lateLayers c x).map Prod.snd,
           holding := ((lateLayers c x).filter (fun l => l.1.policy == 2)).map Prod.snd, boundaryNs := ns }

section
variable {s : State} {id : Nat} {c : Cmd} {r : CodecRun} (found : s.cmd? id = some c) (encodes : c.opcode = 0x12) (run : c.codec = some r)
include found encodes run

theorem exec_frameBoundary {x : Ctx} (unfinished : c.result = none) (unsampled : r.sampled = false) (ctx : s.ctx? c.ctx = some x) :
    exec (.frameBoundary id) s =
      .next (syncHold ((timeReaches s (boundaryNs s c)).updCodec id (CodecRun.atBoundary c x (boundaryNs s c))) id) := by
  simp only [exec, execFrameBoundary, found, run, ctx, encodes, unsampled, unfinished]
  rfl

theorem exec_holdDeadline {j : Nat} {l : Layer} (layer : (encLayers c)[j]? = some l) (held : j ∈ r.holding) :
    exec (.holdDeadline id j) s = .next (leaveHold (timeReaches s (r.boundaryNs + l.holdUs * 1000)) id [j] false) := by
  simp [exec, execHoldDeadline, found, run, layer, encodes, held]

end

/-- Settles O21: the started command by what it takes, a guard and a layer by what they note on their command. -/
theorem codecEnginesGuardsAndLayers : Obligations.CodecEnginesGuardsAndLayers := by
  refine ⟨fun s encode c e six next idle => ?_, fun s e id c r decode busy found run => ?_,
    fun s id c r x found encodes run unfinished unsampled ctx => ?_, fun s id j c r l found encodes run layer held => ?_⟩
  · rw [exec_codecEngineStart next idle]
    have real : e < s.vcc.engines.length := six ▸ idleEngine_lt idle
    obtain ⟨_, taken⟩ := engineTaken_engine (encode := encode) (c := c) real Engine.reset
    obtain ⟨_, mine⟩ := syncHold_engine (s := engineTaken s encode c e) ((updAt_length _ _ _).symm ▸ real) c.id Engine.reset
    have others (k : Nat) (other : k ≠ e) : (syncHold (engineTaken s encode c e) c.id).vcc.engines.getD k Engine.reset =
        s.vcc.engines.getD k Engine.reset :=
      (syncHold_engine_ne (fun r run on => other (Option.some.inj (on.symm.trans (engineTaken_run (nextCodec_found next) run)))) _).trans
        (engineTaken_engine_ne other _)
    obtain ⟨es, frame⟩ := syncHold_engines (engineTaken s encode c e) c.id
    refine Gives.next ⟨?_, ?_, ?_, others, ?_⟩
    · rw [mine, taken]
    · rw [mine, taken]
    · rw [frame]
      exact engineTaken_queues encode
    · rw [frame]
      rfl
  · have notes (reason : Nat) : guardFires s e reason = { s with cmds := (guardFires s e reason).cmds } ∧
        (guardFires s e reason).cmd? id = some { c with codec := some (r.guarded reason) } := by
      rw [guardFires_notes decode busy]
      refine ⟨rfl, ?_⟩
      rw [cmd?_updCodec_same found, run]
      rfl
    exact ⟨Gives.next (notes 1), Gives.next (notes 2)⟩
  · rw [exec_frameBoundary found encodes run unfinished unsampled ctx]
    obtain ⟨now, others, frame⟩ := timedCodec found run (boundaryNs s c) (CodecRun.atBoundary c x (boundaryNs s c)) rfl
    exact Gives.next ⟨_, _, now, rfl, rfl, fun _ => mem_lateLayers, fun _ => mem_heldLayers, rfl, others, frame⟩
  · rw [exec_holdDeadline found encodes run layer held]
    obtain ⟨now, others, frame⟩ := timedCodec found run (r.boundaryNs + l.holdUs * 1000) _ rfl
    refine Gives.next ⟨_, _, now, rfl, ?_, rfl, rfl, others, frame⟩
    exact List.filter_congr fun k _ => by by_cases h : k = j <;> simp [h]

end Sys2Proof.Machine

namespace Sys2Proof.Machine

/-! Links (R340, R341): a change of one link, and records of errors, which leave the fabric's state as it is. -/

theorem OnlyLogged.fre {s t : State} : OnlyLogged s t → t.fre = s.fre := by
  rintro ⟨_, _, _, _, rfl⟩
  rfl

theorem OnlyLogged.egress {s t : State} : OnlyLogged s t → t.egress = s.egress := by
  rintro ⟨_, _, _, _, rfl⟩
  rfl

/-- What leaves after an error has been recorded comes after all that left before it. -/
theorem OnlyLogged.emit_egress {s t : State} (h : OnlyLogged s t) (e : Egress) : (t.emit e).egress = s.egress ++ [e] :=
  congrArg (· ++ [e]) h.egress

theorem attnEvent_onlyLogged (s : State) (n : Nat) : OnlyLogged s (s.attnEvent n) := ⟨_, _, _, _, rfl⟩

theorem setLink_link (s : State) (i j : Nat) (f : Link → Link) :
    (s.setLink i f).fre.links[j]? = if j = i then s.fre.links[j]?.map f else s.fre.links[j]? := updAt_getElem? s.fre.links i j f

section
variable {s : State} {i : Nat} {l : Link} (link : s.fre.links[i]? = some l)
include link

theorem setLink_link_same {u : State} (fabric : u.fre = s.fre) (f : Link → Link) : (u.setLink i f).fre.links[i]? = some (f l) := by
  rw [setLink_link, if_pos rfl, fabric, link]
  rfl

theorem getD_link : s.fre.links.getD i Link.reset = l := by
  rw [List.getD_eq_getElem?_getD, link]
  rfl

section
variable {frame n : Nat} (count : n = if l.lastFrame = frame ∧ l.replays ≠ 0 then l.replays + 1 else 1)
include count

/-- Up to the fifteenth replay in a row the link counts it (R340). -/
theorem exec_frameCrcError_replays (few : n < 16) : Gives (exec (.frameCrcError i frame) s) (fun t =>
    t.fre.links[i]? = some { l with replays := n, lastFrame := frame } ∧ t.egress = s.egress ++ [.frameReplay i frame]) := by
  simp only [exec, execFrameCrcError, getD_link link, ← count, if_pos few]
  have logged := logError_onlyLogged s (if i < 6 then 0x0B00 else 0x0C00) 0 0x12 0 (i + frame % 2 ^ 24 * 256)
  exact Gives.next ⟨setLink_link_same link logged.fre _, logged.emit_egress _⟩

/-- The sixteenth takes it down to retrain (R340, R394). -/
theorem exec_frameCrcError_retrains (many : 16 ≤ n) : Gives (exec (.frameCrcError i frame) s) (fun t =>
    t.fre.links[i]? = some { l with replays := 0, lastFrame := frame, state := 0 } ∧
    t.egress = s.egress ++ [.frameReplay i frame, .retrain i]) := by
  simp only [exec, execFrameCrcError, getD_link link, ← count, if_neg (Nat.not_lt.mpr many)]
  generalize (if i < 6 then 0x0B00 else 0x0C00) = page
  have noted := logError_onlyLogged s page 0 0x12 0 (i + frame % 2 ^ 24 * 256)
  have raised (u : State) : OnlyLogged u ((u.logError page 0 0x13 0 i).attnEvent attnERRLOG) :=
    (logError_onlyLogged u page 0 0x13 0 i).trans (attnEvent_onlyLogged _ _)
  have leaves (u : State) (replayed : u.egress = s.egress ++ [.frameReplay i frame]) :
      (((u.logError page 0 0x13 0 i).attnEvent attnERRLOG).emit (.retrain i)).egress = s.egress ++ [.frameReplay i frame, .retrain i] := by
    rw [(raised u).emit_egress, replayed, List.append_assoc]
    rfl
  refine Gives.next ⟨?_, ?_⟩
  · exact (congrArg (fun f : Fre => f.links[i]?) (raised _).fre).trans (setLink_link_same link noted.fre _)
  · exact leaves _ (noted.emit_egress _)

end

section
variable {f : FarEnd} (valid : s.fre.coordValid = true) (torus : i < 6) (axis : 1 < (torusExt s).getD (i / 2) 1)
include valid torus axis

/-- A used link comes up with the lanes of a far end that is the neighbour (R341). -/
theorem exec_linkTraining_good (good : [f.coord.1, f.coord.2.1, f.coord.2.2] = neighbourOf s i ∧
      [f.extents.1, f.extents.2.1, f.extents.2.2] = torusExt s) : Gives (exec (.linkTraining i f) s) (fun t =>
    t.fre.links[i]? = some { l with lanes := min f.lanes 4, state := laneState f.lanes, bad := false, replays := 0 } ∧
    t = { s with fre := { s.fre with links := t.fre.links } }) := by
  obtain ⟨neighbour, extents⟩ := good
  have matched : ([f.coord.1, f.coord.2.1, f.coord.2.2] == neighbourOf s i &&
      [f.extents.1, f.extents.2.1, f.extents.2.2] == torusExt s) = true := by
    rw [neighbour, extents, beq_self_eq_true, beq_self_eq_true]
    rfl
  have ran : exec (.linkTraining i f) s = .next (s.setLink i fun l =>
      { l with lanes := min f.lanes 4, state := laneState f.lanes, bad := false, replays := 0 }) := by
    simp only [exec, execLinkTraining, valid, torus, axis, matched, decide_true, Bool.and_self, Bool.not_true, Bool.false_eq_true,
      if_false, if_true]
  rw [ran]
  exact Gives.next ⟨setLink_link_same link rfl _, rfl⟩

/-- Any other far end marks it bad (R341). -/
theorem exec_linkTraining_bad (wrong : [f.coord.1, f.coord.2.1, f.coord.2.2] ≠ neighbourOf s i ∨
      [f.extents.1, f.extents.2.1, f.extents.2.2] ≠ torusExt s) : Gives (exec (.linkTraining i f) s) (fun t =>
    t.fre.links[i]? = some { l with state := 0, bad := true } ∧ t.ms = s.ms) := by
  have mismatch : ([f.coord.1, f.coord.2.1, f.coord.2.2] == neighbourOf s i &&
      [f.extents.1, f.extents.2.1, f.extents.2.2] == torusExt s) = false := by
    rw [Bool.and_eq_false_iff, beq_eq_false_iff_ne, beq_eq_false_iff_ne]
    exact wrong
  have ran : exec (.linkTraining i f) s = .next ((s.setLink i fun l => { l with state := 0, bad := true }).logError 0x0B00 0 0x19 0 i) := by
    simp only [exec, execLinkTraining, valid, torus, axis, mismatch, decide_true, Bool.and_self, Bool.not_true, Bool.false_eq_true, if_false]
  rw [ran]
  have logged := logError_onlyLogged (s.setLink i fun l => { l with state := 0, bad := true }) 0x0B00 0 0x19 0 i
  refine Gives.next ⟨?_, logged.ms⟩
  exact (congrArg (fun f : Fre => f.links[i]?) logged.fre).trans (setLink_link_same link rfl _)

end

/-- A link that loses lanes runs on what is left (R340). -/
theorem exec_laneLoss {k : Nat} (up : l.state ≠ 0) (lost : 1 ≤ k) : Gives (exec (.laneLoss i k) s) (fun t =>
    t.fre.links[i]? = some { l with lanes := l.lanes - k, state := laneState (l.lanes - k) } ∧
    (∀ j, j ≠ i → t.fre.links[j]? = s.fre.links[j]?) ∧ t = { s with fre := { s.fre with links := t.fre.links } }) := by
  have runs : ¬(l.state = 0 ∨ k = 0) := not_or.mpr ⟨up, Nat.one_le_iff_ne_zero.mp lost⟩
  simp only [exec, execLaneLoss, getD_link link, if_neg runs]
  exact Gives.next ⟨setLink_link_same link rfl _, fun j other => (setLink_link s i j _).trans (if_neg other), rfl⟩

end

/-! Aliases (R355, R356). -/

theorem alFind_filter_ne {α : Type} (k x : Nat) (l : List (Nat × α)) :
    alFind x (l.filter (fun a => a.1 != k)) = if x = k then none else alFind x l := by
  induction l with
  | nil => simp [alFind]
  | cons a l ih =>
    by_cases gone : a.1 = k
    · rw [List.filter_cons_of_neg (by simp [gone]), ih]
      by_cases here : x = k
      · rw [if_pos here, if_pos here]
      · have past : alFind x (a :: l) = alFind x l := if_neg (gone ▸ Ne.symm here)
        rw [if_neg here, if_neg here, past]
    · rw [List.filter_cons_of_pos (by simp [gone])]
      by_cases here : a.1 = x
      · simp [alFind, here, here ▸ gone]
      · simp [alFind, here, ih]

theorem scrambleOut_fre (s : State) (c : Cmd) : (scrambleOut s c).fre = s.fre := by
  unfold scrambleOut
  extract_lets o n vals ws
  obtain ⟨ms, memory⟩ := writeAll_onlyMemory c.id true ws ws { s with freeCtr := s.freeCtr + n }
  rw [memory]

theorem endHandshake_aliases (s : State) (c : Cmd) : (endHandshake s c).fre.aliases = s.fre.aliases := by
  unfold endHandshake
  split
  · split
    · rfl
    · rfl
  · rfl

/-- A collective that ends leaves the table of aliases as it is. -/
theorem endColl_aliases (s : State) (c : Cmd) (r : Res) : (endColl s c r).fre.aliases = s.fre.aliases := by
  refine (endHandshake_aliases _ c).trans ?_
  split
  · rw [scrambleOut_fre]
  · rfl

/-- A table that has the entry or room for it takes the new one (R355). -/
theorem installAlias_aliases {s : State} {failed : Nat} (room : alFind failed s.fre.aliases ≠ none ∨ s.fre.aliases.length < 32) (survivor : Nat) :
    (installAlias s failed survivor).fre.aliases = alSet failed survivor s.fre.aliases := by
  have takes : ¬((alFind failed s.fre.aliases).isNone && decide (32 ≤ s.fre.aliases.length)) = true := by
    rw [Bool.and_eq_true, Option.isNone_iff_eq_none, decide_eq_true_eq]
    rintro ⟨new, full⟩
    exact room.elim (fun known => known new) full.not_gt
  have ended (l : List Cmd) : (l.foldl (fun t c => endColl t c .fabricTimeout) s).fre.aliases = s.fre.aliases :=
    List.foldlRecOn (motive := fun t : State => t.fre.aliases = s.fre.aliases) l _ rfl
      fun t same c _ => (endColl_aliases t c _).trans same
  rw [installAlias, if_neg takes]
  exact congrArg (alSet failed survivor) (ended _)

/-- Settles O35: a link changes by what its row finds of it, and the table of aliases is a keyed table set or cleared at one coordinate. -/
theorem linksTrainReplayAndLoseLanes : Obligations.LinksTrainReplayAndLoseLanes := by
  refine ⟨fun s i frame l link n count => ⟨exec_frameCrcError_replays link count, exec_frameCrcError_retrains link count⟩,
    fun s i l f link valid torus axis => ⟨exec_linkTraining_good link valid torus axis, exec_linkTraining_bad link valid torus axis⟩,
    fun s i k l link up lost => exec_laneLoss link up lost, fun s a b room => ?_, fun s a => ?_⟩
  · have table := installAlias_aliases room b
    refine Gives.next ⟨?_, fun x other => ?_⟩
    · rw [table, alFind_alSet, if_pos rfl]
    · rw [table, alFind_alSet, if_neg other]
  · refine Gives.next ⟨?_, fun x other => ?_, rfl⟩
    · exact (alFind_filter_ne a a _).trans (if_pos rfl)
    · exact (alFind_filter_ne a x _).trans (if_neg other)

end Sys2Proof.Machine

namespace Sys2Proof.Machine

/-! The commands of a state by their numbers. -/

/-- From `s` to `t` no command comes, goes or changes its number. -/
def SameIds (s t : State) : Prop := t.cmds.map Cmd.id = s.cmds.map Cmd.id

namespace SameIds
variable {s t u : State}

theorem of_cmds (same : t.cmds = s.cmds) : SameIds s t := congrArg (List.map Cmd.id) same

theorem refl (s : State) : SameIds s s := of_cmds rfl

theorem trans (h : SameIds s t) (k : SameIds t u) : SameIds s u := Eq.trans k h

theorem foldl {α : Type} {f : State → α → State} (step : ∀ s x, SameIds s (f s x)) (l : List α) (s : State) : SameIds s (l.foldl f s) :=
  List.foldlRecOn (motive := SameIds s) l f (refl s) fun t h x _ => h.trans (step t x)

theorem updCmd (s : State) (n : Nat) {f : Cmd → Cmd} (keep : ∀ d, (f d).id = d.id) : SameIds s (s.updCmd n f) := by
  refine (List.map_map ..).trans (List.map_congr_left fun d _ => ?_)
  simp only [Function.comp]
  split
  · exact keep d
  · rfl

theorem of_onlyMemory : OnlyMemory s t → SameIds s t := by
  rintro ⟨_, rfl⟩
  exact refl s

theorem of_onlyLogged : OnlyLogged s t → SameIds s t := by
  rintro ⟨_, _, _, _, rfl⟩
  exact refl s

theorem length (h : SameIds s t) : t.cmds.length = s.cmds.length := by
  simpa using congrArg List.length h

theorem stays (h : SameIds s t) {n : Nat} {c : Cmd} (found : s.cmd? n = some c) : ∃ d, t.cmd? n = some d := by
  have number : n ∈ s.cmds.map Cmd.id :=
    List.mem_map.mpr ⟨c, List.mem_of_find?_eq_some found, by simpa using List.find?_some found⟩
  obtain ⟨d, mem, id⟩ := List.mem_map.mp (h ▸ number)
  exact Option.isSome_iff_exists.mp (List.find?_isSome.mpr ⟨d, mem, beq_iff_eq.mpr id⟩)

end SameIds

/-- From `s` to `t` command `id` gets a result, and no command comes or goes. -/
structure Finishes (id : Nat) (s t : State) : Prop where
  ids : SameIds s t
  result : ∃ d r, t.cmd? id = some d ∧ d.result = some r

theorem SameIds.finishes {s t : State} (h : SameIds s t) {id : Nat} {c : Cmd} (found : s.cmd? id = some c) {f : Cmd → Cmd} {r : Res}
    (keep : ∀ d, (f d).id = d.id) (ends : ∀ d, (f d).result = some r) : Finishes id s (t.updCmd id f) := by
  obtain ⟨d, now⟩ := h.stays found
  refine ⟨h.trans (.updCmd t id keep), f d, r, ?_, ends d⟩
  rw [cmd?_updCmd t id id keep, if_pos rfl, now]
  rfl

theorem SameIds.closes {s t : State} (h : SameIds s t) {id : Nat} {c : Cmd} (found : s.cmd? id = some c) (r : Res) :
    Finishes id s (t.updCmd id (Cmd.close r)) := h.finishes found (r := r) (fun _ => rfl) fun _ => rfl

theorem Finishes.after {id : Nat} {s t u : State} (h : SameIds s t) (k : Finishes id t u) : Finishes id s u :=
  ⟨h.trans k.ids, k.result⟩

/-- What runs with a command's accesses in progress. -/
theorem Finishes.during {id : Nat} {s : State} {c : Cmd} {f : State → State} (h : Finishes id (s.accessing c) (f (s.accessing c))) :
    Finishes id s (s.during c f) := ⟨h.ids, h.result⟩

/-! An outcome applied and the data of a collective (R347 to R350): memory, records and one command. -/

theorem advanceLfsr_sameIds (s : State) (c : Cmd) : SameIds s (advanceLfsr s c) := by
  unfold advanceLfsr
  split
  · exact .refl s
  · split
    · refine .foldl (fun t p => ?_) _ s
      split
      · exact .of_cmds rfl
      · exact .refl t
    · refine .foldl (fun t n => ?_) _ s
      exact .of_cmds rfl

theorem beginWrites_sameIds (s : State) (c : Cmd) (o : OpOut) : SameIds s (beginWrites s c o) := by
  unfold beginWrites
  extract_lets s1 jumps
  have generators : SameIds s (advanceLfsr { s with freeCtr := s.freeCtr + o.draws } c) :=
    (SameIds.of_cmds rfl).trans (advanceLfsr_sameIds { s with freeCtr := s.freeCtr + o.draws } c)
  have begun : SameIds s s1 := generators.trans (.updCmd _ c.id fun _ => rfl)
  exact begun.trans (.of_cmds rfl)

theorem setSregs_sameIds (s : State) (ctx : Nat) (l : List (Nat × DWord)) : SameIds s (setSregs s ctx l) := by
  refine .foldl (fun t p => ?_) l s
  exact .of_cmds rfl

theorem applyOut_sameIds (s : State) (c : Cmd) (hub : Bool) (o : OpOut) : SameIds s (applyOut s c hub o).1 := by
  have written (on : Nat → Bool) : SameIds s (writeTiles c.id hub on o.byPlace.zipIdx (beginWrites s c o)).1 :=
    (beginWrites_sameIds s c o).trans (.of_onlyMemory (writeTiles_onlyMemory c.id hub on _ _))
  unfold applyOut
  extract_lets s2 w
  split
  · exact (written _).trans (.of_onlyLogged (captureFault_onlyLogged _ c _))
  · exact (written _).trans (.of_onlyLogged (captureFault_onlyLogged _ c _))
  · exact (written _).trans (setSregs_sameIds _ c.ctx o.sregs)

theorem scrambleOut_sameIds (s : State) (c : Cmd) : SameIds s (scrambleOut s c) := by
  unfold scrambleOut
  extract_lets o n vals ws
  exact SameIds.trans (t := { s with freeCtr := s.freeCtr + n }) (.of_cmds rfl) (.of_onlyMemory (writeAll_onlyMemory c.id true ws ws _))

section
variable {s : State} {c d : Cmd} (found : s.cmd? c.id = some d)
include found

/-- A collective that moves its data ends: by a residue failure, a fault, or what it writes (R347 to R350). -/
theorem moveData_finishes (k : Coll) : Finishes c.id s (moveData s c k) := by
  unfold moveData
  extract_lets x need s1 fails fre s2 s3
  have taken : SameIds s s1 := .updCmd s c.id fun _ => rfl
  have counted : SameIds s s2 := taken.trans (.of_cmds rfl)
  have logged : SameIds s s3 := counted.trans (.foldl (fun t f => .of_onlyLogged (logError_onlyLogged t _ _ _ _ _)) _ s2)
  clear_value s3
  split
  · have told : SameIds s ((scrambleOut s3 c).emits (abortMsgs s3 c k .reduceCheck)) :=
      (logged.trans (scrambleOut_sameIds s3 c)).trans (.of_cmds rfl)
    exact told.closes found .reduceCheck
  · obtain ⟨e, here⟩ := logged.stays found
    have here : (s3.accessing c).cmd? c.id = some e := here
    refine .after logged (.during ?_)
    split
    · next fault _ => exact (SameIds.of_onlyLogged (captureFault_onlyLogged _ c fault)).closes here fault.1
    · have sent : SameIds (s3.accessing c) ((s3.accessing c).emits (dataMsgs (s3.accessing c) c k)) := .of_cmds rfl
      exact (sent.trans (applyOut_sameIds _ c true _)).closes here _

end

/-! The start of a collective (R343, R344, R349, R351). -/

/-- From `s` to `t` command `id` gets a collective record in phase `p` and has no result yet, and no command comes or goes. -/
structure Waits (id : Nat) (p : CollPhase) (s t : State) : Prop where
  ids : SameIds s t
  phase : ∃ d, t.cmd? id = some d ∧ d.phaseIs p = true ∧ d.result = none

/-- The commands are those of `s` but for the record of one that has no result. -/
theorem updCmd_waits {s t : State} {c : Cmd} (found : s.cmd? c.id = some c) (unfinished : c.result = none) {k : Coll} {p : CollPhase}
    (phase : k.phase = p) (same : t.cmds = (s.updCmd c.id fun d => { d with coll := some k }).cmds) : Waits c.id p s t := by
  have ids : SameIds s (s.updCmd c.id fun d => { d with coll := some k }) := .updCmd s c.id fun _ => rfl
  refine ⟨ids.trans (.of_cmds same), { c with coll := some k }, ?_, ?_, unfinished⟩
  · have here : t.cmd? c.id = (s.updCmd c.id fun d => { d with coll := some k }).cmd? c.id := congrArg (List.find? _) same
    rw [here, cmd?_updCmd s c.id c.id (f := fun d => { d with coll := some k }) fun _ => rfl, if_pos rfl, found]
    rfl
  · simp [Cmd.phaseIs, phase]

theorem judge_cmds (s : State) (group tag : Nat) : (judge s group tag).cmds = s.cmds := by
  unfold judge
  split
  · rfl
  · split
    · rfl
    · dsimp only
      split
      · rfl
      · rfl

theorem sendDigest_cmds (s : State) (x : Col) (own : List Nat) (group tag rank : Nat) (v : DWord) :
    (sendDigest s x own group tag rank v).cmds = s.cmds := by
  unfold sendDigest
  split
  · exact judge_cmds _ group tag
  · rfl

section
variable {s : State} {c : Cmd} (found : s.cmd? c.id = some c)
include found

/-- A member of a larger group joins its handshake (R351). -/
theorem beginColl_joins (unfinished : c.result = none) (group : colP (parseCol c.u0) ≠ 1) : Waits c.id .handshake s (beginColl s c) := by
  unfold beginColl
  extract_lets x twin own chk p rank v k
  rw [if_neg group]
  exact updCmd_waits found unfinished (k := k) rfl (sendDigest_cmds _ x own _ _ rank v)

/-- A collective whose turn it is moves its data and ends; any other waits for its slots (R349). -/
theorem takeSlots_ends (unfinished : c.result = none) (k : Coll) :
    Finishes c.id s (takeSlots s c k) ∨ slotTurn s c = false ∧ Waits c.id .wantSlots s (takeSlots s c k) := by
  unfold takeSlots
  split
  · exact .inl (moveData_finishes found k)
  · next turn => exact .inr ⟨Bool.eq_false_of_not_eq_true turn, updCmd_waits found unfinished rfl rfl⟩

/-- A group of one fails its local checks or completes locally (R343). -/
theorem beginColl_alone (unfinished : c.result = none) (alone : colP (parseCol c.u0) = 1) :
    Finishes c.id s (beginColl s c) ∨ slotTurn s c = false ∧ Waits c.id .wantSlots s (beginColl s c) := by
  unfold beginColl
  extract_lets x twin own chk p rank v k
  rw [if_pos alone]
  clear_value k v chk
  cases chk with
  | some r => exact .inl ((SameIds.refl s).finishes found (r := r) (fun _ => rfl) fun _ => rfl)
  | none => exact takeSlots_ends found unfinished k

end

section
variable {s : State} {id : Nat} {c : Cmd} {ok : Nat → Bool} (ready : opReady s id 0x10 = some c) (names : ok (parseCol c.u0).op = true)
  (fresh : c.coll = none)
include ready names fresh

/-- A later collective of the same key and role waits (R344). -/
theorem runColl_waits (busy : keyBusy s c = true) : Waits id .waitingKey s (runColl s id ok) := by
  obtain ⟨found, rfl, unfinished⟩ := opReady_found ready
  simp only [runColl, ready, names, fresh, busy]
  exact updCmd_waits found unfinished rfl rfl

theorem runColl_begins (free : keyBusy s c = false) : runColl s id ok = beginColl s c := by
  simp [runColl, ready, names, fresh, free]

end

/-- Each row runs the collectives of its `OP`. -/
theorem exec_collectiveRow : ∀ r ∈ collectiveRows, ∃ ok : Nat → Bool, ok r.1 = true ∧
    ∀ id s, exec (r.2 id) s = .next (runColl s id ok) := by
  simp only [collectiveRows, List.forall_mem_cons]
  exact ⟨⟨_, rfl, fun _ _ => rfl⟩, ⟨_, rfl, fun _ _ => rfl⟩, ⟨_, rfl, fun _ _ => rfl⟩, ⟨_, rfl, fun _ _ => rfl⟩,
    ⟨_, rfl, fun _ _ => rfl⟩, ⟨_, rfl, fun _ _ => rfl⟩, fun _ none' => nomatch none'⟩

/-- Settles O8: a collective waits for its key, joins its handshake, or is alone and ends or waits for its slots. -/
theorem collectivesStartTheirHandshake : Obligations.CollectivesStartTheirHandshake := by
  intro r row s id c ready op fresh
  obtain ⟨ok, names, runs⟩ := exec_collectiveRow r row
  have names : ok (parseCol c.u0).op = true := op ▸ names
  rw [runs]
  refine Gives.next ?_
  cases busy : keyBusy s c with
  | true =>
    obtain ⟨ids, d, now, phase, unfinished⟩ := runColl_waits ready names fresh busy
    exact ⟨⟨d, now, fun _ => ⟨phase, unfinished⟩, nofun, nofun, nofun⟩, ids.length⟩
  | false =>
    rw [runColl_begins ready names fresh busy]
    obtain ⟨found, rfl, unfinished⟩ := opReady_found ready
    by_cases alone : colP (parseCol c.u0) = 1
    · rcases beginColl_alone found unfinished alone with ⟨ids, d, res, now, ended⟩ | ⟨turn, ids, d, now, phase, -⟩
      · have ended : d.result.isSome = true := ended ▸ rfl
        exact ⟨⟨d, now, nofun, fun _ _ _ => ended, fun _ _ => .inl ended, fun _ others => absurd alone others⟩, ids.length⟩
      · exact ⟨⟨d, now, nofun, fun _ _ mine => absurd mine (turn ▸ nofun), fun _ _ => .inr phase,
          fun _ others => absurd alone others⟩, ids.length⟩
    · obtain ⟨ids, d, now, phase, unfinished⟩ := beginColl_joins found unfinished alone
      exact ⟨⟨d, now, nofun, fun _ one => absurd one alone, fun _ one => absurd one alone, fun _ _ => ⟨phase, unfinished⟩⟩, ids.length⟩

end Sys2Proof.Machine

namespace Sys2Proof.Machine

/-! The two kinds of step: an idle cycle, or the command at the front of the queue (R411). -/

theorem step_command (c : Instr) (rest : List Instr) (s : State) :
    step { s with pending := c :: rest } = exec c { s with pending := rest } := rfl

theorem step_idle {s : State} (empty : s.pending = []) : step s = .next (idleCycle s) := by rw [step, empty]

/-- A step keeps the permanent marks: an idle cycle and every command do. -/
theorem step_marksStay {s t : State} (h : step s = .next t) : MarksStay s t := by
  cases queue : s.pending with
  | nil =>
    rw [step_idle queue] at h
    cases h
    exact (idleCycle_keeps s).marks
  | cons c rest =>
    obtain ⟨u, runs, kept⟩ := exec_keeps c { s with pending := rest }
    rw [step, queue] at h
    cases runs.symm.trans h
    exact (MarksStay.of_dev (s := s) (t := { s with pending := rest }) rfl).trans kept.marks

/-- Settles O5: every command and every idle cycle keeps the marks, by what its operations keep. -/
theorem permanentMarksStay : Obligations.PermanentMarksStay := fun _ _ => step_marksStay

/-- Settles O6: no command touches the queue, by what its operations keep. -/
theorem commandsLeaveTheQueueAlone : Obligations.CommandsLeaveTheQueueAlone := fun c s =>
  let ⟨t, runs, kept⟩ := exec_keeps c s
  ⟨t, runs, kept.queue⟩

/-- Settles O1, by the definition of a step. -/
theorem stepRunsTheFrontCommand : Obligations.StepRunsTheFrontCommand := step_command

/-- Settles O4: at reset no byte is listed, no command waits and `PORST_N` is low. -/
theorem resetMemoryIsCanonical : Obligations.ResetMemoryIsCanonical := ⟨rfl, rfl, rfl⟩

end Sys2Proof.Machine

namespace Sys2Proof.Machine

/-! Seal and presence (R423 to R425). -/

/-- The last entry of a ring of `n` is the one just added. -/
theorem getLast?_ring {α : Type} (l : List α) (e : α) {n : Nat} (pos : 0 < n) : ((l ++ [e]).drop (l.length + 1 - n)).getLast? = some e := by
  rw [List.getLast?_drop, if_neg (by simp; omega), List.getLast?_concat]

@[simp] theorem addPresence_last (m : Mgc) (e : PresEntry) : (addPresence m e).presence.getLast? = some e := by
  simp only [addPresence]
  exact getLast?_ring m.presence e (by norm_num)

section
variable {s : State} (up : s.dev.porstLow = false)
include up

/-- A check that does not break the seal records its finding and counts it. -/
theorem exec_sealCheck_counts {closed : Bool} (few : (if closed then 0 else s.mgc.sealOpenRun + 1) < 10 ∨ s.dev.sealBroken = true) :
    exec (.sealCheck closed) s = .next { s with mgc := { s.mgc with
      sealClosed := closed, sealOpenRun := if closed then 0 else s.mgc.sealOpenRun + 1 } } := by
  have stays : ¬(10 ≤ (if closed then 0 else s.mgc.sealOpenRun + 1) ∧ s.dev.sealBroken = false) := by
    rintro ⟨many, whole⟩
    rcases few with few | broken
    · omega
    · exact absurd (broken.symm.trans whole) (by decide)
  simp only [exec, execSealCheck, up, Bool.false_eq_true, if_false, if_neg stays]

/-- The tenth open check in succession programs the fuse, once (R425). -/
theorem exec_sealCheck_breaks (tenth : 10 ≤ s.mgc.sealOpenRun + 1) (whole : s.dev.sealBroken = false) :
    exec (.sealCheck false) s = .next (({ s with
      dev := { s.dev with sealBroken := true }
      mgc := addPresence { s.mgc with sealClosed := false, sealOpenRun := s.mgc.sealOpenRun + 1 } ⟨s.dev.timeNs, 0, 0, 2, 0⟩ }.logNote
        0x0100 0x1B 0).attnEvent attnSEAL) := by
  have breaks : 10 ≤ s.mgc.sealOpenRun + 1 ∧ s.dev.sealBroken = false := ⟨tenth, whole⟩
  simp only [exec, execSealCheck, up, Bool.false_eq_true, if_false, if_pos breaks]

/-- One press opens one window (R423). -/
theorem exec_presenceWindowOpen_armed (armed : s.mgc.btnArmed = true) : exec .presenceWindowOpen s = .next (if s.mgc.windowOpen
    then { s with mgc := { s.mgc with btnArmed := false } }
    else { s with mgc := { s.mgc with windowOpen := true, windowNs := s.dev.timeNs, btnArmed := false } }) := by
  simp [exec, execPresenceWindowOpen, up, armed]

end

theorem exec_presenceWindowOpen_unarmed {s : State} (unarmed : s.mgc.btnArmed = false) : exec .presenceWindowOpen s = .next s := by
  simp [exec, execPresenceWindowOpen, unarmed]

/-- Settles O44: the seal's fuse by the run of open checks, the window by the button. -/
theorem presenceAndSeal : Obligations.PresenceAndSeal := by
  refine ⟨fun s up => ⟨?_, fun few => ?_, fun tenth whole => ?_, fun broken => ?_, fun armed closed => ?_, fun armed open' => ?_,
    exec_presenceWindowOpen_unarmed⟩, fun s b => ⟨Gives.next rfl, Gives.next rfl, Gives.next rfl⟩⟩
  · exact ⟨_, exec_sealCheck_counts up (.inl (by simp)), rfl, rfl, rfl, rfl⟩
  · exact ⟨_, exec_sealCheck_counts up (.inl few), rfl, rfl, rfl, rfl⟩
  · exact ⟨_, exec_sealCheck_breaks up tenth whole, rfl, rfl, rfl, addPresence_last _ _⟩
  · exact ⟨_, exec_sealCheck_counts up (.inr broken), rfl, rfl⟩
  · exact ⟨_, exec_presenceWindowOpen_armed up armed, by rw [closed]; rfl⟩
  · exact ⟨_, exec_presenceWindowOpen_armed up armed, by rw [open']; rfl⟩

end Sys2Proof.Machine

namespace Sys2Proof.Machine

/-! Thresholds, the shadow and the closing of log entries (R392, R397, R421, R435). -/

theorem exec_telemetryThreshold {s : State} {k : Nat} {h : Threshold} (found : s.mgc.thresholds[k]? = some h) :
    exec (.telemetryThreshold k) s = .next { s with
      mgc := { s.mgc with thresholds := updAt s.mgc.thresholds k (fun t => { t with last := thresholdTrue s h }) }
      attn := if thresholdTrue s h = true ∧ h.last = false then s.attn.event attnTELEMETRY else s.attn } := by
  simp only [exec, execTelemetryThreshold, found, State.attnEvent]
  cases thresholdTrue s h <;> cases h.last <;> rfl

/-- A keyed table after entries for the keys of a list have been set. -/
theorem alFind_foldl_alSet {α : Type} (f : Nat → α) (p : Nat) : ∀ (l : List Nat) (m : List (Nat × α)),
    alFind p (l.foldl (fun m q => alSet q (f q) m) m) = if p ∈ l then some (f p) else alFind p m
  | [], m => by simp
  | q :: l, m => by
      rw [List.foldl_cons, alFind_foldl_alSet f p l, alFind_alSet]
      by_cases here : p = q
      · simp [here]
      · simp [here]

/-- The shadow after a refresh in which the pages `silent` do not answer. -/
def refreshedShadow (s : State) (silent : List Nat) : List (Nat × List Word) :=
  (allPages.filter (fun p => powered s p && !silent.contains p)).foldl (fun l p => alSet p (shadowOf s p) l) s.shadow

theorem exec_shadowRefresh {s : State} (up : s.dev.porstLow = false) (silent : List Nat) :
    exec (.shadowRefresh silent) s = .next { s with shadow := refreshedShadow s silent } := by
  simp [exec, execShadowRefresh, refreshedShadow, up]

theorem alFind_refreshedShadow {s : State} {silent : List Nat} {p : Nat} (page : p ∈ allPages) :
    alFind p (refreshedShadow s silent) = if powered s p = true ∧ p ∉ silent then some (shadowOf s p) else alFind p s.shadow := by
  rw [refreshedShadow, alFind_foldl_alSet]
  simp [page]

/-- The earliest first time of the open entries is that of an open entry which none precedes. -/
theorem Log.firstOpen_eq {l : Log} {i : Nat} {e : LogEntry} (opened : i ∈ l.opened) (slot : l.slots[i]? = some e)
    (least : ∀ j f, j ∈ l.opened → l.slots[j]? = some f → e.firstNs ≤ f.firstNs) : l.firstOpen = some e.firstNs := by
  rw [Log.firstOpen, List.min?_eq_some_iff]
  refine ⟨List.mem_map_of_mem (List.mem_filterMap.mpr ⟨i, opened, slot⟩), fun b hb => ?_⟩
  obtain ⟨f, entry, rfl⟩ := List.mem_map.mp hb
  obtain ⟨j, open', slot'⟩ := List.mem_filterMap.mp entry
  exact least j f open' slot'

/-- The entries of a log that are still open at a time. -/
def Log.closeUntil (l : Log) (now : Nat) : Log :=
  { l with opened := l.opened.filter (fun i => match l.slots[i]? with
    | some e => decide (now ≤ e.firstNs + 1000000)
    | none => false) }

theorem Log.mem_closeUntil {l : Log} {now j : Nat} {f : LogEntry} (slot : l.slots[j]? = some f) :
    j ∈ (l.closeUntil now).opened ↔ j ∈ l.opened ∧ now ≤ f.firstNs + 1000000 := by
  simp [Log.closeUntil, slot]

theorem exec_logEntryClose {s : State} {d first : Nat} {l : Log} (found : s.logs[d]? = some l) (firstOpen : l.firstOpen = some first) :
    exec (.logEntryClose d) s = .next { s with
      dev := { s.dev with timeNs := max s.dev.timeNs (first + 1000001) }
      logs := updAt s.logs d (·.closeUntil (max s.dev.timeNs (first + 1000001))) } := by
  simp only [exec, execLogEntryClose, found, firstOpen]
  rfl

/-- Settles O45: the rising comparison, the pages that answer, and the entries whose 1 ms is past. -/
theorem telemetryShadowAndLogs : Obligations.TelemetryShadowAndLogs := by
  refine ⟨fun s k h found => ?_, fun s silent p up page => ?_, fun s d i l e found opened slot least => ?_, fun s d l found none' => ?_⟩
  · exact ⟨_, exec_telemetryThreshold found, by rw [updAt_getElem?, if_pos rfl, found]; rfl, rfl, rfl⟩
  · refine ⟨_, exec_shadowRefresh up silent, rfl, fun on answers => ?_, fun off => ?_⟩
    · rw [alFind_refreshedShadow page, if_pos ⟨on, answers⟩]
    · rw [alFind_refreshedShadow page, if_neg]
      rintro ⟨on, answers⟩
      rcases off with off | silent
      · exact absurd (on.symm.trans off) (by decide)
      · exact answers silent
  · refine ⟨_, exec_logEntryClose found (Log.firstOpen_eq opened slot least), l.closeUntil (max s.dev.timeNs (e.firstNs + 1000001)), ?_,
      rfl, rfl, fun stays => ?_, fun j f slot' => Log.mem_closeUntil slot', rfl, fun k other => ?_, rfl⟩
    · rw [updAt_getElem?, if_pos rfl, found]
      rfl
    · have past := ((Log.mem_closeUntil slot).mp stays).2
      omega
    · rw [updAt_getElem?, if_neg other]
  · have closed : l.firstOpen = none := by simp [Log.firstOpen, none']
    simp only [exec, execLogEntryClose, found, closed]

end Sys2Proof.Machine

namespace Sys2Proof.Machine

/-! ATTN conditions (R420): what an event and a level leave of the bits and the counts. -/

section
variable (a : Attn) {n : Nat}

theorem bit_getLsbD (h : n < 16) (k : Nat) : (BitVec.ofNat 16 (2 ^ n)).getLsbD k = decide (k = n) := by
  rw [BitVec.getLsbD_ofNat, Nat.testBit_two_pow]
  by_cases e : n = k
  · simp [e ▸ h, e]
  · simp [e, Ne.symm e]

theorem Attn.event_pending (h : n < 16) (k : Nat) : (a.event n).pending.getLsbD k = (a.pending.getLsbD k || decide (k = n)) := by
  rw [Attn.event, BitVec.getLsbD_or, bit_getLsbD h]

theorem Attn.event_count (h : n < a.counts.length) : (a.event n).counts.getD n 0 = a.counts.getD n 0 + 1 := updAt_getD_same h _ 0 0

@[simp] theorem Attn.event_cause : (a.event n).cause = a.cause := rfl

theorem Attn.levelOn_cause (h : n < 16) : (a.levelOn n).cause.getLsbD n = true := by
  unfold Attn.levelOn
  split
  · assumption
  · rw [BitVec.getLsbD_or, bit_getLsbD h]
    simp

theorem Attn.levelOff_cause (h : n < 16) : (a.levelOff n).cause.getLsbD n = false := by
  rw [Attn.levelOff, BitVec.getLsbD_and, BitVec.getLsbD_not, bit_getLsbD h]
  simp

theorem Attn.levelOff_pending (h : n < 16) : (a.levelOff n).pending.getLsbD n = false := by
  rw [Attn.levelOff, BitVec.getLsbD_and, BitVec.getLsbD_not, bit_getLsbD h]
  simp

/-- A condition that is pending stays pending when a level begins. -/
theorem Attn.levelOn_pending {k : Nat} (pending : a.pending.getLsbD k = true) : (a.levelOn n).pending.getLsbD k = true := by
  unfold Attn.levelOn
  split
  · exact pending
  · rw [BitVec.getLsbD_or, pending, Bool.true_or]

end

/-! What an error raises (R394, R447). -/

section
variable {s : State} {p k : Nat}

/-- A masked cause raises no condition (R447). -/
theorem setEvent_masked (mask : (s.hdr p).evmask.getLsbD k = true) : (s.setEvent p k).attn = s.attn := by
  simp [State.setEvent, mask]

/-- A cause without a code raises no condition (R447). -/
theorem setEvent_codeless (code : causeCode (s.hdr p) k = 0) : (s.setEvent p k).attn = s.attn := by
  simp only [State.setEvent, code, if_true]
  split <;> rfl

/-- A corrected error under its mask is only counted (R394). -/
theorem logError_corrected_attn (mask : (s.hdr p).evmask.getLsbD 8 = true) (t r d : Nat) : (s.logError p 0 t r d).attn = s.attn := by
  simp only [State.logError, if_true]
  exact setEvent_masked (by simpa [State.hdr, State.setHdr, alFind_alSet, PageHdr.noteError] using mask)

/-- An uncorrected or fatal error raises one onset of `ERRLOG` (R394). -/
theorem logError_uncorrected_attn {cls : Nat} (bad : cls = 1 ∨ cls = 2) (t r d : Nat) :
    (s.logError p cls t r d).attn = s.attn.event attnERRLOG := by
  have code (h : PageHdr) : causeCode h (8 + cls) = 0 := by rcases bad with rfl | rfl <;> rfl
  have some' : cls ≠ 0 := by omega
  simp only [State.logError, if_neg some']
  exact congrArg (Attn.event · attnERRLOG) (setEvent_codeless (code _))

/-- Recording an error leaves the masks of its page. -/
theorem logError_evmask (c t r d : Nat) : ((s.logError p c t r d).hdr p).evmask = (s.hdr p).evmask := by rw [logError_hdr_same]; rfl

end

/-- The sixteenth replay on end takes the link down, and that is one onset (R340, R394). -/
theorem frameCrcError_onset {s : State} {link frame : Nat} (mask : (s.hdr (if link < 6 then 0x0B00 else 0x0C00)).evmask.getLsbD 8 = true)
    (same : (s.fre.links.getD link Link.reset).lastFrame = frame) (fifteen : (s.fre.links.getD link Link.reset).replays = 15) :
    Gives (execFrameCrcError link frame s) (fun t => t.attn = s.attn.event attnERRLOG) := by
  unfold execFrameCrcError
  extract_lets l n page s1 s2
  have sixteen : n = 16 := by
    simp only [n, l, same, fifteen]
    decide
  have first : (s.logError page 0 0x12 0 (link + frame % 2 ^ 24 * 256)).attn = s.attn := logError_corrected_attn mask _ _ _
  have mask2 : (s2.hdr page).evmask.getLsbD 8 = true := (congrArg (BitVec.getLsbD · 8) (logError_evmask (s := s) 0 0x12 0 _)).trans mask
  rw [if_neg (by omega)]
  refine Gives.next ?_
  exact congrArg (Attn.event · attnERRLOG) ((logError_corrected_attn mask2 _ _ _).trans first)

/-- A full table of aliases refuses an entry, and that is one onset (R355, R394). -/
theorem installAlias_full {s : State} {failed : Nat} (new : alFind failed s.fre.aliases = none) (full : 32 ≤ s.fre.aliases.length) (survivor : Nat) :
    installAlias s failed survivor = (s.logError 0x0B00 0 0x1A 0 failed).attnEvent attnERRLOG := by
  simp [installAlias, new, full]

/-- Settles O32: each of these rows records its error and raises one event, and a masked corrected error none. -/
theorem errorsRaiseOneOnset : Obligations.ErrorsRaiseOneOnset := by
  intro s counts
  have room : attnERRLOG < s.attn.counts.length := by
    rw [counts]
    decide
  have onset {t : State} (h : t.attn = s.attn.event attnERRLOG) : t.attn.counts.getD attnERRLOG 0 = s.attn.counts.getD attnERRLOG 0 + 1 :=
    (congrArg (fun a : Attn => a.counts.getD attnERRLOG 0) h).trans (s.attn.event_count room)
  refine ⟨fun page cls t r d bad => ?_, fun page t r d mask => ⟨logError_corrected_attn mask t r d, ?_⟩, fun p d hp hd many => ?_,
    fun link frame mask same fifteen => ?_, fun failed survivor mask new full => ?_⟩
  · have raised := logError_uncorrected_attn (s := s) (p := page) bad t r d
    refine ⟨onset raised, ?_⟩
    rw [raised, Attn.event_pending _ (by decide)]
    simp
  · rw [logError_hdr_same]
    rfl
  · exact ⟨_, exec_dieMarkedFailed_many hp hd many, setEventOnce_count _ _ _ room⟩
  · obtain ⟨t, runs, raised⟩ := frameCrcError_onset mask same fifteen
    exact ⟨t, runs, onset raised⟩
  · refine ⟨_, congrArg Host.Outcome.next (installAlias_full new full survivor), onset ?_, (logError_onlyLogged s _ _ _ _ _).fre⟩
    exact congrArg (Attn.event · attnERRLOG) (logError_corrected_attn mask _ _ _)

end Sys2Proof.Machine

namespace Sys2Proof.Machine

/-! Wear: measurements, hours and predictions (R399 to R401, R406). -/

/-- Nothing but the table of sites differs. -/
def SiteTable (s t : State) : Prop := t = { s with sites := t.sites }

theorem setSite_siteTable (s : State) (n : Nat) (x : Site) : SiteTable s (s.setSite n x) := rfl

theorem SiteTable.foldl {α : Type} {f : State → α → State} (step : ∀ s x, SiteTable s (f s x)) : ∀ (l : List α) (s : State), SiteTable s (l.foldl f s)
  | [], _ => rfl
  | x :: l, s => by
      have first := step s x
      have rest := SiteTable.foldl step l (f s x)
      rw [SiteTable] at first rest ⊢
      rw [List.foldl_cons, rest, first]

theorem alFind_map {α β : Type} (f : α → β) (n : Nat) : ∀ l : List (Nat × α), alFind n (l.map (fun p => (p.1, f p.2))) = (alFind n l).map f
  | [] => rfl
  | (k, x) :: l => by
      simp only [List.map_cons, alFind]
      split
      · rfl
      · exact alFind_map f n l

/-- One more hour of a powered site, a hot one above 90 degrees (R401). -/
def Site.hour (hot : Bool) (x : Site) : Site :=
  if x.isl.state = .off then x
  else { x with poweredHours := satInc32 x.poweredHours, hotHours := if hot then satInc32 x.hotHours else x.hotHours }

theorem Site.hour_off {x : Site} (off : x.isl.state = .off) (hot : Bool) : x.hour hot = x := if_pos off

theorem Site.hour_on {x : Site} (on : x.isl.state ≠ .off) (hot : Bool) : x.hour hot =
    { x with poweredHours := satInc32 x.poweredHours, hotHours := if hot then satInc32 x.hotHours else x.hotHours } := if_neg on

/-- The hour of one site, by the temperatures of the tiles. -/
def countHour (tj : List Nat) (s : State) (n : Nat) : State :=
  if (s.site n).isl.state = .off then s
  else s.setSite n { s.site n with
    poweredHours := satInc32 (s.site n).poweredHours
    hotHours := if 900 < tj.getD (n / 64) 0 then satInc32 (s.site n).hotHours else (s.site n).hotHours }

theorem countHour_siteTable (tj : List Nat) (s : State) (n : Nat) : SiteTable s (countHour tj s n) := by
  unfold countHour
  split <;> rfl

theorem countHour_site (tj : List Nat) (s : State) (n k : Nat) : (countHour tj s n).site k =
    if k = n then (s.site k).hour (decide (900 < tj.getD (n / 64) 0)) else s.site k := by
  unfold countHour
  by_cases here : k = n
  · subst here
    by_cases off : (s.site k).isl.state = .off
    · rw [if_pos off, if_pos rfl, Site.hour_off off]
    · rw [if_neg off, if_pos rfl, Site.hour_on off, State.site_setSite, if_pos rfl]
      simp
  · rw [if_neg here]
    split
    · rfl
    · rw [State.site_setSite, if_neg here]

/-- Each site of a list without repeats counts one hour, and no other does. -/
theorem foldl_countHour_site (tj : List Nat) (k : Nat) : ∀ (l : List Nat), l.Nodup → ∀ s : State, (l.foldl (countHour tj) s).site k =
    if k ∈ l then (s.site k).hour (decide (900 < tj.getD (k / 64) 0)) else s.site k
  | [], _, _ => rfl
  | n :: l, once, s => by
      obtain ⟨apart, rest⟩ := List.nodup_cons.mp once
      rw [List.foldl_cons, foldl_countHour_site tj k l rest, countHour_site]
      by_cases here : k = n
      · subst here
        rw [if_neg apart, if_pos rfl, if_pos List.mem_cons_self]
      · simp [here]

/-- The hour of every site. -/
def countHours (tj : List Nat) (s : State) : State := (List.range 256).foldl (countHour tj) s

theorem exec_wearHourCount (tj : List Nat) (s : State) : exec (.wearHourCount tj) s = .next { countHours tj s with
    parts := (countHours tj s).parts.map (fun p => (p.1, { p.2 with lastPassH := min 0xFFFF (p.2.lastPassH + 1) })) } := rfl

/-- The rates of corrected errors that join the histories with a prediction (R399). -/
def addRates (s : State) (us : List WearUnit) : State :=
  us.foldl (fun s u => if u.kind = 0 ∨ u.kind = 2 then s else s.addMargin u.kind u.index (unitRate s u.kind u.index)) s

/-- Only the margin histories have grown. -/
theorem addRates_frame (us : List WearUnit) : ∀ s : State, ∃ h, addRates s us = { s with wear := { s.wear with history := h } } := by
  induction us with
  | nil => exact fun s => ⟨_, rfl⟩
  | cons u us ih =>
    intro s
    rw [addRates, List.foldl_cons]
    split
    · exact ih s
    · obtain ⟨h, e⟩ := ih (s.addMargin u.kind u.index (unitRate s u.kind u.index))
      exact ⟨h, e⟩

/-- The units of a prediction as stored. -/
def ownUnits (s : State) (us : List WearUnit) : List WearUnit :=
  (us.filter (fun u => u.kind != 0)).map (fun u => codedUnit { u with historyDays := historyDays s u.kind u.index })

theorem mem_ownUnits {s : State} {us : List WearUnit} {u : WearUnit} (mine : u ∈ us) (kind : u.kind ≠ 0) :
    codedUnit { u with historyDays := historyDays s u.kind u.index } ∈ ownUnits s us :=
  List.mem_map.mpr ⟨u, List.mem_filter.mpr ⟨mine, by simpa using kind⟩, rfl⟩

/-- The core sites whose prediction asks for a graceful eclipse (R382). -/
def dueUnits (s : State) (us : List WearUnit) : List WearUnit :=
  us.filter (fun u => u.kind == 4 && decide (u.index < 256 ∧ u.lo < 30) && (s.cluster (u.index / 16)).moonFree &&
    (s.site u.index).isl.state != .eclipsed)

def askGraceful (s : State) (u : WearUnit) : State := s.setSite u.index { s.site u.index with graceful := true }

/-- A site that is asked, or was before, is due for a graceful eclipse. -/
theorem askGraceful_site (l : List WearUnit) : ∀ (s : State) (n : Nat), ((s.site n).graceful = true ∨ ∃ u ∈ l, u.index = n) →
    ((l.foldl askGraceful s).site n).graceful = true := by
  induction l with
  | nil => exact fun s n h => h.resolve_right (fun ⟨_, none', _⟩ => nomatch none')
  | cons v l ih =>
    intro s n h
    refine ih _ n ?_
    rw [askGraceful, State.site_setSite]
    split
    · exact .inl rfl
    · next other =>
      exact h.imp_right (fun ⟨u, mem, index⟩ => ⟨u, (List.mem_cons.mp mem).resolve_left (fun e => other (e ▸ index.symm)), index⟩)

/-- What a prediction leaves: the units, and the condition by the bound of the device. -/
structure Predicted (s : State) (us : List WearUnit) (t : State) : Prop where
  units : ∀ u ∈ ownUnits s us, u ∈ t.wear.units
  history : t.wear.history = s.wear.history
  past : t.wear.pastNs = s.wear.pastNs
  dev : t.dev = s.dev
  wear : t.wear.devLo < 180 ↔ t.attn.cause.getLsbD attnWEAR = true
  due : ∀ u ∈ dueUnits s (ownUnits s us), (t.site u.index).graceful = true
  ms : t.ms = s.ms
  cmds : t.cmds = s.cmds

theorem wearPrediction_predicted (s : State) (us : List WearUnit) : Gives (exec (.wearPrediction us) s) (Predicted (addRates s us) us) := by
  show Gives (execWearPrediction us s) _
  unfold execWearPrediction
  extract_lets q own all least src w due s1
  refine Gives.next ?_
  have stored : w.units = all ∧ w.history = q.wear.history ∧ w.pastNs = q.wear.pastNs := by
    cases found : least <;> simp [w, src, found]
  obtain ⟨units, history, past⟩ := stored
  have sites : SiteTable { q with wear := w } s1 := SiteTable.foldl (f := askGraceful) (fun s u => setSite_siteTable s u.index _) due _
  have graceful : ∀ u ∈ due, (s1.site u.index).graceful = true := fun u mem => askGraceful_site due _ _ (.inr ⟨u, mem, rfl⟩)
  have wear' : s1.wear = w := by rw [sites]
  have kept : s1.dev = q.dev ∧ s1.ms = q.ms ∧ s1.cmds = q.cmds := by rw [sites]; exact ⟨rfl, rfl, rfl⟩
  obtain ⟨dev, ms, cmds⟩ := kept
  clear_value s1 w
  subst wear'
  split
  · next low =>
    exact ⟨fun u mem => units ▸ List.mem_append_right _ mem, history, past, dev,
      ⟨fun _ => s1.attn.levelOn_cause (by decide), fun _ => low⟩, graceful, ms, cmds⟩
  · next high =>
    exact ⟨fun u mem => units ▸ List.mem_append_right _ mem, history, past, dev,
      ⟨fun low => absurd low high, fun on => absurd (on.symm.trans (s1.attn.levelOff_cause (by decide))) (by decide)⟩, graceful, ms, cmds⟩

/-- Settles O46: each row stores what it measures, and the condition follows the stored bound. -/
theorem wearIsMeasuredAndKept : Obligations.WearIsMeasuredAndKept := by
  refine ⟨fun s n ppm hn idle on => ?ring, fun s l a b hl on => ?eye, fun s us => ?predict, fun s => ?save, fun s tj n hn => ?hour⟩
  case ring =>
    have runs : exec (.ringOscillatorMeasure n ppm) s = .next ((s.setSite n { s.site n with ringPpm := ppm }).addMargin 4 n ppm) := by
      simp [exec, execRingOscillatorMeasure, hn, idle, on]
    exact ⟨_, runs, (State.site_setSite s n n _).trans (if_pos rfl), fun k other => (State.site_setSite s n k _).trans (if_neg other), rfl⟩
  case eye =>
    refine ⟨_, congrArg Host.Outcome.next (if_pos ⟨hl, on⟩), ?_, fun e mem lane => ?_, fun e mem other => ?_, rfl⟩
    · exact List.mem_append_right _ (List.mem_singleton_self _)
    · rcases List.mem_append.mp mem with old | new
      · exact absurd lane (by simpa using (List.mem_filter.mp old).2)
      · exact List.mem_singleton.mp new
    · exact List.mem_append_left _ (List.mem_filter.mpr ⟨mem, by simpa using other⟩)
  case predict =>
    obtain ⟨t, runs, p⟩ := wearPrediction_predicted s us
    obtain ⟨h, e⟩ := addRates_frame us s
    have days (kind index : Nat) : historyDays t kind index = historyDays (addRates s us) kind index := by
      rw [historyDays, p.history, p.past, p.dev, historyDays]
    refine ⟨t, runs, fun u mine kind => ?_, p.wear, fun u mine kind index low free live => ?_, p.ms.trans (by rw [e]), p.cmds.trans (by rw [e])⟩
    · rw [days]
      exact p.units _ (mem_ownUnits mine kind)
    · rw [days] at low
      refine p.due (codedUnit { u with historyDays := historyDays (addRates s us) u.kind u.index }) (List.mem_filter.mpr ⟨mem_ownUnits mine (by omega), ?_⟩)
      have free' : ((addRates s us).cluster (u.index / 16)).moonFree = true := by rw [e]; exact free
      have live' : ((addRates s us).site u.index).isl.state ≠ .eclipsed := by rw [e]; exact live
      simpa [codedUnit, kind, index, low, free', live'] using low
  case save =>
    refine ⟨_, rfl, fun n x found => ?_, rfl⟩
    have saved := alFind_map (fun x : Site => { x with savedHours := (x.poweredHours, x.hotHours) }) n s.sites
    exact congrArg (Option.getD · (Site.reset n)) (saved.trans (congrArg _ found))
  case hour =>
    have frame : SiteTable s (countHours tj s) := SiteTable.foldl (countHour_siteTable tj) _ s
    have now : (countHours tj s).site n = (s.site n).hour (decide (900 < tj.getD (n / 64) 0)) := by
      rw [countHours, foldl_countHour_site tj n _ List.nodup_range, if_pos (List.mem_range.mpr hn)]
    have parts (s : State) (l : List (Nat × Partition)) : State.site { s with parts := l } n = s.site n := rfl
    refine ⟨_, exec_wearHourCount tj s, ?_, ?_, ?_⟩
    · intro off
      rw [parts, now, Site.hour_off off]
    · intro on hot e
      rw [parts, now, Site.hour_on on, e]
      simp
    · rw [frame]

end Sys2Proof.Machine

namespace Sys2Proof.Machine

/-! Replies of the management protocol (R409 to R411). -/

/-- The reply to what an operation left. -/
def MmpOut.reply (o : MmpOut) (m : List Byte) : List Byte := replyBytes o.st m o.res o.shadow o.pay

/-- The state after a request has been answered: the reply is the last thing that leaves, and it is remembered. -/
def answered (src : MmpSrc) (m : List Byte) (o : MmpOut) : State :=
  { o.st with
    mgc := { o.st.mgc with cache := remember o.st.mgc.cache ⟨src, mmpTag m, m, o.reply m, o.st.dev.timeNs⟩ }
    egress := o.st.egress ++ [.mmpReply src (o.reply m)] }

/-- Beside the reply and its cache entry an answer leaves what the operation left. -/
theorem answered_frame (src : MmpSrc) (m : List Byte) (o : MmpOut) :
    answered src m o = { o.st with mgc := { o.st.mgc with cache := (answered src m o).mgc.cache }, egress := (answered src m o).egress } := by
  simp only [answered]

theorem answered_replied (src : MmpSrc) (m : List Byte) (o : MmpOut) : Replied (answered src m o) src m o.res o.shadow o.pay :=
  List.getLast?_concat

theorem mmpRow_runs {s : State} {src : MmpSrc} {m : List Byte} {op : Nat} (runs : MmpRuns s src m op) (body : List Byte → State → MmpOut) :
    mmpRow op src m body s = answered src m (body (m.drop 16) s) := by
  obtain ⟨op, long, request, form, fresh, on, running⟩ := runs
  have long' : ¬ m.length < 16 := by omega
  simp only [mmpRow, op, mmpAnswer, on, long', request, fresh, form, running, if_true]
  rfl

/-- The last entry remembered is the one that its source, tag and bytes find (R411). -/
theorem find?_remember (l : List Cached) (e : Cached) {f : Cached → Bool} (mine : f e = true)
    (only : ∀ c, f c = true → decide (c.src = e.src) = true ∧ (c.tag == e.tag) = true) : (remember l e).find? f = some e := by
  have others : ∀ c ∈ l.filter (fun c => !(decide (c.src = e.src) && c.tag == e.tag)), ¬ f c = true := fun c mem hit => by
    obtain ⟨src, tag⟩ := only c hit
    simp [src, tag] at mem
  simp only [remember]
  rw [List.drop_append_of_le_length (by omega), List.find?_append,
    List.find?_eq_none.mpr fun c mem => others c (List.mem_of_mem_drop mem)]
  simp [mine]

theorem cachedReply_answered (src : MmpSrc) (m : List Byte) (o : MmpOut) :
    cachedReply (answered src m o) src m = some (o.reply m) := by
  refine congrArg (Option.map Cached.reply) (find?_remember _ _ (by simp) fun c hit => ?_)
  simp only [Bool.and_eq_true] at hit
  exact hit.1

/-! The head of a reply (R409, R410). -/

theorem leAt_toLE_two (a b : Byte) (l : List Byte) {n : Nat} (h : n < 65536) : leAt (a :: b :: (toLE 2 n ++ l)) 2 2 = n := by
  simp [leAt, byteAt, toLE, List.getD]
  omega

theorem leAt_two_lt (b : List Byte) (off : Nat) : leAt b off 2 < 65536 := by
  have byte (i : Nat) : byteAt b i < 256 := (b.getD i 0).isLt
  have := byte off
  have := byte (off + 1)
  simp only [leAt]
  omega

/-- A reply names its version, operation and tag, and carries the reply bit. -/
theorem replyBytes_head (s : State) (m : List Byte) (r : Res) (sh : Bool) (pay : List Byte) :
    byteAt (replyBytes s m r sh pay) 0 = 1 ∧ byteAt (replyBytes s m r sh pay) 1 = byteAt m 1 ∧
      leAt (replyBytes s m r sh pay) 2 2 = mmpTag m ∧ byteAt (replyBytes s m r sh pay) 6 % 2 = 1 := by
  have form : replyBytes s m r sh pay = 1 :: m.getD 1 0 :: (toLE 2 (mmpTag m) ++ (toLE 2 (s.status r) ++
      ([BitVec.ofNat 8 (1 + 2 * bit s.mgc.labJmp + 4 * bit sh), 0] ++ toLE 2 pay.length ++ List.replicate 6 0 ++ pay))) := by
    simp [replyBytes]
  rw [form]
  refine ⟨rfl, rfl, leAt_toLE_two _ _ _ (leAt_two_lt m 2), ?_⟩
  have flags : byteAt (1 :: m.getD 1 0 :: (toLE 2 (mmpTag m) ++ (toLE 2 (s.status r) ++
      ([BitVec.ofNat 8 (1 + 2 * bit s.mgc.labJmp + 4 * bit sh), 0] ++ toLE 2 pay.length ++ List.replicate 6 0 ++ pay)))) 6 =
      (BitVec.ofNat 8 (1 + 2 * bit s.mgc.labJmp + 4 * bit sh)).toNat := rfl
  rw [flags, BitVec.toNat_ofNat]
  omega

/-- What an executed request leaves: its reply last, and in the cache. -/
structure Executed (t : State) (src : MmpSrc) (m : List Byte) (op : Nat) (b : List Byte) : Prop where
  last : t.egress.getLast? = some (.mmpReply src b)
  version : byteAt b 0 = 1
  op : byteAt b 1 = op
  tag : leAt b 2 2 = mmpTag m
  isReply : byteAt b 6 % 2 = 1
  cached : cachedReply t src m = some b

theorem mmpRow_executed {s : State} {src : MmpSrc} {m : List Byte} {op : Nat} (runs : MmpRuns s src m op) (body : List Byte → State → MmpOut) :
    ∃ b, Executed (mmpRow op src m body s) src m op b := by
  rw [mmpRow_runs runs]
  obtain ⟨version, op, tag, isReply⟩ := replyBytes_head (body (m.drop 16) s).st m (body (m.drop 16) s).res (body (m.drop 16) s).shadow (body (m.drop 16) s).pay
  exact ⟨_, List.getLast?_concat, version, op.trans runs.op, tag, isReply, cachedReply_answered src m _⟩

/-- A repeat gets the cached reply and is not executed (R411). -/
theorem mmpRow_repeat {s : State} {src : MmpSrc} {m b : List Byte} {op : Nat} (mine : byteAt m 1 = op) (long : 16 ≤ m.length)
    (request : byteAt m 6 % 2 = 0) (on : s.dev.porstLow = false) (cached : cachedReply s src m = some b) (body : List Byte → State → MmpOut) :
    mmpRow op src m body s = s.emit (.mmpReply src b) := by
  have long' : ¬ m.length < 16 := by omega
  simp [mmpRow, mine, mmpAnswer, on, long', request, cached]

/-- Each row of the protocol is one operation's. -/
theorem exec_mmpRow : ∀ r ∈ mmpRows, ∀ src m, ∃ body : List Byte → State → MmpOut, ∀ s,
    exec (r.2 src m) s = .next (mmpRow r.1 src m body s) := by
  simp only [mmpRows, List.forall_mem_cons]
  exact ⟨fun _ _ => ⟨_, fun _ => rfl⟩, fun _ _ => ⟨_, fun _ => rfl⟩, fun _ _ => ⟨_, fun _ => rfl⟩, fun _ _ => ⟨_, fun _ => rfl⟩,
    fun _ _ => ⟨_, fun _ => rfl⟩, fun _ _ => ⟨_, fun _ => rfl⟩, fun _ _ => ⟨_, fun _ => rfl⟩, fun _ _ => ⟨_, fun _ => rfl⟩,
    fun _ _ => ⟨_, fun _ => rfl⟩, fun _ _ => ⟨_, fun _ => rfl⟩, fun _ _ => ⟨_, fun _ => rfl⟩, fun _ _ => ⟨_, fun _ => rfl⟩,
    fun _ _ => ⟨_, fun _ => rfl⟩, fun _ _ => ⟨_, fun _ => rfl⟩, fun _ _ => ⟨_, fun _ => rfl⟩, fun _ _ => ⟨_, fun _ => rfl⟩,
    fun _ _ => ⟨_, fun _ => rfl⟩, fun _ none' => nomatch none'⟩

/-! Malformed messages (R410). -/

theorem exec_mmpMalformed_request {s : State} {src : MmpSrc} {m : List Byte} (on : s.dev.porstLow = false) (form : mmpForm m = false)
    (long : 16 ≤ m.length) (request : byteAt m 6 % 2 = 0) (fresh : cachedReply s src m = none) :
    exec (.mmpMalformed src m) s = .next (answered src m (.plain s .mmpMalformed)) := by
  have long' : ¬ m.length < 16 := by omega
  simp only [exec, execMmpMalformed, mmpAnswer, form, on, long', request, fresh]
  rfl

theorem exec_mmpMalformed_reply {s : State} {m : List Byte} (src : MmpSrc) (reply : byteAt m 6 % 2 = 1) : exec (.mmpMalformed src m) s = .next s := by
  simp [exec, execMmpMalformed, mmpAnswer, reply]

/-- Settles O47: an executed request ends in its answer, a repeat in the cached one. -/
theorem requestsRunOnceAndAreRemembered : Obligations.RequestsRunOnceAndAreRemembered := by
  refine ⟨fun r row s src m => ?_, fun s src m on form long => ⟨fun request fresh => ?_, exec_mmpMalformed_reply src⟩,
    fun s k on hk => ?_, fun s src tag => ⟨_, rfl, fun c mem => ?_, fun c mem apart => ?_, rfl⟩⟩
  · obtain ⟨body, runs⟩ := exec_mmpRow r row src m
    rw [runs]
    refine ⟨fun fresh => Gives.next ?_, fun b mine long request on cached => Gives.next ?_⟩
    · obtain ⟨b, last, version, op, tag, isReply, cached⟩ := mmpRow_executed fresh body
      exact ⟨b, last, version, op, tag, isReply, cached⟩
    · rw [mmpRow_repeat mine long request on cached]
      rfl
  · exact ⟨_, exec_mmpMalformed_request on form long request fresh, answered_replied src m _, answered_frame src m _⟩
  · refine ⟨s.emit (.mgmtReply k), ?_, rfl⟩
    simp [exec, execManagementPortFrame, on, hk]
  · have kept := (List.mem_filter.mp mem).2
    rintro ⟨from', same⟩
    simp [from', same] at kept
  · refine List.mem_filter.mpr ⟨mem, ?_⟩
    rwa [Bool.not_eq_true', ← Bool.not_eq_true, Bool.and_eq_true, decide_eq_true_iff, beq_iff_eq]

/-! Sealed commands (R422). -/

/-- Each sealed row is a sealed operation. -/
theorem exec_sealedRow : ∀ r ∈ sealedRows, ∃ act : List Byte → State → State × Res, ∀ src m s,
    exec (r.2 src m) s = .next (mmpRow r.1 src m (sealedBody r.1 src act) s) := by
  simp only [sealedRows, List.forall_mem_cons]
  exact ⟨⟨_, fun _ _ _ => rfl⟩, ⟨_, fun _ _ _ => rfl⟩, ⟨_, fun _ _ _ => rfl⟩, ⟨_, fun _ _ _ => rfl⟩, ⟨_, fun _ _ _ => rfl⟩,
    ⟨_, fun _ _ _ => rfl⟩, ⟨_, fun _ _ _ => rfl⟩, fun _ none' => nomatch none'⟩

theorem sealedBody_refused {s : State} {op : Nat} {e : Res} (refused : admission s op = .error e) (src : MmpSrc)
    (act : List Byte → State → State × Res) (p : List Byte) : sealedBody op src act p s = .plain s e := by simp [sealedBody, refused]

/-- Settles O51: a refused operation is answered and nothing more; the refusals are R422's order of tests. -/
theorem sealedCommandsNeedPresence : Obligations.SealedCommandsNeedPresence := by
  intro r row s src m runs
  refine ⟨fun e refused => ?_, fun shut bare fuses => ?_, fun shut lab broken pair => ?_, fun fuses broken => ?_, fun pair lab => ?_,
    fun fuses pair open' => ?_⟩
  · obtain ⟨act, exec⟩ := exec_sealedRow r row
    rw [exec, mmpRow_runs runs, sealedBody_refused refused]
    exact ⟨_, rfl, answered_replied src m _, answered_frame src m _⟩
  · have whole : ¬(r.1 = 0x44 ∧ s.dev.sealBroken = true) := fun ⟨op, broken⟩ => absurd ((fuses op).symm.trans broken) (by decide)
    simp [admission, shut, bare, whole]
  · by_cases op : r.1 = 0x44 <;> simp [admission, shut, lab, broken, pair, op]
  · simp [admission, fuses, broken]
  · simp [admission, pair, lab]
  · simp [admission, fuses, pair, open']

end Sys2Proof.Machine

namespace Sys2Proof.Machine

/-! What a read by the MGC leaves (R414, R439): latches, and the progress of a core's running tile. -/

/-- Beside the latches and a running tile's site and LSM nothing moves; none of a tile's where the page is no core's. -/
structure ReadLeaves (p : Nat) (s t : State) : Prop where
  frame : t = { s with latches := t.latches, sites := t.sites, freeCtr := t.freeCtr, ms := { s.ms with lsm := t.ms.lsm, lsmKept := t.ms.lsmKept } }
  noCore : isCorePage p = false → t.sites = s.sites ∧ t.ms = s.ms

theorem ReadLeaves.refl (p : Nat) (s : State) : ReadLeaves p s s := ⟨rfl, fun _ => ⟨rfl, rfl⟩⟩

theorem ReadLeaves.trans {p : Nat} {s t u : State} (h : ReadLeaves p s t) (k : ReadLeaves p t u) : ReadLeaves p s u where
  frame := by
    rw [k.frame, h.frame]
  noCore other := ⟨(k.noCore other).1.trans (h.noCore other).1, (k.noCore other).2.trans (h.noCore other).2⟩

theorem readProgress_leaves (s : State) (p : Nat) : ReadLeaves p s (readProgress s p) where
  frame := (readProgress_frame s p).trans (by rw [readProgress_latches])
  noCore other := by
    rw [readProgress_other other]
    exact ⟨rfl, rfl⟩

theorem readLatched_leaves (s : State) (req p off : Nat) : ReadLeaves p s (readLatched s req p off).2 := by
  unfold readLatched
  split
  · exact ⟨rfl, fun _ => ⟨rfl, rfl⟩⟩
  · split
    · exact ⟨rfl, fun _ => ⟨rfl, rfl⟩⟩
    · exact .refl p s

theorem readWord_leaves {s : State} {live : Bool} {req p off : Nat} {w : Word × Bool × State} (found : readWord s live req p off = some w) :
    ReadLeaves p s w.2.2 := by
  unfold readWord at found
  split at found
  · cases found
    exact (readProgress_leaves s p).trans (readLatched_leaves _ req p off)
  · split at found
    · cases found
      exact .refl p s
    · cases found

theorem readWords_leaves {live : Bool} {p : Nat} : ∀ {n off : Nat} {s : State} {r : List Byte × Bool × State},
    readWords live p n off s = some r → ReadLeaves p s r.2.2
  | 0, _, s, _, found => by
      cases found
      exact .refl p s
  | n + 1, off, s, r, found => by
      unfold readWords at found
      split at found
      · cases found
      · next w word =>
        split at found
        · cases found
        · next q rest =>
          cases found
          exact (readWord_leaves word).trans (readWords_leaves (r := q) rest)

theorem respondsNow_leaves (s : State) (p : Nat) : ReadLeaves p s (respondsNow s p).2 := by
  unfold respondsNow
  split
  · exact .refl p s
  · split
    · exact ⟨rfl, fun _ => ⟨rfl, rfl⟩⟩
    · exact .refl p s

theorem readRegBody_leaves (p : List Byte) (s : State) : ReadLeaves (leAt p 0 2) s (readRegBody p s).st := by
  unfold readRegBody
  extract_lets page a
  split
  · exact .refl _ s
  · split
    · next found => exact (respondsNow_leaves s page).trans (readWords_leaves found)
    · exact respondsNow_leaves s page

section
variable {p : List Byte} {s : State}

theorem readRegBody_missing (missing : pageExists (leAt p 0 2) = false) : readRegBody p s = .plain s .badAddress := by
  simp [readRegBody, missing]

theorem readRegBody_silent (page : pageExists (leAt p 0 2) = true)
    (silent : readWords (respondsNow s (leAt p 0 2)).1 (leAt p 0 2) (leAt p 4 2) (leAt p 2 2) (respondsNow s (leAt p 0 2)).2 = none) :
    readRegBody p s = .plain (respondsNow s (leAt p 0 2)).2 .domainOff := by
  simp [readRegBody, page, silent]

theorem readRegBody_words (page : pageExists (leAt p 0 2) = true) {r : List Byte × Bool × State}
    (found : readWords (respondsNow s (leAt p 0 2)).1 (leAt p 0 2) (leAt p 4 2) (leAt p 2 2) (respondsNow s (leAt p 0 2)).2 = some r) :
    readRegBody p s = ⟨r.2.2, .ok, r.2.1, r.1⟩ := by
  simp [readRegBody, page, found]

end

/-- The log that a `READ_LOG` leaves, and its reply (R417). -/
theorem readLogBody_of_log {s : State} {p : List Byte} {l : Log} (log : s.logs[byteAt p 0]? = some l) : readLogBody p s =
    ⟨{ s with logs := if byteAt p 1 = 1 then updAt s.logs (byteAt p 0) (fun _ => Log.empty) else s.logs }, .ok, false,
      toLE 4 l.slots.length ++ toLE 4 l.dropped ++ ((l.slots.drop (leAt p 2 2)).take (min 31 (leAt p 4 2))).flatMap entryBytes⟩ := by
  have here : s.logs.getD (byteAt p 0) Log.empty = l := by rw [List.getD_eq_getElem?_getD, log, Option.getD_some]
  simp only [readLogBody, here]
  by_cases clear : byteAt p 1 = 1
  · rw [if_pos clear, if_pos clear]
  · rw [if_neg clear, if_neg clear]

/-- Settles O48: each read's body gives its reply, and what it leaves is its latches, its log or nothing. -/
theorem readsAnswerWhatStands : Obligations.ReadsAnswerWhatStands := by
  rintro s src m _ rfl
  refine ⟨fun runs => Gives.next ?_, fun runs => Gives.next ?_, fun runs l log => Gives.next ?_⟩
  · rw [mmpRow_runs runs]
    obtain ⟨frame, noCore⟩ := readRegBody_leaves (m.drop 16) s
    have replied := answered_replied src m (readRegBody (m.drop 16) s)
    refine ⟨fun missing => ?_, fun a now page => ⟨fun silent => ?_, fun r found => ?_, fun aon => ?_, fun off other => ?_⟩, ?_, noCore⟩
    · rw [readRegBody_missing missing] at replied ⊢
      exact replied
    · rw [now] at silent
      rw [readRegBody_silent page silent] at replied ⊢
      exact replied
    · rw [now] at found
      rw [readRegBody_words page found] at replied ⊢
      exact replied
    · rw [now, respondsNow, if_pos aon]
    · rw [now, respondsNow, if_neg other, if_neg (by simp [off])]
    · have answer := answered_frame src m (readRegBody (m.drop 16) s)
      rw [frame] at answer
      exact answer
  · rw [mmpRow_runs runs]
    have replied := answered_replied src m (readTelemetryBody (m.drop 16) s)
    refine ⟨⟨(readTelemetryBody (m.drop 16) s).shadow, ?_⟩, answered_frame src m (readTelemetryBody (m.drop 16) s)⟩
    rw [← List.flatMap_map (f := fun k => (leAt (m.drop 16) (4 * k) 2, leAt (m.drop 16) (4 * k + 2) 2)) (g := fun i => itemBytes s i.1 i.2)]
    exact replied
  · rw [mmpRow_runs runs, readLogBody_of_log log]
    refine ⟨answered_replied src m _, ?_, fun k other => ?_, answered_frame src m _⟩
    · show (if byteAt (m.drop 16) 1 = 1 then updAt s.logs _ _ else s.logs)[byteAt (m.drop 16) 0]? = _
      split
      · rw [updAt_getElem?, if_pos rfl, log]
        rfl
      · exact log
    · show (if byteAt (m.drop 16) 1 = 1 then updAt s.logs _ _ else s.logs)[k]? = _
      split
      · rw [updAt_getElem?, if_neg other]
      · rfl

/-! Staging of firmware (R427 to R430). -/

@[simp] theorem slot_setSlot (m : Mgc) (k : Nat) (x : FwSlot) : (m.setSlot k x).slot k = x := by
  by_cases h : k = 0 <;> simp [Mgc.setSlot, Mgc.slot, h]

@[simp] theorem inactive_setSlot (m : Mgc) (k : Nat) (x : FwSlot) : inactive (m.setSlot k x) = inactive m := by
  by_cases h : k = 0 <;> simp [Mgc.setSlot, inactive, h]

/-- A staged image that is discarded cannot boot any more. -/
def Mgc.withoutStaged (m : Mgc) : Mgc :=
  if m.stage = 4 then m.setSlot (inactive m) { m.slot (inactive m) with verifies := false } else m

theorem Mgc.withoutStaged_slot {m : Mgc} (staged : m.stage = 4) : (m.withoutStaged.slot (inactive m)).verifies = false := by
  rw [Mgc.withoutStaged, if_pos staged, slot_setSlot]

section
variable {s : State} {p : List Byte}

theorem stageDataBody_takes (receiving : s.mgc.stage = 2) (next : leAt p 0 4 = s.mgc.received.length)
    (room : s.mgc.received.length + (p.length - 8) ≤ s.mgc.stageBytes) :
    stageDataBody p s = .plain { s with mgc := { s.mgc with received := s.mgc.received ++ p.drop 8 } } .ok := by
  have fits : ¬ s.mgc.stageBytes < s.mgc.received.length + (p.drop 8).length := by
    rw [List.length_drop]
    omega
  simp only [stageDataBody, receiving, next, fits]
  simp

theorem stageDataBody_busy (erasing : s.mgc.stage = 1) : stageDataBody p s = .plain s .busy := if_pos erasing

theorem stageFinishBody_whole (receiving : s.mgc.stage = 2) (whole : s.mgc.received.length = s.mgc.stageBytes) :
    stageFinishBody p s = .plain { s with mgc := { s.mgc with stage := 3 } } .ok := if_pos ⟨receiving, whole⟩

theorem stageFinishBody_early (early : s.mgc.stage ≠ 2 ∨ s.mgc.received.length ≠ s.mgc.stageBytes) :
    stageFinishBody p s = .plain s .stageState := if_neg (by tauto)

theorem discardStagedBody_eq : discardStagedBody p s = .plain (unstage { s with mgc := s.mgc.withoutStaged }) .ok := by
  by_cases staged : s.mgc.stage = 4 <;> simp [discardStagedBody, Mgc.withoutStaged, staged]

end

/-- A good image is staged in the slot that does not run (R429, R430). -/
theorem exec_verificationComplete_good {s : State} (verifying : s.mgc.stage = 3) (good : imageOk s.dev s.mgc = true) :
    exec (.verificationComplete true) s = .next (State.attnOn { s with mgc := { s.mgc.setSlot (inactive s.mgc)
      ⟨true, byteAt s.mgc.received 2, leAt s.mgc.received 4 4, byteAt s.mgc.received 12, byteAt s.mgc.received 13, 0⟩ with
        stage := 4, stagedSlot := some ⟨true, byteAt s.mgc.received 2, leAt s.mgc.received 4 4, byteAt s.mgc.received 12, byteAt s.mgc.received 13, 0⟩ } }
      attnFIRMWARE) := by
  simp [exec, execVerificationComplete, verifying, good]

theorem exec_verificationComplete_bad {s : State} {ok : Bool} (verifying : s.mgc.stage = 3) (bad : ok = false ∨ imageOk s.dev s.mgc = false) :
    exec (.verificationComplete ok) s = .next { s with mgc := { s.mgc with stage := 5 } } := by
  have refused : ¬ (ok && imageOk s.dev s.mgc) = true := by rcases bad with h | h <;> simp [h]
  simp only [exec, execVerificationComplete, verifying, if_neg refused]
  rfl

/-- Settles O50, state by state of the session. -/
theorem stagingMovesThroughItsStates : Obligations.StagingMovesThroughItsStates := by
  refine ⟨?_, fun s erasing => ⟨_, congrArg Host.Outcome.next (if_pos erasing), rfl⟩, fun s verifying => ⟨fun good => ?_, fun ok bad =>
    ⟨_, exec_verificationComplete_bad verifying bad, rfl⟩⟩⟩
  · rintro s src m _ rfl
    refine ⟨fun runs receiving next room => Gives.next ?_, fun runs erasing => Gives.next ?_, fun runs receiving whole => Gives.next ?_,
      fun runs early => Gives.next ?_, fun runs => Gives.next ?_⟩
    · rw [mmpRow_runs runs, stageDataBody_takes receiving next room]
      exact ⟨answered_replied src m _, answered_frame src m _⟩
    · rw [mmpRow_runs runs, stageDataBody_busy erasing]
      exact answered_replied src m _
    · rw [mmpRow_runs runs, stageFinishBody_whole receiving whole]
      exact ⟨answered_replied src m _, answered_frame src m _⟩
    · rw [mmpRow_runs runs, stageFinishBody_early early]
      exact ⟨answered_replied src m _, answered_frame src m _⟩
    · rw [mmpRow_runs runs, discardStagedBody_eq]
      exact ⟨answered_replied src m _, rfl, rfl, s.attn.levelOff_pending (by decide), Mgc.withoutStaged_slot, rfl⟩
  · refine ⟨_, exec_verificationComplete_good verifying good, rfl, s.attn.levelOn_cause (by decide), ?_, ?_, rfl⟩
    · exact congrArg FwSlot.verifies (slot_setSlot s.mgc (inactive s.mgc) _)
    · exact congrArg FwSlot.fwVersion (slot_setSlot s.mgc (inactive s.mgc) _)

end Sys2Proof.Machine

namespace Sys2Proof.Machine

/-! Resets (R471). -/

/-- Every island of a list is OFF after a warm reset. -/
theorem offIsl_all {l : List Isl} : ∀ x ∈ l.map offIsl, x.state = .off := fun _ mem => by
  obtain ⟨y, -, rfl⟩ := List.mem_map.mp mem
  rfl

theorem exec_warmrstN_resets {s : State} {ns : Nat} (long : 1000 ≤ ns) (up : s.dev.porstLow = false) (cool : s.dev.thermtrip = false) :
    exec (.warmrstN ns) s = .next (warmState s) := congrArg Host.Outcome.next (if_neg (by simp [up, cool]; omega))

/-- Settles O56, by what the two reset states keep. -/
theorem resetsKeepWhatFlashAndFusesHold : Obligations.ResetsKeepWhatFlashAndFusesHold := by
  refine ⟨fun s => ⟨powerOnState s, rfl, ?_⟩, fun s ns long up cool => ⟨_, exec_warmrstN_resets long up cool, ?_⟩,
    fun s ns short => congrArg Host.Outcome.next (if_pos short)⟩
  · exact ⟨rfl, rfl, rfl, rfl, rfl, rfl, rfl, rfl, rfl, rfl, rfl, rfl, rfl, rfl, rfl, rfl, rfl, rfl, rfl, rfl, rfl, rfl, rfl, rfl⟩
  · exact ⟨rfl, rfl, rfl, rfl, offIsl_all, offIsl_all, offIsl_all, rfl, rfl, rfl, rfl, rfl, rfl, rfl, rfl, rfl, rfl, rfl, rfl⟩

end Sys2Proof.Machine

namespace Sys2Proof.Machine

/-! Updates to the twin (R363) and what waits for their acknowledgement (R364). -/

/-- Updates that are sent take the next numbers and leave the block, and nothing else changes. -/
theorem sendMirror_frame (s : State) (us : List Mirror) :
    sendMirror s us = { s with
      egress := (sendMirror s us).egress, tlc := { s.tlc with sendSeq := s.tlc.sendSeq + us.length } } := by
  unfold sendMirror
  induction us generalizing s with
  | nil => rfl
  | cons u us ih =>
    rw [List.foldl_cons, ih]
    simp only [State.emit, List.length_cons, Nat.add_assoc, Nat.add_comm 1]

theorem sendMirror_tlc (s : State) (us : List Mirror) :
    (sendMirror s us).tlc = { s.tlc with sendSeq := s.tlc.sendSeq + us.length } := by
  rw [sendMirror_frame]

/-- An action waits for the last of the updates that are sent for it. -/
theorem sendAwait_frame (s : State) (us : List Mirror) (a : Await) :
    sendAwait s us a = { s with
      egress := (sendMirror s us).egress
      tlc := { s.tlc with
        sendSeq := s.tlc.sendSeq + us.length
        awaiting := s.tlc.awaiting ++ [(s.tlc.sendSeq + us.length, a)] } } := by
  rw [sendAwait, sendMirror_frame]

/-- What the twin holds changes by a gated row that may wait: its updates are sent and the row waits for the last. -/
theorem gated_waits {i : Instr} {extra : State → List Mirror} {f : State → State} {s p : State} (mirrors : mirroring s = true)
    (after : p = afterAwaited s) (changes : mirrorDiff p (f p) ≠ [])
    (fresh : isMessage i = true ∨ s.tlc.awaiting.any (fun a => a.2.isRow (· == i)) = false) :
    gated i extra f s = sendAwait s (mirrorDiff p (f p) ++ extra p) (.row i (openedNum p (f p))) := by
  subst after
  have sent : (mirrorDiff (afterAwaited s) (f (afterAwaited s)) ++ extra (afterAwaited s)).isEmpty = false := by simp [changes]
  have once : (!isMessage i && s.tlc.awaiting.any (fun a => a.2.isRow (· == i))) = false := by
    rcases fresh with h | h <;> simp [h]
  simp only [gated, if_pos mirrors, sent, Bool.false_and, Bool.false_eq_true, if_false, once]

/-- Each gated row is its local action, gated under its own name, with updates of its own beside those of the diff. -/
theorem exec_gatedRow {i : Instr} {s : State} (row : isGatedRow i = true) :
    ∃ extra, exec i s = .next (gated i extra (localAction i) s) := by
  unfold isGatedRow at row
  split at row
  case h_16 => cases row
  all_goals exact ⟨_, rfl⟩

/-- Settles O22: while mirroring, a gated row whose action changes what the twin holds is exactly one `sendAwait`. -/
theorem gatedRowsWaitForTheTwin : Obligations.GatedRowsWaitForTheTwin := by
  intro i s p row mirrors after changes fresh
  obtain ⟨extra, runs⟩ := exec_gatedRow (s := s) row
  have some : 0 < (mirrorDiff p (localAction i p) ++ extra p).length := by
    rw [List.length_append]
    exact Nat.add_pos_left (List.length_pos_of_ne_nil changes) _
  rw [runs, gated_waits mirrors after changes fresh, sendAwait_frame]
  exact Gives.next ⟨Nat.lt_add_of_pos_right some, rfl, rfl⟩

/-! MIRROR_UPDATE (R362, R363). -/

section
variable {s : State} {u : Mirror}

/-- The next update in order, while it can arrive. -/
theorem execMirrorUpdate_next (pair : paired s = true) (link : s.tlc.linkUp = true) (hub : s.hub.state = .on) :
    exec (.mirrorUpdate (s.tlc.applied + 1) u) s = .next (
      let done (s' : State) : State := (updTlc s' (fun t => { t with applied := s.tlc.applied + 1 })).emit (.mirrorAck (s.tlc.applied + 1))
      if isChange u || isCopy u then
        match (if isCopy u then receiveCopy s u else receiveChange s u) with
        | some s1 => done s1
        | none => s
      else done (updTlc s (fun t => receiveState t u))) :=
  congrArg Host.Outcome.next (if_neg (by simp [pair, link, hub]))

/-- A part of a full copy is no change of one request. -/
theorem isChange_of_isCopy (copy : isCopy u = true) : isChange u = false := by
  cases u <;> simp_all [isCopy, isChange]

theorem isCopy_of_isChange (change : isChange u = true) : isCopy u = false := by
  cases u <;> simp_all [isCopy, isChange]

/-- On the primary a forwarded change is applied and sent back. -/
theorem receiveChange_primary {r : State × Res × Nat} (primary : (s.tlc.pair.map PairRec.role) = some 0)
    (applied : applyChange s u = some r) : receiveChange s u = some (sendMirror r.1 [u]) := by
  simp [receiveChange, applied, primary]

end

/-! MIRROR_ACKNOWLEDGEMENT (R364). -/

/-- With one action waiting, its acknowledgement releases it. -/
theorem execMirrorAcknowledgement_one {s : State} {n : Nat} {a : Await} (sent : n ≤ s.tlc.sendSeq) (link : s.tlc.linkUp = true)
    (waits : s.tlc.awaiting = [(n, a)]) (here : isForward a = false) :
    exec (.mirrorAcknowledgement n) s = .next (release { s with tlc := { s.tlc with awaiting := [] } } a) := by
  refine congrArg Host.Outcome.next ((if_neg (by simp [link, sent])).trans ?_)
  simp [waits, here, updTlc]

/-- The record that the twin now holds reaches the client; nothing more waits than did. -/
theorem releaseRecord_sends {s : State} {k seq : Nat} {c : Conn} {h : HeldRec} (found : s.conn? k = some c) (attached : c.attached = true)
    (held : c.held.find? (fun x => x.seq == seq) = some h) :
    (releaseRecord s k seq).tlc = s.tlc ∧ Egress.record c.id (recordVa c h.seq) h.bytes ∈ (releaseRecord s k seq).egress := by
  simp only [releaseRecord, found, held, if_pos attached]
  exact ⟨(sendRecord_completed _ c h).tlc, record_mem_sendRecord _ c h⟩

/-- Settles O36: an update is applied by its kind when its number is the next; an acknowledgement releases what waited. -/
theorem twinUpdatesCrossInOrder : Obligations.TwinUpdatesCrossInOrder := by
  refine ⟨?state, ?change, ?copy, ?order, ?row, ?record⟩
  case state =>
    intro s u pair link hub change copy
    rw [execMirrorUpdate_next pair link hub, change, copy]
    exact Gives.next ⟨rfl, rfl⟩
  case change =>
    intro s u r pair link hub change primary applied
    rw [execMirrorUpdate_next pair link hub, change, isCopy_of_isChange change]
    simp only [Bool.true_or, Bool.false_eq_true, if_true, if_false, receiveChange_primary primary applied]
    refine Gives.next ⟨?_, ?_, ?_, rfl, List.mem_append_right _ (List.mem_singleton_self _)⟩
    all_goals
      rw [sendMirror_frame]
      rfl
  case copy =>
    intro s q u pair link hub copy received
    rw [execMirrorUpdate_next pair link hub, copy, isChange_of_isCopy copy]
    simp only [Bool.or_true, if_true, received]
    exact Gives.next ⟨rfl, rfl, rfl, rfl, rfl⟩
  case order =>
    intro s u n late
    exact congrArg Host.Outcome.next (if_pos (by simp [late]))
  case row =>
    intro s q n i m sent link waits result
    rw [execMirrorAcknowledgement_one sent link waits rfl, result]
    rfl
  case record =>
    intro s n k seq c h sent link waits found attached held
    rw [execMirrorAcknowledgement_one sent link waits rfl]
    obtain ⟨tlc, out⟩ := releaseRecord_sends (s := { s with tlc := { s.tlc with awaiting := [] } }) found attached held
    exact Gives.next ⟨by rw [release, tlc], out⟩

end Sys2Proof.Machine

namespace Sys2Proof.Machine

/-! A fault in a tile (R382 to R384). -/

@[simp] theorem arrProgress_clusters (s : State) (n : Nat) : (s.arrProgress n).clusters = s.clusters := by
  rw [(arrProgress_counts s n).frame]

@[simp] theorem arrProgress_cmd? (s : State) (n id : Nat) : (s.arrProgress n).cmd? id = s.cmd? id := by
  rw [(arrProgress_counts s n).frame]
  rfl

theorem noteReplay_clusters (s : State) (n : Nat) (faulted : Bool) (tile : Option (Nat × Nat)) :
    (noteReplay s n faulted tile).clusters = s.clusters := by
  cases tile <;> rfl

theorem fence_clusters (s : State) (n : Nat) (resetting faulted : Bool) : (fence s n resetting faulted).clusters = s.clusters :=
  (noteReplay_clusters _ n faulted _).trans (arrProgress_clusters s n)

/-- Core `n` is fenced with the tile it had abandoned; other sites, clusters and every byte of memory stay. -/
structure Fenced (s : State) (n : Nat) (t : State) : Prop where
  fenced : (t.site n).fenced = true
  tile : (t.site n).tile = none
  abandoned : (t.site n).abandoned = (s.site n).tile
  others : ∀ k, k ≠ n → t.site k = s.site k
  ms : t.ms = { s.ms with lsm := t.ms.lsm, lsmKept := t.ms.lsmKept }
  clusters : t.clusters = s.clusters

theorem fence_fenced (s : State) (n : Nat) (resetting faulted : Bool) : Fenced s n (fence s n resetting faulted) := by
  obtain ⟨site, others, ms⟩ := fence_spec s n resetting faulted
  exact ⟨congrArg Site.fenced site, congrArg Site.tile site, congrArg Site.abandoned site, others, ms, fence_clusters ..⟩

/-- A unit that has not faulted on two cores before leaves its core fenced. -/
theorem tileFault_fences {s : State} {n : Nat} (few : ∀ id u, (s.site n).tile = some (id, u) → faultedOn s id u < 2) (typ detail : Nat) :
    tileFault s n typ detail = fence (s.logError (0x0500 + n) 1 typ 0 detail) n false true := by
  simp only [tileFault]
  split
  · next id u tile => rw [if_neg (by have := few id u tile; omega)]
  · rfl

theorem tileFault_fenced {s : State} {n : Nat} (few : ∀ id u, (s.site n).tile = some (id, u) → faultedOn s id u < 2) (typ detail : Nat) :
    Fenced s n (tileFault s n typ detail) := by
  rw [tileFault_fences few]
  obtain ⟨fenced, tile, abandoned, others, ms, clusters⟩ := fence_fenced (s.logError (0x0500 + n) 1 typ 0 detail) n false true
  rw [logError_ms] at ms
  exact ⟨fenced, tile, by rw [abandoned, logError_site], fun k hk => by rw [others k hk, logError_site], ms,
    clusters.trans (by rw [logError_frame])⟩

/-- A unit on its third core ends its command, and the core stays in service. -/
theorem tileFault_third {s : State} {n id u : Nat} {c : Cmd} (tile : (s.site n).tile = some (id, u)) (found : s.cmd? id = some c)
    (third : 2 ≤ faultedOn s id u) (typ detail : Nat) :
    ((tileFault s n typ detail).site n).tile = none ∧ ((tileFault s n typ detail).site n).fenced = (s.site n).fenced ∧
      ((tileFault s n typ detail).cmd? id).map Cmd.result = some (some .replayFailed) ∧
      (tileFault s n typ detail).ms = { s.ms with lsm := (tileFault s n typ detail).ms.lsm, lsmKept := (tileFault s n typ detail).ms.lsmKept } := by
  simp only [tileFault, tile, if_pos third]
  generalize logged : s.logError (0x0500 + n) 1 0x0F Res.replayFailed.code _ = s1
  have site : s1.site n = s.site n := by rw [← logged, logError_site]
  have cmd : (s1.arrProgress n).cmd? id = some c := by
    rw [arrProgress_cmd?, ← logged, logError_frame]
    exact found
  have ms : s1.ms = s.ms := by rw [← logged, logError_ms]
  obtain ⟨kept, -, frame⟩ := arrProgress_counts s1 n
  have idle : ((((s1.arrProgress n).setSite n ((s1.arrProgress n).site n).idle).updCmd id (Cmd.close .replayFailed)).site n) =
      ((s1.arrProgress n).site n).idle := (State.site_setSite _ n n _).trans (if_pos rfl)
  refine ⟨congrArg Site.tile idle, (congrArg Site.fenced idle).trans ?_, ?_, ?_⟩
  · rw [← site, Site.idle, kept]
  · rw [cmd?_updCmd _ _ _ (f := Cmd.close .replayFailed) (fun _ => rfl), if_pos rfl]
    exact congrArg (fun d => (d.map (Cmd.close .replayFailed)).map Cmd.result) cmd
  · rw [← ms]
    exact congrArg State.ms frame

/-! LSM_ERROR_LIMIT (R72, R382). -/

theorem satInc16_toNat (x : BitVec 16) : (satInc16 x).toNat = min 65535 (x.toNat + 1) := by
  unfold satInc16
  split <;> bv_omega

/-- Corrected errors of page `p` have been logged, `k` of them: their count has moved, and with it headers, logs and ATTN. -/
structure CorrectedLogged (s : State) (p k : Nat) (t : State) : Prop where
  frame : t = { s with hdrs := t.hdrs, attn := t.attn, logs := t.logs }
  corrected : (t.hdr p).corrected.toNat = min 65535 ((s.hdr p).corrected.toNat + k)

theorem logError_correctedLogged (s : State) (p t r d : Nat) : CorrectedLogged s p 1 (s.logError p 0 t r d) := by
  refine ⟨logError_frame .., ?_⟩
  rw [logError_hdr_same]
  exact satInc16_toNat _

theorem CorrectedLogged.trans {s t u : State} {p j k : Nat} (h : CorrectedLogged s p j t) (g : CorrectedLogged t p k u) :
    CorrectedLogged s p (j + k) u := by
  refine ⟨by rw [g.frame, h.frame], ?_⟩
  rw [g.corrected, h.corrected]
  omega

theorem foldl_correctedLogged {p : Nat} {f : State → Nat → State} (step : ∀ s x, CorrectedLogged s p 1 (f s x)) :
    ∀ (l : List Nat) (s : State), CorrectedLogged s p l.length (l.foldl f s)
  | [], s => ⟨rfl, by have := (s.hdr p).corrected.isLt; simp only [List.foldl_nil, List.length_nil]; omega⟩
  | x :: l, s => by
    have h := (step s x).trans (foldl_correctedLogged step l (f s x))
    rwa [Nat.add_comm] at h

/-! GRACEFUL_ECLIPSE (R383, R385). -/

/-- What the mark of an eclipse may change. -/
structure EclipseMarks (s t : State) : Prop where
  frame : t = { s with sites := t.sites, clusters := t.clusters, hdrs := t.hdrs, attn := t.attn, logs := t.logs,
                       dev := { s.dev with eclipsedFlash := t.dev.eclipsedFlash } }

theorem EclipseMarks.trans {s t u : State} (h : EclipseMarks s t) (k : EclipseMarks t u) : EclipseMarks s u :=
  ⟨by rw [k.frame, h.frame]⟩

theorem changeIsl_eclipseMarks (s : State) (n : Nat) (st : PState) : EclipseMarks s (changeIsl s (.site n) st) := by
  by_cases same : (s.site n).isl.state = st
  · rw [show changeIsl s (.site n) st = s from if_pos same]
    exact ⟨rfl⟩
  · rw [changeIsl_site same, setEvent_frame]
    exact ⟨rfl⟩

theorem setEventOnce_eclipseMarks (s : State) (p k c : Nat) : EclipseMarks s (s.setEventOnce p k c) := by
  obtain ⟨h, a, once⟩ := setEventOnce_frame s p k c
  rw [once]
  exact ⟨rfl⟩

theorem markEclipsed_eclipseMarks (s : State) (n : Nat) (graceful moon : Bool) : EclipseMarks s (markEclipsed s n graceful moon) := by
  unfold markEclipsed
  extract_lets x page s1 src s2 hd s3 old flash c s4 dev
  have turned : EclipseMarks s s1 := changeIsl_eclipseMarks s n .eclipsed
  have shown : EclipseMarks s1 s3 := ⟨rfl⟩
  have moonless : EclipseMarks s3 s4 := by
    simp only [s4]
    split <;> exact ⟨rfl⟩
  have recorded : EclipseMarks s4 { s4 with dev := { dev with eclipsedFlash := flash } } := ⟨rfl⟩
  have logged (t : State) (d : Nat) : EclipseMarks t (t.logNote page 0x11 d) := ⟨rfl⟩
  exact ((((turned.trans shown).trans moonless).trans recorded).trans (logged _ _)).trans (setEventOnce_eclipseMarks _ _ _ _)

/-- What the mark of the eclipse of a core other than a moon leaves. -/
structure CoreEclipsed (s : State) (n : Nat) (t : State) : Prop where
  state : (t.site n).isl.state = .eclipsed
  lcore : (t.site n).lcore = none
  others : ∀ k, k ≠ n → t.site k = s.site k
  recorded : n ∈ t.dev.eclipsedFlash
  ms : t.ms = s.ms
  cmds : t.cmds = s.cmds
  cluster : ∀ k, t.cluster k = s.cluster k

theorem markEclipsed_core (s : State) {n : Nat} (core : n % 16 ≠ 15) (graceful moon : Bool) :
    CoreEclipsed s n (markEclipsed s n graceful moon) := by
  have marks := (markEclipsed_eclipseMarks s n graceful moon).frame
  have ms : (markEclipsed s n graceful moon).ms = s.ms := by rw [marks]
  have cmds : (markEclipsed s n graceful moon).cmds = s.cmds := by rw [marks]
  unfold markEclipsed
  extract_lets x page s1 src s2 hd s3 old flash c s4 dev
  obtain ⟨state, others, cluster, -, -, -⟩ : StateEclipsed s n s1 := changeIsl_eclipsed s n
  have kept : s4 = s3 := if_neg core
  have site (k : Nat) : s4.site k = if k = n then { s1.site n with lcore := none, fenced := false, abandoned := none, resetting := false, graceful := false }
      else s1.site k := by
    rw [kept]
    exact State.site_setSite s1 n k _
  have clusters (k : Nat) : s4.cluster k = s.cluster k := by
    rw [kept, ← cluster k]
    rfl
  have recorded : n ∈ flash := mem_recorded n old moon
  refine ⟨?_, ?_, fun k hk => ?_, ?_, ms, cmds, fun k => ?_⟩
  all_goals clear_value s4 flash
  · rw [setEventOnce_site]
    exact (congrArg (·.isl.state) ((site n).trans (if_pos rfl))).trans state
  · rw [setEventOnce_site]
    exact congrArg Site.lcore ((site n).trans (if_pos rfl))
  · rw [setEventOnce_site]
    exact ((site k).trans (if_neg hk)).trans (others k hk)
  · rw [setEventOnce_dev]
    exact recorded
  · rw [setEventOnce_cluster]
    exact clusters k

/-- A moon that is up serves at once: no unit is dealt again, and its cluster's cores stay present. -/
theorem moonServes_up {s : State} {cl : Nat} (up : ¬MoonDown (s.site (cl * 16 + 15))) (l : Nat) (epoch : BitVec 16) :
    (moonServes s cl l epoch).cmds = s.cmds ∧ ((moonServes s cl l epoch).cluster cl).present = (s.cluster cl).present := by
  unfold moonServes
  extract_lets s0 m isl s1
  have moon : m = { s.site (cl * 16 + 15) with lcore := some l } := (State.site_setSite _ _ _ _).trans (if_pos rfl)
  have cluster : s1.cluster cl = { s.cluster cl with map := updAt (s.cluster cl).map (l % 15) (fun _ => 15), moonFree := false } :=
    (State.cluster_setCluster s cl cl _).trans (if_pos rfl)
  have still : ¬(m.isl.state = .off ∨ m.isl.state = .test ∨ m.resetting = true) := by rwa [moon]
  rw [if_neg still]
  exact ⟨rfl, by rw [cluster]⟩

/-- A graceful eclipse whose time has come: the site is marked, and its moon serves. -/
theorem exec_gracefulEclipse_due {s : State} {n l : Nat} (lcore : (s.site n).lcore = some l) (asked : (s.site n).graceful = true)
    (can : canFence s n = true) (idle : (s.site n).tile = none) (moon : moonReady s (n / 16) = true) (core : n % 16 ≠ 15)
    (clear : holdsWrite s n = false) (calm : fencedIn s (n / 16) = false) :
    exec (.gracefulEclipse n) s = .next (moonServes (markEclipsed s n true true) (n / 16) l (s.site n).isl.epoch) := by
  show execGracefulEclipse n s = _
  simp [execGracefulEclipse, lcore, asked, can, idle, moon, core, clear, calm]

/-! The four rows. -/

theorem exec_lsmErrorLimit_due {s : State} {n : Nat} (site : n < 256) (free : (s.site n).fenced = false)
    (powered : (s.site n).isl.state = .on ∨ (s.site n).isl.state = .quiescing ∨ (s.site n).isl.state = .retention) :
    ∃ t, exec (.lsmErrorLimit n) s = .next (t.setSite n { t.site n with graceful := true }) ∧
      CorrectedLogged s.takeFree.2 (0x0500 + n)
        (257 - ((s.hdr (0x0500 + n)).recent.filter (fun a => decide (s.dev.timeNs < a + dayNs))).length) t := by
  refine ⟨_, congrArg Host.Outcome.next (if_pos ?_), ?_⟩
  · rcases powered with h | h | h <;> simp [site, free, h]
  · have logged := foldl_correctedLogged (p := 0x0500 + n) (f := fun s' k => s'.logError (0x0500 + n) 0 0x01 0
      (0x010000000000 + n * 0x400000 + (s.takeFree.1 + k) % 0x400000)) (fun s' k => logError_correctedLogged s' _ _ _ _)
      (List.range (257 - ((s.hdr (0x0500 + n)).recent.filter (fun a => decide (s.dev.timeNs < a + dayNs))).length)) s.takeFree.2
    rwa [List.length_range] at logged

/-- Settles O39: a fault fences its core or ends its command; the LSM's limit asks for a graceful eclipse, which is the mark of
the site and the service of its moon. -/
theorem faultsFenceACore : Obligations.FaultsFenceACore := by
  refine ⟨fun s n typ can => ⟨fun tl tile few => ⟨fun type => ?immediate, fun runs => ?limit⟩, fun id u c tile found third => ?third⟩,
    fun s n site free powered => ?lsm, fun s n l lcore asked can idle moon core clear calm => ?graceful⟩
  case immediate =>
    have due : (canFence s n && (typ == 0x02 || typ == 0x03)) = true := by
      rcases type with rfl | rfl <;> simp [can]
    obtain ⟨fenced, none', abandoned, others, ms, clusters⟩ :=
      tileFault_fenced (s := s.takeFree.2) (n := n) (fun id u h => few id u (tile ▸ h)) _ _
    exact ⟨_, congrArg Host.Outcome.next (if_pos due), fenced, none', abandoned.trans tile, others, ms, clusters⟩
  case limit =>
    have due : (canFence s n && (s.site n).tile.isSome) = true := by
      rw [can, tile]
      simpa using Option.ne_none_iff_isSome.mp runs
    obtain ⟨fenced, none', abandoned, others, ms, clusters⟩ := tileFault_fenced (s := s) (n := n) (fun id u h => few id u (tile ▸ h)) 0x0E n
    exact ⟨_, congrArg Host.Outcome.next (if_pos due), fenced, none', abandoned.trans tile, others, ms, clusters⟩
  case third =>
    have due : (canFence s n && (s.site n).tile.isSome) = true := by simp [can, tile]
    have free : (s.site n).fenced = false := by
      simp only [canFence, Bool.and_eq_true, Bool.not_eq_true'] at can
      exact can.1.2
    obtain ⟨none', fenced, result, ms⟩ := tileFault_third tile found third 0x0E n
    exact ⟨_, congrArg Host.Outcome.next (if_pos due), none', fenced.trans free, result, ms⟩
  case lsm =>
    obtain ⟨t, runs, frame, corrected⟩ := exec_lsmErrorLimit_due site free powered
    have same (k : Nat) : t.site k = s.site k := by
      rw [frame]
      rfl
    refine ⟨_, runs, ?_, fun k hk => ?_, fun seen count => ?_, ?_, ?_, ?_, ?_⟩
    · rw [State.site_setSite, if_pos rfl, same]
    · rw [State.site_setSite, if_neg hk, same]
    · subst count
      exact corrected
    all_goals exact (by rw [frame]; rfl)
  case graceful =>
    rw [exec_gracefulEclipse_due lcore asked can idle moon core clear calm]
    have marked := markEclipsed_core s core true true
    have apart : n / 16 * 16 + 15 ≠ n := by omega
    obtain ⟨rehomed, core', epoch, moonFree, -, away⟩ := moonServes_served (markEclipsed s n true true) (n / 16) l (s.site n).isl.epoch apart.symm
    have moonKept := marked.others _ apart
    refine Gives.next ⟨?_, ?_, core', epoch, moonFree, ?_, rehomed.ms.trans marked.ms, fun m hm => ⟨fun up => ?_, fun down => ?_⟩⟩
    · rw [rehomed.site, marked.state]
    · rw [rehomed.site, marked.lcore]
    · rw [rehomed.dev]
      exact marked.recorded
    · subst hm
      obtain ⟨cmds, present⟩ := moonServes_up (s := markEclipsed s n true true) (cl := n / 16)
        (by rw [moonKept]; simp [MoonDown, up.1, up.2.1, up.2.2]) l (s.site n).isl.epoch
      exact ⟨cmds.trans marked.cmds, present.trans (by rw [marked.cluster])⟩
    · subst hm
      exact away (by rw [moonKept]; exact down)

end Sys2Proof.Machine

namespace Sys2Proof.Machine

/-! Boot steps (R433): what each leaves as it was. -/

/-- What work on core sites may change: the rest of the device stays. -/
structure SitesWork (s t : State) : Prop where
  frame : t = { s with freeCtr := t.freeCtr, sites := t.sites, clusters := t.clusters, cmds := t.cmds, hdrs := t.hdrs, attn := t.attn,
                       logs := t.logs, dev := { s.dev with eclipsedFlash := t.dev.eclipsedFlash } }

namespace SitesWork

theorem refl (s : State) : SitesWork s s := ⟨rfl⟩

theorem trans {s t u : State} (h : SitesWork s t) (k : SitesWork t u) : SitesWork s u := ⟨by rw [k.frame, h.frame]⟩

theorem foldl {α : Type} {f : State → α → State} (step : ∀ s x, SitesWork s (f s x)) : ∀ (l : List α) (s : State), SitesWork s (l.foldl f s)
  | [], s => refl s
  | x :: l, s => (step s x).trans (foldl step l (f s x))

theorem of_marks {s t : State} (h : EclipseMarks s t) : SitesWork s t := ⟨by rw [h.frame]⟩

theorem of_dealt {s t : State} (h : Dealt s t) : SitesWork s t := ⟨by rw [h.frame]⟩

theorem comp {s t : State} (h : SitesWork s t) : t.comp = s.comp := by rw [h.frame]

end SitesWork

theorem setCluster_sitesWork (s : State) (k : Nat) (c : Cluster) : SitesWork s (s.setCluster k c) := ⟨rfl⟩

theorem becomesAbsent_sitesWork (s : State) (cl l : Nat) : SitesWork s (becomesAbsent s cl l) := setCluster_sitesWork s cl _

theorem moonTakes_sitesWork (s : State) (cl l : Nat) : SitesWork s (moonTakes s cl l) := ⟨rfl⟩

theorem moonServes_sitesWork (s : State) (cl l : Nat) (epoch : BitVec 16) : SitesWork s (moonServes s cl l epoch) := by
  unfold moonServes
  extract_lets s0 m isl s1
  have served : SitesWork s s1 := ⟨rfl⟩
  split
  · exact (served.trans (becomesAbsent_sitesWork s1 cl l)).trans (.of_dealt (dealAbsent_dealt _ l cl))
  · exact served

theorem eclipseSite_sitesWork (s : State) (n : Nat) : SitesWork s (eclipseSite s n) := by
  unfold eclipseSite
  extract_lets x cl take s1
  have marked : SitesWork s s1 := .of_marks (markEclipsed_eclipseMarks s n _ _)
  split
  · exact marked
  · next l _ =>
    extract_lets s2
    have back : SitesWork s s2 := marked.trans (.of_dealt (giveBack_dealt s1 l cl _))
    split
    · exact back.trans (moonServes_sitesWork s2 cl l _)
    · exact (back.trans (becomesAbsent_sitesWork s2 cl l)).trans (.of_dealt (dealAbsent_dealt _ l cl))

theorem siteFails_sitesWork (s : State) (n : Nat) : SitesWork s (siteFails s n) :=
  SitesWork.trans ⟨by rw [logError_frame]⟩ (eclipseSite_sitesWork _ n)

theorem siteBack_sitesWork (s : State) (n : Nat) : SitesWork s (siteBack s n) := by
  unfold siteBack
  extract_lets f s1 x s2
  have up : SitesWork s s2 := ⟨rfl⟩
  split
  · exact up
  · exact up.trans (setCluster_sitesWork s2 _ _)

theorem loadEclipse_sitesWork (s : State) (n : Nat) : SitesWork s (loadEclipse s n) := by
  unfold loadEclipse
  extract_lets x cl src s1 hd s2 c s3
  have marked : SitesWork s s2 := ⟨rfl⟩
  have moonless : SitesWork s2 s3 := by
    simp only [s3]
    split
    · exact setCluster_sitesWork s2 _ _
    · exact .refl s2
  split
  · exact marked.trans moonless
  · split
    · exact (marked.trans moonless).trans (moonTakes_sitesWork s3 _ _)
    · exact (marked.trans moonless).trans (becomesAbsent_sitesWork s3 _ _)

/-! Islands that come up (R386). -/

/-- The islands at the places `l` of a list come up in turn, each with a new epoch. -/
def raised (l : List Nat) (c : List Isl) : List Isl := l.foldl (fun c t => updAt c t (fun _ => ⟨.on, (c.getD t Isl.reset).epoch + 1⟩)) c

/-- An island is ON once it has come up, and stays so while others do. -/
theorem raised_on {i : Nat} : ∀ {l : List Nat} {c : List Isl}, i < c.length → (i ∈ l ∨ (c.getD i Isl.reset).state = .on) →
    ((raised l c).getD i Isl.reset).state = .on
  | [], _, _, on => on.resolve_left (List.not_mem_nil)
  | t :: l, c, room, on => by
    refine raised_on (l := l) (by simpa using room) ?_
    by_cases at' : i = t
    · subst at'
      exact .inr (by rw [updAt_const_getD room])
    · rw [updAt_getD_ne _ at']
      rcases on with h | h
      · exact .inl ((List.mem_cons.mp h).resolve_left at')
      · exact .inr h

/-- The COMPUTE islands of the tiles `l` come up, and nothing changes beside headers and locks. -/
theorem returnComputes_frame (s : State) (l : List Nat) : ∃ hdrs lock, l.foldl (fun s t => setLocks (returnOn s (.compute t)) [t]) s =
    { s with hdrs := hdrs, dev := { s.dev with clkLock := lock }, comp := raised l s.comp } := by
  induction l generalizing s with
  | nil => exact ⟨_, _, rfl⟩
  | cons t l ih =>
    obtain ⟨hdrs, lock, rest⟩ := ih (setLocks (returnOn s (.compute t)) [t])
    exact ⟨hdrs, lock, rest⟩

theorem seedStack_frame (s : State) (t : Nat) : ∃ parts ctr, seedStack s t = { s with parts := parts, freeCtr := ctr } := by
  unfold seedStack
  induction List.range 64 generalizing s with
  | nil => exact ⟨_, _, rfl⟩
  | cons k l ih =>
    obtain ⟨parts, ctr, rest⟩ := ih { s.setPart (64 * t + k) { s.part (64 * t + k) with lfsr := BitVec.ofNat 32 (freeLfsr s.freeCtr) } with
      freeCtr := s.freeCtr + 1 }
    exact ⟨parts, ctr, rest⟩

/-- Step 4 for one tile: its stack, then its SERVICE island. -/
def stackUp (s : State) (t : Nat) : State := powerUp (setLocks (seedStack (powerUp s (.stack t) false) t) [4 + t]) (.service t) false

/-- What comes up in step 4 for the tiles `l`. -/
structure StacksUp (s : State) (l : List Nat) (t : State) : Prop where
  frame : t = { s with freeCtr := t.freeCtr, parts := t.parts, hdrs := t.hdrs, dev := { s.dev with clkLock := t.dev.clkLock }
                       stk := raised l s.stk, svc := raised l s.svc }

theorem stackUp_up (s : State) (t : Nat) : StacksUp s [t] (stackUp s t) := by
  unfold stackUp
  obtain ⟨hdrs1, up1⟩ := bootHdrs_frame (s.setIsl (.stack t) ⟨.on, (s.isl (.stack t)).epoch + 1⟩) (.stack t) false
  obtain ⟨parts, ctr, seeded⟩ := seedStack_frame (powerUp s (.stack t) false) t
  obtain ⟨hdrs2, up2⟩ := bootHdrs_frame ((setLocks (seedStack (powerUp s (.stack t) false) t) [4 + t]).setIsl (.service t)
    ⟨.on, ((setLocks (seedStack (powerUp s (.stack t) false) t) [4 + t]).isl (.service t)).epoch + 1⟩) (.service t) false
  constructor
  rw [show powerUp (setLocks (seedStack (powerUp s (.stack t) false) t) [4 + t]) (.service t) false = _ from up2, seeded,
    show powerUp s (.stack t) false = _ from up1]
  rfl

theorem stacksUp_foldl : ∀ (l : List Nat) (s : State), StacksUp s l (l.foldl stackUp s)
  | [], _ => ⟨rfl⟩
  | t :: l, s => ⟨by
    rw [List.foldl_cons, (stacksUp_foldl l (stackUp s t)).frame, (stackUp_up s t).frame]
    rfl⟩

/-- Step 4 brings up stacks, SERVICE islands and the capacity memory. -/
structure StacksBooted (s t : State) : Prop where
  frame : t = { s with freeCtr := t.freeCtr, parts := t.parts, hdrs := t.hdrs, dev := { s.dev with clkLock := t.dev.clkLock }
                       capMem := t.capMem, stk := t.stk, svc := t.svc }
  svc : s.svc.length = 4 → ∀ k < 4, (t.svcIsl k).state = .on
  stk : s.stk.length = 4 → ∀ k < 4, (t.stkIsl k).state = .on

theorem bootStacks_booted (s : State) : StacksBooted s (bootStacks s) := by
  have up := stacksUp_foldl (List.range 4) s
  have called : bootStacks s = powerUp ((List.range 4).foldl stackUp s) .capMem false := rfl
  generalize (List.range 4).foldl stackUp s = t at up called
  have last : bootStacks s = { t with capMem := ⟨.on, t.capMem.epoch + 1⟩ } := called
  rw [last]
  have each {c d : List Isl} (raise : d = raised (List.range 4) c) (four : c.length = 4) (k : Nat) (hk : k < 4) : (d.getD k Isl.reset).state = .on := by
    rw [raise]
    exact raised_on (by omega) (.inl (List.mem_range.mpr hk))
  refine ⟨by rw [up.frame], fun four => each ?_ four, fun four => each ?_ four⟩
  · exact (congrArg State.svc up.frame)
  · exact (congrArg State.stk up.frame)

/-- Step 3 brings the HUB up with a new epoch. -/
theorem bootHub_frame (s : State) : ∃ hdrs lock, bootHub s =
    { s with hdrs := hdrs, dev := { s.dev with clkLock := lock }, hub := ⟨.on, s.hub.epoch + 1⟩ } := by
  obtain ⟨hdrs, up⟩ := bootHdrs_frame ((setLocks s [8, 9, 11]).setIsl .hub ⟨.on, s.hub.epoch + 1⟩) .hub false
  exact ⟨hdrs, _, up⟩

/-- Step 5 brings the COMPUTE islands up and leaves the rest of the device but core sites. -/
structure SitesBooted (s t : State) : Prop where
  frame : t = { s with freeCtr := t.freeCtr, sites := t.sites, clusters := t.clusters, cmds := t.cmds, hdrs := t.hdrs, attn := t.attn,
                       logs := t.logs, comp := t.comp
                       dev := { s.dev with eclipsedFlash := t.dev.eclipsedFlash, clkLock := t.dev.clkLock } }
  comp : s.comp.length = 4 → ∀ k < 4, (t.compIsl k).state = .on

/-- The COMPUTE islands of four tiles come up between two stretches of work on core sites. -/
theorem sitesBooted_of_returns {s u t : State} (before : SitesWork s u)
    (after : SitesWork ((List.range 4).foldl (fun s t => setLocks (returnOn s (.compute t)) [t]) u) t) : SitesBooted s t := by
  obtain ⟨hdrs, lock, up⟩ := returnComputes_frame u (List.range 4)
  rw [up] at after
  refine ⟨by rw [after.frame, before.frame], fun four k hk => ?_⟩
  rw [State.compIsl, after.comp]
  exact raised_on (by rw [before.comp]; omega) (.inl (List.mem_range.mpr hk))

theorem bootSites_booted (s : State) (failed : List Nat) : SitesBooted s (bootSites s failed) := by
  unfold bootSites
  generalize List.range 256 = all
  extract_lets fresh s1 s2 bad off s3
  have cleared : SitesWork s fresh := SitesWork.trans ⟨rfl⟩ (SitesWork.foldl (fun _ _ => ⟨rfl⟩) _ _)
  have loaded : SitesWork s s1 := cleared.trans (.foldl loadEclipse_sitesWork _ fresh)
  have back : SitesWork s2 s3 := .foldl (fun s n => by
    split
    · exact siteBack_sitesWork s n
    · exact .refl s) _ s2
  refine sitesBooted_of_returns loaded (back.trans (.foldl (fun s n => ?_) _ s3))
  split
  · exact siteFails_sitesWork s n
  · exact .refl s

/-! The course of a boot (R433, R434). -/

/-- The boot has reached step `k`. -/
def State.atStep (s : State) (k : Nat) : State := { s with mgc := { s.mgc with step := k } }

/-- A step is entered at once where its report has no failure; step 4 needs a capacity memory of a known kind. -/
theorem enterStep_clean {r : BootReport} {k : Nat} {s : State} (clean : r.stepFailures.getD k 0 = 0)
    (kind : s.dev.capMem = 1 ∨ s.dev.capMem = 2) : enterStep r k s = (s.atStep k, true) := by
  have known : ¬(k = 4 ∧ (s.dev.capMem = 0 ∨ 3 ≤ s.dev.capMem)) := by omega
  simp only [enterStep, clean, if_neg known, ite_self, if_true, State.atStep]

/-- A step before the capacity memory matters is entered at once where its report has no failure. -/
theorem enterStep_early {r : BootReport} {k : Nat} {s : State} (clean : r.stepFailures.getD k 0 = 0) (early : k < 4) :
    enterStep r k s = (s.atStep k, true) := by
  have known : ¬(k = 4 ∧ (s.dev.capMem = 0 ∨ 3 ≤ s.dev.capMem)) := by omega
  simp only [enterStep, clean, if_neg known, ite_self, if_true, State.atStep]

theorem checkCoord_frame (s : State) : ∃ fre logs attn, checkCoord s = { s with fre := fre, logs := logs, attn := attn } := by
  unfold checkCoord
  extract_lets ok s1
  split <;> exact ⟨_, _, _, rfl⟩

/-- READY: the boot's step is 8, its time has passed, and the slot that booted stays. -/
structure ReadyAfter (s : State) (ns : Nat) (t : State) : Prop where
  dev : t.dev = { s.dev with ready := true, timeNs := s.dev.timeNs + ns }
  step : t.mgc.step = 8
  halted : t.mgc.halted = s.mgc.halted
  image : t.mgc.image = s.mgc.image
  tlc : t.tlc.pair = s.tlc.pair ∧ t.tlc.tstate = s.tlc.tstate
  islands : t.hub = s.hub ∧ t.svc = s.svc ∧ t.comp = s.comp ∧ t.stk = s.stk ∧ t.aonEpoch = s.aonEpoch

theorem makeReady_ready (s : State) (ns : Nat) : ReadyAfter s ns (makeReady (spend (checkCoord s) ns)) := by
  obtain ⟨fre, logs, attn, checked⟩ := checkCoord_frame s
  rw [checked]
  have slot (m : Mgc) (k : Nat) (x : FwSlot) : (m.setSlot k x).halted = m.halted ∧ (m.setSlot k x).image = m.image := by
    unfold Mgc.setSlot
    split <;> exact ⟨rfl, rfl⟩
  exact ⟨rfl, rfl, (slot _ _ _).1, (slot _ _ _).2, ⟨rfl, rfl⟩, rfl, rfl, rfl, rfl, rfl⟩

/-- Steps 3 to 8 passed without a failure on an unpaired Parvon. -/
structure BootedUp (s : State) (r : BootReport) (t : State) : Prop where
  dev : t.dev = { s.dev with ready := true, timeNs := s.dev.timeNs + 1000000 * r.readyMs, eclipsedFlash := t.dev.eclipsedFlash,
                             clkLock := t.dev.clkLock }
  step : t.mgc.step = 8
  halted : t.mgc.halted = s.mgc.halted
  image : t.mgc.image = s.mgc.image
  hub : t.hub = ⟨.on, s.hub.epoch + 1⟩
  aonEpoch : t.aonEpoch = s.aonEpoch
  tiles : ∀ k < 4, (t.svcIsl k).state = .on ∧ (t.compIsl k).state = .on ∧ (t.stkIsl k).state = .on
  unpaired : t.tlc.pair = none ∧ t.tlc.tstate = 0

/-- What stands before step 7, and what steps 7 and 8 of an unpaired Parvon make of it. -/
theorem bootTwin_unpaired {s : State} {r : BootReport} (record : s.tlc.recFlash = none) :
    bootTwin s r = makeReady (spend (checkCoord (updTlc (s.atStep 7) (fun t => { t with pair := none, tstate := 0 })))
      (1000000 * r.readyMs)) := by
  simp only [bootTwin, record]
  rfl

/-- What a boot leaves of the MGC, the pair and the device. -/
structure Underway (s t : State) : Prop where
  dev : t.dev = { s.dev with eclipsedFlash := t.dev.eclipsedFlash, clkLock := t.dev.clkLock }
  mgc : t.mgc = { s.mgc with step := t.mgc.step }
  tlc : t.tlc = s.tlc
  aonEpoch : t.aonEpoch = s.aonEpoch

theorem Underway.trans {s t u : State} (h : Underway s t) (k : Underway t u) : Underway s u :=
  ⟨by rw [k.dev, h.dev], by rw [k.mgc, h.mgc], k.tlc.trans h.tlc, k.aonEpoch.trans h.aonEpoch⟩

theorem Underway.capMem {s t : State} (h : Underway s t) : t.dev.capMem = s.dev.capMem := by rw [h.dev]

theorem Underway.halted {s t : State} (h : Underway s t) : t.mgc.halted = s.mgc.halted := by rw [h.mgc]

theorem Underway.image {s t : State} (h : Underway s t) : t.mgc.image = s.mgc.image := by rw [h.mgc]

theorem atStep_underway (s : State) (k : Nat) : Underway s (s.atStep k) := ⟨rfl, rfl, rfl, rfl⟩

theorem bootHub_underway (s : State) : Underway s (bootHub s) := by
  obtain ⟨hdrs, lock, up⟩ := bootHub_frame s
  rw [up]
  exact ⟨rfl, rfl, rfl, rfl⟩

theorem lockPages_underway (s : State) : Underway s (lockPages s) := ⟨rfl, rfl, rfl, rfl⟩

theorem setLocks_underway (s : State) (ks : List Nat) : Underway s (setLocks s ks) := ⟨rfl, rfl, rfl, rfl⟩

theorem StacksBooted.underway {s t : State} (h : StacksBooted s t) : Underway s t := by
  refine ⟨?_, ?_, ?_, ?_⟩ <;> rw [h.frame]

theorem SitesBooted.underway {s t : State} (h : SitesBooted s t) : Underway s t := by
  refine ⟨?_, ?_, ?_, ?_⟩ <;> rw [h.frame]

theorem StacksBooted.islands {s t : State} (h : StacksBooted s t) : t.hub = s.hub ∧ t.comp = s.comp := by
  constructor <;> rw [h.frame]

theorem SitesBooted.islands {s t : State} (h : SitesBooted s t) : t.hub = s.hub ∧ t.svc = s.svc ∧ t.stk = s.stk := by
  refine ⟨?_, ?_, ?_⟩ <;> rw [h.frame]

/-- The HUB is ON under a new epoch, and so are the islands of every tile. -/
structure IslandsUp (s t : State) : Prop where
  hub : t.hub = ⟨.on, s.hub.epoch + 1⟩
  tiles : ∀ k < 4, (t.svcIsl k).state = .on ∧ (t.compIsl k).state = .on ∧ (t.stkIsl k).state = .on

/-- The states `h`, `b` and `c` that steps 3, 4 and 5 of a boot from `s` leave. -/
structure Course (s : State) (r : BootReport) (h b c : State) : Prop where
  hub : h = bootHub (s.atStep 3)
  bases : b = bootStacks (h.atStep 4)
  sites : c = bootSites (b.atStep 5) r.failedSites

namespace Course

variable {s h b c : State} {r : BootReport} (course : Course s r h b c)
include course

theorem underway3 : Underway s h := by
  rw [course.hub]
  exact (atStep_underway s 3).trans (bootHub_underway _)

theorem underway4 : Underway s b := by
  rw [course.bases]
  exact (course.underway3.trans (atStep_underway h 4)).trans (bootStacks_booted _).underway

theorem underway5 : Underway s c := by
  rw [course.sites]
  exact (course.underway4.trans (atStep_underway b 5)).trans (bootSites_booted _ _).underway

theorem islandsUp (svc : s.svc.length = 4) (comp : s.comp.length = 4) (stk : s.stk.length = 4) : IslandsUp s c := by
  obtain ⟨hdrs, lock, up⟩ := bootHub_frame (s.atStep 3)
  obtain ⟨hub3, svc3, comp3, stk3⟩ : h.hub = ⟨.on, s.hub.epoch + 1⟩ ∧ h.svc = s.svc ∧ h.comp = s.comp ∧ h.stk = s.stk := by
    rw [course.hub, up]
    exact ⟨rfl, rfl, rfl, rfl⟩
  have booted4 : StacksBooted (h.atStep 4) b := course.bases ▸ bootStacks_booted (h.atStep 4)
  have booted5 : SitesBooted (b.atStep 5) c := course.sites ▸ bootSites_booted (b.atStep 5) r.failedSites
  clear course
  obtain ⟨hub4, comp4⟩ := booted4.islands
  obtain ⟨hub5, svc5, stk5⟩ := booted5.islands
  refine ⟨hub5.trans (hub4.trans hub3), fun k hk => ⟨?_, booted5.comp ((congrArg List.length (comp4.trans comp3)).trans comp) k hk, ?_⟩⟩
  · rw [State.svcIsl, svc5]
    exact booted4.svc ((congrArg List.length svc3).trans svc) k hk
  · rw [State.stkIsl, stk5]
    exact booted4.stk ((congrArg List.length stk3).trans stk) k hk

/-- Without a failure steps 3 to 6 follow one another. -/
theorem bootFrom3 (clean : ∀ k, r.stepFailures.getD k 0 = 0) (kind : s.dev.capMem = 1 ∨ s.dev.capMem = 2) :
    bootFrom3 s r = bootTwin (setLocks ((lockPages c).atStep 6) [10]) r := by
  have three : enterStep r 3 s = (s.atStep 3, true) := enterStep_early (clean 3) (by decide)
  have four : enterStep r 4 h = (h.atStep 4, true) := enterStep_clean (clean 4) (by rwa [course.underway3.capMem])
  have five : enterStep r 5 b = (b.atStep 5, true) := enterStep_clean (clean 5) (by rwa [course.underway4.capMem])
  have six : enterStep r 6 (lockPages c) = ((lockPages c).atStep 6, true) :=
    enterStep_clean (clean 6) (by rwa [(course.underway5.trans (lockPages_underway c)).capMem])
  simp only [Machine.bootFrom3, three, four, five, six, ← course.hub, ← course.bases, ← course.sites]

end Course

/-- Steps 7 and 8 of an unpaired Parvon, from what steps 3 to 6 left. -/
theorem bootTwin_bootedUp {s t : State} {r : BootReport} (under : Underway s t) (islands : IslandsUp s t) (record : s.tlc.recFlash = none) :
    BootedUp s r (bootTwin t r) := by
  rw [bootTwin_unpaired (under.tlc ▸ record)]
  obtain ⟨dev, step, halted, image, ⟨pair, tstate⟩, hub, svc', comp', stk', aon⟩ :=
    makeReady_ready (updTlc (t.atStep 7) (fun t => { t with pair := none, tstate := 0 })) (1000000 * r.readyMs)
  refine ⟨?_, step, halted.trans under.halted, image.trans under.image, hub.trans islands.hub,
    aon.trans under.aonEpoch, fun k hk => ?_, pair, tstate⟩
  · rw [dev, show (updTlc (t.atStep 7) _).dev = t.dev from rfl, under.dev]
  · rw [State.svcIsl, State.compIsl, State.stkIsl, svc', comp', stk']
    exact islands.tiles k hk

theorem bootFrom3_bootedUp {s : State} {r : BootReport} (clean : ∀ k, r.stepFailures.getD k 0 = 0) (kind : s.dev.capMem = 1 ∨ s.dev.capMem = 2)
    (svc : s.svc.length = 4) (comp : s.comp.length = 4) (stk : s.stk.length = 4) (record : s.tlc.recFlash = none) :
    BootedUp s r (bootFrom3 s r) := by
  obtain ⟨h, b, c, course⟩ : ∃ h b c, Course s r h b c := ⟨_, _, _, rfl, rfl, rfl⟩
  rw [course.bootFrom3 clean kind]
  obtain ⟨hub, tiles⟩ := course.islandsUp svc comp stk
  have under := course.underway5
  clear course
  exact bootTwin_bootedUp (((under.trans (lockPages_underway c)).trans (atStep_underway _ 6)).trans (setLocks_underway _ _)) ⟨hub, tiles⟩ record

/-! COLD_BOOT (R433, R472). -/

/-- The Parvon as `PORST_N` is released: straps sampled, time at 0, the boot counted, AON up. -/
def released (s : State) : State :=
  let s0 := { s with dev := { s.dev with porstLow := false, timeNs := 0, straps := s.dev.strapPins, bootCount := satInc32 s.dev.bootCount } }
  let hours := s0.sites.map (fun x => (x.1, { x.2 with poweredHours := x.2.savedHours.1, hotHours := x.2.savedHours.2 }))
  setLocks { s0 with sites := hours, aonEpoch := s0.aonEpoch + 1 } [13]

/-- Step 2 reached. -/
def atImage (s : State) : State := ((setLocks ((released s).atStep 0) [12]).atStep 1).atStep 2

/-- The state that step 3 finds, once the image of slot `k` runs. -/
def atHub (s : State) (k : Nat) : State :=
  let s5 := loadPools (firmwareHdrs (runImage (atImage s) k) .aon)
  { s5 with fre := { s5.fre with torus := s5.fre.torusFlash.getD 0 } }

/-- The first step fails twice: the boot halts there. -/
theorem exec_coldBoot_halts {s : State} {r : BootReport} (low : s.dev.porstLow = true) (fails : 2 ≤ r.stepFailures.getD 0 0) :
    ∃ t, exec (.coldBoot r) s = .next { t with mgc := { t.mgc with halted := true } } ∧
      t = (logStep (logStep ((released s).atStep 0) 0 1) 0 2).attnEvent attnERRLOG := by
  refine ⟨_, ?_, rfl⟩
  have once : r.stepFailures.getD 0 0 ≠ 0 := by omega
  have twice : r.stepFailures.getD 0 0 ≠ 1 := by omega
  have stops (u : State) : enterStep r 0 u = ({ (logStep (logStep (u.atStep 0) 0 1) 0 2).attnEvent attnERRLOG with
      mgc := { ((logStep (logStep (u.atStep 0) 0 1) 0 2).attnEvent attnERRLOG).mgc with halted := true } }, false) := by
    unfold enterStep
    extract_lets src s1 k s2 s3 m x n
    have same : k = r.stepFailures.getD 0 0 := (if_neg (by decide)).trans (if_neg (by simp))
    have kept : n = m := if_neg (by decide)
    rw [if_neg (same ▸ once), if_neg (same ▸ twice), kept]
    rfl
  refine congrArg Host.Outcome.next ((if_neg (by simp [low])).trans ?_)
  simp only [stops]
  rfl

/-- With no failing step the boot reaches the choice of the image. -/
theorem exec_coldBoot_chooses {s : State} {r : BootReport} (low : s.dev.porstLow = true) (clean : ∀ k, r.stepFailures.getD k 0 = 0) :
    exec (.coldBoot r) s = .next (match chooseSlot (atImage s) r with
      | none => { atImage s with mgc := { (atImage s).mgc with recovery := true } }
      | some k => bootFrom3 (atHub s k) r) := by
  refine congrArg Host.Outcome.next ((if_neg (by simp [low])).trans ?_)
  have step (k : Nat) (early : k < 4) (u : State) : enterStep r k u = (u.atStep k, true) := enterStep_early (clean k) early
  simp only [step 0 (by decide), step 1 (by decide), step 2 (by decide)]
  rfl

theorem chooseSlot_preferred {s : State} {r : BootReport} (verifies : slotVerifies s r s.mgc.preferred = true)
    (few : (s.mgc.slot s.mgc.preferred).failedBoots < 2) : chooseSlot s r = some s.mgc.preferred := by
  simp [chooseSlot, verifies, few]

theorem chooseSlot_none {s : State} {r : BootReport} (slot : s.mgc.preferred ≤ 1) (bad0 : slotVerifies s r 0 = false)
    (bad1 : slotVerifies s r 1 = false) : chooseSlot s r = none := by
  have each : s.mgc.preferred = 0 ∨ s.mgc.preferred = 1 := by omega
  rcases each with h | h <;> simp [chooseSlot, h, bad0, bad1]

theorem firmwareHdrs_frame (s : State) (i : Island) : ∃ hdrs, firmwareHdrs s i = { s with hdrs := hdrs } := by
  unfold firmwareHdrs
  induction islandPages i generalizing s with
  | nil => exact ⟨_, rfl⟩
  | cons p l ih =>
    obtain ⟨hdrs, rest⟩ := ih (s.setHdr p { s.hdr p with evmask := (bootHdr p).evmask, attn := (bootHdr p).attn })
    exact ⟨hdrs, rest⟩

theorem loadPools_frame (s : State) : ∃ ms logs, loadPools s = { s with ms := ms, logs := logs } := by
  unfold loadPools
  extract_lets w sc fc
  split <;> exact ⟨_, _, rfl⟩

/-- What step 3 finds when the preferred image runs. -/
theorem atHub_preferred (s : State) : ∃ ms logs hdrs sites lock version, atHub s s.mgc.preferred = { s with
    fre := { s.fre with torus := s.fre.torusFlash.getD 0 }, ms := ms, logs := logs, hdrs := hdrs, sites := sites, aonEpoch := s.aonEpoch + 1
    dev := { s.dev with porstLow := false, timeNs := 0, straps := s.dev.strapPins, bootCount := satInc32 s.dev.bootCount, clkLock := lock }
    mgc := { s.mgc with step := 2, image := s.mgc.preferred, fallback := false, fwVersion := version } } := by
  have runs : runImage (atImage s) s.mgc.preferred = { atImage s with
      mgc := { (atImage s).mgc with image := s.mgc.preferred, fallback := false, fwVersion := word ((atImage s).mgc.slot s.mgc.preferred).fwVersion } } := by
    have same : (atImage s).mgc.preferred = s.mgc.preferred := rfl
    simp [runImage, same]
  obtain ⟨hdrs, headers⟩ := firmwareHdrs_frame (runImage (atImage s) s.mgc.preferred) .aon
  obtain ⟨ms, logs, pools⟩ := loadPools_frame (firmwareHdrs (runImage (atImage s) s.mgc.preferred) .aon)
  refine ⟨ms, logs, hdrs, (released s).sites, (atImage s).dev.clkLock, word ((atImage s).mgc.slot s.mgc.preferred).fwVersion, ?_⟩
  unfold atHub
  rw [pools, headers, runs]
  rfl

/-! WARM_BOOT_START (R471) and TWIN_HANDSHAKE_TIMEOUT (R434). -/

theorem exec_warmBootStart_runs {s : State} {r : BootReport} (low : s.dev.warmLow = true) (up : s.dev.porstLow = false)
    (image : s.mgc.recovery = false) (going : s.mgc.halted = false) :
    exec (.warmBootStart r) s = .next (bootFrom3 { s with dev := { s.dev with warmLow := false }, mgc := { s.mgc with halted := false } } r) :=
  congrArg Host.Outcome.next ((if_neg (by simp [low, up])).trans (if_neg (by simp [image, going])))

theorem exec_twinHandshakeTimeout_runs {s : State} (step : s.mgc.step = 7) (waits : s.dev.ready = false) (going : s.mgc.halted = false) :
    exec .twinHandshakeTimeout s =
      .next ((makeReady (spend (checkCoord (updTlc s (fun t => { t with tstate := 3 }))) 1500000000)).attnOn attnTWIN) :=
  congrArg Host.Outcome.next (if_pos ⟨step, waits, going⟩)

/-- Settles O57: a boot without a failure is steps 3 to 6, which bring every island up, and then READY; the other outcomes stop
before step 3 or begin at step 7. -/
theorem bootsReachReadyOrHalt : Obligations.BootsReachReadyOrHalt := by
  refine ⟨?cold, ?halt, ?recovery, ?warm, ?timeout⟩
  case cold =>
    intro s r low svc comp stk going kind clean verifies few record
    have chosen : chooseSlot (atImage s) r = some s.mgc.preferred := chooseSlot_preferred verifies few
    rw [exec_coldBoot_chooses low clean, chosen]
    obtain ⟨ms, logs, hdrs, sites, lock, version, hub⟩ := atHub_preferred s
    simp only [hub]
    obtain ⟨dev, step, halted, image, hub, -, tiles, pair, tstate⟩ := bootFrom3_bootedUp (s := { s with
      fre := { s.fre with torus := s.fre.torusFlash.getD 0 }, ms := ms, logs := logs, hdrs := hdrs, sites := sites, aonEpoch := s.aonEpoch + 1
      dev := { s.dev with porstLow := false, timeNs := 0, straps := s.dev.strapPins, bootCount := satInc32 s.dev.bootCount, clkLock := lock }
      mgc := { s.mgc with step := 2, image := s.mgc.preferred, fallback := false, fwVersion := version } }) clean kind svc comp stk record
    refine Gives.next ⟨?_, ?_, step, halted.trans going, image, hub, tiles, ?_, ?_, ?_, pair, tstate⟩
    · rw [dev]
    · rw [dev]
    · rw [dev]
    · rw [dev]
    · rw [dev]
      exact Nat.zero_add _
  case halt =>
    intro s r low waits fails
    obtain ⟨t, runs, state⟩ := exec_coldBoot_halts low fails
    rw [runs, state]
    exact Gives.next ⟨rfl, rfl, waits, (Attn.event_pending _ (by decide) _).trans (by simp)⟩
  case recovery =>
    intro s r low waits clean slot bad0 bad1
    have none' : chooseSlot (atImage s) r = none := chooseSlot_none slot bad0 bad1
    rw [exec_coldBoot_chooses low clean, none']
    exact Gives.next ⟨rfl, waits, rfl⟩
  case warm =>
    intro s r low up image going svc comp stk kind clean record
    rw [exec_warmBootStart_runs low up image going]
    obtain ⟨dev, step, -, -, hub, aon, tiles, -, -⟩ := bootFrom3_bootedUp
      (s := { s with dev := { s.dev with warmLow := false }, mgc := { s.mgc with halted := false } }) clean kind svc comp stk record
    refine Gives.next ⟨?_, ?_, step, hub, fun k hk => ⟨(tiles k hk).1, (tiles k hk).2.1⟩, aon, ?_⟩ <;> rw [dev]
  case timeout =>
    intro s step waits going
    rw [exec_twinHandshakeTimeout_runs step waits going]
    obtain ⟨dev, step', -, -, ⟨-, tstate⟩, -⟩ := makeReady_ready (updTlc s (fun t => { t with tstate := 3 })) 1500000000
    refine Gives.next ⟨congrArg Dev.ready dev, step', tstate, Attn.levelOn_cause _ (by decide), congrArg Dev.timeNs dev⟩

end Sys2Proof.Machine

namespace Sys2Proof.Machine

/-! What requests and their commands leave alone, whether the Parvon mirrors or not: the device, its islands, sites, power, wear,
management and the pair. -/

/-- The twin's state but for what updates and their acknowledgements move. -/
def Tlc.settled (t : Tlc) : Tlc := { t with sendSeq := 0, awaiting := [], promised := none }

/-- What stands apart from requests and commands. -/
def State.base (s : State) :=
  (s.pending, s.dev, s.hub, s.svc, s.comp, s.pwr, s.wear, s.mgc, s.tlc.settled)

/-- From `s` to `t` requests and commands went on or ended: what stands apart from them stays, what left the block left it, and no
command is new. -/
structure RequestStays (s t : State) : Prop where
  base : t.base = s.base
  sites : t.sites = s.sites
  out : ∀ e ∈ s.egress, e ∈ t.egress
  ids : ∀ c ∈ t.cmds, ∃ d ∈ s.cmds, d.id = c.id

namespace RequestStays

variable {s t u : State}

/-- A change of other parts of the state alone. -/
theorem plain (base : t.base = s.base) (sites : t.sites = s.sites) (egress : t.egress = s.egress) (cmds : t.cmds = s.cmds) :
    RequestStays s t :=
  ⟨base, sites, fun _ he => egress ▸ he, fun c hc => ⟨c, cmds ▸ hc, rfl⟩⟩

theorem refl (s : State) : RequestStays s s := plain rfl rfl rfl rfl

theorem trans (h : RequestStays s t) (k : RequestStays t u) : RequestStays s u where
  base := k.base.trans h.base
  sites := k.sites.trans h.sites
  out e he := k.out e (h.out e he)
  ids c hc := by
    obtain ⟨d, hd, same⟩ := k.ids c hc
    obtain ⟨e, he, same'⟩ := h.ids d hd
    exact ⟨e, he, same'.trans same⟩

theorem andPlain (h : RequestStays s t) (base : u.base = t.base) (sites : u.sites = t.sites) (egress : u.egress = t.egress)
    (cmds : u.cmds = t.cmds) : RequestStays s u := h.trans (plain base sites egress cmds)

theorem foldl {α : Type} {f : State → α → State} (step : ∀ s x, RequestStays s (f s x)) : ∀ (l : List α) (s : State), RequestStays s (l.foldl f s)
  | [], s => refl s
  | x :: l, s => (step s x).trans (foldl step l (f s x))

theorem of_onlyMemory : OnlyMemory s t → RequestStays s t := by
  rintro ⟨_, rfl⟩
  exact plain rfl rfl rfl rfl

theorem of_onlyLogged : OnlyLogged s t → RequestStays s t := by
  rintro ⟨_, _, _, _, rfl⟩
  exact plain rfl rfl rfl rfl

theorem withMs (h : RequestStays s t) (ms : MemSys) : RequestStays s { t with ms := ms } := h.andPlain rfl rfl rfl rfl

theorem withFree (h : RequestStays s t) (n : Nat) : RequestStays s { t with freeCtr := n } := h.andPlain rfl rfl rfl rfl

theorem withParts (h : RequestStays s t) (ms : MemSys) (q : Vcc) : RequestStays s { t with ms := ms, vcc := q } := h.andPlain rfl rfl rfl rfl

theorem pending (h : RequestStays s t) : t.pending = s.pending := congrArg (·.1) h.base
theorem dev (h : RequestStays s t) : t.dev = s.dev := congrArg (·.2.1) h.base
theorem hub (h : RequestStays s t) : t.hub = s.hub := congrArg (·.2.2.1) h.base
theorem svc (h : RequestStays s t) : t.svc = s.svc := congrArg (·.2.2.2.1) h.base
theorem comp (h : RequestStays s t) : t.comp = s.comp := congrArg (·.2.2.2.2.1) h.base
theorem pwr (h : RequestStays s t) : t.pwr = s.pwr := congrArg (·.2.2.2.2.2.1) h.base
theorem wear (h : RequestStays s t) : t.wear = s.wear := congrArg (·.2.2.2.2.2.2.1) h.base
theorem mgc (h : RequestStays s t) : t.mgc = s.mgc := congrArg (·.2.2.2.2.2.2.2.1) h.base
theorem settled (h : RequestStays s t) : t.tlc.settled = s.tlc.settled := congrArg (·.2.2.2.2.2.2.2.2) h.base

theorem pair (h : RequestStays s t) : t.tlc.pair = s.tlc.pair := (congrArg Tlc.pair h.settled :)
theorem tstate (h : RequestStays s t) : t.tlc.tstate = s.tlc.tstate := (congrArg Tlc.tstate h.settled :)
theorem mctxs (h : RequestStays s t) : t.tlc.mctxs = s.tlc.mctxs := (congrArg Tlc.mctxs h.settled :)
theorem mconns (h : RequestStays s t) : t.tlc.mconns = s.tlc.mconns := (congrArg Tlc.mconns h.settled :)
theorem twinAddrs (h : RequestStays s t) : t.tlc.twinAddrs = s.tlc.twinAddrs := (congrArg Tlc.twinAddrs h.settled :)

end RequestStays

/-! Single changes. -/

theorem setCtx_stays (s : State) (x : Ctx) : RequestStays s (s.setCtx x) := .plain rfl rfl rfl rfl
theorem updConn_stays (s : State) (n : Nat) (f : Conn → Conn) : RequestStays s (s.updConn n f) := .plain rfl rfl rfl rfl
theorem addCtx_stays (s : State) (l : List Ctx) : RequestStays s { s with ctxs := l } := .plain rfl rfl rfl rfl

theorem emits_stays (s : State) (es : List Egress) : RequestStays s (s.emits es) :=
  ⟨rfl, rfl, fun _ he => List.mem_append_left _ he, fun c hc => ⟨c, hc, rfl⟩⟩

theorem emit_stays (s : State) (e : Egress) : RequestStays s (s.emit e) := emits_stays s [e]

theorem updCmd_stays (s : State) (n : Nat) {f : Cmd → Cmd} (keep : ∀ d, (f d).id = d.id) : RequestStays s (s.updCmd n f) := by
  refine ⟨rfl, rfl, fun _ he => he, fun c hc => ?_⟩
  obtain ⟨d, hd, rfl⟩ := List.mem_map.mp hc
  refine ⟨d, hd, ?_⟩
  split
  · exact (keep d).symm
  · rfl

theorem dropCmd_stays (s : State) (n : Nat) : RequestStays s (s.dropCmd n) :=
  ⟨rfl, rfl, fun _ he => he, fun c hc => ⟨c, (List.mem_filter.mp hc).1, rfl⟩⟩

theorem writeAll_stays (cmd : Nat) (hub : Bool) (all ws : List (Nat × Byte)) (s : State) : RequestStays s (writeAll cmd hub all ws s).1 :=
  .of_onlyMemory (writeAll_onlyMemory cmd hub all ws s)

/-! Commands that stop (R276, R306). -/

theorem during_stays (s : State) (c : Cmd) {f : State → State} (h : ∀ t, RequestStays t (f t)) : RequestStays s (s.during c f) :=
  have first : RequestStays s (s.accessing c) := .plain rfl rfl rfl rfl
  (first.trans (h _)).andPlain rfl rfl rfl rfl

theorem failHeld_stays (s : State) (c : Cmd) (e : Err) : RequestStays s (failHeld s c e) :=
  (RequestStays.of_onlyLogged (captureFault_onlyLogged s c e)).trans (updCmd_stays _ _ fun _ => rfl)

theorem retryHeld_stays (s : State) (h : Held) : RequestStays s (retryHeld s h) := by
  unfold retryHeld
  split
  · exact .refl s
  · next c _ =>
    refine during_stays s c fun t => ?_
    have written := writeAll_stays h.cmd (isHub c.opcode) h.writes h.writes t
    split
    · next eq =>
      rw [eq] at written
      exact written
    · next eq =>
      rw [eq] at written
      exact written.trans (failHeld_stays _ c _)

theorem serveLock_stays (old : Nat) : ∀ (fuel : Nat) (s : State), RequestStays s (serveLock old fuel s)
  | 0, s => .refl s
  | fuel + 1, s => by
      have memory (ms : MemSys) : RequestStays s { s with ms := ms } := .plain rfl rfl rfl rfl
      unfold serveLock
      split
      · exact .refl s
      · exact ((memory _).trans (retryHeld_stays _ _)).trans (serveLock_stays old fuel _)
      · split
        · split
          · exact memory _
          · exact ((memory _).trans (failHeld_stays _ _ _)).trans (serveLock_stays old fuel _)
          · exact (memory _).trans (serveLock_stays old fuel _)
        · exact ((memory _).trans (retryHeld_stays _ _)).trans (serveLock_stays old fuel _)

theorem releaseHeld_stays (s : State) (cmd : Nat) : RequestStays s (releaseHeld s cmd) :=
  ((RequestStays.refl s).withMs _).trans (.foldl (fun t old => serveLock_stays old _ t) _ _)

theorem dropParts_stays (s : State) (id : Nat) (ks : List Nat) : RequestStays s (dropParts s id ks) :=
  (RequestStays.foldl (fun t k => .plain (t := returnCredit t id k) rfl rfl rfl rfl) ks s).trans (updCmd_stays _ _ fun _ => rfl)

/-- A command is discarded in a state that its parts and held writes have left. -/
theorem discardCmd_drops (s : State) (c : Cmd) : ∃ t ms q, RequestStays s t ∧ discardCmd s c = { t.dropCmd c.id with ms := ms, vcc := q } := by
  unfold discardCmd
  extract_lets s1 s2 q
  have dropped : RequestStays s s1 := dropParts_stays s _ _
  have freed : RequestStays s1 (freeReleased s1 c.id) := (RequestStays.refl s1).withMs _
  exact ⟨s2, _, _, (dropped.trans freed).trans (releaseHeld_stays _ c.id), rfl⟩

theorem discardCmd_stays (s : State) (c : Cmd) : RequestStays s (discardCmd s c) := by
  obtain ⟨t, ms, q, before, drops⟩ := discardCmd_drops s c
  rw [drops]
  exact (before.trans (dropCmd_stays t c.id)).withParts ms q

theorem scrambleCore_stays (s : State) (c : Cmd) : RequestStays s (scrambleCore s c) :=
  ((RequestStays.refl s).withFree _).trans (writeAll_stays _ _ _ _ _)

theorem stopScatter_stays (s : State) (c : Cmd) : RequestStays s (stopScatter s c) := by
  unfold stopScatter
  have body : RequestStays s (kvBody s c).1 := .of_onlyMemory (kvBody_onlyMemory s c)
  split
  · next eq =>
    rw [eq] at body
    exact (body.withFree _).trans (writeAll_stays _ _ _ _ _)
  · exact .refl s

theorem leaveHalf_stays (s : State) (c : Cmd) : RequestStays s (leaveHalf s c) := by
  unfold leaveHalf
  split
  · exact .refl s
  · split
    · exact stopScatter_stays s c
    · exact scrambleCore_stays s c

theorem stopCmd_stays (s : State) (c : Cmd) (r : Res) : RequestStays s (stopCmd s c r) := by
  unfold stopCmd
  extract_lets waiting
  split
  · exact discardCmd_stays s c
  · split
    · exact ((leaveHalf_stays s c).trans (dropParts_stays _ _ _)).trans (updCmd_stays _ _ fun _ => rfl)
    · exact dropParts_stays s _ _

/-! Records, completions and the updates they send (R268, R273, R363). -/

theorem repin_stays (s : State) : RequestStays s (repin s) := .plain rfl rfl rfl rfl

theorem settlePins_stays (s : State) : RequestStays s (settlePins s) := .plain rfl rfl rfl rfl

theorem sendMirror_stays (s : State) (us : List Mirror) : RequestStays s (sendMirror s us) :=
  have sent (t : State) (u : Mirror) : RequestStays t { t.emit (.mirror (t.tlc.sendSeq + 1) u) with tlc := { t.tlc with sendSeq := t.tlc.sendSeq + 1 } } :=
    (emit_stays t _).andPlain rfl rfl rfl rfl
  .foldl sent us s

theorem closeCtx_stays (s : State) (n : Nat) : RequestStays s (closeCtx s n) :=
  RequestStays.trans (t := { s.dropCtx n with ms := dropScratch s.ms (keptKey n), holds := s.holds.filter (fun h => h.ctx != n) })
    (.plain rfl rfl rfl rfl) (settlePins_stays _)

theorem sendRecord_stays (s : State) (c : Conn) (h : HeldRec) : RequestStays s (sendRecord s c h) := by
  unfold sendRecord
  extract_lets s1 s2
  have told : RequestStays s s2 := by
    simp only [s2]
    split
    · exact (emit_stays s _).trans (emit_stays s1 _)
    · exact emit_stays s _
  split
  · exact told.trans (closeCtx_stays s2 _)
  · exact told

theorem writeOne_stays (s : State) (c : Conn) (o : OutRec) : RequestStays s (writeOne s c o) := by
  unfold writeOne
  simp only
  split
  · exact (updConn_stays s _ _).trans ((sendMirror_stays _ _).trans (.plain rfl rfl rfl rfl))
  · split
    · exact (updConn_stays s _ _).trans (sendRecord_stays _ _ _)
    · split
      · exact (updConn_stays s _ _).trans (closeCtx_stays _ _)
      · exact updConn_stays s _ _

theorem drainLoop_stays : ∀ (n conn : Nat) (s : State), RequestStays s (drainLoop n conn s)
  | 0, _, s => RequestStays.refl s
  | n + 1, conn, s => by
      unfold drainLoop
      split
      · exact RequestStays.refl s
      · split
        · exact RequestStays.refl s
        · split
          · exact (writeOne_stays s _ _).trans (drainLoop_stays n conn _)
          · exact RequestStays.refl s

theorem drain_stays (s : State) (conn : Nat) : RequestStays s (drain s conn) := drainLoop_stays _ conn s

theorem enqueue_stays (s : State) (conn : Nat) (o : OutRec) : RequestStays s (enqueue s conn o) :=
  (updConn_stays s conn _).trans (drainLoop_stays _ _ _)

theorem complete_stays (s : State) (x : Ctx) (r : Res) : RequestStays s (complete s x r) := by
  unfold complete
  split
  · exact closeCtx_stays s _
  · exact (setCtx_stays s _).trans (enqueue_stays _ _ _)

theorem releaseRecord_stays (s : State) (conn seq : Nat) : RequestStays s (releaseRecord s conn seq) := by
  unfold releaseRecord
  split
  · exact RequestStays.refl s
  · split
    · exact RequestStays.refl s
    · extract_lets s1
      have h1 : RequestStays s s1 := updConn_stays s _ _
      split
      · exact h1.trans (sendRecord_stays s1 _ _)
      · exact h1

theorem stopCtx_stays (s : State) (n : Nat) (r : Res) : RequestStays s (stopCtx s n r) := by
  unfold stopCtx
  split
  · exact RequestStays.refl s
  · split
    · exact complete_stays s _ _
    · exact complete_stays s _ _
    · exact (setCtx_stays s _).trans (RequestStays.foldl (fun t c => stopCmd_stays t c r) _ _)
    · exact setCtx_stays s _
    · exact RequestStays.refl s

theorem issueReads_stays (n : Nat) : ∀ (fuel : Nat) (s : State), RequestStays s (issueReads n fuel s)
  | 0, s => RequestStays.refl s
  | fuel + 1, s => by
      unfold issueReads
      split
      · exact RequestStays.refl s
      · split
        · exact RequestStays.refl s
        · split
          · exact RequestStays.refl s
          · exact ((setCtx_stays s _).trans (emit_stays _ _)).trans (issueReads_stays n fuel _)

theorem beginReads_stays (s : State) (x : Ctx) (es : List Entry) : RequestStays s (beginReads s x es) :=
  (setCtx_stays s _).trans (issueReads_stays _ _ _)

theorem readsDone_stays (s : State) (x : Ctx) : RequestStays s (readsDone s x) := (setCtx_stays s _).trans (emits_stays _ _)

theorem takeInstance_stays (s : State) (n : Nat) : RequestStays s (takeInstance s n) := by
  unfold takeInstance
  split
  · exact RequestStays.refl s
  · split
    · exact RequestStays.refl s
    · split
      · exact RequestStays.refl s
      · exact setCtx_stays s _

theorem pinCtx_stays (s : State) (n : Nat) : RequestStays s (pinCtx s n) := by
  unfold pinCtx
  split
  · exact RequestStays.refl s
  · split
    · exact RequestStays.refl s
    · split
      · exact complete_stays s _ _
      · exact (setCtx_stays s _).trans (repin_stays _)

theorem admitCtx_stays (s : State) (n : Nat) : RequestStays s (admitCtx s n) := (pinCtx_stays s n).trans (takeInstance_stays _ n)

theorem endHold_stays (s : State) (ctx : Nat) : RequestStays s (endHold s ctx) := by
  unfold endHold
  extract_lets s1
  have h1 : RequestStays s s1 := .plain rfl rfl rfl rfl
  exact h1.trans (RequestStays.foldl pinCtx_stays _ s1)

theorem leaveSlots_stays (s : State) (c : Conn) (n serial : Nat) : RequestStays s (leaveSlots s c n serial) := updConn_stays s _ _

theorem openItem_stays (s : State) (c : Conn) (descs : List Unit64) : RequestStays s (openItem s c descs) := by
  unfold openItem
  extract_lets n x src s1 reading g wide
  have h0 : RequestStays s src := leaveSlots_stays s c _ _
  have h1 : RequestStays s s1 := h0.andPlain rfl rfl rfl rfl
  have hr : RequestStays s reading := h1.trans (beginReads_stays s1 x _)
  split
  · exact h1.trans (complete_stays s1 x _)
  · split
    · exact h1.trans (admitCtx_stays s1 n)
    · split
      · exact hr.andPlain rfl rfl rfl rfl
      · split
        · exact hr
        · exact h1

theorem stopReq_stays (s : State) (n : Nat) (r : Res) : RequestStays s (stopReq s n r) := by
  unfold stopReq
  split
  · exact RequestStays.refl s
  · split
    · exact stopCtx_stays s n r
    · split
      · exact setCtx_stays s _
      · refine RequestStays.trans ?_ (endHold_stays _ n)
        refine RequestStays.trans ?_ (complete_stays _ _ r)
        exact .plain rfl rfl rfl rfl

/-! The rows that may wait for the twin (R364). -/

theorem hubFault_stays (s : State) (e : Err) : RequestStays s (hubFault s e) := .of_onlyLogged (captureFault_onlyLogged s _ e)

theorem doorbellRow_stays (conn : Nat) (slots : List (Nat × Unit64)) (t h : Option Nat) (s : State) :
    RequestStays s (doorbellRow conn slots t h s) := by
  unfold doorbellRow
  split
  · exact RequestStays.refl s
  · split
    · exact RequestStays.refl s
    · exact (updConn_stays s _ _).trans (drain_stays _ _)

theorem runGraphRow_stays (ctx : Nat) (s : State) : RequestStays s (runGraphRow ctx s) := by
  unfold runGraphRow
  split
  · exact RequestStays.refl s
  · split
    · split
      · exact RequestStays.refl s
      · extract_lets es regs regs'
        split
        · exact complete_stays s _ _
        · exact beginReads_stays s _ _
    · exact RequestStays.refl s

theorem inputsPlacedRow_stays (ctx : Nat) (data : List (List Byte)) (s : State) : RequestStays s (inputsPlacedRow ctx data s) := by
  unfold inputsPlacedRow
  split
  · exact RequestStays.refl s
  · rename_i x _
    split
    · exact RequestStays.refl s
    · split
      · exact RequestStays.refl s
      · extract_lets ws
        have k : RequestStays s (writeAll 0 true ws ws (readsDone s x)).1 := (readsDone_stays s x).trans (writeAll_stays _ _ _ _ _)
        split
        · rename_i s1 e hw
          rw [hw] at k
          exact (k.trans (hubFault_stays s1 e)).trans (complete_stays _ _ _)
        · rename_i s1 hw
          rw [hw] at k
          exact k.trans (setCtx_stays s1 _)

theorem graphEndRow_stays (ctx : Nat) (s : State) : RequestStays s (graphEndRow ctx s) := by
  unfold graphEndRow
  split
  · exact RequestStays.refl s
  · split
    · exact RequestStays.refl s
    · split
      · exact RequestStays.refl s
      · extract_lets x
        clear_value x
        split
        · exact complete_stays s _ _
        · split
          · exact (hubFault_stays s _).trans (complete_stays _ _ _)
          · exact (setCtx_stays s _).trans (emits_stays _ _)

theorem outputsAcknowledgedRow_stays (ctx : Nat) (s : State) : RequestStays s (outputsAcknowledgedRow ctx s) := by
  unfold outputsAcknowledgedRow
  split
  · exact RequestStays.refl s
  · split
    · exact complete_stays s _ _
    · exact RequestStays.refl s

theorem withRequest_stays (src : ReqSrc) (typ : Nat) (s : State) (f : State → Ctx → State) (h : ∀ t x, RequestStays t (f t x)) :
    RequestStays s (withRequest src typ s f) := by
  unfold withRequest
  split
  · split
    · exact RequestStays.refl s
    · split
      · exact h s _
      · exact RequestStays.refl s
  · split
    · exact RequestStays.refl s
    · extract_lets d t small n x
      split
      · exact RequestStays.refl s
      · split
        · split
          · exact updConn_stays s _ _
          · exact emit_stays s _
        · split
          · exact (addCtx_stays s _).trans (h _ x)
          · exact enqueue_stays s _ _

theorem completeOk_stays (s : State) (x : Ctx) (detail : Nat) : RequestStays s (completeOk s x detail) := complete_stays s _ _

theorem abortRow_stays (src : ReqSrc) (s : State) : RequestStays s (abortRow src s) :=
  withRequest_stays src 5 s _ (fun t _ => (RequestStays.foldl (fun u n => stopReq_stays u n _) _ t).trans (completeOk_stays _ _ _))

theorem flushRow_stays (src : ReqSrc) (s : State) : RequestStays s (flushRow src s) := by
  refine withRequest_stays src 6 s _ (fun t x => ?_)
  split
  · exact RequestStays.refl t
  · extract_lets r s1 s2 s3 waiting s4 s5
    have h1 : RequestStays t s1 := updConn_stays t _ _
    have h2 : RequestStays t s2 := h1.trans (RequestStays.foldl (fun u _ => enqueue_stays u _ _) _ s1)
    clear_value s2
    have h3 : RequestStays t s3 := by
      simp only [s3]
      split
      · exact h2
      · exact h2.trans (enqueue_stays s2 _ _)
    have h4 : RequestStays t s4 := h3.trans (RequestStays.foldl (fun u n => stopReq_stays u n _) _ s3)
    clear_value s4
    have h5 : RequestStays t s5 := by
      simp only [s5]
      split
      · exact h4.trans (RequestStays.foldl (fun u n => stopReq_stays u n _) _ s4)
      · exact h4
    exact h5.trans (completeOk_stays s5 _ _)

theorem writeResult_stays (s : State) (x : Ctx) (bytes : List Byte) : RequestStays s (writeResult s x bytes) := by
  unfold writeResult
  split
  · exact RequestStays.refl s
  · exact (setCtx_stays s _).trans (emit_stays _ _)

theorem queryRow_stays (src : ReqSrc) (s : State) : RequestStays s (queryRow src s) := by
  refine withRequest_stays src 8 s _ (fun t x => ?_)
  split
  · exact RequestStays.refl t
  · exact writeResult_stays t x _

theorem queryPlanRow_stays (src : ReqSrc) (s : State) : RequestStays s (queryPlanRow src s) := by
  refine withRequest_stays src 7 s _ (fun t x => ?_)
  extract_lets d gid off
  split
  · exact complete_stays t x _
  · extract_lets us
    clear_value us
    split
    · exact complete_stays t x _
    · extract_lets y
      split
      · exact complete_stays t x _
      · split
        · exact writeResult_stays t x _
        · exact complete_stays t x _
        · exact complete_stays t x _

theorem consumeRow_stays (conn : Nat) (s : State) : RequestStays s (consumeRow conn s) := by
  unfold consumeRow
  split
  · exact RequestStays.refl s
  · split
    · exact RequestStays.refl s
    · extract_lets d n k
      split
      · split
        · exact RequestStays.refl s
        · split
          · exact openItem_stays s _ _
          · exact (leaveSlots_stays s _ _ _).trans (enqueue_stays _ _ _)
      · exact (updConn_stays s _ _).trans (enqueue_stays _ _ _)

theorem sendRow_stays (conn : Nat) (descs : List Unit64) (s : State) : RequestStays s (sendRow conn descs s) := by
  unfold sendRow
  split
  · exact flushRow_stays _ s
  · exact queryPlanRow_stays _ s
  · exact queryRow_stays _ s
  · exact abortRow_stays _ s

theorem itemConsumeRow_stays (conn : Nat) (s : State) : RequestStays s (itemConsumeRow conn s) := by
  unfold itemConsumeRow
  split
  · exact RequestStays.refl s
  · split
    · exact consumeRow_stays conn s
    · split
      · exact (updConn_stays s _ _).trans (sendRow_stays _ _ _)
      · exact RequestStays.refl s

theorem sendRep_stays (s : State) (c : Conn) : RequestStays s (sendRep s c) := by
  unfold sendRep
  extract_lets d s1
  have h1 : RequestStays s s1 := (updConn_stays s _ _).trans (emit_stays _ _)
  exact h1.andPlain rfl rfl rfl rfl

theorem joinRow_stays (k : Nat) (q : CmReq) (s : State) : RequestStays s (joinRow k q s) := by
  unfold joinRow
  split
  · exact emit_stays s _
  · split
    · exact (updConn_stays s _ _).trans (emit_stays _ _)
    · exact emit_stays s _

theorem connectionSetupRow_stays (q : CmReq) (s : State) : RequestStays s (connectionSetupRow q s) := by
  unfold connectionSetupRow
  split
  · exact RequestStays.refl s
  · split
    · exact joinRow_stays _ q s
    · split
      · exact RequestStays.refl s
      · split
        · extract_lets id c
          refine RequestStays.trans ?_ (sendRep_stays _ c)
          exact .plain rfl rfl rfl rfl
        · exact emit_stays s _

theorem resumeRow_stays (q : CmReq) (s : State) : RequestStays s (resumeRow q s) := by
  unfold resumeRow
  split
  · exact RequestStays.refl s
  · split
    · split
      · exact emit_stays s _
      · extract_lets d s1 due
        have h1 : RequestStays s s1 := (updConn_stays s _ _).trans (sendRep_stays _ d)
        exact (h1.trans (emits_stays s1 _)).trans (drain_stays _ _)
    · exact emit_stays s _

theorem closeConn_stays (s : State) (conn : Nat) : RequestStays s (closeConn s conn) := by
  unfold closeConn
  split
  · exact RequestStays.refl s
  · extract_lets s1
    have h1 : RequestStays s s1 :=
      RequestStays.trans (t := { s with conns := s.conns.filter (fun c => c.id != conn) }) (.plain rfl rfl rfl rfl) (emit_stays _ _)
    refine h1.trans (RequestStays.foldl (fun t x => ?_) _ s1)
    split
    · exact stopCtx_stays t _ _
    · exact (closeCtx_stays t _).trans (endHold_stays _ _)

theorem connectionCloseRow_stays (conn : Nat) (s : State) : RequestStays s (connectionCloseRow conn s) := by
  unfold connectionCloseRow
  split
  · split
    · exact closeConn_stays s conn
    · exact RequestStays.refl s
  · exact RequestStays.refl s

theorem connectionExpiryRow_stays (conn : Nat) (s : State) : RequestStays s (connectionExpiryRow conn s) := by
  unfold connectionExpiryRow
  split
  · split
    · exact RequestStays.refl s
    · exact closeConn_stays s conn
  · exact RequestStays.refl s

end Sys2Proof.Machine

namespace Sys2Proof.Machine

/-! What comes of itself in an idle cycle (log 49). -/

theorem logError_stays (s : State) (p c t r d : Nat) : RequestStays s (s.logError p c t r d) := .of_onlyLogged (logError_onlyLogged s p c t r d)

theorem lsmError_stays (s : State) (n at' : Nat) : RequestStays s (lsmError s n at') := by
  unfold lsmError
  split
  · exact logError_stays s _ _ _ _ _
  · exact .refl s

theorem cscError_stays (s : State) (cl at' : Nat) (double : Bool) : RequestStays s (cscError s cl at' double) := by
  unfold cscError
  extract_lets c
  split
  · split
    · exact .refl s
    · extract_lets s1
      have logged : RequestStays s s1 := logError_stays s _ _ _ _ _
      split
      · exact logged.andPlain rfl rfl rfl rfl
      · exact logged
  · exact .refl s

theorem hsrDouble_stays (s : State) (place which : Nat) : RequestStays s (hsrDouble s place which) := by
  unfold hsrDouble
  extract_lets pa
  split
  · split
    · exact .refl s
    · exact logError_stays s _ _ _ _ _
  · exact (logError_stays s _ _ _ _ _).withMs _
  · split
    · exact (logError_stays s _ _ _ _ _).trans (updConn_stays _ _ _)
    · exact .refl s
  · split
    · exact (logError_stays s _ _ _ _ _).trans (stopReq_stays _ _ _)
    · exact .refl s

theorem hsrError_stays (s : State) (double : Bool) (place which : Nat) : RequestStays s (hsrError s double place which) := by
  unfold hsrError
  split
  · exact .refl s
  · split
    · exact hsrDouble_stays s place which
    · exact logError_stays s _ _ _ _ _

theorem stackError_stays (s : State) (at' die n : Nat) : RequestStays s (stackError s at' die n) := by
  unfold stackError
  extract_lets line p e
  split
  · exact (logError_stays s _ _ _ _ _).andPlain rfl rfl rfl rfl
  · exact .refl s

theorem capError_stays (s : State) (at' kind : Nat) : RequestStays s (capError s at' kind) := by
  unfold capError
  extract_lets size line log
  have logged (t : State) (pa : Nat) : RequestStays t (log t pa) := logError_stays t _ _ _ _ _
  split
  · exact .refl s
  · split
    · exact logged s _
    · split
      · exact .refl s
      · exact (logged s _).withMs _
    · split
      · exact (logged s _).withMs _
      · exact .refl s

theorem ecnMark_stays (s : State) (which : Nat) : RequestStays s (ecnMark s which) := by
  unfold ecnMark
  split
  · split
    · exact emit_stays s _
    · exact .refl s
  · exact .refl s

theorem ambient_stays (s : State) : RequestStays s (ambient s) := by
  unfold ambient
  extract_lets a s0
  have taken : RequestStays s s0 := (RequestStays.refl s).withFree _
  split
  · exact taken.trans (lsmError_stays s0 _ _)
  · exact taken.trans (cscError_stays s0 _ _ _)
  · exact taken.trans (cscError_stays s0 _ _ _)
  · exact taken.trans (hsrError_stays s0 _ _ _)
  · exact taken.trans (hsrError_stays s0 _ _ _)
  · exact taken.trans (stackError_stays s0 _ _ _)
  · exact taken.trans (capError_stays s0 _ _)
  · exact taken.trans (ecnMark_stays s0 _)
  · exact taken

/-- Settles O2: time passes first; what comes of itself after it is work of requests or a log entry. -/
theorem idleStepAdvancesDeviceTime : Obligations.IdleStepAdvancesDeviceTime := by
  intro s idle
  rw [step_idle idle]
  refine ⟨fun low => congrArg Host.Outcome.next (if_pos low), fun up => ?_⟩
  have cycle : idleCycle s = ambient (idleTick s) := if_neg (by simp [up])
  have tick : idleTick s = { s with dev := { s.dev with timeNs := s.dev.timeNs + (if s.dev.clkLock.getLsbD 13 then 20 else 40) } } :=
    if_neg (by simp [up])
  rw [cycle, tick]
  generalize (if s.dev.clkLock.getLsbD 13 then 20 else 40) = ns
  have stays := ambient_stays { s with dev := { s.dev with timeNs := s.dev.timeNs + ns } }
  refine Gives.next ⟨?_, ?_, stays.pending.trans idle, stays.pwr, stays.mgc, stays.wear, stays.sites, stays.pair⟩
  · rw [stays.dev]
  · rw [stays.dev]

end Sys2Proof.Machine

namespace Sys2Proof.Machine

/-! What stopping work leaves of the islands (R381). -/

/-- The device, and the HUB, SERVICE and COMPUTE islands. -/
def State.islands (s : State) := (s.dev, s.hub, s.svc, s.comp)

/-- From `s` to `t` the device and those islands stay. -/
structure IslandsStay (s t : State) : Prop where
  same : t.islands = s.islands

namespace IslandsStay
variable {s t u : State}

theorem refl (s : State) : IslandsStay s s := ⟨rfl⟩

theorem trans (h : IslandsStay s t) (k : IslandsStay t u) : IslandsStay s u := ⟨k.same.trans h.same⟩

theorem foldl {α : Type} {f : State → α → State} (step : ∀ s x, IslandsStay s (f s x)) : ∀ (l : List α) (s : State), IslandsStay s (l.foldl f s)
  | [], s => refl s
  | x :: l, s => (step s x).trans (foldl step l (f s x))

theorem of_stays (h : RequestStays s t) : IslandsStay s t := by
  constructor
  rw [State.islands, h.dev, h.hub, h.svc, h.comp, State.islands]

theorem of_worksFor {id : Nat} (h : WorksFor id s t) : IslandsStay s t := by
  obtain ⟨_, _, _, _, _, _, _, _, _, _, rfl⟩ := h.frame
  exact ⟨rfl⟩

theorem of_onlyLogged (h : OnlyLogged s t) : IslandsStay s t := of_stays (.of_onlyLogged h)

theorem dev (h : IslandsStay s t) : t.dev = s.dev := congrArg (·.1) h.same
theorem hub (h : IslandsStay s t) : t.hub = s.hub := congrArg (·.2.1) h.same
theorem svc (h : IslandsStay s t) : t.svc = s.svc := congrArg (·.2.2.1) h.same
theorem comp (h : IslandsStay s t) : t.comp = s.comp := congrArg (·.2.2.2) h.same

end IslandsStay

theorem updCmd_islandsStay (s : State) (n : Nat) (f : Cmd → Cmd) : IslandsStay s (s.updCmd n f) := ⟨rfl⟩

theorem scrambleOut_islandsStay (s : State) (c : Cmd) : IslandsStay s (scrambleOut s c) :=
  .of_stays (((RequestStays.refl s).withFree _).trans (writeAll_stays _ _ _ _ _))

theorem during_islandsStay (s : State) (c : Cmd) {f : State → State} (h : ∀ t, IslandsStay t (f t)) : IslandsStay s (s.during c f) :=
  have first : IslandsStay s (s.accessing c) := ⟨rfl⟩
  ⟨(first.trans (h _)).same⟩

theorem emits_islandsStay (s : State) (es : List Egress) : IslandsStay s (s.emits es) := ⟨rfl⟩

theorem moveData_islandsStay (s : State) (c : Cmd) (k : Coll) : IslandsStay s (moveData s c k) := by
  unfold moveData
  extract_lets x need s1 fails fre s2 s3
  have counted : IslandsStay s s2 := ⟨rfl⟩
  have logged : IslandsStay s s3 := counted.trans (.foldl (fun t f => .of_stays (logError_stays t _ _ _ _ _)) _ s2)
  split
  · exact ((logged.trans (scrambleOut_islandsStay s3 c)).trans (emits_islandsStay _ _)).trans (updCmd_islandsStay _ _ _)
  · refine logged.trans (during_islandsStay s3 c fun t => ?_)
    split
    · exact (IslandsStay.of_onlyLogged (captureFault_onlyLogged t c _)).trans (updCmd_islandsStay _ _ _)
    · exact ((emits_islandsStay t _).trans (.of_worksFor (applyOut_worksFor _ c true _))).trans (updCmd_islandsStay _ _ _)

theorem takeSlots_islandsStay (s : State) (c : Cmd) (k : Coll) : IslandsStay s (takeSlots s c k) := by
  unfold takeSlots
  split
  · exact moveData_islandsStay s c k
  · exact updCmd_islandsStay s _ _

theorem judge_islandsStay (s : State) (g t : Nat) : IslandsStay s (judge s g t) := by
  unfold judge
  split
  · exact .refl s
  · split
    · exact .refl s
    · extract_lets ds val agree
      split
      · exact ⟨rfl⟩
      · exact .refl s

theorem sendDigest_islandsStay (s : State) (x : Col) (own : List Nat) (g t rank : Nat) (v : DWord) :
    IslandsStay s (sendDigest s x own g t rank v) := by
  unfold sendDigest
  split
  · exact IslandsStay.trans (t := putDigest s ⟨g, t, rank, v⟩) ⟨rfl⟩ (judge_islandsStay _ g t)
  · exact ⟨rfl⟩

theorem beginColl_islandsStay (s : State) (c : Cmd) : IslandsStay s (beginColl s c) := by
  unfold beginColl
  dsimp only
  split
  · split
    · exact updCmd_islandsStay s _ _
    · exact takeSlots_islandsStay s c _
  · exact (updCmd_islandsStay s _ _).trans (sendDigest_islandsStay _ _ _ _ _ _ _)

theorem nextColl_islandsStay (s : State) (g t : Nat) (twin : Bool) : IslandsStay s (nextColl s g t twin) := by
  unfold nextColl
  split
  · exact beginColl_islandsStay s _
  · exact .refl s

theorem endHandshake_islandsStay (s : State) (c : Cmd) : IslandsStay s (endHandshake s c) := by
  unfold endHandshake
  split
  · split
    · exact ⟨rfl⟩
    · exact .refl s
  · exact .refl s

theorem leaveColl_islandsStay (s : State) (c : Cmd) : IslandsStay s (leaveColl s c) := by
  unfold leaveColl
  split
  · exact (endHandshake_islandsStay s c).trans (nextColl_islandsStay _ _ _ _)
  · exact .refl s

theorem freeEngine_stays (s : State) (id : Nat) : RequestStays s (freeEngine s id) := .plain rfl rfl rfl rfl

/-- A command that goes with its island: what it had begun is left half done, and it is discarded with its engine. -/
theorem goesWithIsland_stays (s : State) (c : Cmd) : RequestStays s (freeEngine (discardCmd (if begun c then leaveHalf s c else s) c) c.id) := by
  refine RequestStays.trans ?_ ((discardCmd_stays _ c).trans (freeEngine_stays _ _))
  split
  · exact leaveHalf_stays s c
  · exact .refl s

theorem failTile_islandsStay (s : State) (t : Nat) : IslandsStay s (failTile s t) := by
  unfold failTile
  extract_lets hit s1
  refine IslandsStay.trans (.foldl (fun u n => .foldl (fun v c => ?_) _ u) _ s) (.foldl (fun _ _ => by exact ⟨rfl⟩) hit s1)
  split
  · exact (IslandsStay.of_stays (goesWithIsland_stays v c)).trans (leaveColl_islandsStay _ c)
  · exact .of_stays (stopCmd_stays v c _)

/-! A tile goes OFF (R33, R381). -/

/-- Commands, the device and the islands of `State.islands` stay. -/
structure CommandsStay (s t : State) : Prop where
  islands : t.islands = s.islands
  cmds : t.cmds = s.cmds

namespace CommandsStay
variable {s t u : State}

theorem refl (s : State) : CommandsStay s s := ⟨rfl, rfl⟩

theorem trans (h : CommandsStay s t) (k : CommandsStay t u) : CommandsStay s u := ⟨k.islands.trans h.islands, k.cmds.trans h.cmds⟩

theorem foldl {α : Type} {f : State → α → State} (step : ∀ s x, CommandsStay s (f s x)) : ∀ (l : List α) (s : State), CommandsStay s (l.foldl f s)
  | [], s => refl s
  | x :: l, s => (step s x).trans (foldl step l (f s x))

end CommandsStay

theorem siteOff_commandsStay (s : State) (n : Nat) : CommandsStay s (siteOff s n) := by
  unfold siteOff
  extract_lets x y s1
  have off : CommandsStay s s1 := by
    simp only [s1]
    split <;> exact ⟨rfl, rfl⟩
  exact off.trans ⟨rfl, rfl⟩

theorem setEvent_commandsStay (s : State) (p k : Nat) : CommandsStay s (s.setEvent p k) := by
  rw [setEvent_frame]
  exact ⟨rfl, rfl⟩

theorem changeStack_commandsStay (s : State) (t : Nat) (st : PState) : CommandsStay s (changeIsl s (.stack t) st) := by
  unfold changeIsl
  extract_lets x
  split
  · exact .refl s
  · exact CommandsStay.trans (t := s.setIsl (.stack t) { x with state := st }) ⟨rfl, rfl⟩ (.foldl (fun u p => setEvent_commandsStay u p 12) _ _)

/-- SERVICE and COMPUTE of tile `k` are OFF; other islands and the device stay. -/
structure TileDown (s : State) (k : Nat) (t : State) : Prop where
  dev : t.dev = s.dev
  hub : t.hub = s.hub
  svc : t.svc = updAt s.svc k (fun _ => ⟨.off, (s.svcIsl k).epoch⟩)
  comp : t.comp = updAt s.comp k (fun _ => ⟨.off, (s.compIsl k).epoch⟩)

/-- SERVICE and COMPUTE of tile `k` set OFF. -/
def tileDown (s : State) (k : Nat) : State :=
  { s with svc := updAt s.svc k (fun _ => ⟨.off, (s.svcIsl k).epoch⟩), comp := updAt s.comp k (fun _ => ⟨.off, (s.compIsl k).epoch⟩) }

theorem turnOffs_commandsStay (s : State) (k : Nat) : CommandsStay (tileDown s k) (turnOff (turnOff s (.service k)) (.compute k)) := ⟨rfl, rfl⟩

theorem noteStale_commandsStay (s : State) (ms : MemSys) : CommandsStay s (noteStale { s with ms := ms }) := ⟨rfl, rfl⟩

/-- What follows the work of a tile when it goes OFF. -/
theorem tileOff_frame (s : State) (k : Nat) : ∃ u, CommandsStay (failTile s k) u ∧
    CommandsStay (tileDown u k) (tileOff s k) := by
  unfold tileOff
  extract_lets s1 s2 s3 s4 s5
  have sites : CommandsStay s1 s2 := .foldl (fun u n => siteOff_commandsStay u _) _ s1
  have clusters : CommandsStay s2 s3 := .foldl (fun _ _ => by exact ⟨rfl, rfl⟩) _ s2
  have stack : CommandsStay s4 s5 := by
    simp only [s5]
    split
    · exact changeStack_commandsStay s4 k _
    · exact .refl s4
  exact ⟨s3, sites.trans clusters, ((turnOffs_commandsStay s3 k).trans stack).trans (noteStale_commandsStay s5 _)⟩

theorem tileOff_down (s : State) (k : Nat) : TileDown s k (tileOff s k) := by
  obtain ⟨u, before, after⟩ := tileOff_frame s k
  have work : IslandsStay s u := (failTile_islandsStay s k).trans ⟨before.islands⟩
  have last : IslandsStay _ (tileOff s k) := ⟨after.islands⟩
  refine ⟨last.dev.trans work.dev, last.hub.trans work.hub, last.svc.trans ?_, last.comp.trans ?_⟩
  · simp only [tileDown, State.svcIsl, work.svc]
  · simp only [tileDown, State.compIsl, work.comp]

theorem failTile_none {s : State} (none' : s.cmds = []) (k : Nat) : failTile s k = s := by simp [failTile, none']

theorem tileOff_none {s : State} (none' : s.cmds = []) (k : Nat) : (tileOff s k).cmds = [] := by
  obtain ⟨u, before, after⟩ := tileOff_frame s k
  rw [failTile_none none'] at before
  exact after.cmds.trans (before.cmds.trans none')

/-- An island of a list is OFF once its place is set OFF, and one that was OFF stays so. -/
theorem updAt_off {l : List Isl} {i k : Nat} {x : Isl} (off : x.state = .off) (down : k = i ∨ (l.getD k Isl.reset).state = .off) :
    ((updAt l i (fun _ => x)).getD k Isl.reset).state = .off := by
  by_cases at' : k = i
  · subst at'
    rw [List.getD_eq_getElem?_getD, updAt_getElem?, if_pos rfl]
    cases l[k]? with
    | none => rfl
    | some y => exact off
  · rw [updAt_getD_ne _ at']
    exact down.resolve_left at'

section
variable {s t : State} {k : Nat} (down : TileDown s k t)
include down

theorem TileDown.svcOff {j : Nat} (off : j = k ∨ (s.svcIsl j).state = .off) : (t.svcIsl j).state = .off := by
  rw [State.svcIsl, down.svc]
  exact updAt_off rfl off

theorem TileDown.compOff {j : Nat} (off : j = k ∨ (s.compIsl j).state = .off) : (t.compIsl j).state = .off := by
  rw [State.compIsl, down.comp]
  exact updAt_off rfl off

theorem TileDown.svcOther {j : Nat} (other : j ≠ k) : t.svcIsl j = s.svcIsl j := by
  rw [State.svcIsl, down.svc, updAt_getD_ne _ other, State.svcIsl]

end

/-! The HUB goes OFF (R35, R398). -/

/-- The tiles `l` whose SERVICE island was up have gone OFF; no command is left. -/
structure TilesDown (s : State) (l : List Nat) (t : State) : Prop where
  dev : t.dev = s.dev
  hub : t.hub = s.hub
  cmds : s.cmds = [] → t.cmds = []
  svc : ∀ k, k ∈ l ∨ (s.svcIsl k).state = .off → (t.svcIsl k).state = .off
  comp : ∀ k, (k ∈ l ∧ (s.svcIsl k).state ≠ .off) ∨ (s.compIsl k).state = .off → (t.compIsl k).state = .off

theorem tilesOff_down : ∀ (l : List Nat) (s : State),
    TilesDown s l (l.foldl (fun s t => if (s.svcIsl t).state = .off then s else tileOff s t) s)
  | [], s => ⟨rfl, rfl, id, fun k h => h.resolve_left List.not_mem_nil, fun k h => h.resolve_left (fun g => List.not_mem_nil g.1)⟩
  | t :: l, s => by
    rw [List.foldl_cons]
    by_cases off : (s.svcIsl t).state = .off
    · rw [if_pos off]
      obtain ⟨dev, hub, cmds, svc, comp⟩ := tilesOff_down l s
      refine ⟨dev, hub, cmds, fun k h => svc k ?_, fun k h => comp k ?_⟩
      · rcases h with h | h
        · rcases List.mem_cons.mp h with rfl | h
          · exact .inr off
          · exact .inl h
        · exact .inr h
      · rcases h with ⟨h, up⟩ | h
        · rcases List.mem_cons.mp h with rfl | h
          · exact absurd off up
          · exact .inl ⟨h, up⟩
        · exact .inr h
    · rw [if_neg off]
      have down := tileOff_down s t
      obtain ⟨dev, hub, cmds, svc, comp⟩ := tilesOff_down l (tileOff s t)
      refine ⟨dev.trans down.dev, hub.trans down.hub, fun h => cmds (tileOff_none h t), fun k h => svc k ?_, fun k h => comp k ?_⟩
      · rcases h with h | h
        · rcases List.mem_cons.mp h with rfl | h
          · exact .inr (down.svcOff (.inl rfl))
          · exact .inl h
        · exact .inr (down.svcOff (.inr h))
      · by_cases at' : k = t
        · exact .inr (down.compOff (.inl at'))
        · rcases h with ⟨h, up⟩ | h
          · exact .inl ⟨(List.mem_cons.mp h).resolve_left at', by rwa [down.svcOther at']⟩
          · exact .inr (down.compOff (.inr h))

/-- A discarded command is gone, and no command is new. -/
theorem mem_freeEngine_discardCmd {s : State} {c d : Cmd} (mem : c ∈ (freeEngine (discardCmd s d) d.id).cmds) :
    c.id ≠ d.id ∧ ∃ e ∈ s.cmds, e.id = c.id := by
  obtain ⟨t, ms, q, before, drops⟩ := discardCmd_drops s d
  rw [drops] at mem
  obtain ⟨here, other⟩ := List.mem_filter.mp (show c ∈ t.cmds.filter (fun x => x.id != d.id) from mem)
  exact ⟨by simpa using other, before.ids c here⟩

/-- Each command of a list goes with the HUB, and those that stay were there. -/
theorem allGo : ∀ (l : List Cmd) (s : State), (∀ c ∈ s.cmds, ∃ d ∈ l, d.id = c.id) →
    (l.foldl (fun s c => freeEngine (discardCmd (if begun c then leaveHalf s c else s) c) c.id) s).cmds = []
  | [], s, all => List.eq_nil_iff_forall_not_mem.mpr fun c hc => by
    obtain ⟨_, none', -⟩ := all c hc
    exact List.not_mem_nil none'
  | d :: l, s, all => by
    refine allGo l _ fun c hc => ?_
    obtain ⟨other, e, he, same⟩ := mem_freeEngine_discardCmd hc
    have half : RequestStays s (if begun d then leaveHalf s d else s) := by
      split
      · exact leaveHalf_stays s d
      · exact .refl s
    obtain ⟨f, hf, same'⟩ := half.ids e he
    obtain ⟨g, hg, same''⟩ := all f hf
    have number : g.id = c.id := same''.trans (same'.trans same)
    rcases List.mem_cons.mp hg with rfl | hg
    · exact absurd number.symm other
    · exact ⟨g, hg, number⟩

end Sys2Proof.Machine

namespace Sys2Proof.Machine

/-- The HUB is OFF with what depends on it: no connection, request or command is left, and every connection was closed. -/
structure HubDown (s t : State) : Prop where
  hub : t.hub.state = .off
  conns : t.conns = []
  ctxs : t.ctxs = []
  cmds : t.cmds = []
  closed : ∀ c ∈ s.conns, Egress.closed c.id ∈ t.egress
  svc : ∀ k < 4, (t.svcIsl k).state = .off
  comp : ∀ k < 4, (s.svcIsl k).state ≠ .off → (t.compIsl k).state = .off
  dev : t.dev = s.dev

theorem StoreChanged.foldl {α : Type} {f : State → α → State} (step : ∀ s x, StoreChanged s (f s x)) : ∀ (l : List α) (s : State),
    StoreChanged s (l.foldl f s)
  | [], s => .refl s
  | x :: l, s => (step s x).trans (StoreChanged.foldl step l (f s x))

theorem discardModels_changes (s : State) : StoreChanged s (discardModels s) :=
  StoreChanged.trans (t := { s with graphs := [], ms := { s.ms with storeRefs := [] } }) ⟨_, _, _, _, rfl⟩
    (.foldl (fun t m => (unloadNow_changes t m).1) s.models _)

theorem hubOff_down (s : State) : HubDown s (hubOff s) := by
  unfold hubOff
  extract_lets closing s0 s1 ms1 ms2 lost ms3 clusters s2 s3 t f fre tlc vcc s4 s5 s6
  have stopped : RequestStays s s0 := .foldl goesWithIsland_stays _ s
  have idle : s0.cmds = [] := allGo s.cmds s fun c hc => ⟨c, hc, rfl⟩
  obtain ⟨dev, -, cmds, svc, comp⟩ : TilesDown s0 (List.range 4) s1 := tilesOff_down _ s0
  clear_value s1 ms3 clusters
  have out : s5.egress = s1.egress ++ closing.map (fun c => .closed c) := rfl
  have changed : StoreChanged s5 s6 := by
    simp only [s6]
    split
    · exact discardModels_changes s5
    · exact .refl s5
  have kept : s4.cmds = s1.cmds ∧ s4.svc = s1.svc ∧ s4.comp = s1.comp ∧ s4.dev = s1.dev := ⟨rfl, rfl, rfl, rfl⟩
  have off : s5.cmds = s4.cmds ∧ s5.svc = s4.svc ∧ s5.comp = s4.comp ∧ s5.dev = s4.dev := ⟨rfl, rfl, rfl, rfl⟩
  have hub : s5.hub.state = .off ∧ s5.conns = [] ∧ s5.ctxs = [] := ⟨rfl, rfl, rfl⟩
  clear_value s6 s5 s4
  obtain ⟨cmds4, svc4, comp4, dev4⟩ := kept
  obtain ⟨cmds5, svc5, comp5, dev5⟩ := off
  obtain ⟨hubOff', conns, ctxs⟩ := hub
  have last : HubDown s s5 := by
    refine ⟨hubOff', conns, ctxs, by rw [cmds5, cmds4, cmds idle], fun c hc => ?_, fun k hk => ?_, fun k hk up => ?_,
      by rw [dev5, dev4, dev, stopped.dev]⟩
    · rw [out]
      exact List.mem_append_right _ (List.mem_map.mpr ⟨c.id, List.mem_map_of_mem hc, rfl⟩)
    · rw [State.svcIsl, svc5, svc4]
      exact svc k (.inl (List.mem_range.mpr hk))
    · rw [State.compIsl, comp5, comp4]
      refine comp k (.inl ⟨List.mem_range.mpr hk, ?_⟩)
      rwa [State.svcIsl, stopped.svc]
  obtain ⟨_, _, _, _, rfl⟩ := changed
  exact ⟨last.hub, last.conns, last.ctxs, last.cmds, last.closed, last.svc, last.comp, last.dev⟩

/-! The rows (R380, R381, R460). -/

/-- A fatal error of an island leaves the device's own registers. -/
theorem fatalOf_dev (s : State) (i : Island) : (fatalOf s i).dev = s.dev := by
  cases i with
  | hub => exact (hubOff_down s).dev
  | service t => exact (tileOff_down s t).dev
  | compute t => exact (tileOff_down s t).dev
  | stack t => exact (tileOff_down s t).dev
  | site n => exact (tileOff_down s (n / 64)).dev
  | aon => rfl
  | capMem => exact (hubOff_down s).dev

section
variable {s : State} {typ : Nat} (low : 1 ≤ typ) (high : typ ≤ 0x25)
include low high

theorem exec_fatalError_known {i : Island} : exec (.fatalError i typ) s = .next (match i with
    | .site _ | .stack _ | .capMem => s
    | .aon => fatalOf (s.logError 0x0100 2 typ 0 0x0100) .aon
    | .hub => if s.hub.state = .off then s else fatalOf (s.logError 0x0200 2 typ Res.islandReset.code 0x0200) .hub
    | .service t | .compute t =>
        if 4 ≤ t ∨ (s.svcIsl t).state = .off then s
        else fatalOf (s.logError (0x0300 + t) 2 typ Res.islandReset.code (0x0300 + t)) (.service t)) :=
  congrArg Host.Outcome.next (if_neg (by omega))

/-- A fatal error of a tile that is up. -/
theorem exec_fatalError_tile {t : Nat} (tile : t < 4) (up : (s.svcIsl t).state ≠ .off) {i : Island} (own : i = .service t ∨ i = .compute t) :
    exec (.fatalError i typ) s = .next (tileOff (s.logError (0x0300 + t) 2 typ Res.islandReset.code (0x0300 + t)) t) := by
  have due : ¬(4 ≤ t ∨ (s.svcIsl t).state = .off) := by simp [up]; omega
  rw [exec_fatalError_known low high]
  rcases own with rfl | rfl <;> exact congrArg Host.Outcome.next (if_neg due)

theorem exec_fatalError_hub (up : s.hub.state ≠ .off) :
    exec (.fatalError .hub typ) s = .next (hubOff (s.logError 0x0200 2 typ Res.islandReset.code 0x0200)) := by
  rw [exec_fatalError_known low high]
  exact congrArg Host.Outcome.next (if_neg up)

end

/-- A tile that goes OFF after its error has been logged. -/
theorem tileOff_logged (s : State) (p c t r d k : Nat) : TileDown s k (tileOff (s.logError p c t r d) k) := by
  obtain ⟨dev, hub, svc, comp⟩ := tileOff_down (s.logError p c t r d) k
  have logged := logError_stays s p c t r d
  refine ⟨dev.trans logged.dev, hub.trans logged.hub, svc.trans ?_, comp.trans ?_⟩
  · rw [State.svcIsl, logged.svc, State.svcIsl]
  · rw [State.compIsl, logged.comp, State.compIsl]

/-- The HUB goes OFF after its error has been logged. -/
theorem hubOff_logged (s : State) (p c t r d : Nat) : HubDown s (hubOff (s.logError p c t r d)) := by
  obtain ⟨hub, conns, ctxs, cmds, closed, svc, comp, dev⟩ := hubOff_down (s.logError p c t r d)
  have logged := logError_stays s p c t r d
  have same : (s.logError p c t r d).conns = s.conns := by rw [logError_frame]
  refine ⟨hub, conns, ctxs, cmds, same ▸ closed, svc, fun k hk up => comp k hk ?_, dev.trans logged.dev⟩
  rwa [State.svcIsl, logged.svc]

theorem mem_keepRetry (l : List (Nat × MsgId)) (p : Nat) (m : MsgId) : (p, m) ∈ keepRetry l p m := by
  unfold keepRetry
  extract_lets mine
  rw [List.drop_append_of_le_length (by omega)]
  exact List.mem_append_right _ (List.mem_append_right _ (List.mem_singleton_self _))

section
variable {s : State} {p : Nat} {m : MsgId} (page : pageExists p = true) (up : (pageIsl s p).state ≠ .off)
include page up

/-- The first parity failure of a message replays it. -/
theorem exec_messageParityError_first (new : s.retryPending.contains (p, m) = false) : exec (.messageParityError p m) s =
    .next ((State.logError { s with retryPending := keepRetry s.retryPending p m } p 0 0x0B 0 m.sender).emit (.messageReplay p m)) :=
  congrArg Host.Outcome.next ((if_neg (by simp [page, up])).trans (if_neg (by rw [new]; exact Bool.false_ne_true)))

/-- The failure of its replay is fatal for the island that receives it. -/
theorem exec_messageParityError_second (kept : s.retryPending.contains (p, m) = true) : exec (.messageParityError p m) s =
    .next (fatalOf (State.logError { s with retryPending := s.retryPending.filter (· != (p, m)) } p 2 0x0C (fatalResult (fatalIsland p)) m.sender)
      (fatalIsland p)) :=
  congrArg Host.Outcome.next ((if_neg (by simp [page, up])).trans (if_pos kept))

end

/-- A PLL without lock. -/
def unlocked (s : State) (k : Nat) : State := { s with dev := { s.dev with clkLock := s.dev.clkLock &&& ~~~(BitVec.ofNat 14 (2 ^ k)) } }

theorem unlocked_bit (s : State) {k : Nat} (pll : k < 13) : (unlocked s k).dev.clkLock.getLsbD k = false := by
  have bit : (BitVec.ofNat 14 (2 ^ k)).getLsbD k = true := by
    rw [BitVec.getLsbD_ofNat, Nat.testBit_two_pow_self]
    simp
    omega
  rw [unlocked, BitVec.getLsbD_and, BitVec.getLsbD_not, bit]
  simp

/-- A PLL that loses lock is logged, and its island takes the consequences. -/
theorem exec_pllLockLoss_locked {s : State} {k : Nat} {i : Island} (island : pllIsland k = some i) (locked : s.dev.clkLock.getLsbD k = true) :
    exec (.pllLockLoss k) s =
      .next (fatalOf (((unlocked s k).logError 0x1000 2 0x17 (fatalResult i) k).setEvent 0x1000 0) i) := by
  show execPllLockLoss k s = _
  simp only [execPllLockLoss, island]
  exact congrArg Host.Outcome.next (if_neg (by simp [locked]))

theorem pllIsland_isSome {k : Nat} (pll : k < 13) : ∃ i, pllIsland k = some i := by
  unfold pllIsland
  split
  · exact ⟨_, rfl⟩
  · split
    · exact ⟨_, rfl⟩
    · split
      · exact ⟨_, rfl⟩
      · exact ⟨_, if_pos (by omega)⟩

/-- Settles O41: a fatal error is its log entry and then the island that goes OFF, with all that depends on it. -/
theorem fatalErrorsTakeTheirIsland : Obligations.FatalErrorsTakeTheirIsland := by
  refine ⟨?tile, ?hub, ?unknown, ?aon, ?parity, ?pll⟩
  case tile =>
    intro s t typ low high tile _ _ up
    have down := tileOff_logged s (0x0300 + t) 2 typ Res.islandReset.code (0x0300 + t) t
    rw [exec_fatalError_tile low high tile up (.inl rfl), exec_fatalError_tile low high tile up (.inr rfl)]
    have off := And.intro (down.svcOff (.inl rfl)) (And.intro (down.compOff (.inl rfl)) down.hub)
    exact ⟨Gives.next off, Gives.next off⟩
  case hub =>
    intro s typ low high up
    rw [exec_fatalError_hub low high up]
    obtain ⟨hub, conns, ctxs, cmds, closed, svc, comp, -⟩ := hubOff_logged s 0x0200 2 typ Res.islandReset.code 0x0200
    exact Gives.next ⟨hub, conns, ctxs, cmds, closed, svc, fun k hk _ => comp k hk⟩
  case unknown =>
    intro s i typ unknown
    exact congrArg Host.Outcome.next (if_pos (unknown.imp id id))
  case aon =>
    intro s typ low high
    rw [exec_fatalError_known low high]
    have attn : (fatalOf (s.logError 0x0100 2 typ 0 0x0100) .aon).attn = s.attn.event attnERRLOG := logError_uncorrected_attn (.inr rfl) typ 0 0x0100
    refine Gives.next ⟨?_, ?_, ?_, ?_⟩
    · rw [attn, Attn.event_pending _ (by decide)]
      simp
    all_goals
      simp only [fatalOf]
      rw [logError_frame]
  case parity =>
    intro s p m page up
    refine ⟨fun new => ?_, fun kept hub => ?_⟩
    · rw [exec_messageParityError_first page up new]
      refine Gives.next ⟨?_, ?_, ?_, ?_, ?_⟩
      case refine_3 =>
        rw [State.emit, logError_frame]
        exact mem_keepRetry s.retryPending p m
      all_goals rw [State.emit, logError_frame]
    · rw [exec_messageParityError_second page up kept, hub]
      have down := hubOff_logged { s with retryPending := s.retryPending.filter (· != (p, m)) } p 2 0x0C (fatalResult .hub) m.sender
      exact Gives.next ⟨down.hub, down.conns⟩
  case pll =>
    intro s k locked
    refine ⟨fun pll => ?_, fun least most => ?_, fun tile _ _ => ?_⟩
    · obtain ⟨i, island⟩ := pllIsland_isSome pll
      rw [exec_pllLockLoss_locked island locked]
      refine Gives.next ?_
      rw [fatalOf_dev, setEvent_dev, (logError_stays _ _ _ _ _ _).dev]
      exact unlocked_bit s pll
    · have island : pllIsland k = some .hub := by
        rw [pllIsland, if_neg (by omega), if_neg (by omega), if_pos most]
      rw [exec_pllLockLoss_locked island locked]
      have down := hubOff_down (((unlocked s k).logError 0x1000 2 0x17 (fatalResult .hub) k).setEvent 0x1000 0)
      exact Gives.next ⟨down.hub, down.conns⟩
    · have island : pllIsland k = some (.compute k) := if_pos tile
      rw [exec_pllLockLoss_locked island locked]
      exact Gives.next ((tileOff_down _ k).compOff (.inl rfl))

end Sys2Proof.Machine

namespace Sys2Proof.Machine

/-! Actions that waited for the twin happen (R364, R371). -/

theorem localAction_stays (i : Instr) (s : State) : RequestStays s (localAction i s) := by
  unfold localAction
  split
  · exact doorbellRow_stays _ _ _ _ s
  · exact itemConsumeRow_stays _ s
  · exact takeInstance_stays s _
  · exact runGraphRow_stays _ s
  · exact inputsPlacedRow_stays _ _ s
  · exact graphEndRow_stays _ s
  · exact outputsAcknowledgedRow_stays _ s
  · exact abortRow_stays _ s
  · exact flushRow_stays _ s
  · exact queryPlanRow_stays _ s
  · exact queryRow_stays _ s
  · exact connectionSetupRow_stays _ s
  · exact resumeRow_stays _ s
  · exact connectionCloseRow_stays _ s
  · exact connectionExpiryRow_stays _ s
  · exact .refl s

theorem finishChange_stays (s : State) (ctx : Nat) (r : Res) (detail : Nat) : RequestStays s (finishChange s ctx r detail) := by
  unfold finishChange
  split
  · exact .refl s
  · exact (complete_stays s _ _).trans (endHold_stays _ _)

theorem promise_stays (s : State) (n : Option Nat) : RequestStays s { s with tlc := { s.tlc with promised := n } } := .plain rfl rfl rfl rfl

theorem release_stays (s : State) (a : Await) : RequestStays s (release s a) := by
  unfold release
  extract_lets promise
  split
  · exact ((promise_stays s _).trans (localAction_stays _ _)).trans (promise_stays _ _)
  · exact releaseRecord_stays s _ _
  · split
    · exact finishChange_stays s _ _ _
    · exact .refl s
  · exact .refl s

/-- The state as mirroring stops, before what waited for the twin happens. -/
def mirrorStopped (s : State) (st : Nat) : State :=
  { s with
    tlc := { s.tlc with tstate := st, awaiting := [], stale := true }
    ctxs := s.ctxs.map (fun x => if x.mirror then { x with stale := true, ckptPending := none, ckptCmd := none, ckptImages := [] } else x) }

theorem stopMirroring_stays (s : State) (st : Nat) : RequestStays (mirrorStopped s st) (stopMirroring s st) := by
  refine RequestStays.foldl (fun t a => ?_) _ (mirrorStopped s st)
  split
  · exact finishChange_stays t _ _ _
  · exact release_stays t _
  · exact release_stays t _
  · exact release_stays t _

theorem stopMirroring_none {s : State} (none' : s.tlc.awaiting = []) (st : Nat) : stopMirroring s st = mirrorStopped s st := by
  simp [stopMirroring, none', mirrorStopped, updTlc]

/-- A copy that is mirrored is stale once mirroring has stopped. -/
theorem mirrorStopped_stale {s : State} {st : Nat} {x : Ctx} (mem : x ∈ (mirrorStopped s st).ctxs) (mirrored : x.mirror = true) : x.stale = true := by
  obtain ⟨y, -, rfl⟩ := List.mem_map.mp mem
  by_cases copied : y.mirror = true
  · rw [if_pos copied]
  · rw [if_neg copied] at mirrored
    exact absurd mirrored copied

theorem degrade_tstate {s : State} (pair : 1 ≤ s.tlc.tstate) (serving : s.tlc.tstate ≤ 3) : (degrade s).tlc.tstate = 3 := by
  unfold degrade
  split
  · exact (stopMirroring_stays s 3).tstate
  · omega

/-! A takeover (R372). -/

/-- What each part of a takeover after its ATTN leaves: pending conditions, the twin's state but for its contexts, what left the
block, and every connection with its client or without one. -/
structure TakesOver (s t : State) : Prop where
  attn : ∀ k, s.attn.pending.getLsbD k = true → t.attn.pending.getLsbD k = true
  tlc : t.tlc = { s.tlc with mctxs := t.tlc.mctxs }
  out : ∀ e ∈ s.egress, e ∈ t.egress
  conns : ∀ c ∈ s.conns, ∃ d ∈ t.conns, d.id = c.id ∧ d.attached = c.attached

namespace TakesOver
variable {s t u : State}

/-- Attention conditions, twin, output and connections are as they were. -/
theorem plain (attn : t.attn = s.attn) (tlc : t.tlc = s.tlc) (out : t.egress = s.egress) (conns : t.conns = s.conns) : TakesOver s t :=
  ⟨fun _ h => attn ▸ h, by rw [tlc], fun _ h => out ▸ h, fun c h => ⟨c, conns ▸ h, rfl, rfl⟩⟩

theorem refl (s : State) : TakesOver s s := .plain rfl rfl rfl rfl

theorem trans (h : TakesOver s t) (k : TakesOver t u) : TakesOver s u where
  attn n hn := k.attn n (h.attn n hn)
  tlc := by rw [k.tlc, h.tlc]
  out e he := k.out e (h.out e he)
  conns c hc := by
    obtain ⟨d, hd, id, attached⟩ := h.conns c hc
    obtain ⟨e, he, id', attached'⟩ := k.conns d hd
    exact ⟨e, he, id'.trans id, attached'.trans attached⟩

theorem mirroring (h : TakesOver s t) : mirroring t = mirroring s := by rw [Machine.mirroring, h.tlc, Machine.mirroring]

theorem foldl {α : Type} {f : State → α → State} (step : ∀ s x, Machine.mirroring s = false → TakesOver s (f s x)) :
    ∀ (l : List α) (s : State), Machine.mirroring s = false → TakesOver s (l.foldl f s)
  | [], s, _ => refl s
  | x :: l, s, alone => (step s x alone).trans (foldl step l (f s x) ((step s x alone).mirroring.trans alone))

end TakesOver

/-- A connection that is changed without its number or its client. -/
theorem updConn_conns (s : State) (n : Nat) {f : Conn → Conn} (keep : ∀ d, (f d).id = d.id ∧ (f d).attached = d.attached) :
    ∀ c ∈ s.conns, ∃ d ∈ (s.updConn n f).conns, d.id = c.id ∧ d.attached = c.attached := fun c hc => by
  refine ⟨_, List.mem_map_of_mem hc, ?_⟩
  split
  · exact keep c
  · exact ⟨rfl, rfl⟩

theorem connsKept_trans {s t u : State} (h : ∀ c ∈ s.conns, ∃ d ∈ t.conns, d.id = c.id ∧ d.attached = c.attached)
    (k : ∀ c ∈ t.conns, ∃ d ∈ u.conns, d.id = c.id ∧ d.attached = c.attached) :
    ∀ c ∈ s.conns, ∃ d ∈ u.conns, d.id = c.id ∧ d.attached = c.attached := fun c hc => by
  obtain ⟨d, hd, id, attached⟩ := h c hc
  obtain ⟨e, he, id', attached'⟩ := k d hd
  exact ⟨e, he, id'.trans id, attached'.trans attached⟩

/-- A record that is written changes its connection's counts and queues alone. -/
theorem writeOne_conns (s : State) (c : Conn) (o : OutRec) : ∃ f : Conn → Conn, (∀ d, (f d).id = d.id ∧ (f d).attached = d.attached) ∧
    (writeOne s c o).conns = (s.updConn c.id f).conns := by
  unfold writeOne
  extract_lets seq h keep s1 closed ring s2
  refine ⟨fun d => { d with nextSeq := seq + 1, outq := d.outq.drop 1, held := if keep then d.held ++ [h] else d.held }, fun _ => ⟨rfl, rfl⟩, ?_⟩
  split
  · simp only [s2]
    rw [sendMirror_frame]
  · split
    · exact sendRecord_conns s1 c h
    · split <;> rfl

theorem drainLoop_conns : ∀ (n conn : Nat) (s : State), ∀ c ∈ s.conns, ∃ d ∈ (drainLoop n conn s).conns, d.id = c.id ∧ d.attached = c.attached
  | 0, _, _ => fun c hc => ⟨c, hc, rfl, rfl⟩
  | n + 1, conn, s => by
    have same : ∀ c ∈ s.conns, ∃ d ∈ s.conns, d.id = c.id ∧ d.attached = c.attached := fun c hc => ⟨c, hc, rfl, rfl⟩
    unfold drainLoop
    split
    · exact same
    · split
      · exact same
      · next c _ _ o _ _ =>
        split
        · obtain ⟨f, keep, written⟩ := writeOne_conns s c o
          exact connsKept_trans (fun c hc => written ▸ updConn_conns s _ keep c hc) (drainLoop_conns n conn _)
        · exact same

theorem enqueue_conns (s : State) (n : Nat) (o : OutRec) : ∀ c ∈ s.conns, ∃ d ∈ (enqueue s n o).conns, d.id = c.id ∧ d.attached = c.attached :=
  connsKept_trans (updConn_conns s n (f := fun c => { c with outq := c.outq ++ [o] }) fun _ => ⟨rfl, rfl⟩) (drainLoop_conns _ n _)

theorem enqueue_takesOver {s : State} (alone : mirroring s = false) (n : Nat) (o : OutRec) : TakesOver s (enqueue s n o) := by
  have done := enqueue_completed alone n o
  exact ⟨fun k h => done.attn ▸ h, by rw [done.tlc], done.out, enqueue_conns s n o⟩

/-- A change of the twin's contexts. -/
theorem mctxs_takesOver (s : State) (l : List TwinCtx) : TakesOver s { s with tlc := { s.tlc with mctxs := l } } :=
  ⟨fun _ h => h, rfl, fun _ h => h, fun c h => ⟨c, h, rfl, rfl⟩⟩

theorem takeContext_takesOver (s : State) (m : TwinCtx) (alone : mirroring s = false) : TakesOver s (takeContext s m) := by
  unfold takeContext
  split
  · next sn _ =>
    extract_lets n s1
    have opened : TakesOver s s1 := ⟨fun _ h => h, rfl, fun _ h => h, fun c h => ⟨c, h, rfl, rfl⟩⟩
    have pinned (t : State) : TakesOver t (repin t) := ⟨fun _ h => h, rfl, fun _ h => h, fun c h => ⟨c, h, rfl, rfl⟩⟩
    exact (opened.trans (mctxs_takesOver s1 _)).trans (pinned _)
  · exact (mctxs_takesOver s _).trans (enqueue_takesOver (s := updTlc s fun q => { q with mctxs := q.mctxs.filter fun x => x.ctx.num != m.ctx.num }) alone _ _)

/-- A level or an event leaves what is pending. -/
theorem setEvent_pending (s : State) (p k : Nat) {n : Nat} (pending : s.attn.pending.getLsbD n = true) :
    (s.setEvent p k).attn.pending.getLsbD n = true := by
  have event (a : Attn) (c : Nat) (h : a.pending.getLsbD n = true) : (a.event c).pending.getLsbD n = true := by
    rw [Attn.event, BitVec.getLsbD_or, h, Bool.true_or]
  unfold State.setEvent
  extract_lets h s' c
  split
  · exact pending
  · split
    · exact pending
    · split
      · exact Attn.levelOn_pending _ pending
      · exact event _ _ pending

theorem logError_takesOver (s : State) (p t r d : Nat) : TakesOver s (s.logError p 0 t r d) := by
  refine ⟨fun k h => ?_, ?_, ?_, ?_⟩
  · simp only [State.logError, if_true]
    exact setEvent_pending _ _ _ h
  all_goals rw [logError_frame]
  · exact fun _ h => h
  · exact fun c h => ⟨c, h, rfl, rfl⟩

theorem attnEvent_takesOver (s : State) (n : Nat) : TakesOver s (s.attnEvent n) := by
  refine ⟨fun k h => ?_, rfl, fun _ h => h, fun c h => ⟨c, h, rfl, rfl⟩⟩
  rw [State.attnEvent, Attn.event, BitVec.getLsbD_or, h, Bool.true_or]

theorem scrambleOut_takesOver (s : State) (c : Cmd) : TakesOver s (scrambleOut s c) := by
  unfold scrambleOut
  extract_lets o n vals ws
  obtain ⟨ms, memory⟩ := writeAll_onlyMemory c.id true ws ws { s with freeCtr := s.freeCtr + n }
  rw [memory]
  exact .plain rfl rfl rfl rfl

theorem endHandshake_takesOver (s : State) (c : Cmd) : TakesOver s (endHandshake s c) := by
  unfold endHandshake
  split
  · split
    · exact .plain rfl rfl rfl rfl
    · exact .refl s
  · exact .refl s

theorem endColl_takesOver (s : State) (c : Cmd) (r : Res) : TakesOver s (endColl s c r) := by
  have scrambled : TakesOver s (if c.phaseIs .moving || c.phaseIs .wantSlots then scrambleOut s c else s) := by
    split
    · exact scrambleOut_takesOver s c
    · exact .refl s
  exact (scrambled.trans (endHandshake_takesOver _ c)).trans (.plain rfl rfl rfl rfl)

theorem installAlias_takesOver (s : State) (failed survivor : Nat) (alone : mirroring s = false) : TakesOver s (installAlias s failed survivor) := by
  unfold installAlias
  split
  · exact (logError_takesOver s _ _ _ _).trans (attnEvent_takesOver _ _)
  · have ended (l : List Cmd) : TakesOver s (l.foldl (fun t c => endColl t c .fabricTimeout) s) :=
      .foldl (fun t c _ => endColl_takesOver t c _) l s alone
    exact (ended _).trans (.plain rfl rfl rfl rfl)

/-- The twin's addresses once a takeover begins: those known before, or new ones. -/
theorem learnAddrs_twinAddrs (s : State) : (learnAddrs s).tlc.twinAddrs ≠ [] ∧
    (s.tlc.twinAddrs ≠ [] → (learnAddrs s).tlc.twinAddrs = s.tlc.twinAddrs) := by
  have learnt : (learnAddrs s).tlc.twinAddrs = if s.tlc.twinAddrs.isEmpty then [2, 3].map (fun k => Config.free (s.freeCtr + k) % 2 ^ 128)
      else s.tlc.twinAddrs := rfl
  cases known : s.tlc.twinAddrs with
  | nil => exact ⟨by simp [learnt, known], fun absent => absurd rfl absent⟩
  | cons b l => exact ⟨by simp [learnt, known], fun _ => by simp [learnt, known]⟩

theorem mem_announceAll {addrs : List Nat} {a port : Nat} (mem : a ∈ addrs) (both : port < 2) :
    Egress.announce port a (decide (2 ^ 32 ≤ a)) ∈ announceAll addrs :=
  List.mem_flatMap.mpr ⟨a, mem, List.mem_map.mpr ⟨port, List.mem_pair.mpr (by omega), rfl⟩⟩

/-- A state that does not mirror keeps its pending attention, its addresses and what it sent as it takes the contexts of its twin. -/
theorem takeContexts_takesOver {s : State} (alone : mirroring s = false) : TakesOver s (s.tlc.mctxs.foldl takeContext s) :=
  .foldl takeContext_takesOver _ s alone

theorem takeover_tookOver {s : State} {p : PairRec} (pair : s.tlc.pair = some p) : TookOver s (takeover s) p := by
  have stops := stopMirroring_stays s 4
  obtain ⟨some', kept⟩ := learnAddrs_twinAddrs (stopMirroring s 4)
  unfold takeover
  extract_lets wasStale s1 s2 twin own s3 s4 s5
  have sole : s2.tlc.tstate = 4 := stops.tstate
  have pends : s2.attn.pending.getLsbD attnTAKEOVER = true := by
    exact (Attn.event_pending _ (by decide) _).trans (by simp)
  have addrs : s2.tlc.twinAddrs = (learnAddrs (stopMirroring s 4)).tlc.twinAddrs := rfl
  have serves : s2.tlc.served = s2.tlc.twinAddrs := rfl
  have mirrored : s2.tlc.mconns = (stopMirroring s 4).tlc.mconns := rfl
  have installed : TakesOver (s2.emit (.aliasFlood twin own)) s3 :=
    installAlias_takesOver _ twin own (by simp [mirroring, State.emit, sole])
  clear_value s3 s2
  have tlc3 : s3.tlc = { s2.tlc with mctxs := s3.tlc.mctxs } := installed.tlc
  have taken : TakesOver s5 (s5.tlc.mctxs.foldl takeContext s5) := by
    refine takeContexts_takesOver ?_
    have alone : s5.tlc.tstate = 4 := (congrArg Tlc.tstate tlc3).trans sole
    simp [mirroring, alone]
  have sent : ∀ e ∈ s3.egress ++ announceAll s3.tlc.twinAddrs, e ∈ (s5.tlc.mctxs.foldl takeContext s5).egress := taken.out
  have pending : ∀ k, s3.attn.pending.getLsbD k = true → (s5.tlc.mctxs.foldl takeContext s5).attn.pending.getLsbD k = true := taken.attn
  have joined : ∀ m ∈ s3.tlc.mconns, twinConn wasStale m ∈ s5.conns := fun m mem => List.mem_append_right _ (List.mem_map_of_mem mem)
  have conns := taken.conns
  have tlc : (s5.tlc.mctxs.foldl takeContext s5).tlc = { s3.tlc with mctxs := (s5.tlc.mctxs.foldl takeContext s5).tlc.mctxs } := taken.tlc
  generalize s5.tlc.mctxs.foldl takeContext s5 = t at sent pending conns tlc
  have same : t.tlc = { s2.tlc with mctxs := t.tlc.mctxs } := by rw [tlc, tlc3]
  have twins : t.tlc.twinAddrs = s2.tlc.twinAddrs := (congrArg Tlc.twinAddrs same :)
  refine ⟨?state, pending _ (installed.attn _ pends), ?known, ?served, ?flood, ?announced, ?conns⟩
  case state => exact (congrArg Tlc.tstate same :).trans sole
  case known =>
    intro known
    have before : (stopMirroring s 4).tlc.twinAddrs = s.tlc.twinAddrs := stops.twinAddrs
    exact (twins.trans addrs).trans ((kept (before ▸ known)).trans before)
  case served =>
    exact ⟨(congrArg Tlc.served same :).trans (serves.trans twins.symm), fun absent => some' ((twins.trans addrs).symm.trans absent)⟩
  case flood =>
    refine sent _ (List.mem_append_left _ (installed.out _ ?_))
    simp [State.emit, twin, own, pair]
  case announced =>
    intro a mem port both
    have here : a ∈ s3.tlc.twinAddrs := (congrArg Tlc.twinAddrs tlc :) ▸ mem
    exact sent _ (List.mem_append_right _ (mem_announceAll here both))
  case conns =>
    intro m mem
    have before : s3.tlc.mconns = s.tlc.mconns := (congrArg Tlc.mconns tlc3 :).trans (mirrored.trans stops.mconns)
    exact conns _ (joined m (before ▸ mem))

/-- Both links lost: a takeover, but for a primary in active-standby (R361, R371). -/
theorem twinLost_takeover {s : State} {p : PairRec} (pair : s.tlc.pair = some p) (serving : 1 ≤ s.tlc.tstate) (up : s.tlc.tstate ≤ 3)
    (hub : s.hub.state = .on) (takes : p.mode = 0 ∨ p.role = 1) : twinLost s = takeover s := by
  unfold twinLost
  simp only [pair]
  rw [if_neg (by rintro (down | yielded | off); exacts [by omega, by omega, off hub]), if_neg (by rintro ⟨standby, primary⟩; omega)]

theorem twinLost_degrade {s : State} {p : PairRec} (pair : s.tlc.pair = some p) (serving : 1 ≤ s.tlc.tstate) (up : s.tlc.tstate ≤ 3)
    (hub : s.hub.state = .on) (standby : p.mode = 1) (primary : p.role = 0) : twinLost s = degrade s := by
  unfold twinLost
  simp only [pair]
  rw [if_neg (by rintro (down | yielded | off); exacts [by omega, by omega, off hub]), if_pos ⟨standby, primary⟩]

theorem exec_heartbeat {s : State} (paired : s.tlc.pair.isSome = true) (hub : s.hub.state = .on) :
    exec .heartbeat s = .next ((updTlc s (fun t => { t with
      hbLate := t.hbLate.bump (if s.tlc.lastHbNs ≠ 0 ∧ s.tlc.lastHbNs + 60000 < s.dev.timeNs then 1 else 0)
      lastHbNs := s.dev.timeNs
      aliveOut := !t.aliveOut })).emit .heartbeat) :=
  congrArg Host.Outcome.next (if_neg (by rintro (absent | off); exacts [by simp [Option.isNone_iff_eq_none.mp absent] at paired, off hub]))

/-- The link is lost while the sideband lives: the pair serves on degraded, and what is copied grows stale (R371). -/
theorem exec_linkLoss_degrades {s : State} (link : s.tlc.linkUp = true) (alive : s.tlc.aliveIn = true) (serving : s.tlc.tstate = 1 ∨ s.tlc.tstate = 2)
    (none' : s.tlc.awaiting = []) :
    exec .linkLoss s = .next ((mirrorStopped (updTlc s (fun t => { t with linkUp := false })) 3).attnOn attnTWIN) := by
  show execLinkLoss s = _
  unfold execLinkLoss
  rw [if_pos link]
  extract_lets s1
  have degrades : degrade s1 = (stopMirroring s1 3).attnOn attnTWIN := if_pos serving
  rw [if_pos alive, degrades, stopMirroring_none (s := s1) none']

theorem exec_sidebandLoss_linked {s : State} (link : s.tlc.linkUp = true) (alive : s.tlc.aliveIn = true) :
    exec .sidebandLoss s = .next (((updTlc s (fun t => { t with aliveIn := false })).logError 0x0C00 0 0x1F 0 0).attnEvent attnERRLOG) := by
  show execSidebandLoss s = _
  unfold execSidebandLoss
  rw [if_pos alive]
  exact congrArg Host.Outcome.next (if_pos link)

theorem exec_sidebandLoss_alone {s : State} (link : s.tlc.linkUp = false) (alive : s.tlc.aliveIn = true) :
    exec .sidebandLoss s = .next (twinLost (updTlc s (fun t => { t with aliveIn := false }))) := by
  show execSidebandLoss s = _
  unfold execSidebandLoss
  rw [if_pos alive]
  exact congrArg Host.Outcome.next (if_neg (by simp [link]))

theorem exec_linkLoss_alone {s : State} (link : s.tlc.linkUp = true) (alive : s.tlc.aliveIn = false) :
    exec .linkLoss s = .next (twinLost (updTlc s (fun t => { t with linkUp := false }))) := by
  show execLinkLoss s = _
  unfold execLinkLoss
  rw [if_pos link]
  exact congrArg Host.Outcome.next (if_neg (by simp [alive]))

/-- Settles O37: each row by what it finds of link and sideband; a takeover keeps its ATTN, its addresses and the twin's connections
through every step that follows them (`TakesOver`). -/
theorem twinLivenessAndLoss : Obligations.TwinLivenessAndLoss := by
  refine ⟨fun s paired hub => exec_heartbeat paired hub ▸ Gives.next ⟨rfl, rfl, rfl, rfl⟩, fun s link alive serving none' => ?degraded,
    fun s link alive => ?logged, fun s p pair serving up hub takes _ => ⟨fun link alive => ?linkLost, fun link alive => ?sidebandLost⟩,
    fun s p pair standby primary link alive serving up hub => ?standby, fun s => Gives.next rfl⟩
  case degraded =>
    rw [exec_linkLoss_degrades link alive serving none']
    exact Gives.next ⟨rfl, rfl, rfl, Attn.levelOn_cause _ (by decide), rfl, rfl, fun x mem mirrored => mirrorStopped_stale (st := 3) mem mirrored⟩
  case logged =>
    rw [exec_sidebandLoss_linked link alive]
    generalize lost : updTlc s (fun t => { t with aliveIn := false }) = s1
    have frame := logError_frame s1 0x0C00 0 0x1F 0 0
    refine Gives.next ⟨?_, ?_, (Attn.event_pending _ (by decide) _).trans (by simp), ?_, ?_⟩
    all_goals
      rw [State.attnEvent, frame, ← lost]
      rfl
  case linkLost =>
    rw [exec_linkLoss_alone link alive, twinLost_takeover (s := updTlc s (fun t => { t with linkUp := false })) pair serving up hub takes]
    obtain ⟨state, attn, known, served, flood, announced, conns⟩ := takeover_tookOver (s := updTlc s (fun t => { t with linkUp := false })) pair
    exact Gives.next ⟨state, attn, known, served, flood, announced, conns⟩
  case sidebandLost =>
    rw [exec_sidebandLoss_alone link alive, twinLost_takeover (s := updTlc s (fun t => { t with aliveIn := false })) pair serving up hub takes]
    obtain ⟨state, attn, known, served, flood, announced, conns⟩ := takeover_tookOver (s := updTlc s (fun t => { t with aliveIn := false })) pair
    exact Gives.next ⟨state, attn, known, served, flood, announced, conns⟩
  case standby =>
    rw [exec_sidebandLoss_alone link alive, twinLost_degrade (s := updTlc s (fun t => { t with aliveIn := false })) pair serving up hub standby primary]
    exact Gives.next (degrade_tstate serving up)

end Sys2Proof.Machine

namespace Sys2Proof.Machine

/-! A link that returns to a pair whose record names neither role (R359, R370). -/

/-- A Parvon whose record holds the role 2, its link down. -/
def thirdPaired : State :=
  { State.reset with
    hub := { Isl.reset with state := .on }
    tlc := { Tlc.reset with pair := some ⟨2, 0, 0, 0, 0, 0⟩, tstate := 1, linkUp := false } }

/-- Its twin, that matches the record and reads as well. -/
def readingTwin : TwinHello :=
  { serial := 0, names := 0, role := 0, mode := 0, epoch := 0, reading := true, returned := false, mirrorMin := 0, mirrorMax := 0 }

/-- A Parvon that plays neither role issues its resync read and sends the twin that reads as well no retry notice. -/
theorem thirdPaired_resyncs : Gives (exec (.linkReturn readingTwin) thirdPaired) (fun t => t.egress = [.resyncRead]) :=
  .next (by decide +kernel)

/-- Refutes O38 (third clause, an epoch that opens at once): of two twins that read, only the primary, role 0, sends the retry notice
(R370), and the clause asks for it of every record but one of role 1. `thirdPaired` holds the role 2, which R359 does not give and
no hypothesis excludes. -/
theorem not_twinYieldsAndRejoins : ¬ Obligations.TwinYieldsAndRejoins := by
  unfold Obligations.TwinYieldsAndRejoins
  rintro ⟨-, -, linkReturn, -⟩
  obtain ⟨-, -, opens, -⟩ := linkReturn thirdPaired ⟨2, 0, 0, 0, 0, 0⟩ readingTwin rfl rfl rfl (.inl rfl) _ rfl
  obtain ⟨t, ran, -, -, refuses⟩ := opens 0 (by decide) (by decide +kernel) (by decide)
  obtain ⟨u, ran', sent⟩ := thirdPaired_resyncs
  cases ran.symm.trans ran'
  have notice := refuses rfl
  rw [sent] at notice
  exact absurd notice (by decide)

end Sys2Proof.Machine
